-- ==== Sys2Proof/Word.lean ====
section
/-! DEFINITION. The word types of the Ibqua 7128. -/
namespace Sys2Proof

/-- A byte. -/
abbrev Byte : Type := BitVec 8
/-- A slot count (R70): slots since the epoch, in bits [71:8] of a timemark. -/
abbrev Slot : Type := BitVec 64
/-- A timemark (R70): slot count, then the grid fraction in bits [7:0]. -/
abbrev Timemark : Type := BitVec 72
/-- A stream word (R65, R205). -/
abbrev SWord : Type := BitVec 18

end Sys2Proof
end

