-- ==== Sys2Proof/Machine/Bits.lean ====
section
/-! DEFINITION. Bit fields, bytes and words: little-endian structures and 72-bit units (R4), and the
reading of a field of a block. -/
namespace Sys2Proof.Machine

/-- Bits `lo` to `lo + len - 1` of a block, as a number. -/
def fld {n : Nat} (x : BitVec n) (lo len : Nat) : Nat := x.toNat >>> lo % 2 ^ len

/-- The same bits as a bit vector. -/
def fbv {n : Nat} (x : BitVec n) (lo len : Nat) : BitVec len := x.extractLsb' lo len

/-- Bit `i` of a block. -/
def bit {n : Nat} (x : BitVec n) (i : Nat) : Bool := x.getLsbD i

/-- Every bit of the given ranges (low bit, length) is zero: the check of reserved fields (R5). -/
def zeros {n : Nat} (x : BitVec n) (rs : List (Nat × Nat)) : Bool :=
  rs.all fun r => fld x r.1 r.2 == 0

/-- The block with bits `lo` to `lo + len - 1` replaced. -/
def put {n : Nat} (x : BitVec n) (lo len v : Nat) : BitVec n :=
  BitVec.ofNat n (x.toNat % 2 ^ lo + (v % 2 ^ len) * 2 ^ lo + x.toNat >>> (lo + len) * 2 ^ (lo + len))

/-- Number of a little-endian byte list (R4). -/
def le : List Byte → Nat
  | [] => 0
  | b :: bs => b.toNat + 256 * le bs

/-- The `k` little-endian bytes of a number (R4). -/
def bytesOf : Nat → Nat → List Byte
  | 0, _ => []
  | k + 1, x => BitVec.ofNat 8 x :: bytesOf k (x / 256)

/-- A value built of fields, low bits first: (width, value) pairs. -/
def pack : List (Nat × Nat) → Nat
  | [] => 0
  | (w, v) :: fs => v % 2 ^ w + 2 ^ w * pack fs

/-- A flag as a number. -/
def b2n (b : Bool) : Nat := if b then 1 else 0

/-- `k` bytes of a list from offset `o`; bytes past the end read as zero. -/
def slice (bs : List Byte) (o k : Nat) : List Byte :=
  let t := (bs.drop o).take k
  t ++ List.replicate (k - t.length) 0

/-- Word `i` of a unit string: 18 bits from bit 18 i of the little-endian bytes, four words to nine
bytes (R4, R65). -/
def wordAt (bs : List Byte) (i : Nat) : SWord :=
  BitVec.ofNat 18 (le (slice bs (9 * (i / 4)) 9) >>> (18 * (i % 4)))

/-- The first `n` words of a unit string. -/
def wordsOf (bs : List Byte) (n : Nat) : List SWord := (List.range n).map (wordAt bs)

/-- One unit of four words as its number (R4). -/
def unitOf : List SWord → Nat
  | [] => 0
  | w :: ws => w.toNat + 2 ^ 18 * unitOf ws

/-- Words packed four to a unit of nine bytes, the last unit filled with zero words (R65). -/
def unitBytes (ws : List SWord) : List Byte :=
  (List.range ((ws.length + 3) / 4)).flatMap fun k => bytesOf 9 (unitOf ((ws.drop (4 * k)).take 4))

/-- A counter of `w` bits that stops at its largest value. -/
def satAdd (w x d : Nat) : Nat := min (x + d) (2 ^ w - 1)

/-- The same for a register. -/
def satInc {w : Nat} (x : BitVec w) (d : Nat := 1) : BitVec w := BitVec.ofNat w (satAdd w x.toNat d)

/-- Difference of two free-running counts modulo 2^w. -/
def modSub (w a b : Nat) : Nat := (a + 2 ^ w - b % 2 ^ w) % 2 ^ w

/-- One bit of a CRC, most significant bit first: width, polynomial, register, bit. -/
def crcBit (w poly : Nat) (r : Nat) (b : Bool) : Nat :=
  let top := (r >>> (w - 1)) % 2 == 1
  let s := (r <<< 1) % 2 ^ w
  if top != b then s ^^^ poly else s

/-- CRC of a bit string. -/
def crcBits (w poly : Nat) (r : Nat) (bs : List Bool) : Nat := bs.foldl (crcBit w poly) r

/-- One bit of a reflected CRC, least significant bit first. -/
def crcBitR (poly : Nat) (r : Nat) (b : Bool) : Nat :=
  if (r % 2 == 1) != b then (r >>> 1) ^^^ poly else r >>> 1

/-- Bits of a byte list, least significant bit of each byte first. -/
def bitsOf (bs : List Byte) : List Bool := bs.flatMap fun b => (List.range 8).map b.getLsbD

/-- CRC-32C of bytes from a register value (R341). -/
def crc32c (r : Nat) (bs : List Byte) : Nat := (bitsOf bs).foldl (crcBitR 0x82F63B78) r

/-- Two's complement value of the low `w` bits of a number. -/
def sgn (w x : Nat) : Int :=
  let v := x % 2 ^ w
  if v < 2 ^ (w - 1) then v else (v : Int) - 2 ^ w

/-- A number as two's complement in `w` bits. -/
def ofInt (w : Nat) (x : Int) : Nat := (x % (2 ^ w : Nat)).toNat

/-- First index at which a list holds a true value. -/
def firstTrue (bs : List Bool) : Option Nat := bs.findIdx? id

/-- Number of ones. -/
def popCount {n : Nat} (x : BitVec n) : Nat := ((List.range n).filter x.getLsbD).length

/-- Indices of the ones, rising. -/
def ones {n : Nat} (x : BitVec n) : List Nat := (List.range n).filter x.getLsbD

end Sys2Proof.Machine
end

