-- ==== Sys2Proof/Syntax.lean ====
section
/-! DEFINITION. The commands of the Ibqua 7128 as a block: one constructor per row of
spec/opcode_table.json, with the operands of the row.

Three kinds of row stand in the table.
* Host commands (families 0x01 to 0x10) carry the command packet of R278.
* Events of the package's balls, clocks and engines carry what comes from outside the package
  (received words, measured values, data answered by a host or a memory stack).
* Engine instructions carry the engine, the fields of their slot and the other slot of the bundle. -/
namespace Sys2Proof

/-- A command packet (R278) as the queue or the mailbox handed it to device firmware.
`area` is the data area of R278; with `dataRef` the data come from `refData`, the bytes that host
memory gave for the buffer reference (R280). -/
structure Packet where
  /-- true: the bring-up mailbox (R298); false: the queue of function `fn` (R277) -/
  mbox : Bool
  /-- the function, which is also the partition of its queue (R277); 0 in the mailbox -/
  fn : BitVec 4
  opcode : BitVec 16
  tag : BitVec 16
  cells : BitVec 7
  partition : BitVec 4
  fence : Bool
  auth : Bool
  afterDma : Bool
  unordered : Bool
  dataRef : Bool
  /-- the reserved header bits [39], [47:44] and [63:53], as one number -/
  reserved : BitVec 16
  seq : BitVec 64
  /-- inline parameters, bytes 16 to 31 of the packet (R279) -/
  inl : BitVec 128
  /-- return reference, bytes 32 to 47, of a command that returns through a buffer (R280) -/
  ret : BitVec 128
  area : List (BitVec 8)
  refData : List (BitVec 8)
  /-- the referenced input buffer ended in a bus error or a completion timeout (R280) -/
  refFail : Bool
  /-- the return buffer ended in a bus error or a completion timeout (R280) -/
  retFail : Bool
  /-- the authentication tag (R281) -/
  authTag : BitVec 384
  deriving DecidableEq, Repr

/-- The fields of an X slot below its opcode (R211). -/
structure XOps where
  d : BitVec 4
  a : BitVec 4
  b : BitVec 4
  imm : BitVec 18
  deriving DecidableEq, Repr

/-- The fields of a Y slot below its opcode (R211). -/
structure YOps where
  r : BitVec 4
  p : BitVec 3
  pm : Bool
  s : BitVec 2
  imm : BitVec 20
  deriving DecidableEq, Repr

/-- What a delay sweep of a channel meets (R261). -/
structure SweepIn where
  /-- phase 1: for each byte lane the read delay steps that pass, as a map of 128 bits -/
  rd : List (BitVec 128)
  /-- phase 2: the same for the write delays -/
  wr : List (BitVec 128)
  /-- pattern bursts in error in phase 3 at the delays chosen -/
  errs : Nat
  /-- pattern bursts in error in phase 3 with fixed delays, last good or factory (R261, R262) -/
  fixedErrs : Nat
  deriving DecidableEq, Repr

/-- What a boot meets (R436): results of self-tests, verifications and sweeps, and step times. -/
structure BootIn where
  /-- failing self-test number of boot step 3, if one fails (R426) -/
  selfFail : Option (BitVec 32)
  /-- the failing test is an entropy test (R427) -/
  selfEntropy : Bool
  /-- pattern bursts in error when the fixed delays of lodge channels 7 and 15 are verified (R262) -/
  lodgeErrs : List Nat
  /-- what the sweep of every capture-class channel meets, but for those listed (R261) -/
  sweep : SweepIn
  sweeps : List (Nat × SweepIn)
  /-- capture dies whose power-up fails (R436, step 9) -/
  dieFail : List Nat
  /-- start and duration of the steps 1 to 11, in microseconds (R438) -/
  times : List (BitVec 32 × BitVec 32)
  /-- PERST# of endpoint A is asserted when the boot reaches step 6 -/
  perstA : Bool
  deriving DecidableEq, Repr

/-- Why a lane is declared LOST (R41). -/
inductive LossCause where
  | badBlocks | lossOfLock | electricalIdle
  deriving DecidableEq, Repr

/-- What the phase checks of a training find (R47, R48). -/
structure TrainIn where
  /-- words 0 to 3 of three consecutive training blocks, as received on a physical position (R33, R47) -/
  heads : List (Nat × List (List (BitVec 18)))
  /-- positions that miss the phase limit or their eye threshold (R47) -/
  failed : List Nat
  /-- arrival of one block on each position, in words after an instant before the earliest (R48) -/
  arrivals : List (Nat × Nat)
  /-- loop delay in words (R48) -/
  loopDelay : Nat
  /-- slot count at which the next block period starts (R71) -/
  slot : BitVec 64
  deriving DecidableEq, Repr

/-- Errors of the 40 symbols of a burst that a read meets (R263). -/
structure BurstIn where
  /-- symbols of the stored word that have changed since it was written, each with the bits that flipped -/
  hard : List (Nat × BitVec 16) := []
  /-- symbols in which this one read differs from the stored word -/
  soft : List (Nat × BitVec 16) := []
  deriving DecidableEq, Repr

/-- What a memory access carried by another command meets: its age in beats when it is served (R254), and the
errors of the bursts that it reads, in their order (R263). -/
structure MemIn where
  age : Nat := 0
  bursts : List BurstIn := []
  deriving DecidableEq, Repr

/-- Causes that retire a channel (R270). -/
inductive RetireCause where
  | errors | noResponse | sweep
  deriving DecidableEq, Repr

/-- Requester classes (R253). -/
inductive ReqClass where
  | ingest | control | dma | scrub
  deriving DecidableEq, Repr

/-- A request on its way to a DRAM controller (R253). -/
inductive ReqIn where
  /-- the oldest store of a port's store FIFO (R153) -/
  | store (port : BitVec 7)
  /-- a read or write of a DMA channel: package byte address and bytes -/
  | dma (n : BitVec 5) (write : Bool) (addr : Nat) (len : Nat)
  /-- a read or write of device firmware on the control processor -/
  | firmware (write : Bool) (addr : Nat) (data : List (BitVec 8)) (len : Nat)
  /-- a read or write of lodge channel 7, or 15 where `c` is set, by channel-local byte -/
  | lodge (write : Bool) (c : Bool) (addr : Nat) (data : List (BitVec 8)) (len : Nat)
  deriving DecidableEq, Repr

/-- What a compression engine reports at the end of a job or of an output area (R355, R357). -/
structure CmpIn where
  outcome : BitVec 4
  /-- bytes written to the output area since the last report -/
  output : List (BitVec 8)
  deriving DecidableEq, Repr

/-- The waits that a watchdog breaks (R453). -/
inductive WaitKind where
  /-- device firmware waits for a configuration access of a block, for a command -/
  | firmware (p : Packet) (loc : BitVec 16)
  /-- the sender of a die-to-die link waits for a credit -/
  | linkCredit (d : BitVec 2)
  /-- a Chute access of a function, of so many byte lanes, waits for a controller -/
  | chute (f : BitVec 4) (lanes : List Bool)
  /-- a TUNE of an engine waits for the tune port of a fenced front end -/
  | tune (e : BitVec 9)
  deriving DecidableEq, Repr

/-- Outcome of an island operation (R413, R425, R426). -/
structure IslandIn where
  /-- failing self-test or pairwise test, if one fails -/
  fail : Option (BitVec 32)
  entropy : Bool
  deriving DecidableEq, Repr


/-- The commands of the block: one constructor per row of the opcode table, in the table's order. -/
inductive Instr where
  /-- DEV_INFO (R301). Returns the device information block in the reply result. -/
  | devInfo (p : Packet)
  /-- DEV_STATUS (R455). Returns the fault summary and sets seen to fault_seq. -/
  | devStatus (p : Packet)
  /-- DEV_RESET (R300). Replies ST_OK, then begins a package reset 1 ms after the reply. -/
  | devReset (p : Packet)
  /-- DEV_ECHO (R300). Returns the data area unchanged through the return buffer. -/
  | devEcho (p : Packet)
  /-- PART_ASSIGN (R432). Assigns a span of port pairs, DMA channels, sequencers or system lines to a partition, resetting the clusters of port pairs first. -/
  | partAssign (p : Packet)
  /-- PART_RELEASE (R300). Releases a span of blocks from a partition unless any of them is in use, armed, running or owned by another partition. -/
  | partRelease (p : Packet)
  /-- PART_WIPE (R297). Wipes the partition's windows and ends the partition's commands with ST_WIPED until its EV_DONE. -/
  | partWipe (p : Packet)
  /-- PART_WINDOW_SET (R430). Writes window entries after checking ranges, overlaps and dirty partitions, and replies once every controller uses the new table. -/
  | partWindowSet (p : Packet)
  /-- PART_WINDOW_INVAL (R431). Makes every window cache drop the named entries and discards Chute prefetch, then replies. -/
  | partWindowInval (p : Packet)
  /-- PART_GET (R300). Returns the blocks assigned to the partition. -/
  | partGet (p : Packet)
  /-- PART_EVENTS (R288). Sets the partition's event mask and EV_TRIG interval. -/
  | partEvents (p : Packet)
  /-- PORT_OPEN (R47). Requests tokens and starts a cold training of the port, answering ST_ACCEPTED with EV_DONE when it leaves TRAINING. -/
  | portOpen (p : Packet)
  /-- PORT_CLOSE (R300). Sends SHUTDOWN and takes the port DOWN. -/
  | portClose (p : Packet)
  /-- PORT_RETRAIN (R47). Starts a cold retrain of the port, answering ST_ACCEPTED. -/
  | portRetrain (p : Packet)
  /-- PORT_FMT (R300). Sends STREAM_CTRL with the requested format and valid enable. -/
  | portFmt (p : Packet)
  /-- PORT_HOLD (R391). Sends WARM_HOLD, puts the port in WARM and returns 6 tokens. -/
  | portHold (p : Packet)
  /-- PORT_PASS (R300). Sends a PASS message with host words to the probe head. -/
  | portPass (p : Packet)
  /-- PORT_GET (R300). Returns the port's slot registers and head descriptor. -/
  | portGet (p : Packet)
  /-- GATE_SET (R86). Writes a gate descriptor after checking it against the gate type table and ownership. -/
  | gateSet (p : Packet)
  /-- GATE_GET (R105). Returns a gate descriptor with its hit counter and sat flag. -/
  | gateGet (p : Packet)
  /-- GATE_TUNE (R103). Sends a tune of one gate's parameters, value and mask to an armed port. -/
  | gateTune (p : Packet)
  /-- SLALOM_SET (R110). Writes the port's slalom table after checking it. -/
  | slalomSet (p : Packet)
  /-- SLALOM_GET (R125). Returns the slalom table or its status block sampled at one beat. -/
  | slalomGet (p : Packet)
  /-- SLALOM_TUNE (R126). Sends a tune of counter thresholds and timer limits to an armed port. -/
  | slalomTune (p : Packet)
  /-- SLALOM_PCS_SET (R128). Writes or disables a package combination sequencer's table. -/
  | slalomPcsSet (p : Packet)
  /-- SLALOM_PCS_GET (R300). Returns a package combination sequencer's table. -/
  | slalomPcsGet (p : Packet)
  /-- RUN_SET (R133). Writes the port's run configuration block and sets next_seq and rel_seq to 0. -/
  | runSet (p : Packet)
  /-- RUN_GET (R133). Returns the port's run configuration block. -/
  | runGet (p : Packet)
  /-- RUN_ARM (R161). Checks the masked ports in order and schedules their arm at one arm beat. -/
  | runArm (p : Packet)
  /-- RUN_DISARM (R113). Schedules the disarm of the masked ports at slot 0 of a beat. -/
  | runDisarm (p : Packet)
  /-- RUN_RELEASE (R147). Moves rel_seq to m + 1 after checking its range. -/
  | runRelease (p : Packet)
  /-- RUN_STATUS (R160). Returns the port's run status block. -/
  | runStatus (p : Packet)
  /-- RUN_MASK_SET (R156). Loads mask-test positions of an unarmed port. -/
  | runMaskSet (p : Packet)
  /-- SPEC_SET (R164). Writes the spectral configuration block of a stopped chain. -/
  | specSet (p : Packet)
  /-- SPEC_GET (R192). Returns the spectral configuration, coefficient tables or status block. -/
  | specGet (p : Packet)
  /-- SPEC_START (R166). Checks the configuration and schedules the chain's start and synchronising reset at a beat. -/
  | specStart (p : Packet)
  /-- SPEC_STOP (R171). Stops the spectral chain at the first beat after it arrives. -/
  | specStop (p : Packet)
  /-- SPEC_SYNC (R172). Schedules a synchronising reset of the chain at a beat. -/
  | specSync (p : Packet)
  /-- SPEC_TUNE (R176). Retunes ftw or phase_ofs at the beat after it reaches the chain. -/
  | specTune (p : Packet)
  /-- SPEC_COEF_SET (R170). Loads a user compensation FIR or halfband table, or restores the factory halfband. -/
  | specCoefSet (p : Packet)
  /-- SPEC_WINDOW_SET (R181). Loads a user window for a pipe of a stopped chain. -/
  | specWindowSet (p : Packet)
  /-- SPEC_TRIG_SET (R187). Writes a trigger-unit descriptor of a stopped chain. -/
  | specTrigSet (p : Packet)
  /-- SPEC_TRIG_TUNE (R191). Replaces p0 to p2 of a running trigger unit from the next evaluated frame. -/
  | specTrigTune (p : Packet)
  /-- SPEC_MASK_SET (R191). Loads spectral mask entries, effective together at the next frame. -/
  | specMaskSet (p : Packet)
  /-- DENS_SET (R194). Writes the port's density configuration block. -/
  | densSet (p : Packet)
  /-- DENS_GET (R204). Returns the density configuration or status block. -/
  | densGet (p : Packet)
  /-- DENS_SNAP (R198). Requests a freeze of the live bank at the next frame boundary. -/
  | densSnap (p : Packet)
  /-- DENS_RELEASE_CLEAR (R198). Ends a hold by making the delta bank live and discarding the frozen bank and saturation map. -/
  | densReleaseClear (p : Packet)
  /-- DENS_RELEASE_MERGE (R198). Ends a hold by merging frozen and delta banks over 4,096 DCLK. -/
  | densReleaseMerge (p : Packet)
  /-- DENS_CLEAR (R199). Zeroes both banks, the saturation map and sat_cells and restarts decay and hold traces. -/
  | densClear (p : Packet)
  /-- ENG_LOAD (R228). Writes part of an engine's program or data image. -/
  | engLoad (p : Packet)
  /-- ENG_SET (R228). Writes an engine's configuration block. -/
  | engSet (p : Packet)
  /-- ENG_GET (R230). Returns an engine's configuration or status block. -/
  | engGet (p : Packet)
  /-- ENG_START_FRESH (R229). Starts an engine fresh at a beat with reset registers and reloaded data image. -/
  | engStartFresh (p : Packet)
  /-- ENG_START_RESUME (R229). Resumes a stopped engine with its registers and FIFOs as they were. -/
  | engStartResume (p : Packet)
  /-- ENG_STOP (R229). Stops an engine at the next bundle boundary. -/
  | engStop (p : Packet)
  /-- ENG_RING_ACK (R221). Sets OUTRD to return result-ring space. -/
  | engRingAck (p : Packet)
  /-- MEM_CFG_SET (R252). Writes the controller configuration, wiping all capture-class channels when a select field changes. -/
  | memCfgSet (p : Packet)
  /-- MEM_CFG_GET (R251). Returns the controller configuration block. -/
  | memCfgGet (p : Packet)
  /-- MEM_STATUS (R276). Returns one DRAM channel's status block. -/
  | memStatus (p : Packet)
  /-- MEM_DELAY_GET (R262). Returns one channel's delay block. -/
  | memDelayGet (p : Packet)
  /-- MEM_TEST (R300). Runs test patterns over a whole channel in IN_ORDER, then wipes it. -/
  | memTest (p : Packet)
  /-- MEM_RETIRE (R270). Retires a capture-class channel on request. -/
  | memRetire (p : Packet)
  /-- DMA_SET (R348). Writes a DMA channel's configuration block and resets its record count, phase and fpos. -/
  | dmaSet (p : Packet)
  /-- DMA_SET_TWIN_MASK (R330). Sets the package twin mask that grants path 1 per partition. -/
  | dmaSetTwinMask (p : Packet)
  /-- DMA_GET (R350). Returns a channel's configuration block, or the twin mask. -/
  | dmaGet (p : Packet)
  /-- DMA_START (R350). Starts a DMA channel on a descriptor chain. -/
  | dmaStart (p : Packet)
  /-- DMA_HALT (R346). Halts a running DMA channel with reason 1 and replies when HALTED. -/
  | dmaHalt (p : Packet)
  /-- DMA_STATUS (R349). Returns a DMA channel's status block. -/
  | dmaStatus (p : Packet)
  /-- CMP_JOB (R354). Assigns the lowest free compression engine and starts a job through a DMA channel. -/
  | cmpJob (p : Packet)
  /-- CMP_RESUME (R358). Gives a held job a new output area and continues it. -/
  | cmpResume (p : Packet)
  /-- CMP_CANCEL (R358). Stops a running job with outcome 7 or frees a held job. -/
  | cmpCancel (p : Packet)
  /-- CMP_STATUS (R358). Returns a compression engine's job status block. -/
  | cmpStatus (p : Packet)
  /-- SYS_EPOCH_SET (R73). Loads the epoch at once or arms a load at the next 1PPS or SYNC_IN edge. -/
  | sysEpochSet (p : Packet)
  /-- SYS_TIME_GET (R300). Returns the timemark of the current beat and tm_st. -/
  | sysTimeGet (p : Packet)
  /-- SYS_TRIG_OUT_SET (R243). Writes a TRIG_OUT route block and clears its counts. -/
  | sysTrigOutSet (p : Packet)
  /-- SYS_TRIG_OUT_GET (R243). Returns a TRIG_OUT route block with fires and overruns. -/
  | sysTrigOutGet (p : Packet)
  /-- SYS_LINK_SET (R383). Writes the Vacheod configuration block and keeps it in MRAM. -/
  | sysLinkSet (p : Packet)
  /-- SYS_LINK_STATUS (R384). Returns the Vacheod configuration or status block. -/
  | sysLinkStatus (p : Packet)
  /-- SYS_MSG_SEND (R375). Queues a 16-byte message or broadcast to other members. -/
  | sysMsgSend (p : Packet)
  /-- SYS_PHASE_STEP (R381). Requests n fine phase steps and adjusts the fraction. -/
  | sysPhaseStep (p : Packet)
  /-- PWR_CAP_SET (R397). Writes the power configuration and recomputes the token budget, shedding holdings to fit. -/
  | pwrCapSet (p : Packet)
  /-- PWR_STATE_SET_OFF (R387). Schedules the transition to Off-but-watching 1 ms after the reply. -/
  | pwrStateSetOff (p : Packet)
  /-- PWR_STATE_SET_PARKED (R387). Schedules the transition to Parked 1 ms after the reply. -/
  | pwrStateSetParked (p : Packet)
  /-- PWR_STATE_SET_READY (R398). Sets the die policies of the capture dies. -/
  | pwrStateSetReady (p : Packet)
  /-- PWR_STATUS (R401). Returns the power status block. -/
  | pwrStatus (p : Packet)
  /-- CLK_STATUS (R402). Returns the clock status block. -/
  | clkStatus (p : Packet)
  /-- MON_SEQ_SET (R404). Writes the monitor sequencer, clears valid bits and restarts at entry 0. -/
  | monSeqSet (p : Packet)
  /-- MON_READ (R404). Returns the monitor result registers. -/
  | monRead (p : Packet)
  /-- MON_CAL_ZERO (R406). Measures and stores raw_zero of an AUX_AIN input. -/
  | monCalZero (p : Packet)
  /-- MON_CAL_FULL_SCALE (R406). Measures raw_fs, computes and stores the gain of an AUX_AIN input. -/
  | monCalFullScale (p : Packet)
  /-- SEC_ATTEST_REPORT (R419). Returns a signed attestation report over a caller nonce. -/
  | secAttestReport (p : Packet)
  /-- SEC_ATTEST_CERTS (R422). Returns the identity certificates or public keys. -/
  | secAttestCerts (p : Packet)
  /-- SEC_ATTEST_CAL (R420). Returns the calibration record. -/
  | secAttestCal (p : Packet)
  /-- SEC_SESSION_OPEN (R413). Verifies the operator request, agrees session keys and returns a signed response. -/
  | secSessionOpen (p : Packet)
  /-- SEC_SESSION_CLOSE (R419). Finalises the chains, signs the seal, zeroises the session keys and returns the seal. -/
  | secSessionClose (p : Packet)
  /-- SEC_APPROVED_ENTER (R410). Puts the module in approved mode. -/
  | secApprovedEnter (p : Packet)
  /-- SEC_APPROVED_LEAVE (R410). Takes the module out of approved mode unless locked. -/
  | secApprovedLeave (p : Packet)
  /-- SEC_LIFECYCLE_FACTORY (R423). Op 1: blows the next lc fuse to FACTORY, generates the identity and resets the package. -/
  | secLifecycleFactory (p : Packet)
  /-- SEC_LIFECYCLE_CERTS (R423). Op 2: installs identity certificates in FACTORY. -/
  | secLifecycleCerts (p : Packet)
  /-- SEC_LIFECYCLE_FIELD (R423). Op 3: blows root_hash and the lc fuse to FIELD and resets the package. -/
  | secLifecycleField (p : Packet)
  /-- SEC_LIFECYCLE_RETURN (R423). Op 4: zeroises identity keys, moves to RETURN and resets the package. -/
  | secLifecycleReturn (p : Packet)
  /-- SEC_LIFECYCLE_VOID (R423). Op 5: moves the package to VOID and resets it. -/
  | secLifecycleVoid (p : Packet)
  /-- SEC_LIFECYCLE_DEBUG_UNLOCK (R423). Op 6: opens the hub test access port until the next package reset. -/
  | secLifecycleDebugUnlock (p : Packet)
  /-- SEC_FW_UPDATE_WRITE (R425). Op 0: writes a firmware image or chunk into the inactive slot and verifies it. -/
  | secFwUpdateWrite (p : Packet)
  /-- SEC_FW_UPDATE_COMMIT (R425). Op 1: blows arc up to the running image's count. -/
  | secFwUpdateCommit (p : Packet)
  /-- SEC_ZEROISE (R428). Sub 0: zeroises the RAM keys and ends every session without a seal. -/
  | secZeroise (p : Packet)
  /-- SEC_ZEROISE_VOID (R428). Sub 1: zeroises, destroys the wrapped identity keys and moves to VOID. -/
  | secZeroiseVoid (p : Packet)
  /-- SEC_SELFTEST (R426). Runs the boot self-tests again and reports pass or the failing test. -/
  | secSelftest (p : Packet)
  /-- SEC_SELFTEST_FAULT_INSERT (R410). Runs the self-tests with fault insertion as a non-approved service. -/
  | secSelftestFaultInsert (p : Packet)
  /-- SEC_AUDIT_READ (R433). Returns audit ring entries from a sequence. -/
  | secAuditRead (p : Packet)
  /-- LOG_READ (R456). Returns event log entries from a sequence. -/
  | logRead (p : Packet)
  /-- LOG_INFO (R457). Returns the log's next seq, entries held and log_overflow. -/
  | logInfo (p : Packet)
  /-- DIAG_LEDGER_READ (R438). Returns the boot-ledger view. -/
  | diagLedgerRead (p : Packet)
  /-- DIAG_LEDGER_CLEAR_STRIKE (R439). Clears a stack's strike from the next boot. -/
  | diagLedgerClearStrike (p : Packet)
  /-- DIAG_LEDGER_CLEAR_SLOT (R439). Clears a firmware slot's bad mark from the next boot. -/
  | diagLedgerClearSlot (p : Packet)
  /-- DIAG_INJECT_MISMATCH (R457). Injects one lockstep mismatch on a port. -/
  | diagInjectMismatch (p : Packet)
  /-- DIAG_INJECT_PERSISTENT (R457). Injects a persistent front-end fault on a port. -/
  | diagInjectPersistent (p : Packet)
  /-- DIAG_INJECT_ENGINE (R457). Injects an engine fault. -/
  | diagInjectEngine (p : Packet)
  /-- DIAG_INJECT_CHANNEL (R457). Injects a DRAM channel that gives no response. -/
  | diagInjectChannel (p : Packet)
  /-- DIAG_INJECT_LANE_LOSS (R457). Injects a lane loss on a port lane. -/
  | diagInjectLaneLoss (p : Packet)
  /-- SQ_TAIL_DOORBELL (R290). Host write of SQ_TAIL announcing submitted cells. -/
  | sqTailDoorbell (f : BitVec 4) (v : BitVec 32)
  /-- PACKET_FETCH (R290). The 7128 fetches a whole announced packet and checks cells and seq. -/
  | packetFetch (p : Packet) (busErr : Bool)
  /-- RQ_HEAD_DOORBELL (R291). Host write of RQ_HEAD returning reply entries, releasing waiting records. -/
  | rqHeadDoorbell (f : BitVec 4) (v : BitVec 32)
  /-- Q_ENABLE (R292). Write of Q_CTRL.en = 1 activates the queue or puts it in ERROR. -/
  | qEnable (f : BitVec 4)
  /-- Q_DISABLE (R292). Write of Q_CTRL.en = 0 drains the queue. -/
  | qDisable (f : BitVec 4)
  /-- QUEUE_DRAINED (R292). A draining queue becomes DISABLED once no reply remains to be written. -/
  | queueDrained (f : BitVec 4)
  /-- MBOX_GO (R299). Write of MBOX_CTRL.go executes the mailbox command packet. -/
  | mboxGo
  /-- CHUTE_PTR_WRITE (R310). Write of CHUTE_PTR sets the pointer and discards prefetched data. -/
  | chutePtrWrite (f : BitVec 4) (v : BitVec 64)
  /-- CHUTE_READ (R309). Host read of BAR2 transfers bytes at CHUTE_PTR and advances it. -/
  | chuteRead (f : BitVec 4) (lanes : List Bool) (m : MemIn)
  /-- CHUTE_WRITE (R309). Host write of BAR2 transfers bytes at CHUTE_PTR and advances it. -/
  | chuteWrite (f : BitVec 4) (bytes : List (Option (BitVec 8))) (ep : Bool) (m : MemIn)
  /-- SLOT_CTRL_WRITE (R63). Write of SLOT_CTRL requests slot power, indicators and enables. -/
  | slotCtrlWrite (port : BitVec 7) (v : BitVec 32) (be : BitVec 4)
  /-- REGISTER_WRITE (R306). Write to a BAR0 register without behaviour of its own, including W1C bits and split 64-bit writes. -/
  | registerWrite (f : BitVec 4) (off : BitVec 16) (dws : List (BitVec 32 × BitVec 4))
  /-- FLR (R326). Function level reset silences and wipes the function's partition on its timeline. -/
  | flr (f : BitVec 4)
  /-- FLR_COMPLETE (R326). The FLR ends and the function answers configuration requests normally. -/
  | flrComplete (f : BitVec 4)
  /-- D3HOT_ENTRY (R322). PowerState write moves a function to D3hot and holds its DMA after the current descriptor. -/
  | d3hotEntry (f : BitVec 4) (pmeEn : Bool)
  /-- D0_RETURN (R322). PowerState write returns a function to D0 and resumes where it stopped. -/
  | d0Return (f : BitVec 4)
  /-- HOLDOFF_EXPIRE (R316). A group's interrupt hold-off timer expires. -/
  | holdoffExpire (g : BitVec 6)
  /-- PERST_A_ASSERT (R324). PERST# of endpoint A starts a package reset. -/
  | perstAAssert
  /-- PERST_B_ASSERT (R324). PERST# of endpoint B performs a function reset of its eight functions. -/
  | perstBAssert
  /-- HOT_RESET (R325). A hot reset performs a function reset of every function of the endpoint. -/
  | hotReset (ep : Bool)
  /-- LINK_DOWN (R327). An endpoint link goes down; its DMA is silenced and its functions reset. -/
  | linkDown (ep : Bool)
  /-- POWER_ON (R436). The 12 V input comes up and the boot starts at step 1. -/
  | powerOn (b : BootIn)
  /-- HUB_PLL_LOCK (R436). Boot step 5 locks the hub clocks once REFCLK is present and starts slot_count. -/
  | hubPllLock
  /-- HOST_ENDPOINTS_UP (R436). Boot step 6 enables configuration responses after PERST# de-asserts, then continues the boot. -/
  | hostEndpointsUp (b : BootIn)
  /-- PACKAGE_RESET (R23). Resets everything except fuses, MRAM and lodge values, wipes all channels and reboots from step 2. -/
  | packageReset (cause : BitVec 4) (b : BootIn)
  /-- UNIT_RESET (R23). Clears a unit's operating state, queues and counters and keeps its tables. -/
  | unitReset (loc : BitVec 16)
  /-- CLUSTER_RESET (R23). Clears all state and memories of a cluster. -/
  | clusterReset (k : BitVec 6)
  /-- REGION_RESET (R23). Clears a region's front ends, router and tables and wipes its channels. -/
  | regionReset (r : BitVec 4)
  /-- DIE_RESET (R23). Clears a whole capture die and wipes its channels. -/
  | dieReset (d : BitVec 2)
  /-- WIPE_DONE (R269). A channel wipe completes, ending the reset, wipe or FLR stage that waited on it. -/
  | wipeDone (c : BitVec 7)
  /-- PRSNT_EDGE (R59). An edge of PRSNT_N is latched by the lodge. -/
  | prsntEdge (port : BitVec 7)
  /-- PRESENCE_REPORT (R59). After 10 ms of stable level the presence is reported and prsnt_chg set. -/
  | presenceReport (port : BitVec 7) (level : Bool)
  /-- PSC_SCAN (R60). A scan of a port service chain shifts out slot power and indicators and shifts in fault and button inputs. -/
  | pscScan (n : BitVec 2) (inputs : BitVec 64)
  /-- INDICATOR_BLINK (R62). Blinking indicators toggle at 1 Hz. -/
  | indicatorBlink
  /-- IBI_RECEIVE (R58). An in-band interrupt is accepted or NACKed and acted on by its code. -/
  | ibiReceive (port : BitVec 7) (mdb : BitVec 8) (more : List (BitVec 8)) (joint : Bool)
  /-- HOT_JOIN (R57). A Hot-Join is accepted, the dynamic address assigned and the descriptor reread. -/
  | hotJoin (port : BitVec 7) (joint : Bool)
  /-- BLOCK_PERIOD (R40). A block period of all lanes ends and is used, rebuilt or lost. -/
  | blockPeriod (port : BitVec 7) (blocks : List (List (BitVec 2))) (arrivals : List (Nat × Int))
  /-- LANE_LOST (R41). A lane is declared LOST after 4 bad blocks, loss of lock or electrical idle. -/
  | laneLost (port : BitVec 7) (lane : BitVec 4) (cause : LossCause)
  /-- TRAINING_PHASE_EXIT (R47). A training phase meets its exit condition and the next phase starts. -/
  | trainingPhaseExit (port : BitVec 7) (m : TrainIn)
  /-- TRAINING_PHASE_TIMEOUT (R47). A lane misses its training phase limit and is LOST or training fails. -/
  | trainingPhaseTimeout (port : BitVec 7) (lanes : List (BitVec 4))
  /-- EFFECT_SEQ_REACHED (R46). The block named by a message's effect_seq arrives and its effect applies. -/
  | effectSeqReached (port : BitVec 7)
  /-- RETURN_FRAME (R44). One return-lane frame is sent per block period. -/
  | returnFrame (port : BitVec 7)
  /-- MESSAGE_RESEND (R45). No acknowledgement within 64 frame times resends from the oldest unacknowledged message. -/
  | messageResend (port : BitVec 7)
  /-- MESSAGE_FAILURE (R45). A message fails after its eighth sending, failing the port with fail_code 7. -/
  | messageFailure (port : BitVec 7)
  /-- AUTO_WARM_HOLD (R391). An unarmed LIVE port goes to warm hold after auto_warm ms. -/
  | autoWarmHold (port : BitVec 7)
  /-- ARM_BEAT (R112). The arm beat arrives and the port enters HUNT. -/
  | armBeat (port : BitVec 7)
  /-- BEAT_DECIDE (R121). A deskewed beat is evaluated by the gates and resolved by the slalom. -/
  | beatDecide (port : BitVec 7)
  /-- TUNE_APPLY (R103). A gate or slalom tune takes effect at slot 0 of the next beat. -/
  | tuneApply (port : BitVec 7)
  /-- RUNOUT_END (R122). The run-out ends and the run closes into the lift or IDLE. -/
  | runoutEnd (port : BitVec 7)
  /-- RE_ARM (R123). The lift ends and the slalom restarts in HUNT. -/
  | reArm (port : BitVec 7)
  /-- DISARM_EFFECT (R113). A disarm takes effect at slot 0 of its beat, ending any run short. -/
  | disarmEffect (port : BitVec 7)
  /-- DIRECTORY_ENTRY_WRITE (R146). After the run's data writes complete, its entry is written with valid = 1. -/
  | directoryEntryWrite (port : BitVec 7)
  /-- RUN_POISON_MARK (R159). Device firmware marks a run's entry poisoned. -/
  | runPoisonMark (port : BitVec 7) (n : BitVec 36)
  /-- PCS_STEP (R130). A package combination sequencer steps one beat over aligned inputs. -/
  | pcsStep (n : BitVec 4) (beat : BitVec 64)
  /-- TRIG_IN_EDGE (R99). An edge on TRIG_IN is timemarked and delivered as a remote source. -/
  | trigInEdge (input : Bool) (rising : Bool) (tm : BitVec 72)
  /-- EV_TRIG_INTERVAL (R288). An EV_TRIG interval ends and its record is sent. -/
  | evTrigInterval (part : BitVec 4)
  /-- FRAME_COMPLETE (R180). An FFT pipe completes a frame. -/
  | frameComplete (port : BitVec 7) (seq : Bool)
  /-- DENS_DECAY_STEP (R197). After decay_period evaluated frames the field decays. -/
  | densDecayStep (port : BitVec 7)
  /-- DENS_FREEZE (R198). The live bank freezes at the frame boundary after DENS_SNAP. -/
  | densFreeze (port : BitVec 7)
  /-- DENS_MERGE_DONE (R198). The bank merge after a release completes. -/
  | densMergeDone (port : BitVec 7)
  /-- SYNC_IN_EDGE (R380). A SYNC_IN edge is sampled and serves divider reset, epoch load and spectral reset. -/
  | syncInEdge (slot : BitVec 64)
  /-- EPOCH_LOAD_TIMEOUT (R73). A waiting epoch load is abandoned when its edge does not come. -/
  | epochLoadTimeout
  /-- PPS_EDGE (R382). A rising 1PPS edge is timemarked and accepted or ignored. -/
  | ppsEdge (tm : BitVec 72)
  /-- PPS_MISSING (R382). No 1PPS edge for 1.1 s clears pps_ok. -/
  | ppsMissing
  /-- NOP (R211). Engine no-operation in either slot. -/
  | iNop (e : BitVec 9) (bundle : BitVec 72)
  /-- ADD (R213). Engine 18-bit add. -/
  | iAdd (e : BitVec 9) (x : XOps) (o : BitVec 36)
  /-- SUB (R213). Engine 18-bit subtract. -/
  | iSub (e : BitVec 9) (x : XOps) (o : BitVec 36)
  /-- ADDI (R213). Engine add immediate. -/
  | iAddi (e : BitVec 9) (x : XOps) (o : BitVec 36)
  /-- NEG (R213). Engine negate. -/
  | iNeg (e : BitVec 9) (x : XOps) (o : BitVec 36)
  /-- ABS (R213). Engine absolute value. -/
  | iAbs (e : BitVec 9) (x : XOps) (o : BitVec 36)
  /-- AND (R213). Engine bitwise AND. -/
  | iAnd (e : BitVec 9) (x : XOps) (o : BitVec 36)
  /-- OR (R213). Engine bitwise OR. -/
  | iOr (e : BitVec 9) (x : XOps) (o : BitVec 36)
  /-- XOR (R213). Engine bitwise XOR. -/
  | iXor (e : BitVec 9) (x : XOps) (o : BitVec 36)
  /-- ANDI (R213). Engine AND immediate. -/
  | iAndi (e : BitVec 9) (x : XOps) (o : BitVec 36)
  /-- MOVI (R213). Engine move immediate. -/
  | iMovi (e : BitVec 9) (x : XOps) (o : BitVec 36)
  /-- MOV (R213). Engine register move. -/
  | iMov (e : BitVec 9) (x : XOps) (o : BitVec 36)
  /-- MIN (R213). Engine signed minimum. -/
  | iMin (e : BitVec 9) (x : XOps) (o : BitVec 36)
  /-- MAX (R213). Engine signed maximum. -/
  | iMax (e : BitVec 9) (x : XOps) (o : BitVec 36)
  /-- SHL (R213). Engine shift left. -/
  | iShl (e : BitVec 9) (x : XOps) (o : BitVec 36)
  /-- SAR (R213). Engine arithmetic shift right. -/
  | iSar (e : BitVec 9) (x : XOps) (o : BitVec 36)
  /-- SHR (R213). Engine logical shift right. -/
  | iShr (e : BitVec 9) (x : XOps) (o : BitVec 36)
  /-- SHI (R213). Engine shift by immediate. -/
  | iShi (e : BitVec 9) (x : XOps) (o : BitVec 36)
  /-- CMP (R213). Engine compare setting Z, N, C and V. -/
  | iCmp (e : BitVec 9) (x : XOps) (o : BitVec 36)
  /-- CMPI (R213). Engine compare against immediate. -/
  | iCmpi (e : BitVec 9) (x : XOps) (o : BitVec 36)
  /-- MUL (R213). Engine scaled multiply. -/
  | iMul (e : BitVec 9) (x : XOps) (o : BitVec 36)
  /-- DIV (R213). Engine division truncated toward zero. -/
  | iDiv (e : BitVec 9) (x : XOps) (o : BitVec 36)
  /-- REM (R213). Engine remainder. -/
  | iRem (e : BitVec 9) (x : XOps) (o : BitVec 36)
  /-- POPC (R213). Engine population count. -/
  | iPopc (e : BitVec 9) (x : XOps) (o : BitVec 36)
  /-- NORM (R213). Engine count of redundant sign bits. -/
  | iNorm (e : BitVec 9) (x : XOps) (o : BitVec 36)
  /-- FFS (R213). Engine index of lowest set bit. -/
  | iFfs (e : BitVec 9) (x : XOps) (o : BitVec 36)
  /-- MAC (R213). Engine multiply-accumulate. -/
  | iMac (e : BitVec 9) (x : XOps) (o : BitVec 36)
  /-- MSU (R213). Engine multiply-subtract. -/
  | iMsu (e : BitVec 9) (x : XOps) (o : BitVec 36)
  /-- MPA (R213). Engine product into accumulator. -/
  | iMpa (e : BitVec 9) (x : XOps) (o : BitVec 36)
  /-- ACLR (R213). Engine accumulator clear. -/
  | iAclr (e : BitVec 9) (x : XOps) (o : BitVec 36)
  /-- ALD (R213). Engine accumulator load with shift. -/
  | iAld (e : BitVec 9) (x : XOps) (o : BitVec 36)
  /-- AADD (R213). Engine accumulator add. -/
  | iAadd (e : BitVec 9) (x : XOps) (o : BitVec 36)
  /-- ASR (R213). Engine accumulator shift right. -/
  | iAsr (e : BitVec 9) (x : XOps) (o : BitVec 36)
  /-- EXT (R213). Engine extract scaled accumulator to a register. -/
  | iExt (e : BitVec 9) (x : XOps) (o : BitVec 36)
  /-- LD (R207). Engine load of one word. -/
  | iLd (e : BitVec 9) (y : YOps) (o : BitVec 36)
  /-- ST (R207). Engine store of one word. -/
  | iSt (e : BitVec 9) (y : YOps) (o : BitVec 36)
  /-- LDQ (R207). Engine load of four words. -/
  | iLdq (e : BitVec 9) (y : YOps) (o : BitVec 36)
  /-- STQ (R207). Engine store of four words. -/
  | iStq (e : BitVec 9) (y : YOps) (o : BitVec 36)
  /-- AXA (R208). Engine atomic exchange-add on shared memory. -/
  | iAxa (e : BitVec 9) (y : YOps) (o : BitVec 36)
  /-- MOVP (R213). Engine set address register. -/
  | iMovp (e : BitVec 9) (y : YOps) (o : BitVec 36)
  /-- PADD (R213). Engine add to address register. -/
  | iPadd (e : BitVec 9) (y : YOps) (o : BitVec 36)
  /-- MTP (R213). Engine move register to address register. -/
  | iMtp (e : BitVec 9) (y : YOps) (o : BitVec 36)
  /-- MFP (R213). Engine move address register to register. -/
  | iMfp (e : BitVec 9) (y : YOps) (o : BitVec 36)
  /-- B (R215). Engine conditional branch after a delay bundle. -/
  | iB (e : BitVec 9) (y : YOps) (o : BitVec 36)
  /-- CALL (R215). Engine call setting p7. -/
  | iCall (e : BitVec 9) (y : YOps) (o : BitVec 36)
  /-- JR (R215). Engine jump through an address register. -/
  | iJr (e : BitVec 9) (y : YOps) (o : BitVec 36)
  /-- LOOP (R217). Engine hardware loop with register count. -/
  | iLoop (e : BitVec 9) (y : YOps) (o : BitVec 36)
  /-- LOOPI (R217). Engine hardware loop with immediate count. -/
  | iLoopi (e : BitVec 9) (y : YOps) (o : BitVec 36)
  /-- SIN (R219). Engine read of one stream word, setting GP and EL. -/
  | iSin (e : BitVec 9) (y : YOps) (o : BitVec 36)
  /-- SINQ (R219). Engine read of four stream words. -/
  | iSinq (e : BitVec 9) (y : YOps) (o : BitVec 36)
  /-- OUT (R221). Engine write of one word to the result ring. -/
  | iOut (e : BitVec 9) (y : YOps) (o : BitVec 36)
  /-- OUTQ (R221). Engine write of four words to the result ring. -/
  | iOutq (e : BitVec 9) (y : YOps) (o : BitVec 36)
  /-- EVT (R222). Engine event timed by a stream cursor. -/
  | iEvt (e : BitVec 9) (y : YOps) (o : BitVec 36)
  /-- EVTR (R222). Engine event at a given position of the beat. -/
  | iEvtr (e : BitVec 9) (y : YOps) (o : BitVec 36)
  /-- TUNE (R224). Engine tune of a gate or the slalom through the tune port. -/
  | iTune (e : BitVec 9) (y : YOps) (o : BitVec 36)
  /-- SPOST (R209). Engine increment of a synchronisation counter. -/
  | iSpost (e : BitVec 9) (y : YOps) (o : BitVec 36)
  /-- SWAIT (R209). Engine wait on a synchronisation counter. -/
  | iSwait (e : BitVec 9) (y : YOps) (o : BitVec 36)
  /-- FENCE (R209). Engine wait for its shared-memory writes. -/
  | iFence (e : BitVec 9) (y : YOps) (o : BitVec 36)
  /-- MTC (R216). Engine write of a control register, with the MODE shadow. -/
  | iMtc (e : BitVec 9) (y : YOps) (o : BitVec 36)
  /-- MFC (R210). Engine read of a control register. -/
  | iMfc (e : BitVec 9) (y : YOps) (o : BitVec 36)
  /-- TRAP (R225). Engine trap into the handler. -/
  | iTrap (e : BitVec 9) (y : YOps) (o : BitVec 36)
  /-- RETE (R227). Engine return from the exception handler. -/
  | iRete (e : BitVec 9) (y : YOps) (o : BitVec 36)
  /-- HALT (R229). Engine goes to HALTED. -/
  | iHalt (e : BitVec 9) (y : YOps) (o : BitVec 36)
  /-- ENG_STALL_END (R214). A stalled engine bundle issues when its data, room or counter becomes available. -/
  | engStallEnd (e : BitVec 9)
  /-- STREAM_ELEMENT_ARRIVE (R219). A stream element enters an engine FIFO or is dropped whole. -/
  | streamElementArrive (e : BitVec 9) (n : BitVec 2)
  /-- ENGINE_FAULT (R231). An engine fault discards the bundle and moves the engine to RESTARTING. -/
  | engineFault (e : BitVec 9)
  /-- ENGINE_RESTART (R232). Firmware restarts the logical engine on a free physical engine or halts it. -/
  | engineRestart (e : BitVec 9)
  /-- WARM_SLOTS_END (R233). The flagged interval ends and the phase-1 result flag record is emitted. -/
  | warmSlotsEnd (e : BitVec 9)
  /-- MEM_REQUEST (R253). A request arrives at a DRAM controller and is window-checked and queued. -/
  | memRequest (r : ReqIn)
  /-- MEM_ACCESS_COMPLETE (R263). A DRAM access completes, with correction or poison handling. -/
  | memAccessComplete (c : BitVec 7) (idx : Nat) (bursts : List BurstIn)
  /-- REFRESH (R254). Refresh is issued on its interval. -/
  | refresh (c : BitVec 7) (postpone : Bool) (windowEnd : Bool)
  /-- GROOMER_READ (R266). The groomer reads the next burst of its pass. -/
  | groomerRead (c : BitVec 7) (age : Nat) (first : BurstIn) (again : BurstIn)
  /-- SCRUB_OVERDUE (R269). A pass not ended after 24 h sets scrub_overdue. -/
  | scrubOverdue (c : BitVec 7)
  /-- HAMMER_THRESHOLD (R259). A row reaching act_thr refreshes neighbours and throttles the requester. -/
  | hammerThreshold (c : BitVec 7) (who : Nat)
  /-- THROTTLE_END (R259). A requester's 1 ms throttle ends. -/
  | throttleEnd (c : BitVec 7) (who : Nat)
  /-- RANK_POWER_DOWN (R256). A rank idle for pd_idle ns enters power-down. -/
  | rankPowerDown (c : BitVec 7) (rank : Bool)
  /-- LANE_RESWEEP (R261). More than 64 corrections on a lane in 1 ms starts an in-place re-sweep. -/
  | laneResweep (c : BitVec 7) (lane : BitVec 3)
  /-- CHANNEL_RETIRE (R271). A channel is fenced for retirement on errors, no response or sweep failure. -/
  | channelRetire (c : BitVec 7) (cause : RetireCause)
  /-- RETIREMENT_RESUME (R271). The routers are loaded with the retirement, resume, and the channel is RETIRED. -/
  | retirementResume (c : BitVec 7)
  /-- DESC_FETCH (R334). A DMA channel fetches and checks the next descriptor. -/
  | descFetch (n : BitVec 5) (bits : BitVec 512) (index : List (BitVec 64)) (m : MemIn)
  /-- DMA_READ_COMPLETION (R337). Read data return to a DMA channel's buffer. -/
  | dmaReadCompletion (n : BitVec 5) (bytes : List (BitVec 8)) (poison : Bool) (m : MemIn)
  /-- FOLLOW_WRITE_COUNT (R335). The region router reports the port's write count to a follow channel. -/
  | followWriteCount (n : BitVec 5) (w : BitVec 64)
  /-- DMA_WRITE_RESPONSE (R340). A DMA write has its response, possibly completing the descriptor. -/
  | dmaWriteResponse (n : BitVec 5) (len : Nat)
  /-- CQ_HEAD_POLL (R342). A channel with a full completion queue rereads the consumed count every 1 µs. -/
  | cqHeadPoll (n : BitVec 5) (v : BitVec 32)
  /-- DMA_BUS_ERROR (R343). A DMA request fails and is retried or halts the channel. -/
  | dmaBusError (n : BitVec 5) (write : Bool)
  /-- DMA_COMPLETION_TIMEOUT (R343). A DMA request times out and counts as a bus error. -/
  | dmaCompletionTimeout (n : BitVec 5) (write : Bool)
  /-- DIE_FABRIC_READY (R21). A capture die reports fabric-only and a waiting DMA read is issued. -/
  | dieFabricReady (d : BitVec 2)
  /-- CMP_JOB_END (R357). A compression job ends or is held with an outcome and EV_DONE. -/
  | cmpJobEnd (k : BitVec 4) (r : CmpIn) (m : MemIn)
  /-- TOKEN_GRANT (R394). Patrol grants waiting token requests in a 100 µs window. -/
  | tokenGrant (newWindow : Bool)
  /-- TOKEN_WAIT_TIMEOUT (R395). A non-accepted command still waiting for tokens after 900 µs completes ST_BUSY. -/
  | tokenWaitTimeout (idx : Nat)
  /-- CLUSTER_IDLE_OFF (R396). An idle cluster is switched off after cluster_idle ms. -/
  | clusterIdleOff (k : BitVec 6)
  /-- DIE_IDLE_OFF (R396). An idle capture die is switched off after die_idle ms. -/
  | dieIdleOff (d : BitVec 2)
  /-- PARK_TRANSITION (R387). 1 ms after the reply the package closes ports and powers down to Parked or Off-but-watching. -/
  | parkTransition
  /-- WAKE_EDGE (R389). An enabled latched edge wakes the package. -/
  | wakeEdge (src : BitVec 3) (v : BitVec 2) (parked : BitVec 64) (b : BootIn)
  /-- WAKE_TIMER (R389). The wake timer expires and wakes the package. -/
  | wakeTimer (parked : BitVec 64) (b : BootIn)
  /-- TELEMETRY_SAMPLE (R399). Patrol measures input voltage and current and integrates energy every 100 µs. -/
  | telemetrySample (mv : BitVec 16) (ma : BitVec 32) (p10 : BitVec 16)
  /-- TEMPERATURE_READ (R400). Patrol reads die temperatures every 1 ms and sets warnings. -/
  | temperatureRead (t0 : BitVec 16) (t1 : BitVec 16) (t2 : BitVec 16) (t3 : BitVec 16) (hub : BitVec 16)
  /-- MON_ENTRY_DONE (R404). A monitor sequencer entry completes and its result is written. -/
  | monEntryDone (mean : BitVec 16) (mean2 : BitVec 16)
  /-- URGENT_CONVERSION (R405). Patrol interrupts the sequencer for an urgent conversion. -/
  | urgentConversion
  /-- ENVIRONMENTAL_FAILURE (R428). An input, temperature or rail excursion for 2 µs zeroises and holds the package in reset. -/
  | environmentalFailure (cause : BitVec 4) (b : BootIn)
  /-- FLIT_RECEIVE (R361). A Vacheod flit is received with its beat records and side-frame piece. -/
  | flitReceive (v : BitVec 2) (flit : BitVec 192) (xorOk : Bool)
  /-- TIME_TRANSFER (R367). A time-transfer side frame yields delay and offset to the peer. -/
  | timeTransfer (v : BitVec 2) (frame : BitVec 192) (arrival : BitVec 72)
  /-- MESSAGE (R375). A message side frame is forwarded or delivered with sequence checking. -/
  | message (v : BitVec 2) (frame : BitVec 192)
  /-- MESSAGE_BROADCAST (R375). A broadcast side frame is forwarded and delivered. -/
  | messageBroadcast (v : BitVec 2) (frame : BitVec 192)
  /-- LINK_CONTROL (R365). A link control side frame updates leader, depth and line map knowledge. -/
  | linkControl (v : BitVec 2) (frame : BitVec 192)
  /-- XTRIG_RECORD_ENTRY (R373). A held cross-trigger record enters the bridge at its entry beat, or is discarded late. -/
  | xtrigRecordEntry (v : BitVec 2)
  /-- VP_LANE_LOST (R362). A Vacheod receive lane is LOST and rebuilt, or the port goes DOWN. -/
  | vpLaneLost (v : BitVec 2) (lane : BitVec 2)
  /-- VP_TRAIN_TIMEOUT (R364). A Vacheod port not trained within 10 ms goes DOWN. -/
  | vpTrainTimeout (v : BitVec 2)
  /-- VP_DOWN_RETRAIN (R364). A DOWN Vacheod port starts training after 1 ms. -/
  | vpDownRetrain (v : BitVec 2)
  /-- STEER_UPDATE (R368). A follower averages its offset and applies phase steps. -/
  | steerUpdate
  /-- TREE_REFORM (R376). The tree reforms after a link loss. -/
  | treeReform
  /-- FOLLOWER_EPOCH_LOAD (R369). A disarmed follower aligns its grid and loads the system epoch. -/
  | followerEpochLoad (slot : BitVec 64) (frac : BitVec 8)
  /-- PHASE_STEP (R381). One fine phase step is applied. -/
  | phaseStep
  /-- REFCLK_LOSS_COAST (R379). The DCLK loop coasts on REFCLK loss or phase error. -/
  | refclkLossCoast (refclk : Bool)
  /-- PLL_LOCK (R378). PLL_LKF reaches the lock threshold and lock is declared. -/
  | pllLock (mv : BitVec 16)
  /-- LOCKSTEP_MISMATCH (R445). The lockstep halves disagree and the front end replays from its checkpoint. -/
  | lockstepMismatch (port : BitVec 7) (beat : BitVec 64)
  /-- REPLAY_CATCH_UP (R445). A replay catches up with live beats. -/
  | replayCatchUp (port : BitVec 7)
  /-- SPARE_TAKEOVER (R447). At a block boundary the lane switch moves the port to the spare front end. -/
  | spareTakeover (port : BitVec 7) (tr : BitVec 64)
  /-- HEARTBEAT_MISS (R451). A control processor core missing its heartbeat for 1 ms is retired. -/
  | heartbeatMiss (core : BitVec 2) (b : BootIn)
  /-- WATCHDOG_BREAK (R453). A wait without progress for 1 ms is broken by the watchdog. -/
  | watchdogBreak (w : WaitKind)
  /-- D2D_LINK_FAILURE (R450). A die-to-die link fails and commands and offload for the die wait. -/
  | d2dLinkFailure (d : BitVec 2)
  /-- D2D_RETRAIN_TIMEOUT (R450). A die-to-die link not retrained within 100 ms starts a die reset. -/
  | d2dRetrainTimeout (d : BitVec 2)
  /-- DRBG_RESEED (R409). The DRBG reseeds after 2^20 requests. -/
  | drbgReseed (ok : Bool)
  /-- EV_LOG (R456). An EV_LOG record reports new log entries at most once per ms. -/
  | evLog
  /-- VP_TRAIN_DONE (R364). A Vacheod port completes lane lock, block lock and deskew and moves from TRAIN to NOT_READY, setting C_l for its link. -/
  | vpTrainDone (v : BitVec 2) (delay : BitVec 16)
  /-- ENDPOINT_LINK_UP (R327). A PCI Express endpoint link trains again after a link loss, reset or resume, and its functions become reachable. -/
  | endpointLinkUp (ep : Bool)
  /-- PERST_B_DEASSERT (R322). PERST# of endpoint B de-asserts and its functions leave D3cold for D0uninitialised. -/
  | perstBDeassert
  /-- D2D_LINK_RETRAINED (R450). A failed die-to-die link completes its retrain, applies lane sparing and lets the die's waiting commands and offload proceed. -/
  | d2dLinkRetrained (d : BitVec 2)
  /-- SYNCHRONISING_RESET_BEAT (R172). The beat named by SPEC_START or SPEC_SYNC arrives and the spectral chain performs its synchronising reset, entering SETTLING on a start. -/
  | synchronisingResetBeat (port : BitVec 7)
  /-- ENGINE_START_BEAT (R229). The beat named by ENG_START arrives and the engine begins issuing bundles in RUNNING. -/
  | engineStartBeat (e : BitVec 9)
  /-- DESCRIPTOR_READ_DONE (R57). The I3C head-descriptor read of a port with slot power completes, moving the port to POWERED on a good descriptor or leaving it DOWN with fail_code 8. -/
  | descriptorReadDone (port : BitVec 7) (desc : Option (BitVec 256))
  /-- SWEEP_DONE (R261). A channel's delay sweep at a warm start, or its in-place lane re-sweep, ends and the channel moves to IN_ORDER, SERVICE or RETIRED. -/
  | sweepDone (c : BitVec 7) (r : SweepIn)
  /-- IN_ORDER_RECOVERY_END (R271). The 1 ms of IN_ORDER that follows a retirement in a region ends, and the region's other channels return to SERVICE. -/
  | inOrderRecoveryEnd (r : BitVec 4)
  /-- CONTAINER_POWER_UP_DONE (R20). A switched-on cluster or region becomes usable after its 12 µs or 20 µs power-up, with memories zeroed and tables rewritten by firmware. -/
  | containerPowerUpDone (loc : BitVec 16)
  /-- ISLAND_OPERATION_DONE (R413). The security island finishes an accepted operation (session open, seal, firmware image verification or self-test) and its EV_DONE or error state follows. -/
  | islandOperationDone (r : IslandIn)
  /-- MON_CAL_MEASUREMENT_DONE (R406). The 4,096-sample measurement of a MON_CAL step ends, storing raw_zero or raw_fs and the gain, and EV_DONE is written. -/
  | monCalMeasurementDone (raw : BitVec 16)
  deriving DecidableEq, Repr

end Sys2Proof
end

