-- ==== Sys2Proof/Decode.lean ====
section
/-! DEFINITION. What the package decodes: command packets laid out as bytes (R278), the opcodes of the
tables (R300), and the table's words. No row of spec/opcode_table.json gives bits, so no word of the
table spells a command. -/
namespace Sys2Proof
open Sys2Proof.Machine

/-- The command that a word spells by the table's bits: no row gives bits, so none. -/
def decodeTableWord (_nbits _w : Nat) : Option Instr := none

/-- The operations of each opcode family: family and the highest operation, which start at 1 (R300). -/
def families : List (Nat × Nat) :=
  [(1, 4), (2, 7), (3, 7), (4, 3), (5, 5), (6, 7), (7, 11), (8, 5), (9, 6), (0xA, 6), (0xB, 5),
   (0xC, 4), (0xD, 8), (0xE, 7), (0xF, 9), (0x10, 4)]

/-- An opcode of the tables (R300). -/
def knownOpcode (op : Nat) : Bool :=
  families.any fun f => op / 256 == f.1 && decide (1 ≤ op % 256) && decide (op % 256 ≤ f.2)

/-- A packet from its bytes (R278): `buffer` says whether the command's row carries a return
reference. -/
def packetOf (mbox : Bool) (fn : BitVec 4) (buffer : Bool) (bs : List Byte) : Packet :=
  let h := BitVec.ofNat 256 (le (slice bs 0 32))
  let cells := fld h 32 7
  let auth := bit h 49
  let start := if buffer then 48 else 32
  let stop := 64 * cells - if auth then 48 else 0
  { mbox := mbox
    fn := fn
    opcode := fbv h 0 16
    tag := fbv h 16 16
    cells := fbv h 32 7
    partition := fbv h 40 4
    fence := bit h 48
    auth := auth
    afterDma := bit h 50
    unordered := bit h 51
    dataRef := bit h 52
    reserved := BitVec.ofNat 16 (pack [(1, fld h 39 1), (4, fld h 44 4), (11, fld h 53 11)])
    seq := fbv h 64 64
    inl := fbv h 128 128
    ret := if buffer then BitVec.ofNat 128 (le (slice bs 32 16)) else 0
    area := slice bs start (stop - start)
    refData := []
    refFail := false
    retFail := false
    authTag := if auth then BitVec.ofNat 384 (le (slice bs stop 48)) else 0 }

/-- The packet in the mailbox's command area (R298). -/
def mailboxPacket (buffer : Bool) (bs : List Byte) : Packet := packetOf true 0 buffer bs

/-! ### The packet -/

/-- `n` bytes of the inline parameters from byte `o` on, as a number. -/
def Packet.inb (p : Packet) (o n : Nat) : Nat := fld p.inl (8 * o) (8 * n)
/-- The target (R279). -/
def Packet.target (p : Packet) : Nat := p.inb 0 2
/-- The index of the target within its class. -/
def Packet.idx (p : Packet) : Nat := p.target % 512
/-- Sub (R279). -/
def Packet.subv (p : Packet) : Nat := p.inb 2 2
/-- The command's data: the data area, or the referenced input (R280). -/
def Packet.data (p : Packet) : List Byte := if p.dataRef then p.refData.take (le (slice p.area 8 4)) else p.area
/-- Offset of data byte 0, in the packet or in the referenced data (R286). -/
def Packet.dataOff (buffer : Bool) (p : Packet) : Nat := if p.dataRef then 0 else if buffer then 48 else 32
/-- `n` bytes of the data from byte `o` on, as a number. -/
def Packet.dat (p : Packet) (o n : Nat) : Nat := le (slice p.data o n)
/-- The data as a block of `w` bits. -/
def Packet.blk (p : Packet) (w : Nat) : BitVec w := BitVec.ofNat w (p.dat 0 (w / 8))
/-- The partition of the queue (R277); the mailbox belongs to function 0. -/
def Packet.part (p : Packet) : Nat := p.fn.toNat

/-- The packet as fetched, without what its references bring later. -/
def Packet.core (p : Packet) : Packet := { p with refData := [], refFail := false, retFail := false }

/-- The bytes of the packet before the tag (R278, R281). -/
def Packet.bytes (buffer : Bool) (p : Packet) : List Byte :=
  bytesOf 8 (pack [(16, p.opcode.toNat), (16, p.tag.toNat), (7, p.cells.toNat), (1, fld p.reserved 0 1),
    (4, p.partition.toNat), (4, fld p.reserved 1 4), (1, b2n p.fence), (1, b2n p.auth),
    (1, b2n p.afterDma), (1, b2n p.unordered), (1, b2n p.dataRef), (11, fld p.reserved 5 11)])
  ++ bytesOf 8 p.seq.toNat ++ bytesOf 16 p.inl.toNat
  ++ (if buffer then bytesOf 16 p.ret.toNat else []) ++ p.area

end Sys2Proof
end

