-- ==== Sys2Proof/Config.lean ====
section
/-! DEFINITION. What an implementation fixes and the values the spec leaves open: constants without a
body, so that no proof can see a value of one. -/
namespace Sys2Proof.Config

/-- The free values (log entry 3): the value with index `n`. A step that needs a value the spec leaves
open reads the one at the state's counter `freeCtr` and advances the counter. -/
opaque free : Nat → Nat

/-- HMAC-SHA-384 of a message under a key (R281): an uninterpreted function (log entry 9). -/
opaque hmac : List Byte → List Byte → BitVec 384
/-- SHA-384 (R408): an uninterpreted function (log entry 9). -/
opaque sha384 : List Byte → BitVec 384
/-- Identity signatures over a message: ECDSA when false, ML-DSA when true (R419; log entry 9). -/
opaque sign : Bool → List Byte → List Byte
/-- Key derivation: secret, label, length in bytes (log entry 9). -/
opaque kdf : List Byte → List Byte → Nat → List Byte
/-- Shared secret and ciphertext of the key agreement: operator share, package share (log entry 9). -/
opaque agree : List Byte → List Byte → List Byte × List Byte
/-- AES-256-GCM encryption: key, nonce, additional data, plaintext; ciphertext and tag (log entry 9). -/
opaque gcm : List Byte → List Byte → List Byte → List Byte → List Byte × List Byte
/-- Both identity public keys (R422; log entry 9). -/
opaque pubKeys : List Byte
/-- A received public key is a valid point or encoding (R413; log entry 9). -/
opaque keyValid : List Byte → Bool
/-- A signature pair of a request or a certificate is valid: keys, message, signatures (log entry 9). -/
opaque pairValid : List Byte → List Byte → List Byte → Bool
/-- A firmware image's signature pair is valid: message, signatures (R425; log entry 9). -/
opaque fwValid : List Byte → List Byte → Bool
/-- Manufacturing root hash in the island's ROM (R412). -/
opaque mfgRoot : BitVec 384
/-- Factory calibration block in MRAM, 512 bytes (R420). -/
opaque factoryCal : List Byte
/-- The factory calibration block is intact (R419). -/
opaque factoryIntact : Bool

/-- Factory halfband, 12 words, and factory compensation FIR for each k, 32 words (R170): the spec gives
their performance and no values. -/
opaque factoryHb : List SWord
opaque factoryCfir : Nat → List SWord
/-- Cosine and sine of the NCO for phi[47:28], as 18-bit words with 17 fractional bits (R167): the spec gives
their spurious products and no values. -/
opaque nco : Nat → SWord × SWord
/-- Error of a bin that a pipe computes, with 64 fractional bits: samples and bin. R180 bounds it. -/
opaque binError : List (Int × Int) → Nat → Int × Int
/-- A bin under a user window whose words sum to 0, which leaves A_b without a value (R182): samples and bin. -/
opaque binOfZeroWindow : List (Int × Int) → Nat → Int × Int
/-- Whether the package rounds a quotient that is not whole up to the next step of its scale: numerator and
denominator. -/
opaque roundsUp : Nat → Nat → Bool
/-- A quotient whose denominator is 0 (the ENBW of a user window of zeros, R181). -/
opaque quotOfZero : Nat → Nat

/-- The check symbols of 72 data bytes (R263): the spec gives the code's length, symbols and distance, and no
generator. -/
opaque rsCheck : List Byte → List (BitVec 16)
/-- A codeword at distance 1 or less from an error pattern of three or more symbols, if there is one (R263). -/
opaque rsNear : List (Nat × BitVec 16) → List (Nat × BitVec 16)
/-- Training patterns of the reserved area, by byte (R249). -/
opaque pattern : Nat → Byte
/-- Factory delays of a lodge channel in MRAM (R262). -/
opaque lodgeDelays : Nat → BitVec 128
/-- Which of several windows of the greatest width a sweep takes (R261): pass map, how many there are. -/
opaque windowTie : BitVec 128 → Nat → Nat

/-- Stolveryn's assigned Vendor ID, of the fuse bank (R303). -/
opaque vendorId : BitVec 16
/-- Silicon revision (R301). -/
opaque revision : BitVec 8
/-- Device serial number of the fuse bank (R302, R421). -/
opaque serial : BitVec 64

/-- The gzip member that a compression engine makes of an input, by effort and dynamic: the spec fixes its form
and what it depends on, not the choice of matches (R352, R353; log entry 1405). -/
opaque deflate : Nat → Bool → List Byte → List Byte

end Sys2Proof.Config
end

