-- ==== Sys2Proof/Machine/State.lean ====
section
/-! DEFINITION. The state of the Ibqua 7128 as plain data: every register, table, queue, counter, mode
and pin that the spec gives it, the queue of commands that wait, and the machine right after reset.
Each field cites the file and rule of spec/ that names it.

Every register holds a value at reset. Where the spec states none (its Reset column reads a dash, or no
rule speaks) the value is the model's own: see log entry 1. -/
namespace Sys2Proof.Machine

/-- A table indexed by a number: keys rise strictly, an absent key reads as the table's default
(`Tab.get` in Machine/Tab.lean). -/
abbrev Tab (α : Type) : Type := List (Nat × α)

/-- The command that accepted work, or a reply, belongs to (R285, R286). -/
inductive Origin where
  /-- no command: work that the package started of its own accord -/
  | none
  /-- a command: from the mailbox or from function `fn`; its opcode, tag and seq -/
  | cmd (mbox : Bool) (fn : BitVec 4) (opcode : BitVec 16) (tag : BitVec 16) (seq : BitVec 64)
  deriving DecidableEq, Repr

/-- Lane states (R50). -/
inductive LaneSt where
  | off | acquire | hunt | block | live | suspect | lost | hold
  deriving DecidableEq, Repr

/-- Port states (R51). -/
inductive PortSt where
  | down | powered | training | live | rebuild | degraded | warm | quarantined
  deriving DecidableEq, Repr

/-- What a return-lane message makes the head do at its effect_seq (R46). -/
inductive EffectKind where
  | dataStart
  | rejoin (mask : BitVec 9)
  | rateSet (half : Bool) (named : List Nat) (sweep : Nat)
  | streamCtrl (valid : Bool) (fmt : BitVec 4)
  | warmHold
  deriving DecidableEq, Repr

/-- Happenings that a block period collects and applies in order at its end (R52). -/
inductive Happening where
  | presenceOff
  | powerFault | powerRemoved | headFault | hotJoin
  | laneLost (lane : Nat)
  | messageFail
  | rejoin (mask : BitVec 9)
  deriving DecidableEq, Repr

/-- Slalom phases (R111). -/
inductive Phase where
  | idle | hunt | runout | lift
  deriving DecidableEq, Repr

/-- Remote firing sources (R99), by code and level or edge as the route delivers them. -/
structure RemoteSrc where
  /-- source number of the cross-trigger source table -/
  code : BitVec 12
  deriving DecidableEq, Repr

/-- Spectral chain states (R171). -/
inductive ChainSt where
  | stopped | settling | running
  deriving DecidableEq, Repr

/-- Density hold states (R204). -/
inductive HoldSt where
  | none | frozen | merging
  deriving DecidableEq, Repr

/-- Engine states (R229). -/
inductive EngSt where
  | empty | stopped | running | handler | halted | restarting
  deriving DecidableEq, Repr

/-- DRAM channel states (R260). -/
inductive ChanSt where
  | off | training | inOrder | service | selfRef | fenced | retired
  deriving DecidableEq, Repr

/-- Queue states (R292). -/
inductive QSt where
  | disabled | active | error | draining
  deriving DecidableEq, Repr

/-- Function power states (R322). -/
inductive PmSt where
  | d0 | d3hot | d3cold
  deriving DecidableEq, Repr

/-- DMA channel states (R329). -/
inductive DmaSt where
  | idle | running | halting | halted | job | hold
  deriving DecidableEq, Repr

/-- Vacheod port states (R364). -/
inductive VpSt where
  | off | train | notReady | tree | standby | refused | down
  deriving DecidableEq, Repr

/-- What a token grant is for (R393). -/
inductive Holder where
  | port (n : Nat) | die (n : Nat) | region (n : Nat) | cluster (n : Nat) | stack (n : Nat)
  deriving DecidableEq, Repr

/-- The work of an accepted command (R286, R300). -/
inductive Job where
  | none
  | portTrain (port : Nat)
  | partWipe (part : Nat)
  | memCfg
  | memTest (chan : Nat)
  | cmp (engine : Nat)
  | epoch
  | power
  | monCal (input : Nat)
  | island
  deriving DecidableEq, Repr

/-- What waits for a wipe of capture memory (R23, R252, R268, R297, R300, R326). -/
inductive WipeKind where
  /-- of the package -/
  | reset
  /-- of the unit, region or die that a location code names -/
  | scope (l : Nat)
  | part (n : Nat)
  | flr (fn : Nat)
  | memCfg
  | memTest (chan : Nat)
  deriving DecidableEq, Repr

/-- Operations of the security island that end later (R413, R419, R423, R425, R426). -/
inductive IslandOp where
  | sessionOpen | seal | fwVerify | selfTest | lifecycle
  deriving DecidableEq, Repr

/-- The common command codes that the sideband uses (R54). -/
inductive Ccc where
  | entdaa | rstdaa | enec | disec | getpid | getbcr | getdcr | getstatus | setmrl | getmrl
  deriving DecidableEq, Repr

/-- What the 7128 puts on an I3C bus (R54, R55, R57). -/
inductive I3c where
  | start | restart | stop
  /-- a target address with its direction bit, true for a read -/
  | addr (a : BitVec 7) (rd : Bool)
  | ccc (c : Ccc)
  /-- the dynamic address assigned -/
  | assign (a : BitVec 7)
  | byte (b : BitVec 8)
  /-- bytes clocked in from the target -/
  | take (n : Nat)
  deriving DecidableEq, Repr

/-- What leaves the package: the model's own observer list, in the order of issue. -/
inductive Out where
  /-- posted write of a reply-ring entry: function, host address, entry (R284, R285, R290) -/
  | ring (fn : Nat) (addr : BitVec 64) (bits : BitVec 256)
  /-- posted write of RQ_TAIL at RQ_WB (R289, R290) -/
  | rqWb (fn : Nat) (addr : BitVec 64) (tail : BitVec 32)
  /-- posted write of return data (R280) -/
  | ret (fn : Nat) (addr : BitVec 64) (bytes : List (BitVec 8))
  /-- completion of a Chute read, with EP (R309, R321) -/
  | chute (fn : Nat) (bytes : List (BitVec 8)) (ep : Bool)
  /-- Assert_INTA or Deassert_INTA (R315) -/
  | inta (fn : Nat) (on : Bool)
  /-- PM_PME (R322) -/
  | pme (fn : Nat)
  /-- WAKE# (R323) -/
  | wake (low : Bool)
  /-- return-lane frame of a port (R44) -/
  | frame (port : Nat) (words : List (BitVec 18))
  /-- sideband answer to an in-band interrupt or a Hot-Join: accepted or NACKed, and the further bytes
  taken after the mandatory data byte (R54 to R57) -/
  | sideband (port : Nat) (ack : Bool) (more : Nat)
  /-- one transfer of the 7128 on a port's I3C bus (R55, R57) -/
  | i3c (port : Nat) (xs : List I3c)
  /-- pulse on TRIG_OUT: output, slot of the leading edge, width in slots, and whether it is high (R243, R244) -/
  | trigOut (n : Nat) (slot : BitVec 64) (width : Nat) (high : Bool)
  /-- level of TRIG_OUT from now on: output, high; none while it is high-impedance (R243, R467) -/
  | trigLevel (n : Nat) (level : Option Bool)
  /-- a cross-trigger record sent to the other members (R372) -/
  | xtrig (v : Nat) (beat : BitVec 64) (bits : BitVec 88)
  /-- a Vacheod side frame (R363) -/
  | side (v : Nat) (bits : BitVec 192)
  /-- DMA write: channel, path (endpoint B when true), address, bytes, EP (R337, R342) -/
  | dmaWrite (n : Nat) (epB : Bool) (addr : BitVec 64) (bytes : List (BitVec 8)) (ep : Bool)
  /-- DMA read request: channel, address, bytes (R334, R340) -/
  | dmaRead (n : Nat) (addr : BitVec 64) (len : Nat)
  /-- completion of a request of device firmware: error response, data read, poison mark (R253, R272) -/
  | control (err : Bool) (bytes : List (BitVec 8)) (mark : Bool)
  /-- refresh of a channel, or of the neighbours of a row (R254, R259) -/
  | refresh (chan : Nat) (row : Option Nat)
  /-- output bits shifted into a port service chain (R60) -/
  | psc (chain : Nat) (bits : List Bool)
  deriving DecidableEq, Repr

/-- Reasons to stop with a fault. The spec gives every command of the table an effect, so no meaning
raises one: nothing raises `unreachable`, and no run ends in it. Safe. -/
inductive Fault where
  | unreachable
  deriving DecidableEq, Repr

/-- Reasons to refuse a command. `notModelled` stands for a command with no meaning yet; it is raised by
an arm of the dispatch only. Safe: the machine stops where the hardware goes on. -/
inductive Refusal where
  | notModelled (mnemonic : String)
  deriving DecidableEq, Repr

/-- A packet with every field zero. -/
def emptyPacket : Packet where
  mbox := false
  fn := 0
  opcode := 0
  tag := 0
  cells := 0
  partition := 0
  fence := false
  auth := false
  afterDma := false
  unordered := false
  dataRef := false
  reserved := 0
  seq := 0
  inl := 0
  ret := 0
  area := []
  refData := []
  refFail := false
  retFail := false
  authTag := 0

/-- Slalom table at reset (R107, R108): store_init 1, lift_beats 96, every branch operand 0x7F. -/
def slalomReset : BitVec 10752 := BitVec.ofNat 10752
  ((List.range 64).foldl (fun a i => a + 0x7F7F7F7F * 2 ^ (8 * (80 + 80 * (i / 4) + 16 * (i % 4))))
    (2 ^ 5 + 96 * 2 ^ 112))
/-- Sequencer table at reset (R129): every branch operand 0x1F. -/
def pcsReset : BitVec 3072 := BitVec.ofNat 3072
  ((List.range 32).foldl (fun a i => a + 0xFFFFF * 2 ^ (8 * (72 + 40 * (i / 4) + 8 * (i % 4)))) 0)
/-- DMA configuration block at reset (R348): cq_log2 6, retries 3, buf_max 256. -/
def dmaCfgReset : BitVec 512 := BitVec.ofNat 512 (6 * 2 ^ 128 + 3 * 2 ^ 133 + 256 * 2 ^ 144)
/-- Vacheod configuration block at reset (R383): every port enabled, routes unused, no carriage line. -/
def vachReset : BitVec 512 := BitVec.ofNat 512
  ((List.range 12).foldl (fun a k => a + 0xFF * 2 ^ (96 + 24 * k)) (0xF + (2 ^ 96 - 1) * 2 ^ 384))
/-- Power configuration block at reset (R397): cap_w 1,550, cluster_idle 100, die_idle 1,000, wake_en
0b01101, p_alarm 1,550. -/
def pwrReset : BitVec 256 := BitVec.ofNat 256
  (1550 + 100 * 2 ^ 32 + 1000 * 2 ^ 48 + 0b01101 * 2 ^ 64 + 1550 * 2 ^ 80)
/-- Controller configuration block at reset (R251). -/
def memCfgReset : BitVec 256 := BitVec.ofNat 256
  (0x0421 + 0x0842 * 2 ^ 16 + 0x1084 * 2 ^ 32 + 0x2108 * 2 ^ 48 + 0x4210 * 2 ^ 64 + 200 * 2 ^ 80 +
   8192 * 2 ^ 96 + 2 * 2 ^ 112 + 2 ^ 120 + 8 * 2 ^ 128)

/-- An epoch load waiting for its edge (R73). -/
structure EpochWait where
  /-- 0: waits for 1PPS, 1: waits for SYNC_IN (03 R73) -/
  onSync : Bool
  /-- slot_count to load (03 R73) -/
  load : BitVec 64
  /-- fraction to load (03 R73) -/
  frac : BitVec 8
  /-- command the EV_DONE belongs to (12 R285) -/
  origin : Origin
  deriving DecidableEq, Repr

/-- EpochWait at reset. -/
def EpochWait.reset : EpochWait where
  onSync := false
  load := 0
  frac := 0
  origin := Origin.none

/-- Time values that held before a slot (03). -/
structure TimeMark where
  /-- first slot at which they no longer hold (03 R70, R75) -/
  before : BitVec 64
  /-- fraction of those slots (03 R70) -/
  fraction : BitVec 8
  /-- tm_st of those slots (03 R75) -/
  tmSt : BitVec 6
  /-- what the epoch loads since then added to their slot count (03 R73) -/
  shift : BitVec 64
  deriving DecidableEq, Repr

/-- TimeMark at reset. -/
def TimeMark.reset : TimeMark where
  before := 0
  fraction := 0
  tmSt := 0
  shift := 0

/-- Slot and beat time, epoch, timemark status (03). -/
structure TimeSt where
  /-- slot count of slot 0 of the current beat (03 R70, R73) -/
  slotCount : BitVec 64
  /-- grid fraction (03 R70) -/
  fraction : BitVec 8
  /-- slot_count counts (hub PLL locked in this boot) (03 R73) -/
  counting : Bool
  /-- tm_st.epoch_gen (03 R74, R75) -/
  epochGen : BitVec 2
  /-- tm_st.src (03 R75) -/
  src : Bool
  /-- tm_st.coasted (03 R75, R76) -/
  coasted : Bool
  /-- tm_st.coast (03 R75, R76) -/
  coast : Bool
  /-- tm_st.epoch_set (03 R75) -/
  epochSet : Bool
  /-- waiting epoch load (03 R73) -/
  wait : Option EpochWait
  /-- earlier fractions and tm_st, oldest first (03 R70, R75) -/
  hist : List TimeMark
  /-- first beat of the latest coasting (03 R76) -/
  coastFrom : BitVec 64
  deriving DecidableEq, Repr

/-- TimeSt at reset. -/
def TimeSt.reset : TimeSt where
  slotCount := 0
  fraction := 0
  counting := false
  epochGen := 0
  src := false
  coasted := false
  coast := false
  epochSet := false
  wait := none
  hist := []
  coastFrom := 0

/-- One lane receiver by physical position (02). -/
structure Lane where
  /-- lane state (02 R50) -/
  st : LaneSt
  /-- lane_id received; 0xF until block lock (02 R63 LANE_MAP) -/
  laneId : BitVec 4
  /-- consecutive bad blocks (02 R41, R50) -/
  badRun : Nat
  /-- an in-place retrain failed; no further one (02 R49) -/
  noRetrain : Bool
  /-- pair polarity corrected (02 R32) -/
  inverted : Bool
  /-- good lane not in use in degraded mode (02 R42, R49) -/
  standby : Bool
  /-- trained position: arrival of its blocks in words after the earliest lane (02 R48, R53) -/
  trained : BitVec 7
  deriving DecidableEq, Repr

/-- Lane at reset. -/
def Lane.reset : Lane where
  st := .off
  laneId := 0xF
  badRun := 0
  noRetrain := false
  inverted := false
  standby := false
  trained := 0

/-- A return-lane message (02). -/
structure Msg where
  /-- msg_seq (02 R45) -/
  seq : BitVec 8
  /-- msg_type (02 R46) -/
  mtype : BitVec 5
  /-- body words before the effect_seq (02 R44) -/
  body : List (BitVec 18)
  /-- what applies at the effect_seq (02 R46) -/
  eff : Option EffectKind
  /-- effect_seq; chosen at the first sending where none is fixed (02 R46) -/
  effAt : Option (BitVec 18)
  /-- times sent (02 R45) -/
  sends : Nat
  deriving DecidableEq, Repr

/-- Msg at reset. -/
def Msg.reset : Msg where
  seq := 0
  mtype := 0
  body := []
  eff := none
  effAt := none
  sends := 0

/-- A message effect waiting for its data-lane SEQ (02). -/
structure Effect where
  /-- effect_seq (02 R46) -/
  atSeq : BitVec 18
  /-- what applies (02 R46) -/
  kind : EffectKind
  deriving DecidableEq, Repr

/-- Effect at reset. -/
def Effect.reset : Effect where
  atSeq := 0
  kind := .warmHold

/-- A cold training or an in-place retrain in progress (02). -/
structure Training where
  /-- phase 1 to 6 (02 R47) -/
  phase : Nat
  /-- lanes LOST in this training (02 R47) -/
  failed : List Nat
  /-- PORT_OPEN or PORT_RETRAIN awaiting EV_DONE (12 R300) -/
  origin : Origin
  deriving DecidableEq, Repr

/-- Training at reset. -/
def Training.reset : Training where
  phase := 1
  failed := []
  origin := Origin.none

/-- One deskewed beat waiting for decision (02, 10). -/
structure Beat where
  /-- slot count of its slot 0 (02 R38) -/
  slot : BitVec 64
  /-- the beat's 64 slots (02 R38, R43) -/
  words : List (BitVec 18)
  /-- slots lost (02 R40) -/
  lost : Bool
  /-- gap cause of the lost slots (03 R78) -/
  cause : BitVec 4
  /-- degraded mode (each word in two slots) (02 R43) -/
  half : Bool
  deriving DecidableEq, Repr

/-- Beat at reset. -/
def Beat.reset : Beat where
  slot := 0
  words := []
  lost := false
  cause := 0
  half := false

/-- An unbroken stretch of lost slots (03). -/
structure GapRun where
  /-- first lost slot (03 R78) -/
  start : BitVec 64
  /-- slots lost so far (03 R78) -/
  lost : Nat
  /-- cause of the first slot (03 R78) -/
  cause : BitVec 4
  /-- more than one cause (03 R78) -/
  mixed : Bool
  deriving DecidableEq, Repr

/-- GapRun at reset. -/
def GapRun.reset : GapRun where
  start := 0
  lost := 0
  cause := 0
  mixed := false

/-- A record of a record stream (03 R77). -/
structure Rec where
  /-- unit 0: timemark (03 R77) -/
  tm : BitVec 72
  /-- unit 1: body (03 R77) -/
  body : BitVec 72
  deriving DecidableEq, Repr

/-- Rec at reset. -/
def Rec.reset : Rec where
  tm := 0
  body := 0

/-- Running state of one gate (04). -/
structure GateSt where
  /-- visible sample before S (view) (04 R84, R90) -/
  prev : Option Nat
  /-- qual of the preceding sample (04 R95) -/
  prevQual : Bool
  /-- level followed (04 R93, R94) -/
  level : Option Bool
  /-- first slot of the pulse, interval or transition (04 R93, R94, R97) -/
  start : Option (BitVec 64)
  /-- the interval has reached T (04 R94) -/
  timedOut : Bool
  /-- serial shift register (04 R95) -/
  sh : BitVec 64
  /-- bits shifted (04 R95) -/
  shN : Nat
  /-- zone of the last value: 0 low, 1 mid, 2 high (04 R96, R97) -/
  zone : Option (BitVec 2)
  /-- zone left by the passage in progress (04 R96, R97) -/
  origZone : Option (BitVec 2)
  /-- range state (04 R98) -/
  inside : Option Bool
  /-- down-converter output in effect (I, Q) (04 R85) -/
  dcVal : Option (BitVec 36)
  /-- hit counter (04 R105) -/
  hits : BitVec 48
  /-- hit counter stopped (04 R105) -/
  sat : Bool
  deriving DecidableEq, Repr

/-- GateSt at reset. -/
def GateSt.reset : GateSt where
  prev := none
  prevQual := false
  level := none
  start := none
  timedOut := false
  sh := 0
  shN := 0
  zone := none
  origZone := none
  inside := none
  dcVal := none
  hits := 0
  sat := false

/-- A remote firing travelling to a port (04, 10). -/
structure RemoteHit where
  /-- source (04 R99) -/
  gateSrc : RemoteSrc
  /-- slot at which the hit stands (10 R238) -/
  slot : BitVec 64
  deriving DecidableEq, Repr

/-- RemoteHit at reset. -/
def RemoteHit.reset : RemoteHit where
  gateSrc := ⟨0⟩
  slot := 0

/-- A tune waiting for slot 0 of the next beat (04, 05). -/
structure Tune where
  /-- gate, or none for the slalom (04 R103) -/
  gate : Option Nat
  /-- p0..p3,val,msk or thresholds and limits (04 R103, 05 R126) -/
  image : Nat
  /-- slot at which it takes effect (04 R103, 05 R126) -/
  effect : BitVec 64
  deriving DecidableEq, Repr

/-- Tune at reset. -/
def Tune.reset : Tune where
  gate := none
  image := 0
  effect := 0

/-- The slalom variables that the lockstep halves compare (05 R114). -/
structure SlalomCore where
  /-- phase (05 R111) -/
  phase : Phase
  /-- state (05 R114) -/
  st : BitVec 4
  /-- counters (05 R114) -/
  ctr : List Nat
  /-- ctr_sat (05 R116, R125) -/
  ctrSat : List Bool
  /-- timers (05 R114) -/
  tmr : List Nat
  /-- timer k running (05 R114) -/
  run : List Bool
  /-- store qualification (05 R114) -/
  store : Bool
  /-- First operand (05 R114) -/
  first : Bool
  /-- a lost slot preceded (05 R114) -/
  gapSeen : Bool
  /-- trigger slot t (05 R111) -/
  trig : BitVec 64
  /-- ro_gate hits counted in the run-out (05 R122) -/
  roHits : Nat
  /-- slot at which the event count was reached (05 R122) -/
  roDone : Option (BitVec 64)
  /-- slot 0 of the re-arm beat (05 R123) -/
  liftEnd : BitVec 64
  deriving DecidableEq, Repr

/-- SlalomCore at reset. -/
def SlalomCore.reset : SlalomCore where
  phase := .idle
  st := 0
  ctr := [0,0,0,0]
  ctrSat := [false,false,false,false]
  tmr := [0,0]
  run := [false,false]
  store := false
  first := false
  gapSeen := false
  trig := 0
  roHits := 0
  roDone := none
  liftEnd := 0

/-- Gates and slalom of a port front end (04, 05). -/
structure PortTrig where
  /-- gate descriptors (04 R86) -/
  gates : Tab (BitVec 512)
  /-- gate running state (04 R101..R105) -/
  gst : Tab GateSt
  /-- slalom table (05 R107) -/
  table : BitVec 10752
  /-- slalom variables (05 R114) -/
  sl : SlalomCore
  /-- triggers since arm (05 R125) -/
  runs : BitVec 32
  /-- latest trigger timemark (05 R125) -/
  lastTrig : BitVec 72
  /-- armed, from the reply of RUN_ARM (05 R112, 12 R295) -/
  armed : Bool
  /-- arm beat still to come (05 R112) -/
  armBeat : Option (BitVec 64)
  /-- scheduled disarm beat (05 R113) -/
  disarmAt : Option (BitVec 64)
  /-- stop condition of the current run (05 R124, 12 R288) -/
  stopCause : Option Nat
  /-- slot 0 of the first HUNT beat since arm or re-arm (06 R132) -/
  firstHunt : BitVec 64
  /-- analogue delay X (10 R236) -/
  xDelay : Nat
  /-- remote hits on their way (04 R99) -/
  remote : List RemoteHit
  /-- tunes waiting for slot 0 of the next beat (04 R103, 05 R126) -/
  tunes : List Tune
  /-- lost stretch in progress (03 R78) -/
  gap : Option GapRun
  /-- beat of the latest checkpoint (18 R444) -/
  ckptBeat : Option (BitVec 64)
  /-- slalom part of the checkpoint (18 R444) -/
  ckptSt : SlalomCore
  /-- gate part of the checkpoint (18 R444) -/
  ckptGates : Tab GateSt
  /-- agreed slalom state after the latest released beat (18 R444) -/
  agreed : SlalomCore
  /-- mismatch beat being replayed (18 R445) -/
  replaying : Option (BitVec 64)
  /-- slots of the mismatches of the last 1 ms (18 R446) -/
  mismatches : List (BitVec 64)
  /-- home front end fenced; first beat not released (18 R446, R447) -/
  fenced : Option (BitVec 64)
  /-- front end held in reset (18 R449) -/
  heldOut : Bool
  /-- replay ring (18 R444) -/
  ring : List Beat
  /-- the disarm in progress is that of a port that went DOWN (06 R136) -/
  downed : Bool
  deriving DecidableEq, Repr

/-- PortTrig at reset. -/
def PortTrig.reset : PortTrig where
  gates := []
  gst := []
  table := slalomReset
  sl := SlalomCore.reset
  runs := 0
  lastTrig := 0
  armed := false
  armBeat := none
  disarmAt := none
  stopCause := none
  firstHunt := 0
  xDelay := 0
  remote := []
  tunes := []
  gap := none
  ckptBeat := none
  ckptSt := SlalomCore.reset
  ckptGates := []
  agreed := SlalomCore.reset
  replaying := none
  mismatches := []
  fenced := none
  heldOut := false
  ring := []
  downed := false

/-- Where one stored beat lies in the segment (06 R139, R140). -/
structure BeatExt where
  /-- slot 0 of the beat (06 R139) -/
  beat : BitVec 64
  /-- ring step of its first sample unit (06 R139) -/
  sOff : Nat
  /-- ring step after its sample units (06 R139) -/
  sEnd : Nat
  /-- ring step of its first record unit (06 R140) -/
  rOff : Nat
  /-- ring step after its record units (06 R140) -/
  rEnd : Nat
  /-- its records: slot, gap marker, ring step (06 R140) -/
  recs : List (BitVec 64 × Bool × Nat)
  /-- stored raw in edge mode (06 R150) -/
  raw : Bool
  /-- slots of a degraded port (06 R142) -/
  half : Bool
  /-- slots served by the spare (18 R448) -/
  spare : Bool
  /-- store qualification at its first slot (06 R141) -/
  storeOn : Bool
  deriving DecidableEq, Repr

/-- BeatExt at reset. -/
def BeatExt.reset : BeatExt where
  beat := 0
  sOff := 0
  sEnd := 0
  rOff := 0
  rEnd := 0
  recs := []
  raw := false
  half := false
  spare := false
  storeOn := false

/-- One store in a port's store FIFO (06 R153). -/
structure Store where
  /-- package byte address (06 R137) -/
  addr : Nat
  /-- bytes (03 R65) -/
  data : List (BitVec 8)
  /-- words it occupies (06 R153) -/
  words : Nat
  /-- 0 none, 1 samples, 2 records, 3 spectrum, 4 statistics (11 R271) -/
  ring : Nat
  /-- first byte of its ring (06 R139, 11 R271) -/
  base : Nat
  /-- units of its ring (06 R139, 11 R271) -/
  size : Nat
  /-- ring step of its first unit (06 R139, 11 R271) -/
  step : Nat
  /-- run it belongs to (06 R146) -/
  run : BitVec 36
  /-- 0 data, 1 valid = 0 at arm or re-arm, 2 segment header, 3 entry with valid = 1 (06 R146) -/
  kind : Nat
  /-- slot of the beat it stores (06 R136) -/
  slot : BitVec 64
  deriving DecidableEq, Repr

/-- Store at reset. -/
def Store.reset : Store where
  addr := 0
  data := []
  words := 0
  ring := 0
  base := 0
  size := 0
  step := 0
  run := 0
  kind := 0
  slot := 0

/-- A closed run whose entry is still to be written (06 R146). -/
structure Closing where
  /-- run_seq (06 R145) -/
  seq : BitVec 36
  /-- directory entry (06 R144) -/
  entry : BitVec 216
  /-- the port went to IDLE (06 R147) -/
  last : Bool
  /-- its segment has data in a retired channel, or an uncorrectable error (06 R159) -/
  poisoned : Bool
  /-- ring step of its first sample unit (06 R138) -/
  sHead : Nat
  /-- its sample units (06 R138) -/
  sUnits : Nat
  /-- ring step of its first record unit (06 R138) -/
  rHead : Nat
  /-- its record units (06 R138) -/
  rUnits : Nat
  /-- address of its directory entry (06 R143) -/
  addr : Nat
  /-- no RUN_SET came after it (06 R145) -/
  live : Bool
  deriving DecidableEq, Repr

/-- Closing at reset. -/
def Closing.reset : Closing where
  seq := 0
  entry := 0
  last := false
  poisoned := false
  sHead := 0
  sUnits := 0
  rHead := 0
  rUnits := 0
  addr := 0
  live := true

/-- Run storage of a port (06). -/
structure PortRun where
  /-- run configuration block (06 R133) -/
  cfg : BitVec 512
  /-- mask table (06 R156) -/
  mask : Tab (BitVec 36)
  /-- next_seq (06 R160) -/
  nextSeq : BitVec 36
  /-- rel_seq (06 R160) -/
  relSeq : BitVec 36
  /-- run_seq of the run being stored (06 R145) -/
  curSeq : BitVec 36
  /-- dropped_beats (06 R160) -/
  dropped : BitVec 48
  /-- fallback_beats (06 R160) -/
  fallback : BitVec 48
  /-- mask_viol (06 R160) -/
  maskViol : BitVec 48
  /-- next ring step of the sample area (06 R139) -/
  sWr : Nat
  /-- next ring step of the record area (06 R140) -/
  rWr : Nat
  /-- beats in the segment, oldest first (06 R139) -/
  exts : List BeatExt
  /-- newest beat that lost data to the rings (06 R135) -/
  overAt : Option (BitVec 64)
  /-- samp_full of the current run (06 R139) -/
  sampFull : Bool
  /-- rec_full of the current run (06 R140) -/
  recFull : Bool
  /-- edge mode: raw form in effect (06 R150) -/
  rawForm : Bool
  /-- latest written sample (06 R148) -/
  lastVal : Option Nat
  /-- reference of delta (06 R148) -/
  refSlot : Option (BitVec 64)
  /-- next stored sample follows a gap or a qualification change (06 R148) -/
  afterGap : Bool
  /-- beats are being dropped (06 R154) -/
  dropping : Bool
  /-- the run of drops began while stores were held (11 R271) -/
  dropHeld : Bool
  /-- store FIFO, oldest first (06 R153) -/
  fifo : List Store
  /-- stores held for a retirement (11 R271) -/
  storesHeld : Bool
  /-- closed runs awaiting their entry (06 R146) -/
  closing : List Closing
  /-- samples kept for the mask test (06 R157) -/
  maskHist : List (BitVec 64 × Nat × BitVec 18)
  /-- newest beat of the current run with data in a retired channel (06 R159) -/
  hurt : Option (BitVec 64)
  /-- mask_fail of the current run (06 R158) -/
  maskFail : Bool
  /-- tm_st at the trigger slot (06 R144) -/
  trigTmSt : BitVec 6
  /-- mask positions evaluated in the run (06 R157) -/
  maskDone : Nat
  /-- beat of the first refused store (11 R275) -/
  refused : Option (BitVec 64)
  /-- its shares count in the admission budget (06 R152) -/
  admitted : Bool
  /-- rate admitted at arm in Mbit/s (06 R152, 07 R186) -/
  declArm : Nat
  /-- records of the current beat waiting to be stored (03 R77) -/
  recs : List Rec
  /-- samples of the stream since the first HUNT beat (06 R157) -/
  maskIdx : Nat
  /-- number of the sample that covers t (06 R157) -/
  maskTrig : Nat
  /-- latest stored sample, while it stands unwritten (06 R148) -/
  unwritten : Option (BitVec 64)
  deriving DecidableEq, Repr

/-- PortRun at reset. -/
def PortRun.reset : PortRun where
  cfg := 0
  mask := []
  nextSeq := 0
  relSeq := 0
  curSeq := 0
  dropped := 0
  fallback := 0
  maskViol := 0
  sWr := 0
  rWr := 0
  exts := []
  overAt := none
  sampFull := false
  recFull := false
  rawForm := false
  lastVal := none
  refSlot := none
  afterGap := false
  dropping := false
  dropHeld := false
  fifo := []
  storesHeld := false
  closing := []
  maskHist := []
  hurt := none
  maskFail := false
  trigTmSt := 0
  maskDone := 0
  refused := none
  admitted := false
  declArm := 0
  recs := []
  maskIdx := 0
  maskTrig := 0
  unwritten := none

/-- A frequency-domain trigger unit (07 R187..R191). -/
structure TrigUnit where
  /-- descriptor (07 R187) -/
  desc : BitVec 256
  /-- consecutive qualifying frames (07 R188) -/
  qualRun : Nat
  /-- band-power state; none before the first evaluated frame (07 R188) -/
  above : Option Bool
  /-- density hits of the last K frames (07 R188) -/
  window : List Nat
  /-- p0..p2 waiting for the next frame (07 R191) -/
  tune : Option (BitVec 96)
  deriving DecidableEq, Repr

/-- TrigUnit at reset. -/
def TrigUnit.reset : TrigUnit where
  desc := 0
  qualRun := 0
  above := none
  window := []
  tune := none

/-- One frame sequence (07 R180, R192). -/
structure SeqSt where
  /-- frames0 or frames1 (07 R192) -/
  frames : BitVec 36
  /-- next frame index (07 R172) -/
  nextIdx : BitVec 36
  /-- dropped since the previous header (07 R185) -/
  itemsDropped : BitVec 12
  deriving DecidableEq, Repr

/-- SeqSt at reset. -/
def SeqSt.reset : SeqSt where
  frames := 0
  nextIdx := 0
  itemsDropped := 0

/-- A chain event scheduled for a beat (07 R172). -/
structure ChainEv where
  /-- slot 0 of its beat (07 R172) -/
  beat : BitVec 64
  /-- cause code (07 R178) -/
  cause : BitVec 4
  deriving DecidableEq, Repr

/-- ChainEv at reset. -/
def ChainEv.reset : ChainEv where
  beat := 0
  cause := 0

/-- Filter state of the down-converter (07 R168, R169). -/
structure DcState where
  /-- lines of the FIR stages in order, newest sample first (07 R168) -/
  lines : List (List (Int × Int))
  /-- integrators of the CIC (07 R168) -/
  integ : List (Int × Int)
  /-- combs of the CIC: their input before (07 R168) -/
  comb : List (Int × Int)
  /-- sum of the boxcar (07 R168) -/
  box : Int × Int
  deriving DecidableEq, Repr

/-- DcState at reset. -/
def DcState.reset : DcState where
  lines := []
  integ := []
  comb := []
  box := (0, 0)

/-- An FFT pipe with its real-to-complex stage (07 R179, R180). -/
structure PipeSt where
  /-- line of the real-to-complex halfband, newest sample first (07 R179) -/
  line : List (Int × Int)
  /-- input samples that frames still need: index, value with 17 fractional bits, settling tag (07 R180) -/
  hist : List (Nat × (Int × Int) × Bool)
  deriving DecidableEq, Repr

/-- PipeSt at reset. -/
def PipeSt.reset : PipeSt where
  line := []
  hist := []

/-- The gap of one derived stream in progress (07 R174, R175). -/
structure StreamGap where
  /-- the port's stretch, or the stretch of a stop (07 R175) -/
  run : GapRun
  /-- derived samples whose causal slot lies in it (07 R175) -/
  missed : Nat
  /-- a stop is part of it: it lasts to the first sample (07 R174) -/
  stopped : Bool
  deriving DecidableEq, Repr

/-- StreamGap at reset. -/
def StreamGap.reset : StreamGap where
  run := GapRun.reset
  missed := 0
  stopped := false

/-- An item that waits for its place in the spectrum ring (07 R185). -/
structure RingWait where
  /-- sequence (07 R185) -/
  seq : Nat
  /-- frame slot, or first lost slot (07 R185) -/
  slot : BitVec 64
  /-- slot that must not lie before the arm slot (07 R186) -/
  openAt : BitVec 64
  /-- a gap marker (07 R185) -/
  gap : Option GapRun
  /-- frame_idx (07 R185) -/
  idx : BitVec 36
  /-- settling (07 R185) -/
  tagged : Bool
  /-- exp (07 R182) -/
  exp : Nat
  /-- words of the bins (07 R185) -/
  words : List (BitVec 18)
  deriving DecidableEq, Repr

/-- RingWait at reset. -/
def RingWait.reset : RingWait where
  seq := 0
  slot := 0
  openAt := 0
  gap := none
  idx := 0
  tagged := false
  exp := 0
  words := []

/-- A retune waiting for its beat (07 R176). -/
structure ChainTune where
  /-- slot 0 of its beat (07 R176) -/
  beat : BitVec 64
  /-- new ftw (07 R176) -/
  ftw : Option (BitVec 48)
  /-- new phase_ofs (07 R176) -/
  ofs : Option (BitVec 48)
  deriving DecidableEq, Repr

/-- ChainTune at reset. -/
def ChainTune.reset : ChainTune where
  beat := 0
  ftw := none
  ofs := none

/-- Spectral chain of a port (07). -/
structure Chain where
  /-- state (07 R171) -/
  st : ChainSt
  /-- configuration block (07 R164) -/
  cfg : BitVec 512
  /-- user compensation FIR (07 R170) -/
  userCfir : Tab (BitVec 18)
  /-- user halfband; none = factory (07 R170) -/
  halfband : Option (List (BitVec 18))
  /-- user windows of pipes 0 and 1 (07 R181) -/
  window : Tab (Tab (BitVec 18))
  /-- trigger units (07 R187) -/
  units : Tab TrigUnit
  /-- mask table (07 R162) -/
  mask : Tab (BitVec 36)
  /-- loads waiting for the first frame that begins after their slot: slot, first entry, entries (07 R191) -/
  maskNew : List (BitVec 64 × Nat × List (BitVec 36))
  /-- last_cause (07 R192) -/
  lastCause : BitVec 4
  /-- frame sequences (07 R180) -/
  seqs : Tab SeqSt
  /-- sat_count (07 R192) -/
  satCount : BitVec 48
  /-- spec_dropped (07 R192) -/
  specDropped : BitVec 48
  /-- spec_wr (07 R192) -/
  specWr : BitVec 32
  /-- cg_0 (07 R192) -/
  cg0 : BitVec 16
  /-- enbw_0 (07 R192) -/
  enbw0 : BitVec 16
  /-- cg_1 (07 R192) -/
  cg1 : BitVec 16
  /-- enbw_1 (07 R192) -/
  enbw1 : BitVec 16
  /-- NCO phase (07 R167) -/
  phi : BitVec 48
  /-- latest reset slot (07 R172) -/
  resetSlot : BitVec 64
  /-- slot of the input sample at which the phase is phi (07 R167) -/
  phiSlot : BitVec 64
  /-- no derived stream is tagged from this slot on (07 R171) -/
  settleTo : Option (BitVec 64)
  /-- slot of the latest retune (07 R176) -/
  retuneSlot : Option (BitVec 64)
  /-- first slot of the port's lost stretch in progress (07 R175) -/
  lostAt : Option (BitVec 64)
  /-- starts and resets scheduled (07 R172) -/
  sched : List ChainEv
  /-- arm slot from which the ring is written (07 R186) -/
  arm0 : BitVec 64
  /-- input sample, counted from the reset slot, of the latest reset, resync or retune (07 R173) -/
  evPos : Nat
  /-- end of the last beat that the chain has read (07 R180) -/
  passed : BitVec 64
  /-- filter state of the down-converter (07 R168) -/
  dc : DcState
  /-- down-converter output in effect: I, Q, settling tag (04 R85) -/
  dcOut : Option (BitVec 18 × BitVec 18 × Bool)
  /-- real-to-complex stages and pipe inputs by sequence (07 R179, R180) -/
  pipes : Tab PipeSt
  /-- gaps of the derived streams: 0 the down-converter's, 1 and 2 those of pipes 0 and 1 (07 R174, R175) -/
  gaps : List (Nat × StreamGap)
  /-- items that wait for an earlier frame, in the order of their slots (07 R185) -/
  wait : List RingWait
  /-- retunes waiting for their beat (07 R176) -/
  tunes : List ChainTune
  deriving DecidableEq, Repr

/-- Chain at reset. -/
def Chain.reset : Chain where
  st := .stopped
  cfg := 0
  userCfir := []
  halfband := none
  window := []
  units := []
  mask := []
  maskNew := []
  lastCause := 0
  seqs := []
  satCount := 0
  specDropped := 0
  specWr := 0
  cg0 := 0
  enbw0 := 0
  cg1 := 0
  enbw1 := 0
  phi := 0
  resetSlot := 0
  phiSlot := 0
  settleTo := none
  retuneSlot := none
  lostAt := none
  sched := []
  arm0 := 0
  evPos := 0
  passed := 0
  dc := DcState.reset
  dcOut := none
  pipes := []
  gaps := []
  wait := []
  tunes := []

/-- Density field and statistics of a port (08). -/
structure Dens where
  /-- configuration block (08 R194) -/
  cfg : BitVec 512
  /-- live bank (08 R193) -/
  live : Tab Nat
  /-- delta bank (08 R193) -/
  delta : Tab Nat
  /-- frozen bank (08 R198) -/
  frozen : Tab Nat
  /-- saturation map (08 R196) -/
  satMap : Tab Bool
  /-- hold state (08 R204) -/
  hold : HoldSt
  /-- DENS_SNAP waiting for the frame boundary (08 R198) -/
  snapReq : Option Packet
  /-- image unit 0 (08 R200) -/
  snapTm : BitVec 72
  /-- image unit 1 frame index (08 R200) -/
  snapIdx : BitVec 36
  /-- image unit 1 tm_st (08 R200) -/
  snapTmSt : BitVec 6
  /-- timemark of the latest frame counted into the field (08 R200) -/
  lastTm : BitVec 72
  /-- its frame index (08 R200) -/
  lastIdx : BitVec 36
  /-- sat_cells (08 R204) -/
  satCells : Nat
  /-- cells whose first saturation was counted (08 R196) -/
  satSet : Tab Bool
  /-- frames_counted (08 R204) -/
  framesCounted : BitVec 48
  /-- evaluated frames since the last decay step (08 R197) -/
  decayCount : Nat
  /-- a decay step falls at this frame boundary (08 R197) -/
  decayDue : Bool
  /-- decay_pending (08 R204) -/
  decayPending : Nat
  /-- stat_items (08 R204) -/
  statItems : BitVec 48
  /-- stat_dropped (08 R204) -/
  statDropped : BitVec 48
  /-- empty_intervals (08 R204) -/
  emptyIntervals : BitVec 48
  /-- interval in progress (08 R201) -/
  interval : Nat
  /-- evaluated frames in the interval (08 R202) -/
  ivFrames : Nat
  /-- frame indices not evaluated (08 R202) -/
  ivSkipped : Nat
  /-- frame slot of the last evaluated frame (08 R202) -/
  ivLast : BitVec 64
  /-- maximum hold (08 R201) -/
  maxHold : Tab Nat
  /-- minimum hold (stored as 262143 - v) (08 R201) -/
  minHold : Tab Nat
  /-- next unit of the statistics ring (08 R203) -/
  statWr : BitVec 32
  /-- tm_st at the last frame counted (08 R199) -/
  lastTmSt : BitVec 6
  /-- mean power by column with 128 fractional bits: the sum over the interval, or the exponential average (08 R201) -/
  rmsAcc : Tab Nat
  /-- the exponential average has a first frame (08 R201) -/
  rmsOn : Bool
  /-- sums of the channel powers over the interval, with 128 fractional bits (08 R201) -/
  bandAcc : Tab Nat
  /-- a release with clearing waits for the frame boundary (08 R198) -/
  releasing : Bool
  deriving DecidableEq, Repr

/-- Dens at reset. -/
def Dens.reset : Dens where
  cfg := 0
  live := []
  delta := []
  frozen := []
  satMap := []
  hold := .none
  snapReq := none
  snapTm := 0
  snapIdx := 0
  snapTmSt := 0
  lastTm := 0
  lastIdx := 0
  satCells := 0
  satSet := []
  framesCounted := 0
  decayCount := 0
  decayDue := false
  decayPending := 0
  statItems := 0
  statDropped := 0
  emptyIntervals := 0
  interval := 0
  ivFrames := 0
  ivSkipped := 0
  ivLast := 0
  maxHold := []
  minHold := []
  statWr := 0
  lastTmSt := 0
  rmsAcc := []
  rmsOn := false
  bandAcc := []
  releasing := false

/-- One probe port (02). -/
structure Port where
  /-- SLOT_CTRL (02 R63) -/
  slotCtrl : BitVec 32
  /-- SLOT_STATUS bits held (W1C and levels) (02 R63) -/
  slotStatus : BitVec 32
  /-- port state (02 R51, R63) -/
  state : PortSt
  /-- degraded mode in effect (02 R63) -/
  halfRate : Bool
  /-- first LOST lane (02 R63) -/
  lostA : BitVec 4
  /-- second LOST lane (02 R63) -/
  lostB : BitVec 4
  /-- fail_code (02 R63) -/
  failCode : BitVec 4
  /-- served by the spare (02 R63) -/
  onSpare : Bool
  /-- format in effect (02 R63) -/
  fmt : BitVec 4
  /-- valid enable in effect (02 R46) -/
  validEn : Bool
  /-- lane receivers (02 R50) -/
  lanes : Tab Lane
  /-- named data lanes of degraded mode (02 R42) -/
  named : List Nat
  /-- named sweep lane (02 R42) -/
  namedSweep : Nat
  /-- PORT_DELAY.skew (02 R63) -/
  skew : BitVec 7
  /-- PORT_DELAY.loop_delay (02 R48, R63) -/
  loopDelay : BitVec 12
  /-- BAD_BLOCKS (02 R63) -/
  badBlocks : BitVec 32
  /-- GAP_BLOCKS (02 R63) -/
  gapBlocks : BitVec 32
  /-- PORT_IBI.ibi_count (02 R63) -/
  ibiCount : BitVec 8
  /-- PORT_IBI.last_mdb (02 R63) -/
  lastMdb : BitVec 8
  /-- head descriptor last read (02 R57) -/
  desc : BitVec 256
  /-- dynamic address 0x30 assigned (02 R54) -/
  dynAddr : Bool
  /-- a descriptor read is in progress (02 R51, R57) -/
  descRead : Bool
  /-- expected SEQ (02 R40) -/
  seqExp : BitVec 18
  /-- slot of the next block period's first beat (02 R38) -/
  nextBeat : BitVec 64
  /-- deskewed beats not yet decided (02 R38, 10 R235) -/
  deskew : List Beat
  /-- RSEQ of the next frame (02 R44) -/
  rseq : BitVec 18
  /-- next msg_seq (02 R45) -/
  txSeq : BitVec 8
  /-- messages not yet sent (02 R45) -/
  txQueue : List Msg
  /-- messages sent, not acknowledged (02 R45) -/
  unacked : List Msg
  /-- resending from the oldest (02 R45) -/
  resend : Bool
  /-- frames since the last TIMEBASE (02 R46) -/
  frames : Nat
  /-- effects waiting for their SEQ (02 R46) -/
  effects : List Effect
  /-- cold training in progress (02 R47) -/
  training : Option Training
  /-- lane retrained in place and its phase (02 R49) -/
  inPlace : Option (Nat × Nat)
  /-- happenings of the current block period (02 R52) -/
  pending : List Happening
  /-- reported presence (02 R59) -/
  prsnt : Bool
  /-- edge latched by the lodge (02 R59, 13 R318) -/
  prsntLatch : Bool
  /-- attention edge latched (13 R318) -/
  attnLatch : Bool
  /-- power-fault input of the previous scan (02 R61) -/
  pfaultPrev : Bool
  /-- consecutive scans that read the button as 1 (02 R62) -/
  attnCount : Nat
  /-- blocks with MK0.cal since leaving DOWN (17 R420) -/
  calBlocks : BitVec 32
  /-- blocks with MK0.cal in the session (17 R420) -/
  calSess : BitVec 32
  /-- the tokens of the live level are granted while the port is WARM (16 R393, R395) -/
  liveGrant : Bool
  /-- a cold training of its own accord follows the message failure (02 R51) -/
  selfTrain : Bool
  /-- blocks arrive at half rate, from the effect of RATE_SET on (02 R43) -/
  rxHalf : Bool
  /-- boot ledger port record: quarantined (18 R438) -/
  ledQuar : Bool
  /-- boot ledger port record: fail_code (18 R438) -/
  ledFail : BitVec 4
  /-- boot ledger port record: q_boot (18 R438) -/
  ledBoot : BitVec 32
  /-- boot ledger port record: train_fails (18 R438) -/
  ledFails : BitVec 32
  /-- gates and slalom (04, 05) -/
  trig : PortTrig
  /-- run storage (06) -/
  run : PortRun
  /-- spectral chain (07) -/
  chain : Chain
  /-- density field and statistics (08) -/
  dens : Dens
  /-- EQ_REQ iterations of the equalisation in progress (02 R47) -/
  eqIter : Nat
  /-- frame times until the next EQ_REQ iteration (02 R47) -/
  eqWait : Nat
  deriving DecidableEq, Repr

/-- Port at reset. -/
def Port.reset : Port where
  slotCtrl := 0x2800
  slotStatus := 0
  state := .down
  halfRate := false
  lostA := 0xF
  lostB := 0xF
  failCode := 0
  onSpare := false
  fmt := 0
  validEn := false
  lanes := []
  named := []
  namedSweep := 8
  skew := 0
  loopDelay := 0
  badBlocks := 0
  gapBlocks := 0
  ibiCount := 0
  lastMdb := 0
  desc := 0
  dynAddr := false
  descRead := false
  seqExp := 0
  nextBeat := 0
  deskew := []
  rseq := 0
  txSeq := 1
  txQueue := []
  unacked := []
  resend := false
  frames := 0
  effects := []
  training := none
  inPlace := none
  pending := []
  prsnt := false
  prsntLatch := false
  attnLatch := false
  pfaultPrev := false
  attnCount := 0
  calBlocks := 0
  calSess := 0
  liveGrant := false
  selfTrain := false
  rxHalf := false
  ledQuar := false
  ledFail := 0
  ledBoot := 0
  ledFails := 0
  trig := PortTrig.reset
  run := PortRun.reset
  chain := Chain.reset
  dens := Dens.reset
  eqIter := 0
  eqWait := 0

/-- A stream element in an engine FIFO (09 R218, R219). -/
structure Elem where
  /-- words not yet read (09 R218) -/
  words : List (BitVec 18)
  /-- its first word has not been read (09 R219) -/
  whole : Bool
  /-- cursor slot (09 R218) -/
  cursor : BitVec 64
  /-- across a loss (09 R219) -/
  loss : Bool
  deriving DecidableEq, Repr

/-- Elem at reset. -/
def Elem.reset : Elem where
  words := []
  whole := true
  cursor := 0
  loss := false

/-- One stream input of an engine (09). -/
structure Stream where
  /-- FIFO (09 R218) -/
  fifo : List Elem
  /-- cursor slot of the last element read (09 R210 CSLOT) -/
  cursor : BitVec 64
  /-- lost words (09 R230) -/
  lost : BitVec 24
  /-- next element is across a loss (09 R219) -/
  pendLoss : Bool
  /-- the density image has been read to its last word (09 R220) -/
  imageDone : Bool
  /-- units of the density image delivered (09 R220) -/
  imagePos : Nat
  /-- elements that its source has delivered and that have not arrived (09 R218) -/
  due : List Elem
  /-- the next element of its source is across a loss (09 R219) -/
  gapped : Bool
  deriving DecidableEq, Repr

/-- Stream at reset. -/
def Stream.reset : Stream where
  fifo := []
  cursor := 0
  lost := 0
  pendLoss := false
  imageDone := true
  imagePos := 0
  due := []
  gapped := false

/-- One logical engine (09). -/
structure Engine where
  /-- state (09 R229) -/
  st : EngSt
  /-- instruction memory (09 R205) -/
  imem : Tab (BitVec 72)
  /-- data image as loaded (09 R228) -/
  image : Tab (BitVec 18)
  /-- local data memory (09 R205) -/
  dmem : Tab (BitVec 18)
  /-- configuration block (09 R228) -/
  cfg : BitVec 512
  /-- general registers (09 R210) -/
  g : List (BitVec 18)
  /-- accumulators (09 R210) -/
  a : List (BitVec 48)
  /-- address registers (09 R210) -/
  p : List (BitVec 20)
  /-- MODE in effect (09 R210) -/
  mode : BitVec 18
  /-- MODE written, not yet in effect (09 R216) -/
  modePend : Option (BitVec 18)
  /-- shadow bundles still to run (09 R216) -/
  shadow : Nat
  /-- FLAGS (09 R210) -/
  flags : BitVec 18
  /-- LC0, LC1 (09 R210) -/
  lc : List (BitVec 18)
  /-- LS0, LS1 (09 R210) -/
  ls : List (BitVec 13)
  /-- LE0, LE1 (09 R210) -/
  le : List (BitVec 13)
  /-- EPC (09 R210) -/
  epc : BitVec 18
  /-- ECAUSE (09 R210) -/
  ecause : BitVec 18
  /-- ESTAT (09 R210) -/
  estat : BitVec 18
  /-- ETGT (09 R210) -/
  etgt : BitVec 18
  /-- EMODE (09 R210) -/
  emode : BitVec 18
  /-- EPEND (09 R210) -/
  epend : BitVec 18
  /-- EADDR (09 R210) -/
  eaddr : BitVec 18
  /-- in_handler (09 R226) -/
  inHandler : Bool
  /-- next bundle, or the halting bundle (09 R230) -/
  pc : BitVec 13
  /-- branch pending over its delay bundle: destination, taken (09 R215) -/
  branch : Option (BitVec 13 × Bool)
  /-- bundle that waits to issue (09 R214) -/
  stall : Option (BitVec 72)
  /-- slot at which it began to wait (09 R230) -/
  stallFrom : BitVec 64
  /-- stream inputs (09 R218) -/
  streams : Tab Stream
  /-- OUTWR (09 R221) -/
  outWr : BitVec 48
  /-- OUTRD (09 R221) -/
  outRd : BitVec 48
  /-- status ecause (09 R230) -/
  statCause : BitVec 5
  /-- bundles (09 R230) -/
  bundles : BitVec 48
  /-- stalls (09 R230) -/
  stalls : BitVec 48
  /-- physical engine in use; none = the home one (09 R230) -/
  phys : Option (BitVec 9)
  /-- restarts (09 R230) -/
  restarts : BitVec 7
  /-- start beat still to come (09 R229) -/
  startAt : Option (BitVec 64)
  /-- the scheduled start is a resume (09 R229) -/
  startResume : Bool
  /-- effective slot of ENG_START (09 R218) -/
  effSlot : BitVec 64
  /-- end of the flagged interval (09 R233) -/
  warmEnd : Option (BitVec 64)
  /-- the restart in progress was caused by DIAG_INJECT (18 R456) -/
  injected : Bool
  /-- STOPPED after ENG_STOP (09 R229) -/
  resumable : Bool
  /-- no free physical engine was found for the restart (09 R233) -/
  noPhys : Bool
  /-- slot of the beat in which the latest bundle issued (09 R205) -/
  lastIssue : Option (BitVec 64)
  /-- slot until which a DIV, a REM or an entry to an exception holds every bundle (09 R214) -/
  busyTo : BitVec 64
  /-- slots at which results of loads (g registers 0 to 15) and of multiplications (accumulators, 16 to 19) become usable (09 R214) -/
  ready : Tab (BitVec 64)
  deriving DecidableEq, Repr

/-- Engine at reset. -/
def Engine.reset : Engine where
  st := .empty
  imem := []
  image := []
  dmem := []
  cfg := 0
  g := List.replicate 16 0
  a := List.replicate 4 0
  p := List.replicate 8 0
  mode := 1
  modePend := none
  shadow := 0
  flags := 0
  lc := [0,0]
  ls := [0,0]
  le := [0,0]
  epc := 0
  ecause := 0
  estat := 0
  etgt := 0
  emode := 0
  epend := 0
  eaddr := 0
  inHandler := false
  pc := 0
  branch := none
  stall := none
  stallFrom := 0
  streams := []
  outWr := 0
  outRd := 0
  statCause := 0
  bundles := 0
  stalls := 0
  phys := none
  restarts := 0
  startAt := none
  startResume := false
  effSlot := 0
  warmEnd := none
  injected := false
  resumable := false
  noPhys := false
  lastIssue := none
  busyTo := 0
  ready := []

/-- One write of shared memory in the beat in progress (09). -/
structure SharedWrite where
  /-- engine (09 R208) -/
  eng : Nat
  /-- its physical index (09 R208) -/
  phys : Nat
  /-- shared word (09 R208) -/
  word : Nat
  /-- value written, or added by AXA (09 R208) -/
  val : BitVec 18
  /-- an AXA (09 R208) -/
  add : Bool
  /-- destination register of the AXA (09 R208) -/
  reg : Nat
  /-- bundles the engine had completed before it (09 R208) -/
  seq : BitVec 48
  /-- the word before any write of the beat (09 R208) -/
  old : BitVec 18
  deriving DecidableEq, Repr

/-- SharedWrite at reset. -/
def SharedWrite.reset : SharedWrite where
  eng := 0
  phys := 0
  word := 0
  val := 0
  add := false
  reg := 0
  seq := 0
  old := 0

/-- One cluster (01, 09). -/
structure Cluster where
  /-- power switch (01 R20) -/
  powered : Bool
  /-- power-up in progress (01 R20) -/
  powering : Bool
  /-- shared data memory (09 R207) -/
  shared : Tab (BitVec 18)
  /-- synchronisation counters (09 R209) -/
  sync : Tab (BitVec 18)
  /-- physical engines out of service (09 R232) -/
  failed : Tab Bool
  /-- switched off for idleness (16 R396) -/
  idleOff : Bool
  /-- shared-memory writes of the beat, by ascending physical index (09 R208) -/
  writes : List SharedWrite
  /-- that beat (09 R208) -/
  writeBeat : BitVec 64
  /-- beat in which the tune port last took a tune (09 R224) -/
  tuneBeat : Option (BitVec 64)
  /-- physical index of the engine whose tune it took (09 R224) -/
  tuneLast : Nat
  deriving DecidableEq, Repr

/-- Cluster at reset. -/
def Cluster.reset : Cluster where
  powered := false
  powering := false
  shared := []
  sync := []
  failed := []
  idleOff := false
  writes := []
  writeBeat := 0
  tuneBeat := none
  tuneLast := 511

/-- Window cache of a requester (11 R274, 17 R431). -/
structure WinCache where
  /-- cached entries; all-zero = not cached (11 R274) -/
  entries : Tab (BitVec 128)
  deriving DecidableEq, Repr

/-- WinCache at reset. -/
def WinCache.reset : WinCache where
  entries := []

/-- One region (01). -/
structure Region where
  /-- power (01 R20) -/
  powered : Bool
  /-- power-up in progress (01 R20) -/
  powering : Bool
  /-- port served by the spare front end (02 R53, 18 R448) -/
  spareOf : Option Nat
  /-- router window cache (11 R274) -/
  cache : WinCache
  /-- refusals by the router cache (11 R274) -/
  winLocal : BitVec 24
  /-- 1 ms of IN_ORDER after a retirement (11 R271) -/
  recover : Bool
  /-- slot of the latest resume in the region (11 R271) -/
  recoverFrom : BitVec 64
  deriving DecidableEq, Repr

/-- Region at reset. -/
def Region.reset : Region where
  powered := false
  powering := false
  spareOf := none
  cache := WinCache.reset
  winLocal := 0
  recover := false
  recoverFrom := 0

/-- One capture die (01, 16, 18). -/
structure Die where
  /-- die_state: 0 off, 1 fabric-only, 2 regions on (16 R401) -/
  pwr : BitVec 2
  /-- power-up in progress (01 R20) -/
  powering : Bool
  /-- die policy (16 R398) -/
  policy : BitVec 2
  /-- t_warn (16 R400) -/
  tWarn : Bool
  /-- t_crit (16 R400) -/
  tCrit : Bool
  /-- consecutive readings at or above 110 C (16 R400) -/
  hotCount : Nat
  /-- t_die in 1/16 C (16 R401) -/
  temp : BitVec 16
  /-- die-to-die link up (18 R450) -/
  linkUp : Bool
  /-- in service after boot step 9 (18 R436) -/
  bootOk : Bool
  deriving DecidableEq, Repr

/-- Die at reset. -/
def Die.reset : Die where
  pwr := 0
  powering := false
  policy := 0
  tWarn := false
  tCrit := false
  hotCount := 0
  temp := 0
  linkUp := true
  bootOk := true

/-- A request at a DRAM controller (11 R253). -/
structure MemReq where
  /-- requester class (11 R253) -/
  cls : ReqClass
  /-- port or DMA channel (11 R259) -/
  who : Nat
  /-- partition (11 R273) -/
  part : BitVec 4
  /-- write (11 R253) -/
  write : Bool
  /-- package byte address (11 R250) -/
  addr : Nat
  /-- bytes to write (11 R253) -/
  data : List (BitVec 8)
  /-- bytes to read (11 R253) -/
  len : Nat
  /-- data carry the poison mark (11 R268) -/
  poison : Bool
  /-- run of an ingest store (06 R146) -/
  run : BitVec 36
  /-- kind of an ingest store (06 R146) -/
  kind : Nat
  /-- beat of an ingest store (06 R136) -/
  slot : BitVec 64
  /-- ring of an ingest store (14 R335) -/
  ring : Nat
  /-- ring step of its first unit (14 R335) -/
  step : Nat
  /-- offset of a DMA request in its descriptor's data (14 R339) -/
  off : Nat
  /-- beats since arrival (11 R254) -/
  age : Nat
  /-- the channel whose local byte addr is, for an access that no package address names (11 R249) -/
  inChan : Option Nat
  deriving DecidableEq, Repr

/-- MemReq at reset. -/
def MemReq.reset : MemReq where
  cls := .ingest
  who := 0
  part := 0
  write := false
  addr := 0
  data := []
  len := 0
  poison := false
  run := 0
  kind := 0
  slot := 0
  ring := 0
  step := 0
  off := 0
  age := 0
  inChan := none

/-- One DRAM channel (11). -/
structure Chan where
  /-- state (11 R260) -/
  st : ChanSt
  /-- scrub_overdue (11 R269) -/
  scrubOverdue : Bool
  /-- requesters throttled, each with the rank and bank and the slot of its last activation there (11 R259) -/
  throttled : List (Nat × Nat × BitVec 64)
  /-- delays_fixed (11 R261) -/
  delaysFixed : Bool
  /-- poison list (channel-local bursts) (11 R268) -/
  plist : List Nat
  /-- ce_count (11 R276) -/
  ce : BitVec 48
  /-- ue_count (11 R276) -/
  ue : BitVec 48
  /-- late_ingest (11 R276) -/
  lateIngest : BitVec 48
  /-- late_other (11 R276) -/
  lateOther : BitVec 48
  /-- hammer_events (11 R276) -/
  hammer : BitVec 48
  /-- win_refused (11 R276) -/
  winRefused : BitVec 24
  /-- scrub_pos (11 R276) -/
  scrubPos : BitVec 26
  /-- last_ue_addr (11 R276) -/
  lastUe : BitVec 39
  /-- pass_hours (11 R276) -/
  passHours : BitVec 32
  /-- slot at which the groomer's pass began (11 R266, R269) -/
  passStart : Option (BitVec 64)
  /-- requests queued, oldest first (11 R253) -/
  queue : List MemReq
  /-- requests waiting while TRAINING or FENCED (11 R260) -/
  held : List MemReq
  /-- activations per row index in the refresh window (11 R259) -/
  acts : Tab Nat
  /-- activations that reached act_thr: requester, row index, slot (11 R259) -/
  hammerDue : List (Nat × Nat × BitVec 64)
  /-- row index open in each rank and bank (11 R256) -/
  openRow : Tab (Option Nat)
  /-- refresh intervals postponed (11 R254) -/
  postponed : Nat
  /-- rank in power-down (11 R256) -/
  rankDown : List Bool
  /-- delay block in effect (11 R262) -/
  delays : BitVec 128
  /-- last good delays (MRAM) (11 R261) -/
  lastGood : Option (BitVec 128)
  /-- reserved area holds the training patterns (11 R249) -/
  reserved : Bool
  /-- a wipe is in progress (11 R269) -/
  wiping : Bool
  /-- MEM_TEST in progress (12 R300) -/
  testing : Option Origin
  /-- slots of the uncorrectable bursts of the last second (11 R270) -/
  ueTimes : List (BitVec 64)
  /-- lane re-swept in place, 5 for every lane (11 R261, R439) -/
  reSweep : Option Nat
  /-- cause of the fence (11 R270) -/
  retireCause : Option Nat
  /-- bursts whose stored word is no codeword: symbols with the bits that differ (11 R263, R268) -/
  errs : Tab (List (Nat × BitVec 16))
  /-- corrected errors of the last 1 ms: slot, byte lane (11 R261) -/
  laneCe : List (BitVec 64 × Nat)
  /-- channel-local bytes that no package address reaches: a lodge channel's data, the reserved area (11 R249) -/
  priv : List Host.Cell
  deriving DecidableEq, Repr

/-- Chan at reset. -/
def Chan.reset : Chan where
  st := .off
  scrubOverdue := false
  throttled := []
  delaysFixed := false
  plist := []
  ce := 0
  ue := 0
  lateIngest := 0
  lateOther := 0
  hammer := 0
  winRefused := 0
  scrubPos := 0
  lastUe := 0
  passHours := 0
  passStart := none
  queue := []
  held := []
  acts := []
  hammerDue := []
  openRow := []
  postponed := 0
  rankDown := [false,false]
  delays := 0
  lastGood := none
  reserved := false
  wiping := false
  testing := none
  ueTimes := []
  reSweep := none
  retireCause := none
  errs := []
  laneCe := []
  priv := []

/-- Package combination sequencer (05 R128). -/
structure Pcs where
  /-- table (05 R129) -/
  table : BitVec 3072
  /-- state (05 R130) -/
  st : BitVec 3
  /-- counters (05 R128) -/
  ctr : List Nat
  /-- inputs waiting for their aligned step: input, slot (05 R130) -/
  inputs : List (Nat × BitVec 64)
  /-- originating beat of its next step (05 R130) -/
  beat : BitVec 64
  deriving DecidableEq, Repr

/-- Pcs at reset. -/
def Pcs.reset : Pcs where
  table := pcsReset
  st := 0
  ctr := [0,0]
  inputs := []
  beat := 0

/-- TRIG_OUT output (10 R243). -/
structure TrigOut where
  /-- route block (10 R243) -/
  route : BitVec 32
  /-- fires (10 R243) -/
  fires : BitVec 32
  /-- overruns (10 R243) -/
  overruns : BitVec 32
  /-- first slot at which a new edge is allowed (10 R244) -/
  busyTo : Option (BitVec 64)
  /-- leading edge of the latest pulse (10 R244) -/
  lead : BitVec 64
  deriving DecidableEq, Repr

/-- TrigOut at reset. -/
def TrigOut.reset : TrigOut where
  route := 0x40000
  fires := 0
  overruns := 0
  busyTo := none
  lead := 0

/-- One reply-ring entry (12 R284, R285). -/
structure Entry where
  /-- reply or event record (12 R284) -/
  bits : BitVec 256
  deriving DecidableEq, Repr

/-- Entry at reset. -/
def Entry.reset : Entry where
  bits := 0

/-- A packet fetched, not begun (12 R290). -/
structure Queued where
  /-- the packet as copied, without referenced data (12 R290) -/
  pkt : Packet
  /-- status and detail of a packet that fails steps 1 to 4 (12 R287) -/
  bad : Option (BitVec 16 × BitVec 32)
  /-- DMA channels with a descriptor in progress at the fetch (12 R294) -/
  mark : List (Nat × Nat)
  deriving DecidableEq, Repr

/-- Queued at reset. -/
def Queued.reset : Queued where
  pkt := emptyPacket
  bad := none
  mark := []

/-- An accepted command whose EV_DONE is owed (12 R286). -/
structure Accepted where
  /-- queue, tag and seq (12 R285) -/
  origin : Origin
  /-- the work it waits for (12 R300) -/
  job : Job
  /-- a PART_WIPE was accepted while the work was in progress (12 R297) -/
  wiped : Bool
  /-- result of the reply ST_ACCEPTED (12 R299) -/
  res : BitVec 128
  deriving DecidableEq, Repr

/-- Accepted at reset. -/
def Accepted.reset : Accepted where
  origin := Origin.none
  job := .none
  wiped := false
  res := 0

/-- One PCI Express function and its queue pair (12, 13). -/
structure Fn where
  /-- SQ_BASE (12 R289) -/
  sqBase : BitVec 64
  /-- SQ_LOG2 (12 R289) -/
  sqLog2 : BitVec 5
  /-- SQ_TAIL (12 R289) -/
  sqTail : BitVec 32
  /-- SQ_HEAD (12 R289) -/
  sqHead : BitVec 32
  /-- RQ_BASE (12 R289) -/
  rqBase : BitVec 64
  /-- RQ_LOG2 (12 R289) -/
  rqLog2 : BitVec 5
  /-- RQ_TAIL (12 R289) -/
  rqTail : BitVec 32
  /-- RQ_HEAD (12 R289) -/
  rqHead : BitVec 32
  /-- RQ_WB (12 R289) -/
  rqWb : BitVec 64
  /-- Q_STATUS.state (12 R292) -/
  qState : QSt
  /-- Q_STATUS error code (12 R292) -/
  qErr : BitVec 4
  /-- Q_CTRL.en (12 R289) -/
  en : Bool
  /-- Q_SEQ (12 R289, R293) -/
  qSeq : BitVec 64
  /-- EVT_LOST (12 R289) -/
  evtLost : BitVec 32
  /-- event count (12 R285) -/
  evtCount : BitVec 64
  /-- records lost since the previous EV_LOST (12 R288) -/
  lostRun : BitVec 32
  /-- reply entries reserved (12 R291) -/
  reserved : Nat
  /-- packets fetched, not begun (12 R290) -/
  fetched : List Queued
  /-- commands begun that have not replied (12 R294) -/
  begun : List Packet
  /-- event records waiting for an entry (12 R291) -/
  backlog : List Entry
  /-- EV_DONE waiting for the queue to be ACTIVE (12 R292) -/
  doneWait : List Entry
  /-- low halves of split 64-bit writes (13 R306) -/
  heldLow : List (Nat × BitVec 32)
  /-- bits of INT_MASK that differ from their reset value 1 (written 0), by group (13 R317) -/
  intMask : BitVec 64
  /-- INT_HOLDOFF_g.holdoff (13 R317) -/
  holdoff : Tab (BitVec 16)
  /-- hold-off timers running (13 R316) -/
  holdRun : BitVec 64
  /-- virtual INTA asserted (13 R315) -/
  inta : Bool
  /-- groups pending at the last evaluation (13 R316) -/
  wasPending : BitVec 64
  /-- CHUTE_PTR (13 R310) -/
  chutePtr : BitVec 64
  /-- CHUTE_STATUS [3:0] (13 R310) -/
  chuteStatus : BitVec 4
  /-- prefetched address and bytes (13 R313) -/
  prefetch : Option (Nat × List (BitVec 8))
  /-- power state (13 R322) -/
  pm : PmSt
  /-- Interrupt Disable (13 R315) -/
  intDisable : Bool
  /-- PME_En (13 R322) -/
  pmeEn : Bool
  /-- PM_PME sent (13 R322) -/
  pmeSent : Bool
  /-- an FLR is in progress (13 R326) -/
  flr : Bool
  /-- the FLR's wipe has ended (13 R326) -/
  flrWiped : Bool
  /-- Memory Space Enable (13 R304) -/
  memEn : Bool
  /-- BAR0 and BAR1: base of the register block (13 R303) -/
  bar0 : BitVec 64
  /-- BAR2 and BAR3: base of the Chute (13 R303) -/
  bar2 : BitVec 64
  /-- AER: Poisoned TLP Received logged, as an advisory non-fatal error (13 R321) -/
  aerPoison : Bool
  deriving DecidableEq, Repr

/-- Fn at reset. -/
def Fn.reset : Fn where
  sqBase := 0
  sqLog2 := 6
  sqTail := 0
  sqHead := 0
  rqBase := 0
  rqLog2 := 6
  rqTail := 0
  rqHead := 0
  rqWb := 0
  qState := .disabled
  qErr := 0
  en := false
  qSeq := 0
  evtLost := 0
  evtCount := 0
  lostRun := 0
  reserved := 0
  fetched := []
  begun := []
  backlog := []
  doneWait := []
  heldLow := []
  intMask := 0
  holdoff := []
  holdRun := 0
  inta := false
  wasPending := 0
  chutePtr := 0
  chuteStatus := 0
  prefetch := none
  pm := .d0
  intDisable := false
  pmeEn := false
  pmeSent := false
  flr := false
  flrWiped := false
  memEn := true
  bar0 := 0
  bar2 := 0
  aerPoison := false

/-- One PCI Express endpoint (13). -/
structure Endpoint where
  /-- link up and configuration served (13 R304, R327) -/
  up : Bool
  /-- PERST# asserted (13 R324) -/
  perst : Bool
  /-- PME_En recorded at PERST# (endpoint A) (13 R323) -/
  pmeRec : Bool
  /-- WAKE# driven low (endpoint A) (13 R323) -/
  wakeLow : Bool
  deriving DecidableEq, Repr

/-- Endpoint at reset. -/
def Endpoint.reset : Endpoint where
  up := false
  perst := true
  pmeRec := false
  wakeLow := false

/-- Bring-up mailbox (12 R298). -/
structure Mbox where
  /-- command area (12 R298) -/
  cmd : Tab (BitVec 8)
  /-- reply area (12 R298) -/
  reply : BitVec 256
  /-- return area (12 R298) -/
  ret : List (BitVec 8)
  /-- MBOX_CTRL.ready (12 R298) -/
  ready : Bool
  /-- MBOX_CTRL.done (12 R298) -/
  done : Bool
  /-- MBOX_CTRL.busy (12 R298) -/
  busy : Bool
  /-- the command in progress has begun (12 R299) -/
  begun : Bool
  /-- MBOX_SEQ (12 R299) -/
  seq : BitVec 64
  deriving DecidableEq, Repr

/-- Mbox at reset. -/
def Mbox.reset : Mbox where
  cmd := []
  reply := 0
  ret := []
  ready := false
  done := false
  busy := false
  begun := false
  seq := 0

/-- An open session (17 R413, R414, R417). -/
structure Session where
  /-- session_id (17 R413) -/
  sid : BitVec 128
  /-- K_cmd (17 R414) -/
  kcmd : BitVec 384
  /-- K_off (17 R414) -/
  koff : BitVec 256
  /-- off_salt (17 R414) -/
  salt : BitVec 32
  /-- enc_offload (17 R413) -/
  enc : Bool
  /-- nonce counter (17 R416) -/
  ctr : BitVec 64
  /-- T (17 R413) -/
  transcript : BitVec 384
  /-- operator key hash (17 R412) -/
  opHash : BitVec 384
  /-- open_tm (17 R419) -/
  openTm : BitVec 72
  /-- run chains (17 R417) -/
  runChain : Tab (BitVec 384)
  /-- links of the run chains (17 R418) -/
  runLinks : Tab Nat
  /-- offload chains (17 R417) -/
  offChain : Tab (BitVec 384)
  /-- links of the offload chains (17 R418) -/
  offLinks : Tab Nat
  /-- ports that belonged to the partition in the session (17 R418) -/
  ports : List Nat
  /-- DMA channels that belonged to the partition in the session (17 R418) -/
  chans : List Nat
  /-- gapped_runs (17 R419) -/
  gapped : BitVec 64
  /-- cal_flags[1] (17 R419) -/
  calChanged : Bool
  deriving DecidableEq, Repr

/-- Session at reset. -/
def Session.reset : Session where
  sid := 0
  kcmd := 0
  koff := 0
  salt := 0
  enc := false
  ctr := 0
  transcript := 0
  opHash := 0
  openTm := 0
  runChain := []
  runLinks := []
  offChain := []
  offLinks := []
  ports := []
  chans := []
  gapped := 0
  calChanged := false

/-- One partition (12, 17). -/
structure Part where
  /-- event mask (12 R300) -/
  evMask : BitVec 32
  /-- EV_TRIG interval in us (12 R300) -/
  evInterval : BitVec 32
  /-- slot at which PART_EVENTS took effect (12 R288) -/
  evT0 : BitVec 64
  /-- interval index in progress (12 R288) -/
  evIdx : Nat
  /-- triggers by interval: their number, the first timemark and its rank (12 R288) -/
  trigIvs : Tab (Nat × BitVec 72 × Nat)
  /-- dirty (17 R430) -/
  dirty : Bool
  /-- PART_WIPE in progress (12 R297) -/
  wiping : Bool
  /-- User session (17 R413) -/
  session : Option Session
  deriving DecidableEq, Repr

/-- Part at reset. -/
def Part.reset : Part where
  evMask := 0
  evInterval := 0
  evT0 := 0
  evIdx := 0
  trigIvs := []
  dirty := false
  wiping := false
  session := none

/-- A DMA descriptor in progress (14 R331). -/
structure Desc where
  /-- host address (14 R331) -/
  addr : BitVec 64
  /-- descriptor (14 R331) -/
  bits : BitVec 512
  /-- number of its fetch (12 R294) -/
  seq : Nat
  /-- index table read (14 R333) -/
  index : List Nat
  /-- bytes to deliver: len, or fewer where a follow descriptor ends early (14 R331, R336) -/
  total : Nat
  /-- bytes whose read is issued (14 R337) -/
  issued : Nat
  /-- bytes read (14 R337) -/
  read : Nat
  /-- read data returned by DRAM controllers: offset, bytes with their poison marks (14 R339) -/
  resp : List (Nat × List (BitVec 8 × Bool))
  /-- bytes read and not yet sent, with their poison marks (14 R337, R345) -/
  held : List (BitVec 8 × Bool)
  /-- every data byte of the descriptor so far (17 R416, R417) -/
  plain : List (BitVec 8)
  /-- bytes sent to the destination (14 R340) -/
  sent : Nat
  /-- writes that failed and are to be repeated (14 R343) -/
  back : List (Nat × List (BitVec 8 × Bool))
  /-- bytes that DRAM controllers have reported written, not yet counted (14 R340) -/
  acked : Nat
  /-- bytes written with response (14 R340) -/
  written : Nat
  /-- the CRC bytes and the trailer have been added (14 R341, 17 R416) -/
  tailed : Bool
  /-- poison (14 R342) -/
  poison : Bool
  /-- skip (14 R342) -/
  skip : Bool
  /-- most retries of one access (14 R342) -/
  retries : Nat
  /-- fpos of the first unit delivered (14 R342) -/
  firstPos : BitVec 64
  /-- encryption counter value (17 R416) -/
  ctr : Option (BitVec 64)
  deriving DecidableEq, Repr

/-- Desc at reset. -/
def Desc.reset : Desc where
  addr := 0
  bits := 0
  seq := 0
  index := []
  total := 0
  issued := 0
  read := 0
  resp := []
  held := []
  plain := []
  sent := 0
  back := []
  acked := 0
  written := 0
  tailed := false
  poison := false
  skip := false
  retries := 0
  firstPos := 0
  ctr := none

/-- One DMA channel (14). -/
structure Dma where
  /-- state (14 R329) -/
  st : DmaSt
  /-- state before HOLD (14 R329) -/
  prior : DmaSt
  /-- configuration block (14 R348) -/
  cfg : BitVec 512
  /-- halt_reason (14 R349) -/
  haltReason : BitVec 8
  /-- cause of the HALTING in progress (14 R346) -/
  haltPend : Option (BitVec 8)
  /-- desc_addr (14 R349) -/
  descAddr : BitVec 64
  /-- chain head (14 R344) -/
  head : BitVec 64
  /-- descriptor to fetch next (14 R331) -/
  nextDesc : Option (BitVec 64)
  /-- addresses fetched most recently (14 R344) -/
  recent : List (BitVec 64)
  /-- descriptors fetched since DMA_START (14 R344) -/
  fetched : Nat
  /-- descriptors fetched since reset (12 R294) -/
  fetchSeq : Nat
  /-- descriptor in progress (14 R331) -/
  cur : Option Desc
  /-- descs (14 R349) -/
  descs : BitVec 48
  /-- bytes (14 R349) -/
  bytes : BitVec 64
  /-- running CRC-32C (14 R341) -/
  crc : BitVec 32
  /-- bus_errors (14 R349) -/
  busErrors : BitVec 48
  /-- win_local (14 R349) -/
  winLocal : BitVec 24
  /-- fpos (14 R349) -/
  fpos : BitVec 64
  /-- port, space, ways, slot of fpos (14 R335) -/
  fKey : Option (Nat × Nat × Nat × Nat)
  /-- rec_count (14 R349) -/
  recCount : BitVec 32
  /-- write count last reported by the region router (14 R335) -/
  followW : Nat
  /-- last copy of the consumed count (14 R342) -/
  consumed : BitVec 32
  /-- record waiting for room in the completion queue (14 R342) -/
  recWait : Option (BitVec 256)
  /-- attempts failed in place (14 R343) -/
  tries : Nat
  /-- die that the channel waits for to be fabric-only (01 R21) -/
  dieWait : Option Nat
  /-- DMA_HALT commands awaiting HALTED (14 R350) -/
  haltWait : List Packet
  /-- window cache (11 R274) -/
  cache : WinCache
  /-- compression engine of the JOB (14 R354) -/
  job : Option Nat
  /-- a unit reset of the channel ends with its halt (01 R25) -/
  resetting : Bool
  deriving DecidableEq, Repr

/-- Dma at reset. -/
def Dma.reset : Dma where
  st := .idle
  prior := .idle
  cfg := dmaCfgReset
  haltReason := 0
  haltPend := none
  descAddr := 0
  head := 0
  nextDesc := none
  recent := []
  fetched := 0
  fetchSeq := 0
  cur := none
  descs := 0
  bytes := 0
  crc := 0xFFFFFFFF
  busErrors := 0
  winLocal := 0
  fpos := 0
  fKey := none
  recCount := 0
  followW := 0
  consumed := 0
  recWait := none
  tries := 0
  dieWait := none
  haltWait := []
  cache := WinCache.reset
  job := none
  resetting := false

/-- One compression engine (14 R351). -/
structure Cmp where
  /-- 0 FREE 1 RUNNING 2 HELD 3 ENDED (14 R358) -/
  st : BitVec 2
  /-- outcome (14 R358) -/
  outcome : BitVec 4
  /-- DMA channel (14 R358) -/
  channel : BitVec 5
  /-- job block (14 R354) -/
  block : BitVec 512
  /-- input bytes taken (14 R351) -/
  input : List (BitVec 8)
  /-- output produced, not yet written (14 R352) -/
  output : List (BitVec 8)
  /-- in_consumed (14 R358) -/
  inConsumed : BitVec 64
  /-- out_total (14 R358) -/
  outTotal : BitVec 64
  /-- out_area (14 R358) -/
  outArea : BitVec 64
  /-- crc32 (14 R358) -/
  crc32 : BitVec 32
  /-- members (14 R358) -/
  members : BitVec 32
  /-- current output area (14 R355) -/
  areaAddr : BitVec 64
  /-- its length (14 R355) -/
  areaLen : Nat
  /-- partition of the job (01 R17) -/
  part : Nat
  deriving DecidableEq, Repr

/-- Cmp at reset. -/
def Cmp.reset : Cmp where
  st := 0
  outcome := 0
  channel := 0
  block := 0
  input := []
  output := []
  inConsumed := 0
  outTotal := 0
  outArea := 0
  crc32 := 0
  members := 0
  areaAddr := 0
  areaLen := 0
  part := 0

/-- One beat record in the elastic buffer (15). -/
structure XtRec where
  /-- slot 0 of its entry beat (15 R373) -/
  entry : BitVec 64
  /-- the record (15 R361) -/
  bits : BitVec 88
  /-- it arrived after its beat (15 R373) -/
  late : Bool
  deriving DecidableEq, Repr

/-- XtRec at reset. -/
def XtRec.reset : XtRec where
  entry := 0
  bits := 0
  late := false

/-- One Vacheod port (15). -/
structure Vp where
  /-- state (15 R364) -/
  st : VpSt
  /-- lane LOST (15 R384) -/
  laneLost : Option Nat
  /-- peer ID (15 R384) -/
  peer : BitVec 12
  /-- C_l (15 R373) -/
  cl : BitVec 8
  /-- one-way delay in 4 ps (15 R384) -/
  delay : BitVec 16
  /-- xt_err (15 R384) -/
  xtErr : BitVec 8
  /-- xt_late (15 R384) -/
  xtLate : BitVec 16
  /-- peer sends ready (15 R364) -/
  peerReady : Bool
  /-- peer's depth (15 R363) -/
  peerDepth : BitVec 4
  /-- leader known to the peer (15 R363) -/
  peerLeader : BitVec 12
  /-- its priority (15 R363) -/
  peerPrio : BitVec 4
  /-- peer or its subtree armed (15 R363) -/
  peerArmed : Bool
  /-- peer's phase_mode (15 R363) -/
  peerMode : BitVec 2
  /-- peer's sys_epoch (15 R363) -/
  peerEpoch : BitVec 16
  /-- map learnt (stored as 255 - line) (15 R363) -/
  lineMap : Tab (BitVec 8)
  /-- side frames queued (15 R375) -/
  queue : List (BitVec 192)
  /-- consecutive side frames failed (15 R364) -/
  sfail : Nat
  /-- pieces of the side frame being received (15 R363) -/
  pieces : List (BitVec 12)
  /-- side frame number modulo 32 (15 R363) -/
  sideIdx : Nat
  /-- idx of the next time-transfer frame (15 R363) -/
  ttIdx : BitVec 4
  /-- idx of the latest peer time-transfer frame (15 R363) -/
  ttPeer : BitVec 4
  /-- its arrival timemark (15 R363) -/
  ttArr : BitVec 72
  /-- t_tx of own frames by idx (15 R367) -/
  ttSent : Tab (BitVec 72)
  /-- latest 16 offsets in 1/256 slot (15 R368) -/
  theta : List Int
  /-- elastic buffer: records held to their entry beat (15 R373) -/
  elastic : List XtRec
  /-- map_idx of the next link control frame (15 R363) -/
  mapIdx : BitVec 4
  /-- wake latch (13 R318) -/
  wake : Bool
  deriving DecidableEq, Repr

/-- Vp at reset. -/
def Vp.reset : Vp where
  st := .off
  laneLost := none
  peer := 0
  cl := 0
  delay := 0
  xtErr := 0
  xtLate := 0
  peerReady := false
  peerDepth := 0
  peerLeader := 0
  peerPrio := 0
  peerArmed := false
  peerMode := 0
  peerEpoch := 0
  lineMap := []
  queue := []
  sfail := 0
  pieces := []
  sideIdx := 0
  ttIdx := 0
  ttPeer := 0
  ttArr := 0
  ttSent := []
  theta := []
  elastic := []
  mapIdx := 0
  wake := false

/-- Vacheod system state (15). -/
structure Vach where
  /-- configuration block (kept in MRAM) (15 R383) -/
  cfg : BitVec 512
  /-- VP0..VP3 (15 R360) -/
  ports : Tab Vp
  /-- role (15 R384) -/
  role : BitVec 3
  /-- epoch_ok (15 R384) -/
  epochOk : Bool
  /-- sync_phase_err (15 R384) -/
  syncPhaseErr : Bool
  /-- pps_ok (15 R384) -/
  ppsOk : Bool
  /-- pps_far (15 R384) -/
  ppsFar : Bool
  /-- pad_alarm (15 R384) -/
  padAlarm : Bool
  /-- leader_id (15 R384) -/
  leaderId : BitVec 12
  /-- priority of the leader (15 R365) -/
  leaderPrio : BitVec 4
  /-- depth (15 R384) -/
  depth : BitVec 4
  /-- upstream (15 R384) -/
  upstream : BitVec 4
  /-- sys_epoch (15 R384) -/
  sysEpoch : BitVec 16
  /-- members (15 R384) -/
  members : BitVec 13
  /-- pps_tm (15 R384) -/
  ppsTm : BitVec 72
  /-- slot of the latest accepted 1PPS edge (15 R382) -/
  ppsSlot : Option (BitVec 64)
  /-- offset (15 R384) -/
  offset : BitVec 24
  /-- steps (15 R384) -/
  steps : BitVec 32
  /-- msg_gap (15 R384) -/
  msgGap : BitVec 32
  /-- msg_drop (15 R384) -/
  msgDrop : BitVec 32
  /-- sequence per destination (15 R375) -/
  txSeq : Tab (BitVec 16)
  /-- broadcast sequence (15 R375) -/
  txBcast : BitVec 16
  /-- last accepted per source (15 R375) -/
  rxSeq : Tab (BitVec 16)
  /-- last accepted broadcast per source (15 R375) -/
  rxBcast : Tab (BitVec 16)
  /-- phase steps still to apply (15 R381) -/
  stepsDue : Int
  /-- grid offset in 1/256 slot, as measured and stepped since (15 R368) -/
  gridOffset : Int
  /-- SYS_PHASE_STEP awaiting its last step (15 R381) -/
  stepOrigin : Option Packet
  /-- slot of the divider reset edge (15 R380) -/
  divSet : Option (BitVec 64)
  /-- exchanges collected (15 R369) -/
  exchanges : Nat
  /-- start of an interruption (15 R376) -/
  reformFrom : Option (BitVec 64)
  /-- beat of the latest phase step (15 R381) -/
  stepAt : Option Slot
  deriving DecidableEq, Repr

/-- Vach at reset. -/
def Vach.reset : Vach where
  cfg := vachReset
  ports := []
  role := 0
  epochOk := false
  syncPhaseErr := false
  ppsOk := false
  ppsFar := false
  padAlarm := false
  leaderId := 0
  leaderPrio := 0
  depth := 0
  upstream := 0xF
  sysEpoch := 0
  members := 0
  ppsTm := 0
  ppsSlot := none
  offset := 0
  steps := 0
  msgGap := 0
  msgDrop := 0
  txSeq := []
  txBcast := 0
  rxSeq := []
  rxBcast := []
  stepsDue := 0
  gridOffset := 0
  stepOrigin := none
  divSet := none
  exchanges := 0
  reformFrom := none
  stepAt := none

/-- A token request waiting in the grant queue (16 R394). -/
structure Grant where
  /-- what the tokens are for; the cost is taken from their states (16 R393) -/
  holders : List Holder
  /-- die power for a DMA read, goes first (16 R394) -/
  dma : Bool
  /-- command that waits (16 R395) -/
  packet : Option Packet
  deriving DecidableEq, Repr

/-- Grant at reset. -/
def Grant.reset : Grant where
  holders := []
  dma := false
  packet := none

/-- Patrol: power states, tokens, telemetry (16). -/
structure Pwr where
  /-- package power state (R401 gives 2 as read after boot) (16 R386, R401) -/
  state : BitVec 2
  /-- last_wake (16 R401) -/
  lastWake : BitVec 3
  /-- power configuration block (kept in MRAM) (16 R397) -/
  cfg : BitVec 256
  /-- grant queue (16 R394) -/
  queue : List Grant
  /-- tokens granted in the current window (16 R394) -/
  granted : Nat
  /-- windows still overdrawn (16 R394) -/
  overdraw : Nat
  /-- transition scheduled: target, wake timer (16 R387) -/
  target : Option (BitVec 2 × BitVec 32)
  /-- wake timer armed (16 R398) -/
  wakeTimer : Option (BitVec 32)
  /-- p_in (16 R401) -/
  pIn : BitVec 16
  /-- v_in (16 R401) -/
  vIn : BitVec 16
  /-- hub temperature (16 R401) -/
  hubTemp : BitVec 16
  /-- hub t_warn (16 R400) -/
  hubWarn : Bool
  /-- p_over (16 R401) -/
  pOver : Bool
  /-- vin_warn (16 R401) -/
  vinWarn : Bool
  /-- meter_est (16 R401) -/
  meterEst : Bool
  /-- energy accumulator (lodge) (16 R399, R390) -/
  energy : BitVec 64
  /-- power-input record (lodge) (16 R390) -/
  excursions : BitVec 32
  /-- the input is outside 10.8 V to 13.2 V (16 R390) -/
  outOfRange : Bool
  /-- parked-time counter in lodge clocks (16 R388, R390) -/
  parked : BitVec 64
  /-- slot_count at the park (16 R388) -/
  parkSlot : BitVec 64
  /-- host wake latch (13 R318) -/
  hostWake : Bool
  deriving DecidableEq, Repr

/-- Pwr at reset. -/
def Pwr.reset : Pwr where
  state := 0
  lastWake := 0
  cfg := pwrReset
  queue := []
  granted := 0
  overdraw := 0
  target := none
  wakeTimer := none
  pIn := 0
  vIn := 0
  hubTemp := 0
  hubWarn := false
  pOver := false
  vinWarn := false
  meterEst := false
  energy := 0
  excursions := 0
  outOfRange := false
  parked := 0
  parkSlot := 0
  hostWake := false

/-- Clocks (16 R402, 15 R378). -/
structure Clk where
  /-- dclk_lock (16 R402) -/
  dclkLock : Bool
  /-- refclk_ok (16 R402) -/
  refclkOk : Bool
  /-- hclk_lock (16 R402) -/
  hclkLock : Bool
  /-- mon_lock (16 R402) -/
  monLock : Bool
  /-- coast_count (16 R402) -/
  coastCount : BitVec 16
  /-- coast_beats (16 R402) -/
  coastBeats : BitVec 48
  /-- lkf_mv (16 R402) -/
  lkfMv : BitVec 16
  deriving DecidableEq, Repr

/-- Clk at reset. -/
def Clk.reset : Clk where
  dclkLock := false
  refclkOk := false
  hclkLock := false
  monLock := false
  coastCount := 0
  coastBeats := 0
  lkfMv := 0

/-- System calibration of an AUX_AIN input (16 R406). -/
structure Cal where
  /-- raw_zero in effect (16 R406) -/
  rawZero : BitVec 16
  /-- gain in Q2.30 (17 R420) -/
  gain : BitVec 32
  /-- calibrated (17 R420) -/
  done : Bool
  /-- raw_zero measured by the last step 0 (16 R406) -/
  step0 : Option (BitVec 16)
  deriving DecidableEq, Repr

/-- Cal at reset. -/
def Cal.reset : Cal where
  rawZero := 0
  gain := 0x40000000
  done := false
  step0 := none

/-- Monitor converter (16). -/
structure Mon where
  /-- header word (16 R404) -/
  header : BitVec 32
  /-- sequencer entries (16 R404) -/
  entries : Tab (BitVec 32)
  /-- result registers (16 R404) -/
  results : Tab (BitVec 32)
  /-- entry in progress (16 R404) -/
  cur : Nat
  /-- pass count (16 R404) -/
  pass : BitVec 12
  /-- sequencer running (16 R404) -/
  running : Bool
  /-- urgent conversions requested (16 R405) -/
  urgent : Nat
  /-- calibrations (kept in MRAM) (16 R406) -/
  cals : Tab Cal
  /-- MON_CAL in progress: input, step, target, origin (16 R406) -/
  calBusy : Option (Nat × Bool × BitVec 16 × Origin)
  /-- header and entries of a MON_SEQ_SET that takes effect at the end of the entry in progress (16 R404) -/
  next : Option (BitVec 32 × List (BitVec 32))
  deriving DecidableEq, Repr

/-- Mon at reset. -/
def Mon.reset : Mon where
  header := 0
  entries := []
  results := []
  cur := 0
  pass := 0
  running := false
  urgent := 0
  cals := []
  calBusy := none
  next := none

/-- Audit ring entry (17 R433). -/
structure AuditEnt where
  /-- entry (17 R433) -/
  bits : BitVec 768
  deriving DecidableEq, Repr

/-- AuditEnt at reset. -/
def AuditEnt.reset : AuditEnt where
  bits := 0

/-- Event log entry (18 R456). -/
structure LogEnt where
  /-- entry (18 R456) -/
  bits : BitVec 512
  /-- a LOG_READ has returned the entry (18 R456) -/
  read : Bool
  deriving DecidableEq, Repr

/-- LogEnt at reset. -/
def LogEnt.reset : LogEnt where
  bits := 0
  read := false

/-- A firmware slot (17 R425, 18 R439). -/
structure Fw where
  /-- image (17 R425) -/
  image : List (BitVec 8)
  /-- verified (17 R425) -/
  valid : Bool
  /-- slotN_bad (18 R438) -/
  bad : Bool
  /-- fw_version (17 R425) -/
  version : BitVec 32
  /-- arc (17 R425) -/
  arc : BitVec 8
  /-- measurement (17 R425) -/
  meas : BitVec 384
  /-- has booted since it was written (17 R425) -/
  booted : Bool
  deriving DecidableEq, Repr

/-- Fw at reset. -/
def Fw.reset : Fw where
  image := []
  valid := false
  bad := false
  version := 0
  arc := 0
  meas := 0
  booted := false

/-- Security island (17). -/
structure Sec where
  /-- fuse bank logical bits, as blown (17 R421) -/
  fuses : BitVec 1024
  /-- fuse image sensed at this boot (17 R421) -/
  sensed : BitVec 1024
  /-- approved mode (MRAM) (17 R410) -/
  approved : Bool
  /-- Crypto Officer session (17 R411) -/
  coSession : Option Session
  /-- error state (17 R427) -/
  error : Bool
  /-- entered by an entropy test (17 R427) -/
  errEntropy : Bool
  /-- failing test number (17 R426) -/
  errTest : BitVec 32
  /-- wrapped identity keys present (17 R422) -/
  identity : Bool
  /-- identity certificates installed (17 R422) -/
  certs : List (BitVec 8)
  /-- KEK derived in island RAM (17 R424) -/
  kek : Bool
  /-- DRBG requests since the reseed (17 R409) -/
  drbgReq : Nat
  /-- random values drawn (17 R409) -/
  randCtr : Nat
  /-- test access port open (17 R423) -/
  debugOpen : Bool
  /-- firmware slots (17 R425) -/
  slots : Tab Fw
  /-- slot running (18 R438) -/
  fwSlot : Nat
  /-- inactive slot holds an unbooted image (18 R438) -/
  staged : Bool
  /-- mailbox chunks received (17 R425) -/
  chunks : List (BitVec 8)
  /-- audit ring, oldest first (17 R433) -/
  audit : List AuditEnt
  /-- next seq (17 R433) -/
  auditSeq : BitVec 64
  /-- operations in progress and their commands, oldest first (17 R413) -/
  islandJob : List (IslandOp × Packet)
  /-- held in reset after an environmental failure; cause recorded by the lodge (17 R428) -/
  efp : Option Nat
  /-- outcome of the recovery load, for the next boot's audit entry (18 R440) -/
  recoveryLoad : Option (BitVec 16)
  deriving DecidableEq, Repr

/-- Sec at reset. -/
def Sec.reset : Sec where
  fuses := 0
  sensed := 0
  approved := false
  coSession := none
  error := false
  errEntropy := false
  errTest := 0
  identity := false
  certs := []
  kek := false
  drbgReq := 0
  randCtr := 0
  debugOpen := false
  slots := []
  fwSlot := 0
  staged := false
  chunks := []
  audit := []
  auditSeq := 0
  islandJob := []
  efp := none
  recoveryLoad := none

/-- Boot-ledger stack record (18 R438). -/
structure StackRec where
  /-- strike (18 R438) -/
  strike : BitVec 2
  /-- lg_valid (18 R438) -/
  lgValid : Bool
  /-- min_eye (18 R438) -/
  minEye : BitVec 8
  /-- lg_boot (18 R438) -/
  lgBoot : BitVec 32
  /-- sweep_fails (18 R438) -/
  fails : BitVec 32
  /-- strike clears at the next boot (18 R439) -/
  clear : Bool
  deriving DecidableEq, Repr

/-- StackRec at reset. -/
def StackRec.reset : StackRec where
  strike := 0
  lgValid := false
  minEye := 0
  lgBoot := 0
  fails := 0
  clear := false

/-- Boot and ledger (18). -/
structure Boot where
  /-- step in progress (18 R436) -/
  step : Nat
  /-- the lodge runs (18 R436) -/
  lodgeOn : Bool
  /-- boot_count (18 R438) -/
  count : BitVec 32
  /-- reset_cause (18 R438) -/
  cause : BitVec 4
  /-- last_step (18 R438) -/
  lastStep : BitVec 4
  /-- recovery service only (18 R438) -/
  recovery : Bool
  /-- boot_ms (18 R438) -/
  bootMs : BitVec 32
  /-- step records (18 R438) -/
  steps : Tab (BitVec 128)
  /-- stack records (18 R438) -/
  stackRecs : Tab StackRec
  /-- previous boots (18 R438) -/
  history : List (BitVec 128 × List (BitVec 128))
  /-- bad marks cleared at the next boot (18 R439) -/
  clearSlot : List Nat
  /-- lodge channels left out (18 R442) -/
  lodgeFail : List Nat
  deriving DecidableEq, Repr

/-- Boot at reset. -/
def Boot.reset : Boot where
  step := 0
  lodgeOn := false
  count := 0
  cause := 0
  lastStep := 0
  recovery := false
  bootMs := 0
  steps := []
  stackRecs := []
  history := []
  clearSlot := []
  lodgeFail := []

/-- Fault summary counters (18 R455). -/
structure FaultSum where
  /-- cores_ok (18 R455) -/
  cores : BitVec 4
  /-- fault_seq (18 R455) -/
  faultSeq : BitVec 32
  /-- seen (18 R455) -/
  seen : BitVec 32
  /-- replays (18 R455) -/
  replays : BitVec 48
  /-- takeovers (18 R455) -/
  takeovers : BitVec 32
  /-- restarts (18 R455) -/
  restarts : BitVec 32
  /-- ue_total (18 R455) -/
  ueTotal : BitVec 32
  /-- watchdog_breaks (18 R455) -/
  wdBreaks : BitVec 32
  /-- log_overflow (18 R455, R456) -/
  logOver : BitVec 32
  /-- event log, oldest first (18 R456) -/
  log : List LogEnt
  /-- next seq (18 R456) -/
  logSeq : BitVec 64
  /-- entries not yet reported by EV_LOG (12 R288) -/
  logNew : Nat
  deriving DecidableEq, Repr

/-- FaultSum at reset. -/
def FaultSum.reset : FaultSum where
  cores := 0xF
  faultSeq := 0
  seen := 0
  replays := 0
  takeovers := 0
  restarts := 0
  ueTotal := 0
  wdBreaks := 0
  logOver := 0
  log := []
  logSeq := 0
  logNew := 0

/-- A wipe in progress (11 R269, 12 R297, 13 R326). -/
structure Wipe where
  /-- what waits for it (11 R269) -/
  kind : WipeKind
  /-- channels still wiping (11 R269) -/
  chans : List Nat
  deriving DecidableEq, Repr

/-- Wipe at reset. -/
def Wipe.reset : Wipe where
  kind := .reset
  chans := []

/-- Package-level state (01, 10, 11, 14). -/
structure Hub where
  /-- controller configuration block (11 R251) -/
  memCfg : BitVec 256
  /-- twin mask (14 R330) -/
  twinMask : BitVec 16
  /-- owner of port pair k (01 R17) -/
  pairOwner : Tab (Option (BitVec 4))
  /-- owner of DMA channel n (12 R300) -/
  dmaOwner : Tab (Option (BitVec 4))
  /-- owner of sequencer n (12 R300) -/
  pcsOwner : Tab (Option (BitVec 4))
  /-- owner of system line n (12 R300) -/
  lineOwner : Tab (Option (BitVec 4))
  /-- window table (17 R429) -/
  windows : Tab (BitVec 128)
  /-- package reset due 1 ms after the reply, with its cause (12 R300) -/
  resetDue : Option (BitVec 4)
  /-- blink phase of the indicators (02 R62) -/
  blink : Bool
  /-- output bits as shifted out: 3p power, 3p+1 power ind., 3p+2 attention ind. (02 R60) -/
  pscOut : Tab Bool
  /-- wipes in progress (11 R269) -/
  wipes : List Wipe
  /-- wipe after MEM_CFG_SET in progress (11 R252) -/
  cfgWipe : Bool
  /-- accepted commands outstanding (12 R286) -/
  accepted : List Accepted
  /-- TRIG_OUT outputs (10 R243) -/
  trigOut : Tab TrigOut
  /-- beat of the latest rising edge of TRIG_IN[0], TRIG_IN[1] and 1PPS (05 R129) -/
  edgeBeat : Tab (Option (BitVec 64))
  /-- an EV_LOG record is due (18 R456) -/
  evLogDue : Bool
  /-- runs whose entry device firmware is to mark poisoned: port, run_seq, channel being retired (06 R159, 11 R271) -/
  marks : List (Nat × BitVec 36 × Option Nat)
  deriving DecidableEq, Repr

/-- Hub at reset. -/
def Hub.reset : Hub where
  memCfg := memCfgReset
  twinMask := 0
  pairOwner := []
  dmaOwner := []
  pcsOwner := []
  lineOwner := []
  windows := []
  resetDue := none
  blink := false
  pscOut := []
  wipes := []
  cfgWipe := false
  accepted := []
  trigOut := []
  edgeBeat := []
  evLogDue := false
  marks := []

/-- The whole machine. -/
structure State where
  /-- commands waiting, first in first out (block: command queue) -/
  pending : List Instr
  /-- time (03) -/
  time : TimeSt
  /-- ports (02) -/
  ports : Tab Port
  /-- logical engines (09 R205) -/
  engines : Tab Engine
  /-- clusters (01 R13) -/
  clusters : Tab Cluster
  /-- regions (01 R13) -/
  regions : Tab Region
  /-- capture dies (01 R9) -/
  dies : Tab Die
  /-- DRAM channels (11 R249) -/
  chans : Tab Chan
  /-- capture memory, canonical (11 R250) -/
  mem : List Host.Cell
  /-- package combination sequencers (05 R128) -/
  pcs : Tab Pcs
  /-- functions (12 R277) -/
  fns : Tab Fn
  /-- endpoints A, B (13 R302) -/
  eps : Tab Endpoint
  /-- mailbox (12 R298) -/
  mbox : Mbox
  /-- partitions (01 R17) -/
  parts : Tab Part
  /-- DMA channels (14 R328) -/
  dma : Tab Dma
  /-- compression engines (14 R351) -/
  cmp : Tab Cmp
  /-- Vacheod (15) -/
  vach : Vach
  /-- patrol and lodge (16) -/
  pwr : Pwr
  /-- clocks (16 R402) -/
  clk : Clk
  /-- monitor converter (16 R403) -/
  mon : Mon
  /-- security island, fuses, MRAM items (17) -/
  sec : Sec
  /-- boot and ledger (18 R436) -/
  boot : Boot
  /-- fault summary and event log (18 R455) -/
  faults : FaultSum
  /-- hub registers (01 R9) -/
  hub : Hub
  /-- outputs in the order issued (model's own) -/
  outbox : List Out
  /-- index of the next free value (model's own) -/
  freeCtr : Nat
  deriving DecidableEq, Repr

/-- State at reset. -/
def State.reset : State where
  pending := []
  time := TimeSt.reset
  ports := []
  engines := []
  clusters := []
  regions := []
  dies := []
  chans := []
  mem := []
  pcs := []
  fns := []
  eps := []
  mbox := Mbox.reset
  parts := []
  dma := []
  cmp := []
  vach := Vach.reset
  pwr := Pwr.reset
  clk := Clk.reset
  mon := Mon.reset
  sec := Sec.reset
  boot := Boot.reset
  faults := FaultSum.reset
  hub := Hub.reset
  outbox := []
  freeCtr := 0

end Sys2Proof.Machine
end

