-- ==== Sys2Proof/Machine/Tab.lean ====
section
/-! DEFINITION. Tables (absent keys read as a default) and capture memory as a list of cells in one
canonical form. -/
namespace Sys2Proof.Machine

/-- The entry under key `k`, or the default `d`. -/
def Tab.get {α : Type} (d : α) : Tab α → Nat → α
  | [], _ => d
  | (i, v) :: t, k => if i = k then v else Tab.get d t k

/-- Writes the entry under key `k`; keys stay rising. -/
def Tab.set {α : Type} : Tab α → Nat → α → Tab α
  | [], k, v => [(k, v)]
  | (i, w) :: t, k, v =>
    if k < i then (k, v) :: (i, w) :: t
    else if k = i then (k, v) :: t
    else (i, w) :: Tab.set t k v

/-- Applies a function to the entry under key `k`. -/
def Tab.mod {α : Type} (d : α) (t : Tab α) (k : Nat) (f : α → α) : Tab α :=
  t.set k (f (Tab.get d t k))

/-- Writes the entries of a list from key `k` on. -/
def Tab.setList {α : Type} (t : Tab α) (k : Nat) : List α → Tab α
  | [] => t
  | v :: vs => (Tab.set t k v).setList (k + 1) vs

/-- The first `n` entries. -/
def Tab.toList {α : Type} (d : α) (t : Tab α) (n : Nat) : List α := (List.range n).map (Tab.get d t)

/-- What a byte of capture memory that nothing has written reads as: the boot's wipe leaves zero data
in every channel (R269; log entry 2). -/
def memDefault : Byte := 0

/-- The byte at an address. -/
def Memory.read : List Host.Cell → Nat → Byte
  | [], _ => memDefault
  | (a, b) :: m, k => if a = k then b else Memory.read m k

/-- Writes one byte and keeps the canonical form: addresses rise, and no cell holds what an unlisted
address reads as. -/
def Memory.write : List Host.Cell → Nat → Byte → List Host.Cell
  | [], k, v => if v = memDefault then [] else [(k, v)]
  | (a, b) :: m, k, v =>
    if k < a then (if v = memDefault then (a, b) :: m else (k, v) :: (a, b) :: m)
    else if k = a then (if v = memDefault then m else (k, v) :: m)
    else (a, b) :: Memory.write m k v

/-- The canonical form, above a lower bound on the addresses. -/
def Memory.wfFrom : Nat → List Host.Cell → Bool
  | _, [] => true
  | lo, (a, b) :: m => decide (lo ≤ a) && (b != memDefault) && Memory.wfFrom (a + 1) m

/-- The canonical form: addresses strictly rising, no cell equal to the default. -/
def Memory.wf (m : List Host.Cell) : Bool := Memory.wfFrom 0 m

/-- Writes a list of bytes from an address on. -/
def Memory.writeList (m : List Host.Cell) (k : Nat) : List Byte → List Host.Cell
  | [] => m
  | v :: vs => Memory.writeList (Memory.write m k v) (k + 1) vs

/-- Reads `n` bytes from an address on. -/
def Memory.readList (m : List Host.Cell) (k n : Nat) : List Byte :=
  (List.range n).map fun i => Memory.read m (k + i)

/-- Removes every cell whose address satisfies a test: a wipe to zero data (R269). -/
def Memory.wipe (m : List Host.Cell) (p : Nat → Bool) : List Host.Cell := m.filter fun c => !p c.1

end Sys2Proof.Machine
end

