-- ==== Sys2Proof/Machine/Ops.lean ====
section
/-! DEFINITION. The operations that the meanings share: reading and writing a block of the package,
free values, time, records of a port, event records and reply-ring entries, the event log, the audit
ring and the interrupt controller. -/
namespace Sys2Proof.Machine

/-! ### Blocks -/

def State.port (s : State) (p : Nat) : Port := s.ports.get Port.reset p
def State.setPort (s : State) (p : Nat) (x : Port) : State := { s with ports := s.ports.set p x }
def State.modPort (s : State) (p : Nat) (f : Port → Port) : State := s.setPort p (f (s.port p))

def State.eng (s : State) (e : Nat) : Engine := s.engines.get Engine.reset e
def State.setEng (s : State) (e : Nat) (x : Engine) : State := { s with engines := s.engines.set e x }
def State.modEng (s : State) (e : Nat) (f : Engine → Engine) : State := s.setEng e (f (s.eng e))

def State.cluster (s : State) (k : Nat) : Cluster := s.clusters.get Cluster.reset k
def State.modCluster (s : State) (k : Nat) (f : Cluster → Cluster) : State :=
  { s with clusters := s.clusters.set k (f (s.cluster k)) }

def State.region (s : State) (r : Nat) : Region := s.regions.get Region.reset r
def State.modRegion (s : State) (r : Nat) (f : Region → Region) : State :=
  { s with regions := s.regions.set r (f (s.region r)) }

def State.die (s : State) (d : Nat) : Die := s.dies.get Die.reset d
def State.modDie (s : State) (d : Nat) (f : Die → Die) : State :=
  { s with dies := s.dies.set d (f (s.die d)) }

def State.chan (s : State) (c : Nat) : Chan := s.chans.get Chan.reset c
def State.modChan (s : State) (c : Nat) (f : Chan → Chan) : State :=
  { s with chans := s.chans.set c (f (s.chan c)) }

def State.seqr (s : State) (n : Nat) : Pcs := s.pcs.get Pcs.reset n
def State.modSeqr (s : State) (n : Nat) (f : Pcs → Pcs) : State :=
  { s with pcs := s.pcs.set n (f (s.seqr n)) }

def State.fn (s : State) (f : Nat) : Fn := s.fns.get Fn.reset f
def State.setFn (s : State) (f : Nat) (x : Fn) : State := { s with fns := s.fns.set f x }
def State.modFn (s : State) (f : Nat) (g : Fn → Fn) : State := s.setFn f (g (s.fn f))

def State.ep (s : State) (e : Nat) : Endpoint := s.eps.get Endpoint.reset e
def State.modEp (s : State) (e : Nat) (f : Endpoint → Endpoint) : State :=
  { s with eps := s.eps.set e (f (s.ep e)) }

def State.part (s : State) (k : Nat) : Part := s.parts.get Part.reset k
def State.modPart (s : State) (k : Nat) (f : Part → Part) : State :=
  { s with parts := s.parts.set k (f (s.part k)) }

def State.dmaCh (s : State) (n : Nat) : Dma := s.dma.get Dma.reset n
def State.modDma (s : State) (n : Nat) (f : Dma → Dma) : State :=
  { s with dma := s.dma.set n (f (s.dmaCh n)) }

def State.cmpEng (s : State) (m : Nat) : Cmp := s.cmp.get Cmp.reset m
def State.modCmp (s : State) (m : Nat) (f : Cmp → Cmp) : State :=
  { s with cmp := s.cmp.set m (f (s.cmpEng m)) }

def State.vp (s : State) (v : Nat) : Vp := s.vach.ports.get Vp.reset v
def State.modVp (s : State) (v : Nat) (f : Vp → Vp) : State :=
  { s with vach := { s.vach with ports := s.vach.ports.set v (f (s.vp v)) } }

def State.modHub (s : State) (f : Hub → Hub) : State := { s with hub := f s.hub }
def State.modSec (s : State) (f : Sec → Sec) : State := { s with sec := f s.sec }
def State.modPwr (s : State) (f : Pwr → Pwr) : State := { s with pwr := f s.pwr }
def State.modVach (s : State) (f : Vach → Vach) : State := { s with vach := f s.vach }
def State.modBoot (s : State) (f : Boot → Boot) : State := { s with boot := f s.boot }
def State.modFaults (s : State) (f : FaultSum → FaultSum) : State := { s with faults := f s.faults }

/-- Applies an operation for each number of a list, in its order. -/
def forEach (ks : List Nat) (f : State → Nat → State) (s : State) : State := ks.foldl f s

/-- An output leaves the package. -/
def State.out (s : State) (o : Out) : State := { s with outbox := s.outbox ++ [o] }

/-! ### Places and location codes (R13, R14) -/

def loc (cls idx : Nat) : Nat := cls * 0x1000 + idx % 512
def locPort (p : Nat) : Nat := loc 0 p
def locPackage : Nat := 0xA000
def noLoc : Nat := 0xFFFF

def portDie (p : Nat) : Nat := p / 32
def portRegion (p : Nat) : Nat := p / 8
/-- Port pair of a port (R17), which is also its cluster (R13). -/
def portPair (p : Nat) : Nat := p / 2
def engCluster (e : Nat) : Nat := e / 8
/-- The home port of an engine: engines 8k + 4l and the next three serve port 2k + l (R28). -/
def engPort (e : Nat) : Nat := e / 4
def chanDie (c : Nat) : Nat := c / 32
def chanRegion (c : Nat) : Nat := c / 8
/-- The lodge channels (R12). -/
def isLodge (c : Nat) : Bool := c == 7 || c == 15
/-- The capture-class channels of a region (R13). -/
def regionChans (r : Nat) : List Nat :=
  ((List.range 8).map (8 * r + ·)).filter fun c => !isLodge c
def regionPorts (r : Nat) : List Nat := (List.range 8).map (8 * r + ·)
def pairPorts (k : Nat) : List Nat := [2 * k, 2 * k + 1]
def clusterEngines (k : Nat) : List Nat := (List.range 8).map (8 * k + ·)
def allPorts : List Nat := List.range 128
def allEngines : List Nat := List.range 512
def allChans : List Nat := List.range 128
def captureChans : List Nat := allChans.filter fun c => !isLodge c

def State.pairOwner (s : State) (k : Nat) : Option (BitVec 4) := s.hub.pairOwner.get none k
def State.portOwner (s : State) (p : Nat) : Option (BitVec 4) := s.pairOwner (portPair p)
def State.dmaOwner (s : State) (n : Nat) : Option (BitVec 4) := s.hub.dmaOwner.get none n
def State.pcsOwner (s : State) (n : Nat) : Option (BitVec 4) := s.hub.pcsOwner.get none n
def State.lineOwner (s : State) (n : Nat) : Option (BitVec 4) := s.hub.lineOwner.get none n

/-- The ports of a partition. -/
def State.partPorts (s : State) (k : Nat) : List Nat :=
  allPorts.filter fun p => s.portOwner p == some (BitVec.ofNat 4 k)
/-- The DMA channels of a partition. -/
def State.partDma (s : State) (k : Nat) : List Nat :=
  (List.range 32).filter fun n => s.dmaOwner n == some (BitVec.ofNat 4 k)

/-! ### Free values -/

/-- The next free value (log entry 3), and the state with the counter advanced. -/
def State.fresh (s : State) : Nat × State := (Config.free s.freeCtr, { s with freeCtr := s.freeCtr + 1 })

/-! ### Time (R70, R75) -/

/-- Slot 0 of the beat that holds a slot. -/
def beatSlot (slot : Slot) : Slot := slot - slot % 64
/-- Slots from `a` to `b`, modulo 2^64 (R72). -/
def slotsTo (a b : Slot) : Nat := (b - a).toNat
/-- `a` is not later than `b`: the difference modulo 2^64 is below 2^63 (R72). -/
def notAfter (a b : Slot) : Bool := slotsTo a b < 2 ^ 63

/-- tm_st as it stands now (R75). -/
def TimeSt.tmSt (t : TimeSt) : Nat :=
  b2n t.epochSet + 2 * b2n t.coast + 4 * b2n t.coasted + 8 * b2n t.src + 16 * t.epochGen.toNat

/-- The time values that held at a slot, where they are not those of now. -/
def TimeSt.past (t : TimeSt) (slot : Slot) : Option TimeMark := t.hist.find? fun m => !notAfter m.before slot

/-- Notes the values of now as those of the slots before `slot`, at which they change. -/
def TimeSt.note (t : TimeSt) (slot : Slot) : TimeSt :=
  if (t.hist.getLast?.map (·.before)) = some slot then t
  else { t with hist := t.hist ++ [⟨slot, t.fraction, BitVec.ofNat 6 t.tmSt, 0⟩] }

/-- Timemark of a slot: its count and the grid fraction in effect there (R70). -/
def State.tmOf (s : State) (slot : Slot) : Timemark :=
  match s.time.past slot with
  | some m => (slot - m.shift) ++ m.fraction
  | none => slot ++ s.time.fraction

/-- tm_st in effect at a slot (R75). -/
def State.tmStOf (s : State) (slot : Slot) : Nat :=
  match s.time.past slot with
  | some m => m.tmSt.toNat
  | none => s.time.tmSt

/-- Timemark of slot 0 of the current beat. -/
def State.nowTm (s : State) : Timemark := s.tmOf s.time.slotCount

/-- Slots in a time given in nanoseconds: 90 slots a nanosecond (R3). -/
def nsSlots (ns : Nat) : Nat := 90 * ns

/-- Slots of an EV_TRIG interval of `n` µs (R288). -/
def trigInterval (n : Nat) : Nat := nsSlots (1000 * n)

/-- A trigger of port `p` at slot `t` enters the interval that covers its timemark; of several the earliest one is
the first, and of equal ones that of the lower rank (R127, R288). A trigger of an interval whose record has been sent
counts in the one in progress (log entry 1215). -/
def Part.noteTrig (K : Part) (t : Slot) (tm : Timemark) (p : Nat) : Part :=
  if K.evInterval = 0 || !notAfter K.evT0 t then K
  else
    let i := max K.evIdx (slotsTo K.evT0 t / trigInterval K.evInterval.toNat)
    { K with trigIvs := K.trigIvs.set i (match K.trigIvs.find? (·.1 == i) with
      | none => (1, tm, p)
      | some (_, n, tm0, r) =>
        let t0 : Slot := fbv tm0 8 64
        if t0 == t then (n + 1, tm0, min r p) else if notAfter t0 t then (n + 1, tm0, r) else (n + 1, tm, p)) }

/-! ### Records of a port (R77) -/

/-- A record: its slot, type and body bits above bit 11 (R75, R77). -/
def mkRec (s : State) (slot : Slot) (ty body : Nat) : Rec :=
  ⟨s.tmOf slot, BitVec.ofNat 72 (ty + 64 * s.tmStOf slot + 2 ^ 12 * body)⟩

/-- One timemark does not lie after another, modulo 2^72 (R72). -/
def tmNotAfter (a b : Timemark) : Bool := (b - a).toNat < 2 ^ 71

/-- Inserts a record in order of timemark, and of rec_type at equal timemarks (R77). -/
def insRec (r : Rec) : List Rec → List Rec
  | [] => [r]
  | x :: xs =>
    if x.tm = r.tm then if fld r.body 0 6 < fld x.body 0 6 then r :: x :: xs else x :: insRec r xs
    else if tmNotAfter x.tm r.tm then x :: insRec r xs
    else r :: x :: xs

/-- Emits a record at a slot into the record stream of an armed port (R80). -/
def emitRec (s : State) (p : Nat) (slot : Slot) (ty body : Nat) : State :=
  if (s.port p).trig.armed then
    s.modPort p fun P => { P with run.recs := insRec (mkRec s slot ty body) P.run.recs }
  else s

/-! ### The event log (R456) and the audit ring (R433) -/

/-- Writes one event-log entry. -/
def logAt (s : State) (bootTm : Option Nat) (injected : Bool) (code l detail data : Nat) : State :=
  let tm := bootTm.getD s.nowTm.toNat
  let e : LogEnt := ⟨BitVec.ofNat 512 (pack
    [(64, s.faults.logSeq.toNat), (72, tm), (6, s.tmStOf s.time.slotCount), (1, b2n injected), (1, b2n bootTm.isSome),
     (16, code), (16, l), (16, 0), (64, detail), (256, data)]), false⟩
  let full := s.faults.log.length ≥ 32768
  let lost := full && match s.faults.log with
    | o :: _ => !o.read
    | [] => false
  s.modFaults fun F => { F with
    log := (if full then F.log.drop 1 else F.log) ++ [e]
    logSeq := F.logSeq + 1
    logOver := if lost then satInc F.logOver else F.logOver
    logNew := F.logNew + 1 }

/-- The same at the current timemark. -/
def logEv (s : State) (code l detail data : Nat) : State := logAt s none false code l detail data

/-- Bytes of an audit entry. -/
def auditBytes (e : AuditEnt) : List Byte := bytesOf 96 e.bits.toNat

/-- Writes one audit entry (R433): kind, partition, role, location, status, detail, aux. -/
def audit (s : State) (kind part role l status detail aux : Nat) : State :=
  let prev := match s.sec.audit.getLast? with
    | some e => (Config.sha384 (auditBytes e)).toNat
    | none => 0
  let e : AuditEnt := ⟨BitVec.ofNat 768 (pack
    [(64, s.sec.auditSeq.toNat), (72, s.nowTm.toNat), (6, s.tmStOf s.time.slotCount), (2, 0), (8, kind), (4, part),
     (2, role), (2, 0), (16, l), (16, status), (64, detail), (384, prev), (128, aux)])⟩
  s.modSec fun S => { S with
    audit := (if S.audit.length ≥ 65536 then S.audit.drop 1 else S.audit) ++ [e]
    auditSeq := S.auditSeq + 1 }

/-! ### Reply rings and event records (R284, R285, R288, R291) -/

/-- The reply entries that are neither reserved nor written and unconsumed (R291, R454). -/
def Fn.freeEntries (F : Fn) : Nat :=
  2 ^ F.rqLog2.toNat - (F.rqTail - F.rqHead).toNat - F.reserved

/-- Writes one ring entry, advances RQ_TAIL and writes RQ_WB (R290). -/
def putEntry (s : State) (f : Nat) (e : BitVec 256) : State :=
  let F := s.fn f
  let a := F.rqBase + BitVec.ofNat 64 (32 * (F.rqTail.toNat % 2 ^ F.rqLog2.toNat))
  let s1 := (s.setFn f { F with rqTail := F.rqTail + 1 }).out (.ring f a e)
  if F.rqWb = 0 then s1 else s1.out (.rqWb f F.rqWb (F.rqTail + 1))

/-- The queue writes entries: it is not DISABLED, and the function is in D0 (R292, R322). -/
def Fn.writes (F : Fn) : Bool := F.qState != .disabled && F.pm == .d0 && !F.flr

/-- The queue is ACTIVE and its function in D0. -/
def Fn.active (F : Fn) : Bool := F.qState == .active && F.pm == .d0 && !F.flr

/-- An event record (R285). -/
def evEntry (code detail tag seq result : Nat) : BitVec 256 :=
  BitVec.ofNat 256 (pack [(16, tag), (16, code), (32, detail), (64, seq), (128, result)])

/-- Sends an event record to a queue: it takes a free entry, waits in the backlog, or is lost (R291).
A record for a DISABLED queue is lost (R327), and none is produced during an FLR (R326). -/
def postEvent (s : State) (f code detail result : Nat) : State :=
  let F := s.fn f
  let e := evEntry code detail 0 F.evtCount.toNat result
  let F1 := { F with evtCount := F.evtCount + 1 }
  if F.flr then s
  else if F.qState == .disabled then
    s.setFn f { F1 with evtLost := satInc F.evtLost, lostRun := satInc F.lostRun }
  else if F.active && F.backlog.isEmpty && F.lostRun == 0 && F.freeEntries > 0 then
    putEntry (s.setFn f F1) f e
  else if F.backlog.length < 64 then s.setFn f { F1 with backlog := F.backlog ++ [⟨e⟩] }
  else s.setFn f { F1 with evtLost := satInc F.evtLost, lostRun := satInc F.lostRun }

/-- Writes waiting event records while entries are free: an EV_LOST first, when records were lost
(R291). -/
def drainBacklog : Nat → State → Nat → State
  | 0, s, _ => s
  | n + 1, s, f =>
    let F := s.fn f
    if F.active && F.freeEntries > 0 then
      if F.lostRun != 0 then
        drainBacklog n (putEntry (s.setFn f { F with lostRun := 0, evtCount := F.evtCount + 1 }) f
          (evEntry 0x800F F.lostRun.toNat 0 F.evtCount.toNat 0)) f
      else match F.backlog with
        | [] => s
        | e :: es => drainBacklog n (putEntry (s.setFn f { F with backlog := es }) f e.bits) f
    else s

/-- Writes the entries that hold a reservation and waited for their queue (R292, R322). -/
def drainDone : List Entry → State → Nat → State
  | [], s, _ => s
  | e :: es, s, f =>
    drainDone es (putEntry (s.modFn f fun F => { F with
      reserved := F.reserved - 1, doneWait := F.doneWait.drop 1 }) f e.bits) f

/-- Whatever waits for an entry of a queue and can be written is written. -/
def flush (s : State) (f : Nat) : State :=
  let s1 := if (s.fn f).active then drainDone (s.fn f).doneWait s f else s
  drainBacklog 65 s1 f

/-- An event record to the management queue (R288). -/
def evM (s : State) (code detail result : Nat) : State := postEvent s 0 code detail result

/-- An event record to a partition's queue, while PART_EVENTS has its bit set (R288). -/
def evPart (s : State) (k code detail result : Nat) : State :=
  if (s.part k).evMask.getLsbD (code % 32) then postEvent s k code detail result else s

/-- An event record to the partition that owns a port. -/
def evOwner (s : State) (p code detail result : Nat) : State :=
  match s.portOwner p with
  | some k => evPart s k.toNat code detail result
  | none => s

/-- EV_FAULT to M and to the owning partition, with its log entry; fault_seq counts it (R288, R455,
R456). The entry of an uncorrectable burst has its address above the event's result (R265; log entry 1109). -/
def evFault (s : State) (owner : Option (BitVec 4)) (l kind : Nat) (injected : Bool := false) (addr : Nat := 0) :
    State :=
  let d := l + 2 ^ 16 * kind
  let r := s.nowTm.toNat
  let s1 := evM s 0x8006 d r
  let s2 := match owner with
    | some k => evPart s1 k.toNat 0x8006 d r
    | none => s1
  (logAt s2 none injected 0x8006 l d (r + 2 ^ 96 * addr)).modFaults fun F => { F with faultSeq := F.faultSeq + 1 }

/-- EV_SECURITY, with its log entry (R435, R456). -/
def evSec (s : State) (kind part : Nat) : State :=
  let d := kind + 16 * part
  logEv (evM s 0x800B d s.nowTm.toNat) 0x800B 0xC005 d s.nowTm.toNat

/-- The bits of EV_POWER's detail, with its log entry for an alarm change (R401, R456). -/
def evPower (s : State) (kind idx st : Nat) (parked : Nat := 0) : State :=
  let d := kind + 16 * idx + 2 ^ 8 * st
  let r := s.nowTm.toNat + 2 ^ 72 * parked
  let s1 := evM s 0x8009 d r
  if kind = 2 || kind = 3 then logEv s1 0x8009 0xC004 d r else s1

/-! ### Interrupts (R314 to R316) -/

/-- Any die at warning level (R401). -/
def tWarn (s : State) : Bool := s.pwr.hubWarn || (List.range 4).any fun d => (s.die d).tWarn
/-- Any capture die held by R400. -/
def tCrit (s : State) : Bool := (List.range 4).any fun d => (s.die d).tCrit

/-- An alarm of patrol is set (R401). -/
def powerAlarm (s : State) : Bool :=
  tWarn s || tCrit s || s.pwr.pOver || s.pwr.vinWarn || s.pwr.meterEst

/-- An alarm of the Vacheod system is set (R384, log entry 1507). -/
def linkAlarm (s : State) : Bool := s.vach.padAlarm || s.vach.syncPhaseErr || s.vach.ppsFar

/-- A port of a service chain has an enabled W1C bit set (R63, R314). -/
def chainPending (s : State) (n : Nat) : Bool :=
  s.ports.any fun x => x.1 / 32 == n &&
    (fld x.2.slotStatus 3 5 &&& fld x.2.slotCtrl 6 5) != 0

/-- The condition of a source group (R314). -/
def groupPending (s : State) (g : Nat) : Bool :=
  if g < 16 then (s.fn g).rqTail != (s.fn g).rqHead
  else if g < 32 then (s.fn (g - 16)).qState == .error
  else if g < 36 then chainPending s (g - 32)
  else if g = 36 then s.mbox.done
  else if g = 37 then s.faults.faultSeq != s.faults.seen
  else if g = 38 then powerAlarm s
  else if g = 39 then linkAlarm s
  else if g = 40 then s.sec.error
  else if g < 48 then false
  else (s.fn (g - 48)).chuteStatus != 0

/-- The groups routed to a function (R314). -/
def routed (f : Nat) : List Nat :=
  [f, f + 16, f + 48] ++ if f = 0 then [32, 33, 34, 35, 36, 37, 38, 39, 40] else []

/-- The groups of a function that are pending, as a mask. -/
def pendingMask (s : State) (f : Nat) : BitVec 64 :=
  (routed f).foldl (fun (m : BitVec 64) g => if groupPending s g then m ||| (1#64 <<< g) else m) 0

/-- The groups of a function that are unmasked: `intMask` holds a 1 where the mask is 0. -/
def Fn.unmasked (F : Fn) (g : Nat) : Bool := F.intMask.getLsbD g

/-- A group is effective (R315). -/
def effective (s : State) (f g : Nat) : Bool :=
  let F := s.fn f
  groupPending s g && F.unmasked g && !F.holdRun.getLsbD g

/-- One evaluation of the groups of a function (R315, R316): a group that stopped being pending starts
its hold-off timer, INTA follows the effective groups, and D3hot sends PM_PME (R322). -/
def evalFn (s : State) (f : Nat) : State :=
  let F := s.fn f
  let now := pendingMask s f
  let stopped := F.wasPending &&& ~~~now
  let started := (routed f).foldl
    (fun (m : BitVec 64) g => if stopped.getLsbD g && F.holdoff.get 0 g != 0 then m ||| (1#64 <<< g) else m) 0
  let run := F.holdRun ||| started
  let lvl := F.pm == .d0 && !F.intDisable &&
    (routed f).any fun g => now.getLsbD g && F.unmasked g && !run.getLsbD g
  let pme := F.pm == .d3hot && F.pmeEn && !F.pmeSent &&
    (routed f).any fun g => (now &&& ~~~F.wasPending).getLsbD g && F.unmasked g
  let s1 := s.setFn f { F with wasPending := now, holdRun := run, inta := lvl, pmeSent := F.pmeSent || pme }
  let s2 := if lvl != F.inta then s1.out (.inta f lvl) else s1
  if pme then s2.out (.pme f) else s2

/-- The interrupt controller evaluates every function whose registers left reset (R316); every other
function has every group masked. -/
def settle (s : State) : State := (s.fns.map (·.1)).foldl evalFn s

/-- The outcome of a meaning: the next state, after the interrupt controller has evaluated. -/
def ok (s : State) : Host.Outcome State Fault Refusal := .next (settle s)

end Sys2Proof.Machine
end

