-- ==== Sys2Proof/Machine/Operands.lean ====
section
/-! DEFINITION. Operand forms of the measurement engines: bundles, slot fields and the checks on them, register
reads, data addresses and control registers (R205 to R211, R216). -/
namespace Sys2Proof.Machine

/-! ### Slots and bundles (R211) -/

/-- An X slot from its opcode and fields. -/
def xWord (op : Nat) (x : XOps) : BitVec 36 :=
  BitVec.ofNat 36 (pack [(18, x.imm.toNat), (4, x.b.toNat), (4, x.a.toNat), (4, x.d.toNat), (6, op)])

/-- A Y slot from its opcode and fields. -/
def yWord (op : Nat) (y : YOps) : BitVec 36 :=
  BitVec.ofNat 36 (pack [(20, y.imm.toNat), (2, y.s.toNat), (1, b2n y.pm), (3, y.p.toNat), (4, y.r.toNat), (6, op)])

/-- A bundle: X slot in bits [35:0], Y slot in bits [71:36]. -/
def bundleOf (x y : BitVec 36) : BitVec 72 := BitVec.ofNat 72 (pack [(36, x.toNat), (36, y.toNat)])

def xSlot (b : BitVec 72) : BitVec 36 := fbv b 0 36
def ySlot (b : BitVec 72) : BitVec 36 := fbv b 36 36

/-- Opcode of a slot. -/
def opOf (w : BitVec 36) : Nat := fld w 30 6
def xd (w : BitVec 36) : Nat := fld w 26 4
def xa (w : BitVec 36) : Nat := fld w 22 4
def xb (w : BitVec 36) : Nat := fld w 18 4
def ximm (w : BitVec 36) : Nat := fld w 0 18
def yr (w : BitVec 36) : Nat := fld w 26 4
def yp (w : BitVec 36) : Nat := fld w 23 3
def ypm (w : BitVec 36) : Bool := bit w 22
def ys (w : BitVec 36) : Nat := fld w 20 2
def yimm (w : BitVec 36) : Nat := fld w 0 20
/-- Bundle address of B, CALL, LOOP and LOOPI. -/
def ydest (w : BitVec 36) : Nat := fld w 0 13

/-- An X slot is a defined encoding: no reserved opcode, no field set that the instruction does not use, no
accumulator above a3. -/
def xOk (w : BitVec 36) : Bool :=
  let noB := xb w == 0
  let noImm := ximm w == 0
  let shift := decide (ximm w < 64)
  match opOf w with
  | 0x00 => w == 0
  | 0x01 | 0x02 | 0x06 | 0x07 | 0x08 | 0x0C | 0x0D | 0x0E | 0x0F | 0x10 | 0x14 | 0x15 | 0x16 => noImm
  | 0x03 | 0x09 => noB
  | 0x04 | 0x05 | 0x0B | 0x17 | 0x18 | 0x19 => noB && noImm
  | 0x0A => xa w == 0 && noB
  | 0x11 => noB && decide (ximm w < 0xC0)
  | 0x12 => xd w == 0 && noImm
  | 0x13 => xd w == 0 && noB
  | 0x20 | 0x21 | 0x22 => decide (xd w < 4) && noImm
  | 0x23 => decide (xd w < 4) && xa w == 0 && noB && noImm
  | 0x24 => decide (xd w < 4) && noB && shift
  | 0x25 => decide (xd w < 4) && decide (xa w < 4) && noB && noImm
  | 0x26 => decide (xd w < 4) && decide (xa w < 4) && noB && shift
  | 0x27 => decide (xa w < 4) && noB && shift
  | _ => false

/-- A Y slot is a defined encoding. The four registers r to r + 3 of SINQ and OUTQ exist (log entry 901). -/
def yOk (w : BitVec 36) : Bool :=
  let noR := yr w == 0
  let noP := yp w == 0 && !ypm w
  let noS := ys w == 0
  let noImm := yimm w == 0
  match opOf w with
  | 0x00 => w == 0
  | 0x01 | 0x02 | 0x05 => noS
  | 0x03 | 0x04 => yr w % 4 == 0 && noS
  | 0x06 | 0x07 => noR && !ypm w && noS
  | 0x08 | 0x09 => !ypm w && noS && noImm
  | 0x0A => decide (yr w ≤ 0xA) && noP && noS && decide (yimm w < 8192)
  | 0x0B => noR && noP && noS && decide (yimm w < 8192)
  | 0x0C => noR && !ypm w && noS && noImm
  | 0x0D => noP && decide (ys w < 2) && decide (yimm w < 8192)
  | 0x0E => decide (yr w < 2)
  | 0x0F => noP && noImm
  | 0x10 => decide (yr w ≤ 12) && noP && noImm
  | 0x11 => noP && noS && noImm
  | 0x12 => decide (yr w ≤ 12) && noP && noS && noImm
  | 0x13 => noR && noP && decide (yimm w < 16)
  | 0x14 => noP && noS && decide (yimm w < 16)
  | 0x15 => !ypm w && noS && noImm
  | 0x16 | 0x17 => noR && noP && noS && decide (yimm w < 16)
  | 0x18 | 0x1C | 0x1D => noR && noP && noS && noImm
  | 0x19 | 0x1A => noP && noS && decide (yimm w < 64)
  | 0x1B => noR && noP && noS
  | _ => false

/-- g register that an X slot writes. -/
def xDest (w : BitVec 36) : List Nat :=
  let o := opOf w
  if (1 ≤ o && o ≤ 0x19 && o != 0x12 && o != 0x13) || o == 0x27 then [xd w] else []

/-- An X slot that writes flags of its result. -/
def xFlags (w : BitVec 36) : Bool :=
  let o := opOf w
  o != 0 && o != 0x0A && o != 0x0B && o != 0x23

/-- g registers that a Y slot writes. -/
def yDest (w : BitVec 36) : List Nat :=
  match opOf w with
  | 0x01 | 0x05 | 0x09 | 0x0F | 0x1A => [yr w]
  | 0x03 | 0x10 => (List.range 4).map (yr w + ·)
  | _ => []

/-- Results that a slot needs (R214): g registers 0 to 15, accumulators 16 to 19. The accumulator that MAC and MSU
add to is usable at once. -/
def xNeeds (w : BitVec 36) : List Nat :=
  match opOf w with
  | 0x00 | 0x0A | 0x23 => []
  | 0x03 | 0x04 | 0x05 | 0x09 | 0x0B | 0x11 | 0x13 | 0x17 | 0x18 | 0x19 | 0x24 => [xa w]
  | 0x25 => [16 + xd w, 16 + xa w]
  | 0x26 | 0x27 => [16 + xa w]
  | _ => [xa w, xb w]
def yNeeds (w : BitVec 36) : List Nat :=
  match opOf w with
  | 0x02 | 0x05 | 0x08 | 0x0D | 0x11 | 0x14 | 0x15 | 0x19 => [yr w]
  | 0x04 | 0x12 => (List.range 4).map (yr w + ·)
  | _ => []

/-- Both slots write the same register (R211): a g register, or FLAGS written whole by MTC. SIN and SINQ set
GP and EL beside the flags of an X result, as the example of R233's section has it (log entry 902). -/
def slotsConflict (x y : BitVec 36) : Bool :=
  (xDest x).any (yDest y).contains || (xFlags x && opOf y == 0x19 && yimm y == 1)

/-! ### Registers (R210) -/

def Engine.gr (E : Engine) (i : Nat) : BitVec 18 := E.g.getD i 0
def Engine.ac (E : Engine) (i : Nat) : BitVec 48 := E.a.getD i 0
def Engine.pr (E : Engine) (i : Nat) : BitVec 20 := E.p.getD i 0
def Engine.setG (E : Engine) (i : Nat) (v : BitVec 18) : Engine := { E with g := E.g.set i v }
def Engine.setP (E : Engine) (i : Nat) (v : BitVec 20) : Engine := { E with p := E.p.set i v }
def Engine.setGs (E : Engine) (i : Nat) : List (BitVec 18) → Engine
  | [] => E
  | v :: vs => (E.setG i v).setGs (i + 1) vs

def flagZ (E : Engine) : Bool := bit E.flags 0
def flagN (E : Engine) : Bool := bit E.flags 1
def flagC (E : Engine) : Bool := bit E.flags 2
def flagV (E : Engine) : Bool := bit E.flags 3
def flagGP (E : Engine) : Bool := bit E.flags 7

/-- Conditions of B (R211). -/
def condHolds (E : Engine) (c : Nat) : Bool :=
  match c with
  | 0 => true
  | 1 => flagZ E
  | 2 => !flagZ E
  | 3 => flagN E
  | 4 => !flagN E
  | 5 => flagC E
  | 6 => !flagC E
  | 7 => flagV E
  | 8 => !flagV E
  | 9 => flagGP E
  | _ => !flagGP E

/-! ### Configuration (R218, R228) -/

def Engine.entry (E : Engine) : Nat := fld E.cfg 0 13
def Engine.tvec (E : Engine) : Nat := fld E.cfg 16 13
def Engine.tvecEn (E : Engine) : Bool := bit E.cfg 29
def Engine.outBase (E : Engine) : Nat := fld E.cfg 96 19
def Engine.outWords (E : Engine) : Nat := fld E.cfg 128 19
def Engine.warmSlots (E : Engine) : Nat := fld E.cfg 160 32
def Engine.bindSrc (E : Engine) (n : Nat) : Nat := fld E.cfg (32 + 16 * n) 4
/-- The port that a stream reads: the even or the odd port of the pair. -/
def bindPort (E : Engine) (e n : Nat) : Nat := 2 * engCluster e + fld E.cfg (36 + 16 * n) 1
def Engine.stream (E : Engine) (n : Nat) : Stream := E.streams.get Stream.reset n

/-- Physical engine in use (R230): the home one unless it was moved. -/
def physOf (E : Engine) (e : Nat) : Nat := match E.phys with
  | some x => x.toNat
  | none => e
/-- The engine runs away from its home cluster (R233). -/
def runsAway (E : Engine) (e : Nat) : Bool := physOf E e / 8 != engCluster e

/-! ### Control registers (R210) -/

/-- Bits [18k + 17:18k] of a value. -/
def part18 {n : Nat} (x : BitVec n) (k : Nat) : BitVec 18 := fbv x (18 * k) 18

/-- ESTAT as read. -/
def estatOf (E : Engine) : BitVec 18 := put E.estat 4 1 (b2n E.inHandler)

/-- Value of control register c; none where the index is unlisted. -/
def ctlRead (E : Engine) (e c : Nat) : Option (BitVec 18) :=
  match c with
  | 0x00 => some E.mode
  | 0x01 => some E.flags
  | 0x02 => some (E.lc.getD 0 0)
  | 0x03 => some (E.lc.getD 1 0)
  | 0x04 => some ((E.ls.getD 0 0).setWidth 18)
  | 0x05 => some ((E.le.getD 0 0).setWidth 18)
  | 0x06 => some ((E.ls.getD 1 0).setWidth 18)
  | 0x07 => some ((E.le.getD 1 0).setWidth 18)
  | 0x08 => some E.epc
  | 0x09 => some E.ecause
  | 0x0A => some (estatOf E)
  | 0x0B => some E.etgt
  | 0x0C => some E.emode
  | 0x0D => some E.epend
  | 0x0E => some E.eaddr
  | 0x0F => some (BitVec.ofNat 18 (pack [(9, physOf E e), (3, e % 8), (6, engCluster e)]))
  | _ =>
    if c < 0x10 then none
    else if c < 0x20 then some (part18 ((E.stream ((c - 0x10) / 4)).cursor.setWidth 72) (c % 4))
    else if c < 0x23 then some (part18 (E.outWr.setWidth 54) (c - 0x20))
    else if c < 0x26 then some (part18 (E.outRd.setWidth 54) (c - 0x23))
    else none

/-- A value that MODE can hold (R216). -/
def modeOk (v : BitVec 18) : Bool := decide (v.toNat < 64) && fld v 1 2 != 3

/-- The exception that MTC of a value to register c raises (R5, R210, R216): 1 ILL, 3 ILL_MODE. -/
def ctlWriteCause (E : Engine) (c : Nat) (v : BitVec 18) : Option Nat :=
  let ill := fun (b : Bool) => if b then none else some 1
  let n := v.toNat
  if c = 0 then
    if !modeOk v || E.modePend.isSome || E.inHandler then some 3 else none
  else if c = 1 then ill (decide (n < 1024))
  else if c < 4 then none
  else if c < 8 then ill (decide (n < 8192))
  else if c < 0xF then
    if !E.inHandler then some 1
    else match c with
      | 0x08 | 0x0B => ill (decide (n < 8192))
      | 0x09 => ill (decide (n < 256))
      | 0x0A => ill (decide (n < 32))
      | 0x0C | 0x0D => if modeOk v then none else some 3
      | _ => none
  else some 1

/-- MTC, once no exception stands against it. -/
def ctlWrite (E : Engine) (c : Nat) (v : BitVec 18) : Engine :=
  match c with
  | 0x00 => { E with modePend := some v, shadow := 2 }
  | 0x01 => { E with flags := v }
  | 0x02 => { E with lc := E.lc.set 0 v }
  | 0x03 => { E with lc := E.lc.set 1 v }
  | 0x04 => { E with ls := E.ls.set 0 (v.setWidth 13) }
  | 0x05 => { E with le := E.le.set 0 (v.setWidth 13) }
  | 0x06 => { E with ls := E.ls.set 1 (v.setWidth 13) }
  | 0x07 => { E with le := E.le.set 1 (v.setWidth 13) }
  | 0x08 => { E with epc := v }
  | 0x09 => { E with ecause := v }
  | 0x0A => { E with estat := put v 4 1 0 }
  | 0x0B => { E with etgt := v }
  | 0x0C => { E with emode := v }
  | 0x0D => { E with epend := v }
  | 0x0E => { E with eaddr := v }
  | _ => E

/-! ### Data memory (R207) -/

/-- Words of shared data memory. -/
def sharedWords : Nat := 466032

/-- A word address is local. -/
def isLocal (a : Nat) : Bool := decide (a < 0x8000)
/-- A word address lies in shared data memory. -/
def isShared (a : Nat) : Bool := decide (0x80000 ≤ a) && decide (a < 0x80000 + sharedWords)

/-- The writes of shared memory in the beat of a slot (R208). -/
def Cluster.beatWrites (C : Cluster) (slot : Slot) : List SharedWrite :=
  if C.writeBeat == beatSlot slot then C.writes else []

/-- A word after a write. -/
def SharedWrite.result (w : SharedWrite) (v : BitVec 18) : BitVec 18 := if w.add then v + w.val else w.val

/-- A write joins those of its beat in ascending order of physical index, behind the engine's own earlier ones. -/
def insWrite (w : SharedWrite) : List SharedWrite → List SharedWrite
  | [] => [w]
  | x :: xs => if x.phys ≤ w.phys then x :: insWrite w xs else w :: x :: xs

/-- A shared word as an engine reads it: before any write of the beat but the engine's own (R208). -/
def sharedSeen (s : State) (e word : Nat) : BitVec 18 :=
  let C := s.cluster (engCluster e)
  match (C.beatWrites s.time.slotCount).filter (·.word == word) with
  | [] => C.shared.get 0 word
  | w :: ws => ((w :: ws).filter (·.eng == e)).foldl (fun v x => x.result v) w.old

/-- An AXA has the word as it stood before its addition; one that came earlier in the beat, of an engine that has
issued nothing since, takes the value that the order of indices gives it. -/
def axaResult (s : State) (w : SharedWrite) (v : BitVec 18) : State :=
  s.modEng w.eng fun E =>
    if w.add && (E.bundles == w.seq || (E.bundles == w.seq + 1 && E.bundles != 0)) then E.setG w.reg v else E

/-- A write of a shared word: the writes of one beat to a word take effect in ascending order of physical index
(R208). -/
def sharedWrite (s : State) (e word : Nat) (val : BitVec 18) (axa : Option Nat) : State :=
  let k := engCluster e
  let C := s.cluster k
  let before := C.beatWrites s.time.slotCount
  let old := match before.find? (·.word == word) with
    | some x => x.old
    | none => C.shared.get 0 word
  let ws := insWrite
    { eng := e, phys := physOf (s.eng e) e, word := word, val := val, add := axa.isSome, reg := axa.getD 0
      seq := (s.eng e).bundles, old := old } before
  let (s1, v) := (ws.filter (·.word == word)).foldl (fun (a : State × BitVec 18) w =>
    (axaResult a.1 w a.2, w.result a.2)) (s, old)
  s1.modCluster k fun C => { C with
    shared := C.shared.set word v, writes := ws, writeBeat := beatSlot s.time.slotCount }

/-- Reads a word of an engine's data address space. -/
def engRead (s : State) (e a : Nat) : BitVec 18 :=
  if isLocal a then (s.eng e).dmem.get 0 a else sharedSeen s e (a - 0x80000)

/-- Writes a word of an engine's data address space. -/
def engWrite (s : State) (e a : Nat) (v : BitVec 18) : State :=
  if isLocal a then s.modEng e fun E => { E with dmem := E.dmem.set a v }
  else sharedWrite s e (a - 0x80000) v none

/-- The address of a memory operand: p + yimm, or p with ypm (R211). -/
def engAddr (E : Engine) (w : BitVec 36) : Nat :=
  let p := (E.pr (yp w)).toNat
  if ypm w then p else (p + yimm w) % 2 ^ 20

/-! ### Interlocks (R205, R214) -/

/-- The slot `n` DCLK after a slot. -/
def dclks (slot : Slot) (n : Nat) : Slot := slot + BitVec.ofNat 64 (64 * n)

/-- A bundle cannot issue at a slot: the engine has issued one in this DCLK, a DIV, a REM or an entry to an exception
is not over, or a result that the bundle needs is not usable. -/
def interlocked (E : Engine) (now : Slot) (x y : BitVec 36) : Bool :=
  (match E.lastIssue with
    | some t => beatSlot t == beatSlot now
    | none => false)
  || !notAfter E.busyTo now
  || (xNeeds x ++ yNeeds y).any fun k => !notAfter (E.ready.get 0 k) now

/-- DCLK until the result of a load is usable (R213, R214). -/
def loadTime (E : Engine) (e : Nat) (w : BitVec 36) : Nat :=
  if isLocal (engAddr E w) then 2 else if runsAway E e then 14 else 6

/-- The interlocks after a bundle that issued at a slot over the operands `E0`. -/
def setInterlocks (E0 : Engine) (e : Nat) (now : Slot) (x y : BitVec 36) (E : Engine) : Engine :=
  let o := opOf x
  let loads := if [1, 3, 5].contains (opOf y) then yDest y else []
  let r1 := (xDest x ++ yDest y).foldl (fun t k => t.set k now) E.ready
  let r2 := loads.foldl (fun t k => t.set k (dclks now (loadTime E0 e y))) r1
  let r3 := if 0x20 ≤ o ∧ o ≤ 0x26 then r2.set (16 + xd x) (dclks now (if o ≤ 0x22 then 2 else 1)) else r2
  { E with
    lastIssue := some now, ready := r3
    busyTo := if o = 0x15 ∨ o = 0x16 then dclks now 10 else E.busyTo }

end Sys2Proof.Machine
end

