-- ==== Sys2Proof/Machine/Command.lean ====
section
/-! DEFINITION. How a host command begins, is checked, takes effect and replies (R277 to R299): the
shared frame of every command of families 0x01 to 0x10. -/
namespace Sys2Proof.Machine

/-- A failing check: the status code and its detail (R286). -/
structure Fail where
  status : Nat
  detail : Nat

def badParam (l off : Nat) : Fail := ⟨0x21, l + 2 ^ 16 * off⟩
def noResource (l kind : Nat) : Fail := ⟨0x22, l + 2 ^ 16 * kind⟩
def denied (reason : Nat) : Fail := ⟨0x30, reason⟩
def stState (l code : Nat) : Fail := ⟨0x40, l + 2 ^ 16 * code⟩
def stFault (l kind : Nat) : Fail := ⟨0x50, l + 2 ^ 16 * kind⟩
def stBusy (l : Nat) : Fail := ⟨0x10, l⟩

/-- A check: nothing when the condition holds. -/
def need (b : Bool) (f : Fail) : Option Fail := if b then none else some f

/-- The first failing check. -/
def firstFail : List (Option Fail) → Option Fail
  | [] => none
  | some f :: _ => some f
  | none :: fs => firstFail fs

/-- How a command ends its step. -/
inductive Rep where
  /-- the reply: status, detail, result, return data -/
  | done (status detail result : Nat) (data : List Byte)
  /-- ST_ACCEPTED: the work and the reply's result (R286) -/
  | accept (job : Job) (result : Nat)
  /-- begun, not yet replied: a later step replies -/
  | wait

/-- A reply ST_OK with nothing more. -/
def Rep.ok : Rep := .done 0 0 0 []
def Rep.result (r : Nat) : Rep := .done 0 0 r []
def Rep.bytes (bs : List Byte) : Rep := .done 0 0 0 bs
def Rep.fail (f : Fail) : Rep := .done f.status f.detail 0 []

/-- What a row of the opcode tables binds (R300). -/
structure Cmd where
  opcode : Nat
  /-- marked M -/
  mgmt : Bool := false
  /-- marked auth -/
  auth : Bool := false
  /-- marked A -/
  accepts : Bool := false
  /-- returns through a buffer -/
  buffer : Bool := false
  /-- class of the target; none: the target bytes are reserved, or bound by `freeTarget` -/
  cls : Option Nat := none
  /-- inline bytes 0 to 3 carry something else than target and sub -/
  freeTarget : Bool := false
  /-- the row gives sub a meaning -/
  sub : Bool := false
  /-- least size of the data area (R282) -/
  data : Nat := 0
  /-- waits while the island is busy (R426) -/
  island : Bool := false
  /-- a non-approved service (R410) -/
  nonApproved : Bool := false
  /-- family 0x02: the partition field names the partition acted on (R279) -/
  partField : Bool := false

/-- The command's origin, for its EV_DONE (R285). -/
def originOf (p : Packet) : Origin := .cmd p.mbox p.fn p.opcode p.tag p.seq
/-- A buffer reference is valid (R280). -/
def refOk (r : BitVec 128) : Bool :=
  fld r 0 3 == 0 && fld r 64 32 ≤ 16777216 && fld r 96 32 == 0

/-! ### Beginning (R294) -/

/-- An earlier packet of the list stands before `p` and satisfies a test. -/
def before (p : Packet) (t : Packet → Bool) : List Queued → Bool
  | [] => false
  | q :: qs => if q.pkt == p.core then false else t q.pkt || before p t qs

/-- Function `f` has an accepted command whose EV_DONE is owed, or one not yet written. -/
def owesDone (s : State) (f : Nat) : Bool :=
  s.hub.accepted.any (fun a => match a.origin with
    | .cmd false g _ _ _ => g.toNat == f
    | _ => false) || !(s.fn f).doneWait.isEmpty

/-- A fetched packet may begin (R291, R294). -/
def mayBegin (s : State) (q : Queued) (entries : Nat) : Bool :=
  let p := q.pkt
  let F := s.fn p.fn.toNat
  let earlier := fun t => before p t F.fetched || F.begun.any t
  (F.qState == .active || F.qState == .error) && !F.flr && decide (entries ≤ F.freeEntries) &&
  !earlier (·.fence) &&
  (if p.fence then !earlier (fun _ => true) && !owesDone s p.fn.toNat
   else p.unordered || !earlier (fun x => !x.unordered)) &&
  (!p.afterDma || q.mark.all fun m =>
    match (s.dmaCh m.1).cur with
    | some d => decide (m.2 < d.seq)
    | none => true)

/-- The entry of a packet in its queue's fetched list. -/
def findFetched (s : State) (p : Packet) : Option Queued :=
  (s.fn p.fn.toNat).fetched.find? fun q => q.pkt == p.core && q.bad.isNone

/-- The capture die that a location code needs. -/
def locDie (l : Nat) : Option Nat :=
  let i := l % 512
  match l / 0x1000 with
  | 0 => some (i / 32)
  | 1 => some (i / 4)
  | 2 => some (i / 128)
  | 3 => some (i / 64)
  | 4 => if isLodge i then none else some (i / 32)
  | 7 => some (i / 16)
  | 8 => some (i / 4)
  | 9 => if i < 4 then some i else none
  | _ => none

/-- The region that a location code names, or lies in (R13). -/
def locRegion (l : Nat) : Option Nat :=
  let i := l % 512
  match l / 0x1000 with
  | 0 => some (i / 8)
  | 1 => some i
  | 2 => some (i / 32)
  | 3 => some (i / 16)
  | 4 => if isLodge i then none else some (i / 8)
  | 7 => some (i / 4)
  | 8 => some i
  | _ => none

/-- Commands that wait for a block whose die-to-die link is down (R450), or for the island (R426). -/
def held (c : Cmd) (p : Packet) (s : State) : Bool :=
  (c.island && s.sec.islandJob.any fun j => j.1 == .selfTest) ||
  (c.cls.isSome && match locDie p.target with
    | some d => !(s.die d).linkUp
    | none => false)

/-- The command begins in this step. -/
def begins (c : Cmd) (p : Packet) (s : State) : Bool :=
  p.opcode.toNat == c.opcode && !held c p s &&
  if p.mbox then
    s.mbox.busy && !s.mbox.begun &&
      p == mailboxPacket c.buffer (s.mbox.cmd.toList 0 4096)
  else match findFetched s p with
    | some q => mayBegin s q (if c.accepts then 2 else 1)
    | none => false

/-! ### The checks of R287 -/

/-- The location of the endpoint that serves a function (R280). -/
def locEndpoint (f : Nat) : Nat := if f < 8 then 0xC007 else 0xC008

/-- Commands that the error state serves (R427): DEV_INFO, DEV_STATUS, LOG_READ, SEC_SELFTEST. -/
def servedInError (op : Nat) : Bool := op == 0x0101 || op == 0x0102 || op == 0x1001 || op == 0x0F08

/-- The recovery service serves the mailbox only (R440). -/
def servedInRecovery (s : State) (p : Packet) (op : Nat) : Bool :=
  p.mbox && (servedInError op || (op == 0x0F06 && p.inb 4 1 == 0 && !s.sec.error))

/-- Life-cycle code of the sensed fuses; a value that is no thermometer code reads as VOID (R423). -/
def lifecycle (s : State) : Nat :=
  match fld s.sec.sensed 0 4 with
  | 0 => 0 | 1 => 1 | 3 => 2 | 7 => 3 | _ => 4

/-- The session whose key verifies the command (R411). -/
def keySession (c : Cmd) (p : Packet) (s : State) : Option Session :=
  if c.mgmt || p.mbox || (c.opcode == 0x0F03 && p.inb 4 1 == 1) then s.sec.coSession
  else (s.part p.part).session

/-- op 0 of SEC_FW_UPDATE in the recovery service needs no tag (R410, R440). -/
def recoveryUpdate (c : Cmd) (p : Packet) (s : State) : Bool :=
  s.boot.recovery && c.opcode == 0x0F06 && p.inb 4 1 == 0

/-- Step 6 of R287 (R281, R410, R411). -/
def authCheck (c : Cmd) (p : Packet) (s : State) : Option Fail :=
  if !p.auth then
    need (!(c.auth || (s.sec.approved && c.mgmt)) || recoveryUpdate c p s) ⟨0x31, 1⟩
  else match keySession c p s with
    | none => some ⟨0x31, 3⟩
    | some k => need (Config.hmac (bytesOf 48 k.kcmd.toNat) (p.bytes c.buffer) == p.authTag) ⟨0x31, 2⟩

/-- Steps 3 to 7 of R287, with the error state (R427), the recovery service (R440) and VOID (R423). -/
def frontChecks (c : Cmd) (p : Packet) (s : State) : List (Option Fail) :=
  [ need (p.reserved == 0 && !(p.fence && p.unordered && !p.mbox)) (badParam noLoc noLoc),
    need (!s.boot.recovery || servedInRecovery s p c.opcode) (stFault 0xC005 1),
    need (!s.sec.error || servedInError c.opcode || recoveryUpdate c p s) (stFault 0xC005 1),
    need (!c.mgmt || p.fn == 0) (denied 1),
    need (p.partition == p.fn || (c.partField && p.fn == 0)) (denied 2),
    authCheck c p s,
    need (!(c.nonApproved && s.sec.approved)) (denied 4),
    need (lifecycle s != 4 || c.opcode == 0x0101 || c.opcode == 0x0102 || c.opcode == 0x1001) (denied 5) ]

/-- The index ranges of the location classes (R15). -/
def clsRange : Nat → Nat
  | 0 => 128 | 1 => 16 | 2 => 512 | 3 => 256 | 4 => 128 | 5 => 16 | 6 => 32 | 7 => 64
  | 8 => 16 | 9 => 5 | 0xA => 1 | 0xB => 8 | 0xC => 19 | 0xD => 4 | _ => 0

/-- A location code names a block (R14, R15). -/
def locOk (l : Nat) : Bool := l / 512 % 8 == 0 && decide (l % 512 < clsRange (l / 0x1000))

/-- Step 8 of R287, as far as every command shares it: target, sub, references and the size of the data
area (R15, R279, R280, R282, R299). -/
def paramChecks (c : Cmd) (p : Packet) : List (Option Fail) :=
  [ match c.cls with
    | some k => need (locOk p.target && p.target / 0x1000 == k) (badParam noLoc 16)
    | none => need (c.freeTarget || p.target == 0) (badParam noLoc 16),
    need (c.sub || c.freeTarget || p.subv == 0) (badParam noLoc 18),
    need (!c.buffer || refOk (if p.mbox then put p.ret 0 64 0 else p.ret)) (badParam noLoc 32),
    need (!(p.mbox && p.dataRef)) (badParam noLoc 6),
    need (!p.dataRef || decide (16 ≤ p.area.length)) (badParam noLoc (p.dataOff c.buffer + p.area.length)),
    need (!p.dataRef || refOk (BitVec.ofNat 128 (le (slice p.area 0 16))))
      (badParam noLoc (if c.buffer then 48 else 32)),
    need (!(p.dataRef && p.refFail)) (stFault (locEndpoint p.part) 1),
    need (c.data ≤ p.data.length) (badParam noLoc (p.dataOff c.buffer + p.data.length)) ]

/-- Step 9 of R287 for the target: it belongs to the partition (R17, R287). -/
def ownsTarget (s : State) (p : Packet) : Option Fail :=
  let mine := fun (o : Option (BitVec 4)) => need (o == some p.fn) (denied 2)
  match p.target / 0x1000 with
  | 0 => mine (s.portOwner p.idx)
  | 2 => mine (s.pairOwner (engCluster p.idx))
  | 5 => need ((s.cmpEng p.idx).st == 0 || (s.cmpEng p.idx).part == p.part) (denied 2)
  | 6 => if p.fn == 0 && (s.dmaOwner p.idx).isNone && (p.opcode == 0x0B02 || p.opcode == 0x0B05) then none
    else mine (s.dmaOwner p.idx)
  | _ => none

/-- Until step 11 a command that needs a capture die, a port or a capture-class channel is turned away
with ST_BUSY (R441). -/
def bootBusy (s : State) (l : Nat) : Option Fail :=
  need ((locDie l).isNone || s.boot.step ≥ 11) (stBusy l)

/-- Accepted commands of a queue that are outstanding (R296). -/
def acceptedCount (s : State) (p : Packet) : Nat :=
  (s.hub.accepted.filter fun a => match a.origin with
    | .cmd m f _ _ _ => m == p.mbox && f == p.fn
    | _ => false).length

/-- Every check of a command in the order of R287: the shared ones, then the chapter's parameter checks,
ownership, the chapter's state checks and its capacity checks. A command of a wiped partition ends with
ST_WIPED (R297). -/
def allChecks (c : Cmd) (p : Packet) (s : State) (params state : List (Option Fail)) : Option Fail :=
  firstFail
    ([need (!(s.part p.part).wiping) ⟨0x60, 0⟩] ++ frontChecks c p s ++ paramChecks c p ++ params ++
     (if c.mgmt || c.cls.isNone then [] else [ownsTarget s p]) ++
     (if c.cls.isNone then [] else [bootBusy s p.target]) ++ state ++
     [need (!(c.buffer && p.retFail && !p.mbox)) (stFault (locEndpoint p.part) 1),
      need (!c.accepts || p.mbox || acceptedCount s p < 64) (stBusy 0xA000)])

/-! ### Replies -/

/-- A reply entry (R284). -/
def replyEntry (tag : BitVec 16) (seq : BitVec 64) (status detail result : Nat) : BitVec 256 :=
  BitVec.ofNat 256 (pack [(16, tag.toNat), (16, status), (32, detail), (64, seq.toNat), (128, result)])

/-- Writes a reply of a queue's command: on the ring, or into the waiting entries while the function is
in D3hot (R322). A DISABLED queue or an FLR takes none (R325, R326). -/
def replyQueue (s : State) (f : Nat) (e : BitVec 256) : State :=
  let F := s.fn f
  if F.writes then putEntry (s.setFn f { F with reserved := F.reserved - 1 }) f e
  else if F.qState == .disabled || F.flr then s
  else s.setFn f { F with doneWait := F.doneWait ++ [⟨e⟩] }

/-- The reply of a begun command, return data first (R280, R284, R299). A function reset or an FLR has left
no command to reply to (R325, R326). -/
def replyTo (s : State) (buffer : Bool) (p : Packet) (status detail result : Nat) (data : List Byte) :
    State :=
  let cap := if p.mbox then min (fld p.ret 64 32) 4064 else fld p.ret 64 32
  let short := buffer && status == 0 && decide (cap < data.length)
  let st := if short then 2 else status
  let dt := if short then data.length else detail
  let e := replyEntry p.tag p.seq st dt result
  if p.mbox then
    if s.mbox.begun then
      { s with mbox := { s.mbox with
          reply := e, ret := if buffer then data.take cap else s.mbox.ret
          done := true, busy := false, begun := false } }
    else s
  else if !(s.fn p.fn.toNat).begun.contains p.core then s
  else
    let s1 := s.modFn p.fn.toNat fun F => { F with begun := F.begun.filter (· != p.core) }
    let s2 := if buffer && !data.isEmpty then s1.out (.ret p.part (fbv p.ret 0 64) (data.take cap)) else s1
    replyQueue s2 p.fn.toNat e

/-- EV_DONE of accepted work (R285, R288, R291), or the mailbox's final reply (R299). -/
def finish (s : State) (o : Origin) (status detail extra : Nat) : State :=
  match o with
  | .none => s
  | .cmd mb f _ tag seq =>
    let acc := s.hub.accepted.find? fun a => a.origin == o
    match acc with
    | none => s
    | some a =>
      let st := if a.wiped then 0x60 else status
      let dt := if a.wiped then 0 else detail
      let s1 := s.modHub fun H => { H with accepted := H.accepted.filter fun x => x.origin != o }
      if mb then
        { s1 with mbox := { s1.mbox with
            reply := replyEntry tag seq st dt (a.res.toNat % 2 ^ 96 + 2 ^ 96 * extra)
            done := true, busy := false, begun := false } }
      else
        let F := s1.fn f.toNat
        let e := evEntry 0x8001 st tag.toNat F.evtCount.toNat
          (pack [(64, seq.toNat), (32, dt), (32, extra)])
        if F.flr then s1
        else
          let s2 := s1.setFn f.toNat { F with evtCount := F.evtCount + 1 }
          if F.active then
            putEntry (s2.modFn f.toNat fun F => { F with reserved := F.reserved - 1 }) f.toNat e
          else s2.modFn f.toNat fun F => { F with doneWait := F.doneWait ++ [⟨e⟩] }

/-- Takes a packet from the fetched list and reserves its entries (R291). -/
def takePacket (c : Cmd) (p : Packet) (s : State) : State :=
  if p.mbox then { s with mbox := { s.mbox with begun := true } }
  else s.modFn p.fn.toNat fun F => { F with
    fetched := F.fetched.filter fun q => q.pkt != p.core
    begun := F.begun ++ [p.core]
    reserved := F.reserved + if c.accepts then 2 else 1 }

/-- Returns the second entry of a command marked A that was not accepted. -/
def dropSecond (c : Cmd) (p : Packet) (s : State) : State :=
  if c.accepts && !p.mbox then s.modFn p.fn.toNat fun F => { F with reserved := F.reserved - 1 } else s

/-- The status of a packet that failed while it was fetched is replied once it may begin. -/
def drainBad : Nat → State → Nat → State
  | 0, s, _ => s
  | n + 1, s, f =>
    match (s.fn f).fetched.find? (fun q => q.bad.isSome && mayBegin s q 1) with
    | some q => match q.bad with
      | some b =>
        let s1 := s.modFn f fun F => { F with
          fetched := F.fetched.filter fun x => x.pkt != q.pkt, reserved := F.reserved + 1 }
        drainBad n (replyQueue s1 f (replyEntry q.pkt.tag q.pkt.seq b.1.toNat b.2.toNat 0)) f
      | none => s
    | none => s

/-- Carries out what a command's effect answered. -/
def conclude (c : Cmd) (p : Packet) (x : State × Rep) : State :=
  match x.2 with
  | .done st dt r bs => replyTo (dropSecond c p x.1) c.buffer p st dt r bs
  | .accept job r =>
    let s1 := x.1.modHub fun H => { H with
      accepted := H.accepted ++ [⟨originOf p, job, false, BitVec.ofNat 128 r⟩] }
    if p.mbox then s1 else
      replyQueue (s1.modFn p.fn.toNat fun F => { F with begun := F.begun.filter (· != p.core) })
        p.fn.toNat (replyEntry p.tag p.seq 1 0 r)
  | .wait => x.1

/-- An authentication failure enters the audit ring and is reported (R433, R435). -/
def noteFail (p : Packet) (f : Fail) (s : State) : State :=
  if f.status = 0x31 then
    evSec (audit s 5 p.part 0 0xC005 f.status f.detail 0) 4 p.part
  else s

/-- One command: it begins, is checked, takes effect and replies, as one step (R287, R295). A command
that does not begin in this state leaves the state unchanged (log entry 4). `params` and `state` are the
chapter's checks of steps 8 and 10 to 11, and `eff` the effect. -/
def Cmd.run (c : Cmd) (p : Packet) (s : State) (params state : List (Option Fail))
    (eff : State → State × Rep) : Host.Outcome State Fault Refusal :=
  if begins c p s then
    let s1 := takePacket c p s
    let s2 := match allChecks c p s params state with
      | some f => conclude c p (noteFail p f s1, .fail f)
      | none => conclude c p (eff s1)
    ok (drainBad 16 s2 p.fn.toNat)
  else .next s

/-- Ends every accepted command that waits for a piece of work (R286). -/
def finishJob (s : State) (j : Job) (status detail extra : Nat) : State :=
  ((s.hub.accepted.filter (·.job == j)).map (·.origin)).foldl
    (fun s o => finish s o status detail extra) s

end Sys2Proof.Machine
end

