-- ==== Sys2Proof/Machine/DmaOps.lean ====
section
/-! DEFINITION. The DMA operations that other chapters use: silencing a channel. -/
namespace Sys2Proof.Machine

/-- AER of a function logs Poisoned TLP Received, as an advisory non-fatal error (R321). -/
def aerNote (s : State) (f : Nat) : State := s.modFn f fun F => { F with aerPoison := true }

/-- Silences a channel: nothing new is issued, its data are discarded and no record is written (R326,
R346 reason 8, R427). A compression job that it carries ends with outcome 6, and a waiting DMA_HALT replies
(R350, R357); an FLR has left no command to reply to. -/
def silenceDma (s : State) (n : Nat) : State :=
  let D := s.dmaCh n
  if D.st == .idle || D.st == .halted then s
  else
    let s1 := s.modDma n fun D => { D with
      st := .halted, haltReason := 8, haltPend := none, cur := none, nextDesc := none
      recWait := none, dieWait := none, job := none, haltWait := [] }
    let s2 := match D.job with
      | some m => finishJob (s1.modCmp m fun C => { C with st := 3, outcome := 6, input := [], output := [] })
          (.cmp m) 0x50 (loc 6 n + 2 ^ 16 * 8) 6
      | none => s1
    D.haltWait.foldl (fun s p => replyTo s false p 0 0 0 []) s2

end Sys2Proof.Machine
end

