-- ==== Sys2Proof/Machine/SecOps.lean ====
section
/-! DEFINITION. The security island's operations: sessions, chains, seals, zeroisation and the error
state (R408 to R435). -/
namespace Sys2Proof.Machine

/-- A random value of `w` bits from the DRBG (R409): a free value. -/
def rand (s : State) (w : Nat) : Nat × State :=
  let (v, s1) := s.fresh
  (v % 2 ^ w, s1.modSec fun S => { S with drbgReq := S.drbgReq + 1, randCtr := S.randCtr + 1 })

/-- A DRBG that has answered 2^20 requests since its reseed reseeds before it answers more (R409). -/
def reseedDue (s : State) : Bool := s.sec.drbgReq ≥ 2 ^ 20

/-- Writes audit kind 3 and EV_SECURITY kind 3 (R415, R433, R435): role 1 User, 2 Crypto Officer. -/
def noteUnsealed (s : State) (k role cause : Nat) (x : Session) : State :=
  evSec (audit s 3 k role 0xC005 0 cause x.sid.toNat) 3 k

/-- A User session ends without a seal (R415). -/
def endUserSession (s : State) (k cause : Nat) : State :=
  match (s.part k).session with
  | none => s
  | some x => noteUnsealed (s.modPart k fun P => { P with session := none }) k 1 cause x

/-- The Crypto Officer session ends without a seal (R415). -/
def endCoSession (s : State) (cause : Nat) : State :=
  match s.sec.coSession with
  | none => s
  | some x => noteUnsealed (s.modSec fun S => { S with coSession := none }) 0 2 cause x

/-- Every session ends without a seal. -/
def endSessions (s : State) (cause : Nat) : State :=
  endCoSession (forEach (List.range 16) (fun s k => endUserSession s k cause) s) cause

/-- Zeroisation of the items in island RAM (R424, R428). -/
def zeroise (s : State) : State :=
  (endSessions s 4).modSec fun S => { S with kek := false, drbgReq := 0 }

/-- Entry to the error state (R427, R433, R435). -/
def enterError (s : State) (test : BitVec 32) (entropy : Bool) : State :=
  let s1 := endSessions s 3
  let s2 := forEach (List.range 32) silenceDma s1
  let s3 := s2.modSec fun S => { S with error := true, errEntropy := entropy, errTest := test }
  evSec (audit s3 11 0 0 0xC005 0 test.toNat 0) 1 0xF

/-- The trusted root hash (R412). -/
def trustedRoot (s : State) : BitVec 384 :=
  if lifecycle s = 2 then fbv s.sec.sensed 144 384 else Config.mfgRoot

/-- An owner certificate of 7,504 bytes covers a key hash, a role and a partition (R412). -/
def certOk (s : State) (cert : List Byte) (keyHash : BitVec 384) (role k : Nat) : Bool :=
  let roots := slice cert 0 97 ++ slice cert 128 2592
  let masks := slice cert 2720 16
  Config.sha384 roots == trustedRoot s &&
  Config.pairValid roots (bytesOf 48 (Config.sha384 (masks ++ bytesOf 48 keyHash.toNat)).toNat)
    (slice cert 2736 96 ++ slice cert 2832 4627) &&
  (le (slice cert 2720 2) >>> k) % 2 == 1 && (le (slice cert 2722 1) >>> role) % 2 == 1

/-- The reserved bits of a certificate are zero (R5, R412). -/
def certReserved (cert : List Byte) : Bool :=
  (slice cert 97 31).all (· == 0) && le (slice cert 2722 14) >>> 2 == 0 && (slice cert 7459 45).all (· == 0)

/-- The certificate in a session request. -/
def reqCert (r : List Byte) : List Byte := slice r 9216 (le (slice r 2 2))

/-- The operator's key hash (R412). -/
def reqKeyHash (r : List Byte) : BitVec 384 := Config.sha384 (slice r 64 97 ++ slice r 192 2592)

/-- The request's signatures and credential are valid (R412, R413). -/
def credentialOk (s : State) (k : Nat) (r : List Byte) : Bool :=
  let role := le (slice r 0 1)
  let cl := le (slice r 2 2)
  Config.pairValid (slice r 64 97 ++ slice r 192 2592) (slice r 0 4480)
    (slice r 4480 96 ++ slice r 4576 4627) &&
  (if cl = 0 then role == 0 && fld s.sec.sensed 6 2 == 0
   else certOk s (reqCert r) (reqKeyHash r) role k)

/-- The reserved bits of a session request are zero (R5, R413). -/
def reqReserved (r : List Byte) : Bool :=
  fld (BitVec.ofNat 16 (le (slice r 0 2))) 9 7 == 0 && (slice r 4 28).all (· == 0) &&
  (slice r 161 31).all (· == 0) && (slice r 2881 31).all (· == 0) && (slice r 9203 13).all (· == 0) &&
  (le (slice r 2 2) == 0 || certReserved (reqCert r))

/-- Start value of a run chain or an offload chain (R417). -/
def chainStart (sid : BitVec 128) (i : Nat) (mark : Nat) : BitVec 384 :=
  Config.sha384 (bytesOf 16 sid.toNat ++ bytesOf 2 i ++ bytesOf 1 mark)

/-- A 64-byte chain item (R418). -/
def chainItem (l links : Nat) (v : BitVec 384) : List Byte :=
  bytesOf 64 (pack [(16, l), (48, 0), (64, links), (384, v.toNat)])

/-- The port items of a session in ascending location code. -/
def portItems (x : Session) : List Byte :=
  (allPorts.filter x.ports.contains).flatMap fun p =>
    chainItem (locPort p) (x.runLinks.get 0 p) (x.runChain.get (chainStart x.sid p 1) p)

/-- The channel items of a session in ascending location code. -/
def chanItems (x : Session) : List Byte :=
  ((List.range 32).filter x.chans.contains).flatMap fun n =>
    chainItem (loc 6 n) (x.offLinks.get 0 n) (x.offChain.get (chainStart x.sid n 2) n)

/-- The calibration record (R420): blocks with MK0.cal in the session, or since leaving DOWN. -/
def calRecord (s : State) (k : Nat) (inSession : Bool) : List Byte :=
  slice Config.factoryCal 0 512 ++
  ((List.range 16).flatMap fun i =>
    let c := s.mon.cals.get Cal.reset i
    bytesOf 8 (pack [(32, c.gain.toNat), (16, c.rawZero.toNat), (1, b2n c.done)])) ++
  ((s.partPorts k).filter fun p => (s.port p).state != .down).flatMap fun p =>
    let P := s.port p
    bytesOf 48 (pack [(16, p), (16, 0), (32, (if inSession then P.calSess else P.calBlocks).toNat),
      (64, 0), (256, P.desc.toNat)])

/-- The running firmware slot (R425). -/
def runningFw (s : State) : Fw := s.sec.slots.get Fw.reset s.sec.fwSlot

/-- The seal message, or the attestation report, and its signatures (R419). -/
def sealBytes (s : State) (k : Nat) (report : Bool) (sid transcript opHash openTm closeTm : Nat)
    (x : Option Session) (cal : List Byte) : List Byte :=
  let pi := (x.map portItems).getD []
  let ci := (x.map chanItems).getD []
  let sum := fun (t : Tab Nat) => (t.map (·.2)).foldl (· + ·) 0
  let msg := bytesOf 544 (pack
    [(64, 0x4C41455320515653), (8, if report then 2 else 1), (8, 1), (16, 0),
     (32, (runningFw s).version.toNat), (64, Config.serial.toNat), (12, fld s.vach.cfg 0 12), (4, k),
     (3, lifecycle s), (1, b2n s.sec.approved), (1, s.sec.fwSlot), (43, 0), (128, sid),
     (384, transcript), (384, opHash), (72, openTm), (72, closeTm), (6, s.tmStOf s.time.slotCount), (106, 0),
     (384, (runningFw s).meas.toNat), (1024, s.sec.sensed.toNat), (384, (Config.sha384 cal).toNat),
     (32, le (slice Config.factoryCal 0 4)),
     (8, b2n Config.factoryIntact + 2 * b2n ((x.map (·.calChanged)).getD false)), (24, 0),
     (384, if x.isSome then (Config.sha384 pi).toNat else 0), (64, (x.map fun y => sum y.runLinks).getD 0),
     (384, if x.isSome then (Config.sha384 ci).toNat else 0), (64, (x.map fun y => sum y.offLinks).getD 0),
     (64, s.sec.auditSeq.toNat - 1), (64, (x.map (·.gapped.toNat)).getD 0), (16, pi.length / 64),
     (16, ci.length / 64), (32, 0)])
  msg ++ slice (Config.sign false (bytesOf 48 (Config.sha384 msg).toNat)) 0 96
    ++ slice (Config.sign true msg) 0 4627 ++ List.replicate 13 0

/-- The identity can sign: it exists and its private keys are held (R422 to R424). -/
def canSign (s : State) : Bool := s.sec.identity && s.sec.kek

/-- Opens the session that a verified request asked for (R413, R414, R417): the session, the response of
6,544 bytes and the state. -/
def openSession (s : State) (p : Packet) : Session × List Byte × State :=
  let r := p.refData
  let (sid, s1) := rand s 128
  let (nonce, s2) := rand s1 256
  let (eph, s3) := rand s2 776
  let (ct, secret) := Config.agree (slice r 2784 97 ++ slice r 2912 1568) (bytesOf 97 eph)
  let body := bytesOf 16 sid ++ List.replicate 16 0 ++ bytesOf 32 nonce ++ bytesOf 97 eph ++
    List.replicate 31 0 ++ slice ct 0 1568
  let t := Config.sha384 (r ++ body)
  let tb := bytesOf 48 t.toNat
  let resp := body ++ tb ++ slice (Config.sign false tb) 0 96 ++ slice (Config.sign true tb) 0 4627 ++
    List.replicate 13 0
  let prk := bytesOf 48 (Config.hmac (slice r 32 32 ++ bytesOf 32 nonce) secret).toNat
  let keys := Config.kdf prk tb 84
  let x : Session := { Session.reset with
    sid := BitVec.ofNat 128 sid
    kcmd := BitVec.ofNat 384 (le (slice keys 0 48))
    koff := BitVec.ofNat 256 (le (slice keys 48 32))
    salt := BitVec.ofNat 32 (le (slice keys 80 4))
    enc := bit (BitVec.ofNat 16 (le (slice r 0 2))) 8
    transcript := t
    opHash := reqKeyHash r
    openTm := s.nowTm
    ports := s.partPorts p.part
    chans := s.partDma p.part }
  (x, resp, s3)

/-- An enc_offload session of the partition is open (R416). -/
def encrypts (s : State) (k : Nat) : Bool :=
  match (s.part k).session with
  | some x => x.enc
  | none => false

/-- Applies a function to a partition's User session. -/
def modSession (s : State) (k : Nat) (f : Session → Session) : State :=
  s.modPart k fun P => { P with session := P.session.map f }

/-- A block joins the chains of the partition that it is assigned to (R418). -/
def joinSession (s : State) (k : Nat) (port : Bool) (n : Nat) : State :=
  modSession s k fun x =>
    if port then { x with ports := if x.ports.contains n then x.ports else x.ports ++ [n] }
    else { x with chans := if x.chans.contains n then x.chans else x.chans ++ [n] }

end Sys2Proof.Machine
end

