-- ==== Sys2Proof/Machine/ResetOps.lean ====
section
/-! DEFINITION. Reset scopes and books of blocks that several chapters use (R22, R23, R442, R454). -/
namespace Sys2Proof.Machine

/-- Cluster reset: all state of the cluster, its engines, and the spectral chains and density fields of
its port pair; the power switch stays as it is (R23, R24). -/
def clusterReset (s : State) (k : Nat) : State :=
  let s1 := s.modCluster k fun C => { Cluster.reset with powered := C.powered, powering := C.powering }
  let s2 := forEach (clusterEngines k) (fun s e => s.setEng e Engine.reset) s1
  forEach (pairPorts k) (fun s p => s.modPort p fun P =>
    { P with chain := Chain.reset, dens := Dens.reset }) s2

/-- A DMA channel that changes partition: its buffer, descriptor copies and window cache are cleared
(R432). -/
def dmaHandover (s : State) (n : Nat) : State :=
  s.modDma n fun D => { D with
    cur := none, nextDesc := none, recent := [], cache := WinCache.reset }

/-- An engine is running (R22, R229). -/
def engBusy (s : State) (e : Nat) : Bool :=
  let st := (s.eng e).st
  st == .running || st == .handler || st == .restarting || (s.eng e).startAt.isSome

/-- A spectral chain is active (R22, R171). -/
def chainBusy (s : State) (p : Nat) : Bool :=
  (s.port p).chain.st != .stopped || !(s.port p).chain.sched.isEmpty

/-- A DMA channel runs (R329). -/
def dmaBusy (s : State) (n : Nat) : Bool :=
  let st := (s.dmaCh n).st
  st == .running || st == .halting || st == .job || st == .hold

/-- A DMA channel is reading the shared memory of the pair's cluster, or a density image of its ports (R22,
R332). -/
def pairRead (s : State) (k : Nat) : Bool :=
  s.dma.any fun x => dmaBusy s x.1 && match x.2.cur with
    | some d => decide (d.read < d.total) && ((fld d.bits 304 4 == 2 && fld d.bits 320 9 == k) ||
        (fld d.bits 304 4 == 3 && (pairPorts k).contains (fld d.bits 320 9)))
    | none => false

/-- A port pair's cluster, or one of its ports, is in use (R22). -/
def pairBusy (s : State) (k : Nat) : Bool :=
  (clusterEngines k).any (engBusy s) || pairRead s k || (pairPorts k).any fun p =>
    chainBusy s p || (s.port p).trig.armed

/-- A channel is in service: IN_ORDER or SERVICE (R260). -/
def chanServes (s : State) (c : Nat) : Bool :=
  let st := (s.chan c).st
  st == .inOrder || st == .service

/-- A lodge channel is in service (R442). -/
def lodgeServes (s : State) : Bool := chanServes s 7 || chanServes s 15

/-- Region `r` can capture: its die is in service and it has a capture-class channel (R442). -/
def regionOk (s : State) (r : Nat) : Bool :=
  (s.die (r / 4)).bootOk && (regionChans r).any fun c => (s.chan c).st != .retired && (s.chan c).st != .fenced

/-- The fault summary (R455). -/
def faultSummary (s : State) : Nat :=
  let F := s.faults
  let mask := fun (n : Nat) (t : Nat → Bool) => (List.range n).foldl (fun m k => m + b2n (t k) * 2 ^ k) 0
  let regions := mask 16 (regionOk s)
  pack [(4, s.boot.cause.toNat), (1, b2n (regions != 0 && lodgeServes s)), (3, 0), (4, F.cores.toNat),
    (4, 0), (16, regions), (16, mask 16 fun r => (s.region r).spareOf.isSome),
    (8, mask 8 fun k => (s.boot.stackRecs.get StackRec.reset k).strike == 2), (8, 0),
    (128, mask 128 fun c => (s.chan c).st == .retired), (32, F.faultSeq.toNat), (32, F.seen.toNat),
    (48, F.replays.toNat), (32, F.takeovers.toNat), (32, F.restarts.toNat), (32, F.ueTotal.toNat),
    (32, F.wdBreaks.toNat), (32, F.logOver.toNat), (32, s.boot.count.toNat)]

end Sys2Proof.Machine
end

