-- ==== Sys2Proof/Machine/Partition.lean ====
section
/-! DEFINITION. The commands of family 0x02: assignment, windows, wipes and event masks (R288, R297,
R300, R429 to R432). -/
namespace Sys2Proof.Machine

/-! ### Assignment -/

/-- Blocks of the assignment classes (R300). -/
def classSize : Nat → Nat
  | 1 => 64 | 2 => 32 | 3 => 16 | 4 => 144 | _ => 0

def blockOwner (s : State) (c i : Nat) : Option (BitVec 4) :=
  match c with
  | 1 => s.pairOwner i
  | 2 => s.dmaOwner i
  | 3 => s.pcsOwner i
  | _ => s.lineOwner i

/-- Location code of a block of an assignment class: a pair by its cluster (R17), a sequencer or a line
by the package. -/
def blockLoc (c i : Nat) : Nat :=
  match c with
  | 1 => loc 7 i
  | 2 => loc 6 i
  | _ => locPackage

def setOwner (s : State) (c i : Nat) (o : Option (BitVec 4)) : State :=
  s.modHub fun H => match c with
    | 1 => { H with pairOwner := H.pairOwner.set i o }
    | 2 => { H with dmaOwner := H.dmaOwner.set i o }
    | 3 => { H with pcsOwner := H.pcsOwner.set i o }
    | _ => { H with lineOwner := H.lineOwner.set i o }

/-- Gives a block to an owner; what it held for the old one is cleared first (R432). A block that already
has the owner stays as it is. -/
def giveBlock (c : Nat) (o : Option (BitVec 4)) (s : State) (i : Nat) : State :=
  if blockOwner s c i == o then s
  else
    let s1 := match c with
      | 1 => clusterReset s i
      | 2 => dmaHandover s i
      | _ => s
    let s2 := setOwner s1 c i o
    match o, c with
    | some k, 1 => forEach (pairPorts i) (fun s p => joinSession s k.toNat true p) s2
    | some k, 2 => joinSession s2 k.toNat false i
    | _, _ => s2

/-- The block is in use (R22), armed or runs. -/
def blockBusy (s : State) (c i : Nat) : Bool :=
  match c with
  | 1 => pairBusy s i
  | 2 => dmaBusy s i
  | 3 => bit (s.seqr i).table 359
  | _ => false

def spanOf (p : Packet) : List Nat := (List.range (p.inb 8 2)).map (p.inb 6 2 + ·)

def spanChecks (p : Packet) : List (Option Fail) :=
  [ need (classSize (p.inb 4 1) ≠ 0) (badParam noLoc 20),
    need (p.inb 6 2 + p.inb 8 2 ≤ classSize (p.inb 4 1)) (badParam noLoc 22) ]

/-- ST_STATE with the location code of the first block of the span that fails. -/
def spanState (p : Packet) (bad : Nat → Bool) : Option Fail :=
  match (spanOf p).find? bad with
  | some i => some (stState (blockLoc (p.inb 4 1) i) 0)
  | none => none

/-- Audit kind 13: class, first index and count (R433). -/
def auditSpan (s : State) (p : Packet) : State :=
  audit s 13 p.partition.toNat 2 (blockLoc (p.inb 4 1) (p.inb 6 2)) 0
    (p.inb 4 1 + 2 ^ 8 * p.inb 6 2 + 2 ^ 24 * p.inb 8 2) 0

def cmdPartAssign : Cmd := { opcode := 0x0201, mgmt := true, auth := true, partField := true }

/-- PART_ASSIGN (R300, R432). -/
def execPartAssign (p : Packet) (s : State) : Host.Outcome State Fault Refusal :=
  let c := p.inb 4 1
  Cmd.run cmdPartAssign p s (spanChecks p)
    [spanState p fun i => (blockOwner s c i).isSome && blockOwner s c i != some p.partition]
    fun s => (auditSpan (forEach (spanOf p) (giveBlock c (some p.partition)) s) p, .ok)

def cmdPartRelease : Cmd := { opcode := 0x0202, mgmt := true, partField := true }

/-- PART_RELEASE (R300, R432). -/
def execPartRelease (p : Packet) (s : State) : Host.Outcome State Fault Refusal :=
  let c := p.inb 4 1
  Cmd.run cmdPartRelease p s (spanChecks p)
    [spanState p fun i => (blockOwner s c i).isSome &&
      (blockBusy s c i || blockOwner s c i != some p.partition)]
    fun s => (auditSpan (forEach (spanOf p) (giveBlock c none) s) p, .ok)

/-! ### Windows -/

def winBase (e : BitVec 128) : Nat := fld e 0 39
def winSize (e : BitVec 128) : Nat := fld e 64 39
def winPart (e : BitVec 128) : Nat := fld e 39 4
def winValid (e : BitVec 128) : Bool := bit e 45
def State.window (s : State) (i : Nat) : BitVec 128 := s.hub.windows.get 0 i

/-- End of a region's capture memory, as a region offset (R250, R429). -/
def regionEnd (r : Nat) : Nat := if r < 2 then 0x700000000 else 2 ^ 35

/-- A valid entry meets the base and size rules (R429, R430). -/
def winShape (e : BitVec 128) : Bool :=
  let off := fld e 0 35
  off % 4608 == 0 && winSize e != 0 && winSize e % 4608 == 0 &&
    decide (off + winSize e ≤ regionEnd (fld e 35 4))

/-- Two entries share a byte. -/
def winOverlap (a b : BitVec 128) : Bool :=
  decide (winBase a < winBase b + winSize b) && decide (winBase b < winBase a + winSize a)

/-- The bytes from `a` to `b` lie in entries of a list: each stretch in one of them. -/
def covered : Nat → List (BitVec 128) → Nat → Nat → Bool
  | 0, _, a, b => decide (b ≤ a)
  | n + 1, es, a, b =>
    if b ≤ a then true
    else match es.find? (fun e => decide (winBase e ≤ a) && decide (a < winBase e + winSize e)) with
      | some e => covered n es (winBase e + winSize e) b
      | none => false

/-- The entries of a PART_WINDOW_SET. -/
def newEntries (p : Packet) : List (BitVec 128) :=
  (List.range (p.inb 8 4)).map fun i => BitVec.ofNat 128 (p.dat (16 * i) 16)

/-- The window table with the entries written. -/
def newWindows (p : Packet) (s : State) : Tab (BitVec 128) := s.hub.windows.setList (p.inb 4 4) (newEntries p)

/-- The valid entries of a table that belong to partition `k`. -/
def entriesOf (t : Tab (BitVec 128)) (k : Nat) : List (BitVec 128) :=
  (t.map (·.2)).filter fun e => winValid e && winPart e == k

/-- An entry written valid overlaps a valid entry of another partition (R430). -/
def overlapsOther (t : Tab (BitVec 128)) (e : BitVec 128) : Bool :=
  winValid e && t.any fun x => winValid x.2 && winPart x.2 != winPart e && winOverlap x.2 e

/-- The table would take bytes away from a dirty partition (R430). -/
def takesDirty (s : State) (t : Tab (BitVec 128)) : Bool :=
  s.hub.windows.any fun x =>
    let e := x.2
    winValid e && (s.part (winPart e)).dirty &&
      !covered 1025 (entriesOf t (winPart e)) (winBase e) (winBase e + winSize e)

def dropPrefetch (s : State) : State :=
  { s with fns := s.fns.map fun x => (x.1, { x.2 with prefetch := none }) }

def cmdPartWindowSet : Cmd := { opcode := 0x0204, mgmt := true, auth := true, partField := true }

/-- PART_WINDOW_SET (R429, R430). -/
def execPartWindowSet (p : Packet) (s : State) : Host.Outcome State Fault Refusal :=
  let first := p.inb 4 4
  let n := p.inb 8 4
  let es := newEntries p
  let t := newWindows p s
  Cmd.run cmdPartWindowSet p s
    [ need (1 ≤ n && n ≤ 1024) (badParam noLoc 24),
      need (first + n ≤ 1024) (badParam noLoc 20),
      need (16 * n ≤ p.data.length) (badParam noLoc (p.dataOff false + p.data.length)),
      need (es.all fun e => zeros e [(47, 17), (103, 25)]) (badParam noLoc noLoc),
      need (es.all fun e => !winValid e || winShape e) (badParam noLoc noLoc),
      need (!es.any (overlapsOther t)) (badParam noLoc noLoc) ]
    [ need (!(List.range n).any fun i =>
        let old := s.window (first + i)
        let e := es.getD i 0
        winValid e && winValid old && winPart old != winPart e) (stState locPackage 0),
      need (!takesDirty s t) (stState locPackage 0) ]
    fun s =>
      (audit (dropPrefetch (s.modHub fun H => { H with windows := newWindows p s }))
        12 p.partition.toNat 2 locPackage 0 (first + 2 ^ 32 * n) 0, .ok)

def dropCached (c : WinCache) (is : List Nat) : WinCache :=
  { c with entries := c.entries.filter fun x => !is.contains x.1 }

def cmdPartWindowInval : Cmd := { opcode := 0x0205, mgmt := true, partField := true }

/-- PART_WINDOW_INVAL: every window cache drops the entries, and Chute prefetch goes (R431). -/
def execPartWindowInval (p : Packet) (s : State) : Host.Outcome State Fault Refusal :=
  let first := p.inb 4 4
  let n := p.inb 8 4
  Cmd.run cmdPartWindowInval p s
    [need (first ≤ 1024 && first + n ≤ 1024) (badParam noLoc 20)] []
    fun s =>
      let is := (List.range n).map (first + ·)
      (dropPrefetch { s with
        regions := s.regions.map fun x => (x.1, { x.2 with cache := dropCached x.2.cache is })
        dma := s.dma.map fun x => (x.1, { x.2 with cache := dropCached x.2.cache is }) }, .ok)

/-! ### Wipes, reads and event masks -/

/-- The channels that hold bytes of a partition's windows: those of its regions (R250, R429). -/
def partChans (s : State) (k : Nat) : List Nat :=
  captureChans.filter fun c => (s.chan c).st != .retired && (s.chan c).st != .fenced &&
    (entriesOf s.hub.windows k).any fun e => fld e 35 4 == chanRegion c

/-- An address lies in a valid window of a partition. -/
def inWindows (s : State) (k a : Nat) : Bool :=
  (entriesOf s.hub.windows k).any fun e => decide (winBase e ≤ a) && decide (a < winBase e + winSize e)

/-- The wipe of a partition's windows ends (R297, R326, R430, R433): its bytes are zero data, and the
partition is no longer dirty. -/
def endPartWipe (s : State) (k cause : Nat) : State :=
  let s1 := { s with mem := Memory.wipe s.mem (inWindows s k) }
  audit (s1.modPart k fun P => { P with dirty := false }) 14 k 0 locPackage 0 cause 0

/-- A PART_WIPE or an FLR wipe of the partition is in progress. -/
def wipesLeft (s : State) (k : Nat) : Bool :=
  s.hub.wipes.any fun w => w.kind == .part k || w.kind == .flr k

/-- The PART_WIPE commands of a partition end once no wipe of it is left (R297, R326). -/
def settlePartWipe (s : State) (k : Nat) : State :=
  if wipesLeft s k then s
  else finishJob (s.modPart k fun P => { P with wiping := false }) (.partWipe k) 0 0 0

/-- A wipe clears whole channels; the wipe of a partition's windows does not. -/
def WipeKind.whole : WipeKind → Bool
  | .part _ | .flr _ => false
  | _ => true

/-- A wipe of channels starts, but on those that are RETIRED or being retired; a wipe of whole channels takes
them out of SERVICE until it ends (R258, R260, R269). -/
def startWipe (s : State) (kind : WipeKind) (cs : List Nat) : State :=
  let cs' := cs.filter fun c => (s.chan c).st != .retired && (s.chan c).st != .fenced
  (forEach cs' (fun s c => s.modChan c fun C => { C with
      wiping := true, openRow := if kind.whole then [] else C.openRow
      st := if C.st == .service && kind.whole then .inOrder else C.st }) s).modHub
    fun H => { H with wipes := if cs'.isEmpty then H.wipes else H.wipes ++ [⟨kind, cs'⟩] }

/-- A compression job of the partition ends with ST_WIPED; its channel is IDLE (R297, R357, R358). -/
def wipeJob (s : State) (m : Nat) : State :=
  let C := s.cmpEng m
  if C.st == 1 || C.st == 2 then
    let s1 := s.modCmp m fun C => { C with st := 3, outcome := 7, input := [], output := [] }
    let s2 := s1.modDma C.channel.toNat fun D => { D with
      st := .idle, cur := none, nextDesc := none, recWait := none, haltPend := none, job := none }
    finishJob s2 (.cmp m) 0x60 0 0
  else s

/-- PART_WIPE is accepted (R297): the session ends without a seal (R415), accepted work of the partition is
marked, its compression jobs end, and the wipe of its windows starts. -/
def startPartWipe (s : State) (k : Nat) : State :=
  let s1 := (endUserSession s k 2).modHub fun H => { H with
    accepted := H.accepted.map fun a => match a.origin with
      | .cmd false f _ _ _ => if f.toNat == k then { a with wiped := true } else a
      | _ => a }
  let s2 := startWipe (s1.modPart k fun P => { P with wiping := true }) (.part k) (partChans s k)
  forEach ((List.range 16).filter fun m => (s2.cmpEng m).part == k) wipeJob s2

def cmdPartWipe : Cmd := { opcode := 0x0203, mgmt := true, accepts := true, partField := true }

/-- PART_WIPE (R297). Where no channel holds bytes of the partition, its wipe ends at once, and EV_DONE follows
the acceptance. -/
def execPartWipe (p : Packet) (s : State) : Host.Outcome State Fault Refusal :=
  let k := p.partition.toNat
  match Cmd.run cmdPartWipe p s [] [] (fun s => (startPartWipe s k, .accept (.partWipe k) 0)) with
  | .next s1 =>
    if (s1.part k).wiping && !wipesLeft s1 k then ok (settlePartWipe (endPartWipe s1 k 1) k) else .next s1
  | r => r

def cmdPartGet : Cmd := { opcode := 0x0206, buffer := true, partField := true }

/-- PART_GET: the blocks of the partition (R300). -/
def execPartGet (p : Packet) (s : State) : Host.Outcome State Fault Refusal :=
  Cmd.run cmdPartGet p s [] [] fun s =>
    let mask := fun (n : Nat) (o : Nat → Option (BitVec 4)) =>
      (List.range n).foldl (fun m k => m + b2n (o k == some p.partition) * 2 ^ k) 0
    (s, .bytes (bytesOf 32 (pack [(64, mask 64 s.pairOwner), (32, mask 32 s.dmaOwner),
      (16, mask 16 s.pcsOwner), (144, mask 144 s.lineOwner)])))

def cmdPartEvents : Cmd := { opcode := 0x0207, partField := true }

/-- PART_EVENTS (R288, R300). -/
def execPartEvents (p : Packet) (s : State) : Host.Outcome State Fault Refusal :=
  Cmd.run cmdPartEvents p s
    [need (p.inb 8 4 ≤ 1000000) (badParam noLoc 24)] []
    fun s => (s.modPart p.partition.toNat fun P => { P with
      evMask := BitVec.ofNat 32 (p.inb 4 4), evInterval := BitVec.ofNat 32 (p.inb 8 4)
      evT0 := s.time.slotCount, evIdx := 0, trigIvs := [] }, .ok)

/-- EV_TRIG_INTERVAL: once its last timemark has passed, the interval in progress ends; its record is sent when a port
of the partition triggered in it (R127, R288). -/
def execEvTrigInterval (part : BitVec 4) (s : State) : Host.Outcome State Fault Refusal :=
  let k := part.toNat
  let P := s.part k
  if P.evInterval = 0 || !notAfter P.evT0 s.time.slotCount ||
      slotsTo P.evT0 s.time.slotCount < (P.evIdx + 1) * trigInterval P.evInterval.toNat then .next s
  else
    let s1 := match P.trigIvs.find? (·.1 == P.evIdx) with
      | some (_, n, tm, rank) =>
        evPart s k 0x8002 (P.evIdx % 2 ^ 32) (tm.toNat + 2 ^ 72 * (rank % 256) + 2 ^ 80 * min n (2 ^ 32 - 1))
      | none => s
    ok (s1.modPart k fun P => { P with
      evIdx := P.evIdx + 1, trigIvs := P.trigIvs.filter fun x => x.1 != P.evIdx })

end Sys2Proof.Machine
end

