-- ==== Sys2Proof/Machine/MemMap.lean ====
section
/-! DEFINITION. The address map of capture memory (R249 to R251) and the placing of units in rings that step
over retired granules (R139, R271). -/
namespace Sys2Proof.Machine

/-- Region of an address, and its offset in the region (R250). -/
def addrRegion (a : Nat) : Nat := a / 2 ^ 35 % 16
def addrOff (a : Nat) : Nat := a % 2 ^ 35

/-- The channel that holds an address (R250). -/
def addrChan (a : Nat) : Nat :=
  let l := regionChans (addrRegion a)
  l.getD (addrOff a / 4608 % l.length) 0

/-- An address is backed (R250). -/
def backed (a : Nat) : Bool := decide (a < 2 ^ 39) && decide (addrOff a < regionEnd (addrRegion a))

/-- Row index of an address within its channel (R250). -/
def addrRowIndex (a : Nat) : Nat := addrOff a / 4608 / (regionChans (addrRegion a)).length
/-- Channel-local byte of an address (R250). -/
def addrLocal (a : Nat) : Nat := 4608 * addrRowIndex a + addrOff a % 4608
/-- Channel-local burst of an address (R249). -/
def addrBurst (a : Nat) : Nat := addrLocal a / 72

/-- The package address of a channel-local byte of a capture-class channel (R250), where it is mapped. -/
def chanAddr (c b : Nat) : Option Nat :=
  let r := chanRegion c
  let l := regionChans r
  let o := (b / 4608 * l.length + l.idxOf c) * 4608 + b % 4608
  if isLodge c || regionEnd r ≤ o then none else some (r * 2 ^ 35 + o)

/-- Parity of the set bits of a number of at most 15 bits. -/
def parity15 (x : Nat) : Bool := (List.range 15).foldl (fun p i => p != x.testBit i) false

/-- Row, rank and bank of a row index under the controller configuration (R251). -/
def bankOf (cfg : BitVec 256) (v : Nat) : Nat × Bool × Nat :=
  let row := v / 32
  let b := fun i => v.testBit i != parity15 (row &&& fld cfg (16 * i) 15)
  (row, v.testBit 4 != parity15 (row &&& fld cfg 64 15),
    b2n (b 0) + 2 * b2n (b 1) + 4 * b2n (b 2) + 8 * b2n (b 3))

/-- The part of an area that lies in the backed memory of a region, as region offsets (R250). -/
def areaIn (a len r : Nat) : Nat × Nat :=
  let base := r * 2 ^ 35
  (max a base - base, min (a + len) (base + regionEnd r) - base)

/-- Channels covered by the part of an area that lies in a region (R250). -/
def areaChansIn (a len r : Nat) : List Nat :=
  let (lo, hi) := areaIn a len r
  if hi ≤ lo then [] else
    let cs := regionChans r
    ((List.range (min ((hi - 1) / 4608 - lo / 4608 + 1) cs.length)).map fun k =>
      cs.getD ((lo / 4608 + k) % cs.length) 0)

/-- Channels covered by an area of `len` bytes from `a` (R250). -/
def areaChans (a len : Nat) : List Nat := (List.range 16).flatMap (areaChansIn a len)

/-- Channels covered by `n` stretches of `len` bytes, `stride` bytes apart, the first from `a` (R250). Offsets
are multiples of 72, and the map repeats every 4,608 n_r bytes, so in each region 512 stretches in a row cover
what all of them do, but for the one that crosses its end. -/
def stridedChans (a stride n len : Nat) : List Nat :=
  if len = 0 then [] else (List.range 16).flatMap fun r =>
    let lo := r * 2 ^ 35
    let first := (lo - (a + len)) / max 1 stride
    let stop := min n ((lo + regionEnd r - a + stride - 1) / max 1 stride)
    let ks := if stop ≤ first + 516 then (List.range (stop - first)).map (first + ·)
      else (List.range 514).map (first + ·) ++ [stop - 2, stop - 1]
    (ks.flatMap fun k => areaChansIn (a + k * stride) len r).eraseDups

/-- Every byte of an area is backed and lies on a die (R161, R250). -/
def areaOnDie (a len d : Nat) : Bool :=
  ((List.range 4).map fun i =>
    let (lo, hi) := areaIn a len (4 * d + i)
    hi - lo).foldl (· + ·) 0 == len

/-- A channel is retired: its units are stepped over from the resume onward (R271). -/
def chanOut (s : State) (c : Nat) : Bool := (s.chan c).st == .retired

/-- The unit at an address is stepped over (R271). -/
def unitSkipped (s : State) (a : Nat) : Bool := chanOut s (addrChan a) || chanOut s (addrChan (a + 8))

/-- Places `n` units in a ring of `size` units from byte `base`, from ring step `k` on, stepping over the
units that R271 skips: the steps used, and the step after them. The first argument bounds the search. -/
def placeUnits (s : State) (base size : Nat) : Nat → Nat → Nat → List Nat → Option (List Nat × Nat)
  | _, k, 0, acc => some (acc.reverse, k)
  | 0, _, _ + 1, _ => none
  | f + 1, k, n + 1, acc =>
    if unitSkipped s (base + 9 * (k % size)) then placeUnits s base size f (k + 1) (n + 1) acc
    else placeUnits s base size f (k + 1) n (k :: acc)

/-- Every channel of a region takes stores. -/
def regionWhole (s : State) (r : Nat) : Bool := (regionChans r).all fun c => !chanOut s c

/-- Placing in a ring: all at once where nothing is skipped. -/
def place (s : State) (base size k n : Nat) : Option (List Nat × Nat) :=
  if size < n then none
  else if regionWhole s (addrRegion base) then some ((List.range n).map (k + ·), k + n)
  else placeUnits s base size size k n []

/-- Cuts a list of steps with their units into stretches of adjacent addresses. -/
def runsOf (size : Nat) : List (Nat × List Byte) → List (Nat × List Byte)
  | [] => []
  | (k, d) :: rest =>
    match runsOf size rest with
    | (k', d') :: more =>
      if k' = k + 1 && k' % size != 0 then (k, d ++ d') :: more else (k, d) :: (k', d') :: more
    | [] => [(k, d)]

end Sys2Proof.Machine
end

