-- ==== Sys2Proof/Machine/RingOps.lean ====
section
/-! DEFINITION. Stores on their way to capture memory, the placing of units in rings, and the items of the
spectrum and statistics rings (R65, R139, R146, R153, R185, R186, R203, R271). -/
namespace Sys2Proof.Machine

/-! ### Stores (R146, R153) -/

def PortRun.fifoWords (r : PortRun) : Nat := (r.fifo.map (·.words)).foldl (· + ·) 0

/-- Nine bytes to a unit. -/
def unitsOf (bs : List Byte) : List (List Byte) := (List.range (bs.length / 9)).map fun k => slice bs (9 * k) 9

/-- Places units in a ring and gives the stores that write them, the first step and the step after the
last. -/
def ringStores (s : State) (base size k : Nat) (units : List (List Byte)) (ring kind : Nat)
    (run : BitVec 36) (slot : Slot) : Option (List Store × Nat × Nat) :=
  match place s base size k units.length with
  | none => none
  | some (steps, next) => some
      ((runsOf size (steps.zip units)).map (fun x =>
        { addr := base + 9 * (x.1 % size), data := x.2, words := 4 * (x.2.length / 9), ring := ring
          base := base, size := size, step := x.1, run := run, kind := kind, slot := slot }),
        steps.headD k, next)

def pushStores (s : State) (p : Nat) (xs : List Store) : State :=
  s.modPort p fun P => { P with run := { P.run with fifo := P.run.fifo ++ xs } }

/-- A store outside a ring. -/
def plainStore (addr kind : Nat) (run : BitVec 36) (slot : Slot) (bs : List Byte) : Store :=
  { addr := addr, data := bs, words := 4 * ((bs.length + 8) / 9), ring := 0, base := 0, size := 0, step := 0
    run := run, kind := kind, slot := slot }


/-- Puts an item into a ring of a port, or drops it while fewer than 1,024 words of the store FIFO are
free (R186, R203). The answer holds the state, the ring's next unit, and whether the item was written.
Kind 4 marks a store that belongs to no run. -/
def ringItem (s : State) (p ring base size wr : Nat) (units : List (List Byte)) (slot : Slot) :
    State × Nat × Bool :=
  let R := (s.port p).run
  if 262144 - R.fifoWords < 1024 then (s, wr, false)
  else match ringStores s base size wr units ring 4 R.curSeq slot with
    | some (st, _, next) => (pushStores s p st, next % size, true)
    | none => (s, wr, false)

/-- A port writes its spectrum and statistics rings (R186): it is armed, and the slot lies at or after its
arm slot. -/
def Port.ringOpen (P : Port) (slot : Slot) : Bool := P.trig.armed && notAfter P.chain.arm0 slot

/-- A stretch of lost slots, extended by `n` slots of a cause. -/
def addGap (g : Option GapRun) (slot : Slot) (n : Nat) (cause : BitVec 4) : Option GapRun :=
  match g with
  | none => some ⟨slot, n, cause, false⟩
  | some x => some { x with lost := x.lost + n, mixed := x.mixed || x.cause != cause }

/-- A gap marker as a ring item (R78, R185). -/
def gapItem (s : State) (g : GapRun) (lost : Nat) : List (List Byte) :=
  [bytesOf 9 (s.tmOf g.start).toNat,
   bytesOf 9 (pack [(6, 1), (6, s.tmStOf g.start), (4, g.cause.toNat), (1, b2n g.mixed), (1, 0),
     (48, min lost (2 ^ 48 - 1))])]

end Sys2Proof.Machine
end

