-- ==== Sys2Proof/Machine/SpecMath.lean ====
section
/-! DEFINITION. The arithmetic of the spectral chain (R167 to R170, R179 to R182, R188): filter stages on exact
integers, windows, the transform, levels in lp. Values that are not whole are held with 64 fractional bits. -/
namespace Sys2Proof.Machine

/-- A complex value: real part, imaginary part. -/
abbrev Cx : Type := Int × Int
def Cx.plus (a b : Cx) : Cx := (a.1 + b.1, a.2 + b.2)
def Cx.minus (a b : Cx) : Cx := (a.1 - b.1, a.2 - b.2)
def Cx.times (k : Int) (a : Cx) : Cx := (k * a.1, k * a.2)

/-! ### Rounding (R169) -/

/-- A quotient by 2^n, rounded to nearest, ties away from zero. -/
def roundShift (n : Nat) (v : Int) : Int :=
  let m := if n = 0 then v.natAbs else (v.natAbs + 2 ^ (n - 1)) / 2 ^ n
  if v < 0 then -m else m

/-- A component saturated to 400000o to 377777o, and whether it was. -/
def saturate (v : Int) : SWord × Bool :=
  if v < -131072 then (BitVec.ofInt 18 (-131072), true)
  else if 131071 < v then (BitVec.ofInt 18 131071, true)
  else (BitVec.ofInt 18 v, false)

/-! ### The mixer (R167) -/

/-- x exp(-j phi), with 17 fractional bits: sine and cosine come from phi[47:28]. -/
def mix (phi : Nat) (x : Cx) : Cx :=
  let (c, s) := Config.nco (phi / 2 ^ 28 % 2 ^ 20)
  (x.1 * c.toInt + x.2 * s.toInt, x.2 * c.toInt - x.1 * s.toInt)

/-! ### Stages (R168, R170) -/

/-- A line of the latest samples, newest first, against symmetric taps. -/
def firOut (taps : List Int) (line : List Cx) : Cx :=
  (taps.zip line).foldl (fun a x => a.plus (Cx.times x.1 x.2)) (0, 0)

/-- The 47 taps of the halfband with 17 fractional bits, from its 12 coefficients (R170). -/
def hbTaps (coef : List SWord) : List Int :=
  (List.range 47).map fun i =>
    let o := max i 23 - min i 23
    if o = 0 then 65536 else if o % 2 = 1 then (coef.getD (o / 2) 0).toInt else 0

/-- The 63 taps of the compensation FIR from h0 to h31 (R170). -/
def cfirTaps (h : List SWord) : List Int :=
  (List.range 63).map fun i => (h.getD (min i (62 - i)) 0).toInt

/-- Decimating FIRs in a row. Each takes sample `j` of its input and gives an output at every odd one; the
answer holds the lines and the output of the last, with its index. -/
def firStages : List (List Int × List Cx) → Nat → Cx → List (List Cx) × Option (Nat × Cx)
  | [], j, x => ([], some (j, x))
  | (taps, line) :: rest, j, x =>
    let l := (x :: line).take taps.length
    if j % 2 = 1 then
      let (ls, o) := firStages rest (j / 2) (firOut taps l)
      (l :: ls, o)
    else (l :: rest.map (·.2), none)

/-- Integrators in a row: each adds the one before it. -/
def integrate : List Cx → Cx → List Cx × Cx
  | [], x => ([], x)
  | a :: as, x =>
    let b := a.plus x
    let (bs, y) := integrate as b
    (b :: bs, y)

/-- Combs in a row: each gives the difference to its input before. -/
def combs : List Cx → Cx → List Cx × Cx
  | [], x => ([], x)
  | a :: as, x =>
    let (bs, y) := combs as (x.minus a)
    (x :: bs, y)

/-- Taps of the FIR stages of a decimation 2^k, in order (R168). -/
def decTaps (k : Nat) (fast : Bool) (hb cfir : List SWord) : List (List Int) :=
  if fast then [] else if k < 4 then List.replicate k (hbTaps hb) else [cfirTaps cfir, hbTaps hb]

/-- Fractional bits of the stages' result: 17 for the mixer and for each FIR, and the gain of the CIC or of the
boxcar (R169). -/
def decBits (k : Nat) (fast : Bool) : Nat :=
  if fast then 17 + k else if k < 4 then 17 + 17 * k else 51 + 5 * (k - 2)

/-- Input sample `n` through the stages of a decimation: their state, and the output it completes (R168). -/
def decStep (k : Nat) (fast : Bool) (hb cfir : List SWord) (n : Nat) (x : Cx) (f : DcState) :
    DcState × Option Cx :=
  let lineOf := fun i => f.lines.getD i []
  let taps := decTaps k fast hb cfir
  let fir := fun (f : DcState) (j : Nat) (v : Cx) =>
    let (ls, o) := firStages ((List.range taps.length).map fun i => (taps.getD i [], lineOf i)) j v
    ({ f with lines := ls }, o.map (·.2))
  if fast then
    let sum := Cx.plus f.box x
    if n % 2 ^ k = 2 ^ k - 1 then ({ f with box := (0, 0) }, some sum) else ({ f with box := sum }, none)
  else if k < 4 then fir f n x
  else
    let rc := 2 ^ (k - 2)
    let (is, y) := integrate ((List.range 5).map fun i => f.integ.getD i (0, 0)) x
    let f1 := { f with integ := is }
    if n % rc = rc - 1 then
      let (cs, z) := combs ((List.range 5).map fun i => f.comb.getD i (0, 0)) y
      fir { f1 with comb := cs } (n / rc) z
    else (f1, none)

/-- x (-j)^n (R179). -/
def quarterTurn (n : Nat) (x : Int) : Cx :=
  match n % 4 with
  | 0 => (x, 0)
  | 1 => (0, -x)
  | 2 => (-x, 0)
  | _ => (0, x)

/-! ### Values with 64 fractional bits -/

def fixOne : Int := 2 ^ 64
/-- Pi with 64 fractional bits, rounded. -/
def fixPi : Int := 57952155664616982739
def fixMul (a b : Int) : Int := a * b / 2 ^ 64

/-- The angle 2 pi p / n, between -pi and pi. -/
def angle (p n : Nat) : Int :=
  let q : Int := (p % n : Nat)
  2 * fixPi * (if 2 * q ≤ n then q else q - n) / n

/-- Cosine and sine of 2 pi p / n by their series. -/
def cosTurn (p n : Nat) : Int :=
  let x := angle p n
  let xx := fixMul x x
  (List.range 24).foldr (fun i acc => fixOne - fixMul xx acc / ((2 * i + 1) * (2 * i + 2) : Nat)) fixOne
def sinTurn (p n : Nat) : Int :=
  let x := angle p n
  let xx := fixMul x x
  fixMul x ((List.range 24).foldr (fun i acc => fixOne - fixMul xx acc / ((2 * i + 2) * (2 * i + 3) : Nat)) fixOne)

/-- The modified Bessel function I0(2 sqrt t): the sum of t^k / (k!)^2. -/
def bessel0 (t : Int) : Int :=
  ((List.range 160).foldl (fun (a : Int × Int) k =>
    let term := fixMul a.2 t / ((k + 1) * (k + 1) : Nat)
    (a.1 + term, term)) (fixOne, fixOne)).1

/-! ### Windows (R181) -/

/-- Coefficients a_i of the cosine-sum windows, in units of 10^-8. -/
def windowCoefs (code : Nat) : List Int :=
  match code with
  | 0 => [100000000]
  | 1 => [50000000, 50000000]
  | 2 => [35875000, 48829000, 14128000, 1168000]
  | _ => [21557895, 41663158, 27726316, 8357895, 694737]

/-- w_n of a window of length N: by code, kaiser_idx and the user's words. -/
def windowAt (code kaiser : Nat) (user : Tab (BitVec 18)) (N n : Nat) : Int :=
  match code with
  | 4 =>
    let b : Int := ((kaiser + 1) * (kaiser + 1) : Nat)
    bessel0 (b * n * ((N : Int) - n) * fixOne / (N * N : Nat)) * fixOne / bessel0 (b * fixOne / 4)
  | 5 => (user.get 0 n).toNat * 2 ^ 47
  | c =>
    let cs := windowCoefs c
    (List.range cs.length).foldl (fun a i =>
      a + (if i % 2 = 0 then 1 else -1) * cs.getD i 0 * cosTurn (i * n) N / 100000000) 0

/-- The window of a pipe (R164, R181). -/
def pipeWindow (pipe : BitVec 128) (user : Tab (BitVec 18)) : List Int :=
  let N := 2 ^ fld pipe 8 5
  (List.range N).map fun n => windowAt (fld pipe 13 3) (fld pipe 16 4) user N n

/-- ENBW as a fraction: N times the sum of the squares, over the square of the sum. -/
def windowEnbw (w : List Int) : Nat × Nat :=
  let sum := w.foldl (· + ·) 0
  (w.length * ((w.map fun x => x * x).foldl (· + ·) 0).toNat, (sum * sum).toNat)

/-! ### The transform (R180, R182) -/

/-- The largest error of a bin: 10^-7.5, a tone of -150 dBFS, with 64 fractional bits. -/
def binBound : Int := 583337266871

/-- A_b of a frame of samples with 17 fractional bits: the windowed transform over N CG 2^17, that is over the
sum of the window times 2^17, within the error that R180 allows the pipe. A window whose sum is 0 leaves it
open. -/
def binAmp (w : List Int) (ys : List Cx) (b : Nat) : Cx :=
  let N := w.length
  let sum := w.foldl (· + ·) 0
  let x := ((List.range N).zip (w.zip ys)).foldl (fun a t =>
    let p := (b + N - N / 2) * t.1
    let c := fixMul t.2.1 (cosTurn p N)
    let s := fixMul t.2.1 (sinTurn p N)
    Cx.plus a (c * t.2.2.1 + s * t.2.2.2, c * t.2.2.2 - s * t.2.2.1)) ((0, 0) : Cx)
  if sum = 0 then Config.binOfZeroWindow ys b
  else
    let e := Config.binError ys b
    let e1 := if e.1 * e.1 + e.2 * e.2 < binBound * binBound then e else (0, 0)
    Cx.plus (x.1 * 2 ^ 30 / sum, x.2 * 2 ^ 30 / sum) e1

/-- |A_b|^2, with 128 fractional bits. -/
def ampPow (a : Cx) : Nat := (a.1 * a.1 + a.2 * a.2).toNat

/-- num / den is at least the lower edge of step `v` of lp: 10,240 log10 of it, plus 196,608, rounds to `v` or
more (R182). -/
def lpAtLeast (num den v : Nat) : Bool :=
  let e : Int := 2 * v - 1 - 2 * 196608
  num != 0 && if 0 ≤ e then decide (10 ^ e.toNat * den ^ 20480 ≤ num ^ 20480)
    else decide (den ^ 20480 ≤ num ^ 20480 * 10 ^ (-e).toNat)

/-- The lp of a power num / den (R182), from its highest bit down. -/
def lpOf (num den : Nat) : BitVec 18 :=
  BitVec.ofNat 18 ((List.range 18).foldr (fun i v =>
    if lpAtLeast num den (v + 2 ^ i) then v + 2 ^ i else v) 0)

/-- A mantissa of complex form (R182): a component times 2^(16 + exp), rounded to nearest. -/
def mantissa (exp : Nat) (v : Int) : Int := if exp ≤ 48 then roundShift (48 - exp) v else v * 2 ^ (exp - 48)

/-- The exponent of a frame: the largest, up to 63, at which every stored mantissa fits (R182). -/
def frameExp (as : List Cx) : Nat :=
  (List.range 64).foldl (fun best e =>
    if as.all fun a => !(saturate (mantissa e a.1)).2 && !(saturate (mantissa e a.2)).2 then e else best) 0

/-! ### Frames (R180) -/

/-- A frame that a pipe has computed. -/
structure Frame where
  seq : Nat
  idx : BitVec 36
  /-- causal slot of its first sample -/
  slot : Slot
  tagged : Bool
  /-- A_b of bins 0 to N - 1 -/
  amps : List Cx
  /-- lp of bins 0 to N - 1 -/
  bins : List (BitVec 18)
  /-- ENBW of its window, as a fraction -/
  enbw : Nat × Nat

/-- Sum of |A_b|^2 over bins, with 128 fractional bits. -/
def Frame.powSum (fr : Frame) (lo hi : Nat) : Nat :=
  ((fr.amps.drop lo).take (hi + 1 - lo)).foldl (fun a x => a + ampPow x) 0

/-- A power over the ENBW, in linear form (R188). -/
def Frame.bandLin (fr : Frame) (lo hi : Nat) : Nat :=
  if fr.enbw.1 = 0 then Config.quotOfZero (fr.powSum lo hi) else fr.powSum lo hi * fr.enbw.2 / fr.enbw.1

/-- The band power bp of bins (R188). -/
def Frame.bandPow (fr : Frame) (lo hi : Nat) : Nat := (lpOf (fr.bandLin lo hi) (2 ^ 128)).toNat

end Sys2Proof.Machine
end

