-- ==== Sys2Proof/Machine/StreamOps.lean ====
section
/-! DEFINITION. The elements that the ports and their chains offer to the stream inputs of the engines of their
pair (R218 to R220). An element stands among those due until its STREAM_ELEMENT_ARRIVE. -/
namespace Sys2Proof.Machine

/-- An engine takes part in its streams, for elements from a cursor slot on (R218, R229): it runs, restarts or can
resume, or its start beat is named. -/
def Engine.listens (E : Engine) (cursor : Slot) : Bool :=
  match E.startAt with
  | some a => notAfter a cursor || (E.st == .stopped && E.resumable && E.startResume)
  | none => (E.st == .running || E.st == .handler || E.st == .restarting || (E.st == .stopped && E.resumable)) &&
      notAfter E.effSlot cursor

/-- An engine issues bundles: RUNNING or HANDLER (R229). -/
def Engine.runs (E : Engine) : Bool := (E.st == .running || E.st == .handler) && E.startAt.isNone
/-- An engine's inputs take elements (R218, R229). -/
def Engine.takes (E : Engine) : Bool := E.runs || (E.st == .stopped && E.resumable)

/-- The claims of an engine on the density image end (R220). -/
def Engine.unclaim (E : Engine) : Engine :=
  { E with streams := E.streams.map fun x => (x.1, { x.2 with imageDone := true, imagePos := 0 }) }

/-- Changes every input of the pair's engines that is bound to a source of a port. -/
def onInputs (s : State) (p src : Nat) (f : Engine → Nat → Stream → Stream) : State :=
  { s with engines := s.engines.map fun x =>
      if engCluster x.1 == portPair p &&
          (List.range 4).any (fun n => x.2.bindSrc n == src && bindPort x.2 x.1 n == p) then
        (x.1, { x.2 with streams := (List.range 4).foldl (fun t n =>
          if x.2.bindSrc n == src && bindPort x.2 x.1 n == p then
            t.set n (f x.2 n (t.get Stream.reset n)) else t) x.2.streams })
      else x }

/-- An element joins those due at an input; the first one after a gap of its source is across a loss (R219). -/
def Stream.offer (t : Stream) (words : List SWord) (cursor : Slot) : Stream :=
  { t with
    due := t.due ++ [{ words := words, whole := true, cursor := cursor, loss := t.gapped }], gapped := false }

/-- An element of a source of a port is offered to the inputs bound to it. -/
def offer (s : State) (p src : Nat) (words : List SWord) (cursor : Slot) : State :=
  onInputs s p src fun E _ t => if E.listens cursor then t.offer words cursor else t

/-- A gap of a source of a port: the next element is across a loss (R219). -/
def offerGap (s : State) (p src : Nat) : State := onInputs s p src fun _ _ t => { t with gapped := true }

/-- The words of an item or a record, four to a unit of nine bytes. -/
def itemWords (units : List (List Byte)) : List SWord :=
  units.flatMap fun u => (List.range 4).map fun j => BitVec.ofNat 18 (le u >>> (18 * j))

/-- dec_log2, qual_only and the records chosen (R218). -/
def Engine.decLog (E : Engine) (n : Nat) : Nat := fld E.cfg (38 + 16 * n) 4
def Engine.qualOnly (E : Engine) (n : Nat) : Bool := bit E.cfg (37 + 16 * n)

end Sys2Proof.Machine
end

