-- ==== Sys2Proof/Machine/DensOps.lean ====
section
/-! DEFINITION. Density fields and spectral statistics (R193 to R204). -/
namespace Sys2Proof.Machine

/-! ### The configuration block (R194) -/

def Dens.en (d : Dens) : Bool := bit d.cfg 0
def Dens.colComb (d : Dens) : Bool := bit d.cfg 2
def Dens.rowClip (d : Dens) : Bool := bit d.cfg 3
def Dens.colShift (d : Dens) : Nat := fld d.cfg 4 3
def Dens.colLo (d : Dens) : Nat := fld d.cfg 8 16
def Dens.rowBase (d : Dens) : Nat := fld d.cfg 32 18
def Dens.rowShift (d : Dens) : Nat := fld d.cfg 50 4
def Dens.decayShift (d : Dens) : Nat := fld d.cfg 56 5
def Dens.decayPeriod (d : Dens) : Nat := fld d.cfg 64 24
def Dens.holdReset (d : Dens) : Bool := bit d.cfg 97
/-- avg_mode and avg_log2 (R194, R201). -/
def Dens.avgExp (d : Dens) : Bool := bit d.cfg 98
def Dens.avgLog (d : Dens) : Nat := fld d.cfg 99 5
def Dens.traces (d : Dens) : Nat := fld d.cfg 104 4
def Dens.bandsUsed (d : Dens) : Nat := fld d.cfg 108 4
def Dens.peakSep (d : Dens) : Nat := fld d.cfg 160 10
def Dens.peakThr (d : Dens) : Nat := fld d.cfg 176 18
def Dens.bandLo (d : Dens) (k : Nat) : Nat := fld d.cfg (384 + 32 * k) 16
def Dens.bandHi (d : Dens) (k : Nat) : Nat := fld d.cfg (400 + 32 * k) 16
/-- The statistics ring (R194, R202). -/
def Dens.statsEn (d : Dens) : Bool := bit d.cfg 96
def Dens.seq (d : Dens) : Nat := fld d.cfg 1 1
def Dens.statFrames (d : Dens) : Nat := fld d.cfg 128 24
def Dens.statBase (d : Dens) : Nat := fld d.cfg 256 39
def Dens.statUnits (d : Dens) : Nat := fld d.cfg 320 32
def Dens.peakK (d : Dens) : Nat := fld d.cfg 152 6
/-- Largest item of the statistics ring, in units (R202). -/
def Dens.itemUnits (d : Dens) : Nat :=
  2 + 256 * popCount (fbv d.cfg 104 3) + (if bit d.cfg 107 then (d.peakK + 1) / 2 else 0) +
    if fld d.cfg 108 4 = 0 then 0 else 1


/-- The checks of DENS_SET (R194). -/
def densOk (x : BitVec 512) : Bool :=
  let d : Dens := { Dens.reset with cfg := x }
  decide (d.colShift ≤ 6) && decide (d.rowShift ≤ 10) && decide (d.decayShift ≤ 23)
  && !(d.decayShift != 0 && d.decayPeriod == 0) && decide (fld x 99 5 ≤ 16)
  && !(d.statsEn && d.statFrames == 0) && decide (d.peakK ≤ 32)
  && zeros x [(7, 1), (24, 8), (54, 2), (61, 3), (88, 8), (112, 16), (158, 2), (170, 6), (194, 62), (295, 25),
      (352, 32)]

/-! ### Hits (R195, R196) -/

/-- Column of a bin. -/
def Dens.column (d : Dens) (b : Nat) : Option Nat :=
  if b < d.colLo then none
  else
    let c := (b - d.colLo) / 2 ^ d.colShift
    if c < 1024 then some c else none

/-- Row of a value. -/
def Dens.row (d : Dens) (lp : Nat) : Option Nat :=
  if lp < d.rowBase then (if d.rowClip then some 0 else none)
  else
    let r := (lp - d.rowBase) / 2 ^ d.rowShift
    if r < 256 then some r else if d.rowClip then some 255 else none

/-- The columns of a frame with the lp of their bins. -/
def Dens.columns (d : Dens) (bins : List (BitVec 18)) : List (Nat × List Nat) :=
  (List.range 1024).filterMap fun c =>
    let lo := d.colLo + c * 2 ^ d.colShift
    let xs := ((bins.drop lo).take (2 ^ d.colShift)).map (·.toNat)
    if xs.isEmpty then none else some (c, xs)

/-- The cells that a frame hits, one entry for each hit. -/
def Dens.hitCells (d : Dens) (bins : List (BitVec 18)) : List Nat :=
  (d.columns bins).flatMap fun x =>
    let vs := if d.colComb then [x.2.foldl max 0] else x.2
    vs.filterMap fun v => (d.row v).map fun r => 256 * x.1 + r

/-- One hit in a bank: saturation sets the column's bit and counts the cell once. -/
def Dens.hit (d : Dens) (i : Nat) : Dens :=
  let bank := if d.hold == .none then d.live else d.delta
  let v := bank.get 0 i
  if v + 1 < 2 ^ 24 then
    let bank1 := bank.set i (v + 1)
    if d.hold == .none then { d with live := bank1 } else { d with delta := bank1 }
  else { d with
    satMap := d.satMap.set (i / 256) true
    satCells := if d.satSet.get false i then d.satCells else d.satCells + 1
    satSet := d.satSet.set i true }

/-- A counter after a decay step (R197). -/
def decay (sh c : Nat) : Nat := c - (c + 2 ^ sh - 1) / 2 ^ sh

/-- The counter after `k` decay steps. -/
def decayN (sh : Nat) : Nat → Nat → Nat
  | 0, c => c
  | k + 1, c => decayN sh k (decay sh c)

/-- DENS_CLEAR: both banks, the saturation map and sat_cells, the decay count and the hold traces
(R199). -/
def Dens.clear (d : Dens) : Dens :=
  { d with
    live := [], delta := [], satMap := [], satCells := 0, satSet := [], decayCount := 0, decayDue := false
    maxHold := [], minHold := [], rmsAcc := [], rmsOn := false }

/-- A release with clearing takes effect at the frame boundary (R198): the delta bank becomes the live bank, and
the frozen bank and the saturation map go. -/
def Dens.finishRelease (d : Dens) : Dens :=
  if d.releasing then { d with
    hold := .none, live := d.delta, delta := [], frozen := [], satMap := [], decayPending := 0, decayDue := false
    releasing := false }
  else d

/-- The image of the field can be read: until DENS_RELEASE (R198, R200). -/
def Dens.readable (d : Dens) : Bool := d.hold == .frozen && !d.releasing

/-- A frame is counted into the field (R195 to R197). -/
def Dens.count (d : Dens) (bins : List (BitVec 18)) (tm : Timemark) (idx : BitVec 36) : Dens :=
  let d1 := (d.hitCells bins).foldl Dens.hit d
  let n := d1.decayCount + 1
  let due := d1.decayShift != 0 && n == d1.decayPeriod
  { d1 with
    framesCounted := satInc d1.framesCounted, lastTm := tm, lastIdx := idx
    decayCount := if due then 0 else n, decayDue := d1.decayDue || due }

/-- The units of the density image of a frozen bank (R200). -/
def Dens.imageUnit (d : Dens) (u : Nat) : Nat :=
  if u = 0 then d.snapTm.toNat
  else if u = 1 then pack [(36, d.snapIdx.toNat), (6, d.snapTmSt.toNat), (30, 0)]
  else if u < 17 then pack ((List.range 72).map fun j => (1, b2n (d.satMap.get false (72 * (u - 2) + j))))
  else if u = 17 then 0
  else pack ((List.range 3).map fun j =>
    (24, if 3 * (u - 18) + j < 262144 then d.frozen.get 0 (3 * (u - 18) + j) else 0))

/-! ### Statistics (R201 to R203) -/

/-- The maximum hold of a column; it starts at 0. -/
def Dens.maxAt (d : Dens) (c : Nat) : Nat := d.maxHold.get 0 c
/-- The minimum hold of a column; it starts at 262,143. -/
def Dens.minAt (d : Dens) (c : Nat) : Nat := 262143 - d.minHold.get 0 c

/-- Peak candidates by R202: value and column. -/
def Dens.candidates (d : Dens) : List (Nat × Nat) :=
  (List.range 1024).filterMap fun c =>
    let v := d.maxAt c
    if d.peakThr ≤ v && (c == 0 || decide (d.maxAt (c - 1) < v)) &&
        (c == 1023 || decide (d.maxAt (c + 1) ≤ v)) then some (v, c) else none

/-- Inserts a candidate in descending value, lower column first. -/
def insPeak (x : Nat × Nat) : List (Nat × Nat) → List (Nat × Nat)
  | [] => [x]
  | y :: ys => if y.1 < x.1 then x :: y :: ys else y :: insPeak x ys

/-- The accepted peaks (R202). -/
def Dens.peaks (d : Dens) : List (Nat × Nat) :=
  if d.traces.testBit 3 then
    (d.candidates.foldl (fun l x => insPeak x l) []).foldl (fun acc x =>
      if acc.length < d.peakK && !acc.any (fun a => decide (max a.2 x.2 - min a.2 x.2 ≤ d.peakSep)) then
        acc ++ [x] else acc) []
  else []

/-- The RMS trace of a column and the power of a band, in lp (R201): sums over the interval's frames, or the
exponential average. -/
def Dens.rmsAt (d : Dens) (c : Nat) : Nat :=
  (lpOf (d.rmsAcc.get 0 c) (2 ^ 128 * if d.avgExp then 1 else max 1 d.ivFrames)).toNat
def Dens.bandAt (d : Dens) (k : Nat) : Nat := (lpOf (d.bandAcc.get 0 k) (2 ^ 128 * max 1 d.ivFrames)).toNat

/-- Units of words, four to a unit. -/
def wordUnits (ws : List Nat) : List (List Byte) := unitsOf (unitBytes (ws.map (BitVec.ofNat 18)))

/-- The item of the interval in progress (R202). -/
def Dens.item (d : Dens) (s : State) (partial' : Bool) : List (List Byte) :=
  let ps := d.peaks
  let cols := List.range 1024
  [bytesOf 9 (s.tmOf d.ivLast).toNat,
   bytesOf 9 (pack [(6, 0), (6, s.tmStOf d.ivLast), (24, d.ivFrames), (4, d.traces), (4, d.bandsUsed),
     (6, ps.length), (1, b2n partial'), (3, 0), (18, min d.ivSkipped 262143)])]
  ++ (if d.traces.testBit 0 then wordUnits (cols.map d.maxAt) else [])
  ++ (if d.traces.testBit 1 then wordUnits (cols.map d.minAt) else [])
  ++ (if d.traces.testBit 2 then wordUnits (cols.map d.rmsAt) else [])
  ++ ((List.range ((ps.length + 1) / 2)).map fun i => bytesOf 9 (pack (((ps.drop (2 * i)).take 2).map fun x =>
      (36, x.1 + 2 ^ 18 * x.2))))
  ++ (if d.bandsUsed = 0 then [] else
      [bytesOf 9 (pack ((List.range 4).map fun k => (18, if d.bandsUsed.testBit k then d.bandAt k else 0)))])

/-- The next interval begins. -/
def Dens.nextInterval (d : Dens) (j : Nat) : Dens :=
  let d1 := { d with
    interval := j, ivFrames := 0, ivSkipped := 0, bandAcc := [], rmsAcc := if d.avgExp then d.rmsAcc else [] }
  if d.holdReset then { d1 with maxHold := [], minHold := [] } else d1

/-- A 2-unit or statistics item enters the statistics ring, or is dropped whole (R203, R204). -/
def statItem (s : State) (p : Nat) (item : List (List Byte)) (slot : Slot) : State :=
  let d := (s.port p).dens
  let (s1, wr, done) := ringItem s p 4 d.statBase d.statUnits d.statWr.toNat item slot
  s1.modPort p fun P =>
    let D := P.dens
    { P with dens := { D with
        statWr := BitVec.ofNat 32 wr
        statItems := if done then satInc D.statItems else D.statItems
        statDropped := if done then D.statDropped else satInc D.statDropped } }

/-- The interval in progress of a port ends (R202, R203); its item goes to the engines that read it, too (R218). -/
def endInterval (s : State) (p : Nat) (partial' : Bool) (next : Nat) : State :=
  let d := (s.port p).dens
  if !d.statsEn then s
  else
    let s1 :=
      if d.ivFrames = 0 then s.modPort p fun P =>
        let D := P.dens
        { P with dens := { D with emptyIntervals := satInc D.emptyIntervals } }
      else
        let item := d.item s partial'
        let s1 := offer s p 7 (itemWords item) d.ivLast
        if (s.port p).ringOpen d.ivLast then statItem s1 p item d.ivLast else s1
    s1.modPort p fun P => { P with dens := P.dens.nextInterval next }

/-- An evaluated frame contributes to the statistics (R201). -/
def Dens.addStats (d : Dens) (fr : Frame) : Dens :=
  let d1 := (d.columns fr.bins).foldl (fun (d : Dens) x =>
    let lo := d.colLo + x.1 * 2 ^ d.colShift
    let mean := fr.powSum lo (lo + x.2.length - 1) / x.2.length
    let y := d.rmsAcc.get 0 x.1
    { d with
      maxHold := d.maxHold.set x.1 (max (d.maxHold.get 0 x.1) (x.2.foldl max 0))
      minHold := d.minHold.set x.1 (max (d.minHold.get 0 x.1) (262143 - x.2.foldl min 262143))
      rmsAcc := d.rmsAcc.set x.1 (if !d.avgExp then y + mean
        else if d.rmsOn then ((y : Int) + ((mean : Int) - y) / 2 ^ d.avgLog).toNat else mean) }) d
  { d1 with
    rmsOn := true
    bandAcc := (List.range 4).foldl (fun t k =>
      if d.bandsUsed.testBit k then t.set k (t.get 0 k + fr.bandLin (d.bandLo k) (d.bandHi k)) else t) d1.bandAcc
    ivFrames := d1.ivFrames + 1, ivLast := fr.slot }

/-- Frame indices that were not evaluated. -/
def skipFrames (s : State) (p n : Nat) : State := s.modPort p fun P =>
  let D := P.dens
  { P with dens := { D with ivSkipped := D.ivSkipped + n } }

/-- The indices from `from'` to `upTo` - 1 of the statistics' sequence pass without a frame (R175, R201, R202):
intervals that end among them end. -/
def passFrames (s : State) (p from' upTo : Nat) : State :=
  let d := (s.port p).dens
  let n := d.statFrames
  if !d.statsEn || n == 0 || upTo ≤ from' then s
  else
    let i := d.interval
    let j := upTo / n
    if i < j then
      let s1 := (endInterval (skipFrames s p ((i + 1) * n - from')) p false j).modPort p fun P =>
        let D := P.dens
        { P with dens := { D with emptyIntervals := satInc D.emptyIntervals (j - i - 1) } }
      skipFrames s1 p (upTo - j * n)
    else skipFrames s p (upTo - from')

/-- The statistics of one frame of their sequence (R201, R202): the indices from `from'` on that a resync left
without frames, and the frame itself; `evaluated` says that it is untagged. -/
def statFrame (s : State) (p : Nat) (fr : Frame) (from' : Nat) (evaluated : Bool) : State :=
  let d := (s.port p).dens
  let n := d.statFrames
  if !d.statsEn || n == 0 then s
  else
    let s1 := passFrames s p from' fr.idx.toNat
    let s2 := if evaluated then s1.modPort p fun P => { P with dens := P.dens.addStats fr } else skipFrames s1 p 1
    if (fr.idx.toNat + 1) % n = 0 then endInterval s2 p false ((fr.idx.toNat + 1) / n) else s2

end Sys2Proof.Machine
end

