-- ==== Sys2Proof/Machine/PwrOps.lean ====
section
/-! DEFINITION. Power tokens and containers (R20 to R22, R386, R391 to R396). -/
namespace Sys2Proof.Machine

/-- The token budget B (R392). -/
def budget (s : State) : Nat := fld s.pwr.cfg 0 11 * 2600 / 1550

/-- Readiness level live: the states that hold 9 tokens (R391). -/
def portLive (P : Port) : Bool :=
  P.state == .training || P.state == .live || P.state == .rebuild || P.state == .degraded

/-- Tokens held by a port (R391, R393). -/
def portTokens (P : Port) : Nat :=
  if portLive P || P.liveGrant then 9 else if P.state == .warm then 3 else 0

def dieOn (D : Die) : Bool := D.pwr != 0 || D.powering
def regionOn (R : Region) : Bool := R.powered || R.powering
def clusterOn (C : Cluster) : Bool := C.powered || C.powering

/-- A stack is in service: a channel of it is out of OFF and SELFREF, or it is stack 0 in Ready or Armed
(R393). -/
def stackOn (s : State) (k : Nat) : Bool :=
  (k == 0 && decide (2 ≤ s.pwr.state.toNat)) ||
  ((List.range 16).map (16 * k + ·)).any fun c =>
    let st := (s.chan c).st
    st != .off && st != .selfRef

def sumOver (ks : List Nat) (f : Nat → Nat) : Nat := (ks.map f).foldl (· + ·) 0

/-- Tokens held in all (R393). -/
def tokensHeld (s : State) : Nat :=
  (if 2 ≤ s.pwr.state.toNat then 120 else 0) +
  sumOver (List.range 8) (fun k => if stackOn s k then 56 else 0) +
  sumOver (List.range 4) (fun d => if dieOn (s.die d) then 28 else 0) +
  sumOver (List.range 16) (fun r => if regionOn (s.region r) then 8 else 0) +
  sumOver (List.range 64) (fun k => if clusterOn (s.cluster k) then 10 else 0) +
  sumOver allPorts (fun p => portTokens (s.port p))

/-- A container is in use (R22). -/
def clusterInUse (s : State) (k : Nat) : Bool := pairBusy s k
def regionInUse (s : State) (r : Nat) : Bool :=
  ((List.range 4).map (4 * r + ·)).any (clusterInUse s)
/-- A stretch of capture memory touches a die (R13, R250). -/
def onDie (d a len : Nat) : Bool := decide (a / 2 ^ 37 ≤ d) && decide (d ≤ (a + len - 1) / 2 ^ 37)

/-- A descriptor has bytes of a die to move: its source, its ring or its destination (R331, R335). -/
def descOnDie (x : Desc) (d : Nat) : Bool :=
  let src := fld x.bits 64 64
  let space := fld x.bits 304 4
  (decide (x.read < x.total) &&
    ((space == 1 && if bit x.bits 312 then x.index.any fun i => onDie d (src + i) (fld x.bits 288 16)
      else onDie d (src + x.read) (x.total - x.read)) ||
    (decide (4 ≤ space) && portDie (fld x.bits 320 7) == d))) ||
  (fld x.bits 308 4 == 1 && onDie d (fld x.bits 128 64) (fld x.bits 256 32))

/-- A DMA access of the die's memory is in progress (R22): at a controller, in a descriptor under way, in the
output area of a compression job. -/
def dieReading (s : State) (d : Nat) : Bool :=
  ((List.range 4).any fun i => (regionChans (4 * d + i)).any fun c =>
    ((s.chan c).queue ++ (s.chan c).held).any fun q => q.cls == .dma) ||
  (s.dma.any fun x => dmaBusy s x.1 && (x.2.cur.map fun y => descOnDie y d) == some true) ||
  s.cmp.any fun x => x.2.st == 1 && fld x.2.block 264 4 == 1 &&
    onDie d x.2.areaAddr.toNat x.2.areaLen
def dieInUse (s : State) (d : Nat) : Bool :=
  ((List.range 4).map (4 * d + ·)).any (regionInUse s) || dieReading s d

/-- A region holds a port at the live level: its tokens cannot be taken back (R397). -/
def regionLive (s : State) (r : Nat) : Bool := (regionPorts r).any fun p => portLive (s.port p)

/-- Tokens held by blocks in use (R22, R395, R397): containers in use, and live ports with theirs. -/
def tokensInUse (s : State) : Nat :=
  (if decide (2 ≤ s.pwr.state.toNat) then 120 + 56 else 0) +
  sumOver (List.range 4) (fun d => if (dieInUse s d || ((List.range 4).map (4 * d + ·)).any (regionLive s)) && dieOn (s.die d)
    then 28 else 0) +
  sumOver (List.range 16) (fun r => if (regionInUse s r || regionLive s r) && regionOn (s.region r) then 8 else 0) +
  sumOver ((List.range 8).drop 1) (fun k =>
    if stackOn s k && [2 * k, 2 * k + 1].any (fun r => regionInUse s r || regionLive s r) then 56 else 0) +
  sumOver (List.range 64) (fun k => if clusterInUse s k && clusterOn (s.cluster k) then 10 else 0) +
  sumOver allPorts (fun p => if (s.port p).trig.armed || portLive (s.port p) then portTokens (s.port p) else 0)

/-- What a holder still costs (R393). -/
def holderCost (s : State) : Holder → Nat
  | .port p => 9 - portTokens (s.port p)
  | .die d => if dieOn (s.die d) then 0 else 28
  | .region r => if regionOn (s.region r) then 0 else 8
  | .cluster k => if clusterOn (s.cluster k) then 0 else 10
  | .stack k => if stackOn s k then 0 else 56

def grantCost (s : State) (g : Grant) : Nat := (g.holders.map (holderCost s)).foldl (· + ·) 0

/-- The containers that a region needs, outermost first: its die, its stack and itself (R393). -/
def regionHolders (r : Nat) : List Holder := [.die (r / 4), .stack (r / 2), .region r]
def portHolders (p : Nat) : List Holder := regionHolders (portRegion p) ++ [.port p]
def clusterHolders (k : Nat) : List Holder := regionHolders (k / 4) ++ [.cluster k]

/-- A policy of off forbids a die (R398). -/
def dieForbidden (s : State) (d : Nat) : Bool := (s.die d).policy == 1

/-- A cluster is usable: switched on, and its power-up has ended (R20). -/
def clusterUsable (s : State) (k : Nat) : Bool := (s.cluster k).powered && !(s.cluster k).powering

/-- Adds a request to the grant queue; a request for a DMA read goes ahead (R394). -/
def requestTokens (s : State) (g : Grant) : State :=
  let q := s.pwr.queue
  let q' := if g.dma then q.filter (fun x => x.dma) ++ [g] ++ q.filter (fun x => !x.dma) else q ++ [g]
  s.modPwr fun P => { P with queue := q' }

/-- Channels of a stack that a warm start trains (R260). -/
def stackChans (k : Nat) : List Nat := ((List.range 16).map (16 * k + ·)).filter fun c => !isLodge c

/-- A channel that is out of service begins its training: a sweep, or, after a failed sweep, the check of its
last good delays with an in-place sweep to follow; a quarantined stack stays out (R260, R261, R439). -/
def warmStart (s : State) (c : Nat) : State :=
  let st := (s.chan c).st
  let strike := (s.boot.stackRecs.get StackRec.reset (c / 16)).strike
  if st != .selfRef && st != .off then s
  else if strike == 2 then s.modChan c fun C => { C with st := .retired }
  else s.modChan c fun C => { C with st := .training, reSweep := if strike == 1 then some 5 else none }

/-- A holder's tokens are granted: the container begins its power-up (R20, R260, R394). -/
def powerUp (s : State) (h : Holder) : State :=
  match h with
  | .port p => s.modPort p fun P => if portLive P then P else { P with liveGrant := true }
  | .die d => if dieOn (s.die d) then s else s.modDie d fun D => { D with powering := true }
  | .region r => if regionOn (s.region r) then s else s.modRegion r fun R => { R with powering := true }
  | .cluster k => if clusterOn (s.cluster k) then s else s.modCluster k fun C => { C with powering := true }
  | .stack k => forEach (stackChans k) warmStart s

/-- What the policies of the dies need (R398). -/
def policyHolders (s : State) (d : Nat) : List Holder :=
  let fabric := [Holder.die d, .stack (2 * d), .stack (2 * d + 1)]
  match (s.die d).policy.toNat with
  | 2 => fabric
  | 3 => fabric ++ (List.range 4).map fun i => Holder.region (4 * d + i)
  | _ => []

/-- The request for what the policies of all dies need. -/
def policyGrant (s : State) : Grant := { Grant.reset with holders := (List.range 4).flatMap (policyHolders s) }

/-- Package state: Armed while a port is armed, Ready otherwise (R386, R401). -/
def settlePackage (s : State) : State :=
  if s.pwr.state.toNat < 2 then s
  else
    let n : BitVec 2 := if s.ports.any (fun x => x.2.trig.armed) then 3 else 2
    if n == s.pwr.state then s
    else evPower (s.modPwr fun P => { P with state := n }) 1 0 n.toNat

/-- A command that needs containers is not begun before they are usable: its first turn requests the
tokens, and it is taken up again by its own row (R22, R395; log entry 7). `ready` says that the
containers are usable, `hs` names them. -/
def Cmd.runPowered (c : Cmd) (p : Packet) (s : State) (ready : Bool) (hs : List Holder) (cap : Bool)
    (params state : List (Option Fail)) (eff : State → State × Rep) :
    Host.Outcome State Fault Refusal :=
  let g : Grant := { Grant.reset with holders := hs, packet := some p.core }
  let off := hs.filterMap fun h => match h with
    | .die d => if dieForbidden s d then some (stState (loc 9 d) 0) else none
    | _ => none
  let state' := state ++ [off.head?, need (ready || !cap || grantCost s g + tokensInUse s ≤ budget s)
    (noResource 0xC004 6)]
  if ready || (allChecks c p s params state').isSome then Cmd.run c p s params state' eff
  else if begins c p s && !s.pwr.queue.any (fun x => x.packet == some p.core) && grantCost s g != 0 then
    ok (requestTokens s g)
  else .next s

end Sys2Proof.Machine
end

