-- ==== Sys2Proof/Machine/ChainOps.lean ====
section
/-! DEFINITION. Stream formats (R66), the derived streams with their gaps and the spectrum ring (R173 to R175, R185,
R186), and the events of the spectral chain (R167, R171 to R178): starts, synchronising resets, resyncs, retunes
and stops. -/
namespace Sys2Proof.Machine

/-- Words per sample of a stream format (R66); none where the format carries no samples. -/
def fmtWords (f : Nat) : Option Nat :=
  match f with
  | 1 => some 1 | 2 => some 2 | 3 => some 4 | 4 => some 8
  | 8 => some 1 | 9 => some 2 | 10 => some 4
  | 12 => some 2 | 13 => some 4
  | _ => none

/-- A logic format (R68). -/
def fmtLogic (f : Nat) : Bool := 1 ≤ f && f ≤ 4
/-- A complex format (R69). -/
def fmtComplex (f : Nat) : Bool := f == 12 || f == 13
/-- Channels of an analogue format (R69). -/
def fmtChans (f : Nat) : Nat :=
  match f with
  | 8 => 1 | 9 => 2 | 10 => 4 | 12 => 1 | 13 => 2 | _ => 0

/-- Slots that one sample occupies: W, or twice W in degraded mode (R67). -/
def Port.sampleSlots (P : Port) : Nat := (fmtWords P.fmt.toNat).getD 1 * if P.rxHalf then 2 else 1

/-! ### The configuration block (R164) -/

def Chain.dcEn (c : Chain) : Bool := bit c.cfg 0
def Chain.dec (c : Chain) : Nat := fld c.cfg 4 5
def Chain.fast (c : Chain) : Bool := bit c.cfg 9
def Chain.pipeMode (c : Chain) : Nat := fld c.cfg 384 2
/-- The sources of the pipes in use. -/
def Chain.sources (c : Chain) : List Nat :=
  let s0 := fld c.cfg 128 2
  if c.pipeMode = 2 then [s0, fld c.cfg 256 2] else [s0]

/-- Pipe fields (R164): source, n_log2 and hop of the pipe of a frame sequence. -/
def Chain.pipe (c : Chain) (q : Nat) : BitVec 128 := fbv c.cfg (128 + 128 * q) 128
def pipeSrc (x : BitVec 128) : Nat := fld x 0 2
def pipeN (x : BitVec 128) : Nat := 2 ^ fld x 8 5
def pipeHop (x : BitVec 128) : Nat := fld x 24 24
def Chain.specStore (c : Chain) : Nat := fld c.cfg 386 2
def Chain.stLo (c : Chain) : Nat := fld c.cfg 400 16
def Chain.stHi (c : Chain) : Nat := fld c.cfg 416 16
def Chain.specBase (c : Chain) : Nat := fld c.cfg 432 39
def Chain.specUnits (c : Chain) : Nat := fld c.cfg 480 32

/-- The frame sequences in use (R164). -/
def Chain.seqList (c : Chain) : List Nat :=
  [0, 1].filter fun q => pipeSrc (c.pipe q) != 0 && (q == 0 || c.pipeMode == 2)

/-- Span S of the decimation in input samples (R168). -/
def decSpan (k : Nat) (fast : Bool) : Nat :=
  if fast then 2 ^ k - 1
  else match k with
    | 0 => 0 | 1 => 46 | 2 => 138 | 3 => 322
    | k => 159 * 2 ^ (k - 2) - 5

/-- Down-converter outputs tagged by an event at input sample `e`, counted from the reset slot: those whose
span reaches before it (R173). -/
def taggedOuts (k : Nat) (fast : Bool) (e : Nat) : Nat :=
  (e + decSpan k fast) / 2 ^ k - e / 2 ^ k

/-- Settling record (R178): tagged outputs and cause. -/
def settlingRec (s : State) (p : Nat) (slot : Slot) (nTag cause : Nat) : State :=
  let c := (s.port p).chain
  emitRec s p slot 0x0C
    (pack [(4, cause), (10, 0), (1, b2n c.fast), (5, c.dec), (8, nTag)])

/-- A chain runs, or a start is scheduled. -/
def Chain.active (c : Chain) : Bool := c.st != .stopped || !c.sched.isEmpty

/-- Decimation and span, in input samples, of the stream that a sequence transforms (R163, R168, R179). -/
def Chain.decOf (c : Chain) (q : Nat) : Nat × Nat :=
  match pipeSrc (c.pipe q) with
  | 1 => (2 ^ c.dec, decSpan c.dec c.fast)
  | 3 => (2, 46)
  | _ => (1, 0)

/-- Units of an item of the spectrum ring (R185). -/
def Chain.itemUnits (c : Chain) : Nat :=
  2 + ((c.stHi + 1 - c.stLo) * (if c.specStore = 2 then 2 else 1) + 3) / 4

/-- Divisor of the channel's input rate at a pipe's input (R163, R179). -/
def Chain.rateDiv (c : Chain) (q : Nat) : Nat :=
  (c.decOf q).1

/-- The samples of a sequence's stream that an event at input sample `e` tags: the first, and the number
(R173). -/
def Chain.taggedBy (c : Chain) (q e : Nat) : Nat × Nat :=
  let (d, sp) := c.decOf q
  (e / d, (e + sp + d) / d - 1 - e / d)

/-- Input sample that completes the last frame tagged by an event (R171, R173). -/
def Chain.lastTagged (c : Chain) (q e : Nat) : Option Nat :=
  let (m, n) := c.taggedBy q e
  let h := max 1 (pipeHop (c.pipe q))
  let last := (m + n - 1) / h * h + pipeN (c.pipe q) - 1
  if n = 0 || decide (last < m) then none else some ((last + 1) * (c.decOf q).1 - 1)

/-- An event of a running chain at a slot: from there on a sample is tagged whose span reaches before it (R173).
The answer has the number of down-converter outputs tagged (R178); the chain settles until the last tagged output
and frame are out (R171). -/
def Chain.event (c : Chain) (samp : Nat) (slot : Slot) : Chain × Nat :=
  let e := slotsTo c.resetSlot slot / samp
  let d := 2 ^ c.dec
  let n := if c.dcEn then taggedOuts c.dec c.fast e else 0
  let ends := (if n = 0 then [] else [(e / d + n) * d - 1]) ++ c.seqList.filterMap (c.lastTagged · e)
  let upTo := c.resetSlot + BitVec.ofNat 64 (samp * (ends.foldl max 0 + 1))
  let later := match c.settleTo with
    | some x => if notAfter upTo x then x else upTo
    | none => upTo
  ({ c with
      evPos := e
      settleTo := if ends.isEmpty then c.settleTo else some later
      st := if ends.isEmpty then c.st else .settling }, n)

/-- NCO phase at a slot: it advances by ftw at every input sample, lost ones too (R167). -/
def Chain.phiAt (c : Chain) (samp : Nat) (slot : Slot) : Nat :=
  (c.phi.toNat + fld c.cfg 16 48 * (slotsTo c.phiSlot slot / samp)) % 2 ^ 48

/-! ### Frames in their order (R175, R180, R185) -/

/-- Input sample of the causal slot of sample `m` of a sequence's stream (R163). -/
def Chain.causal (c : Chain) (q m : Nat) : Nat := (m + 1) * (c.decOf q).1 - 1

/-- Slot of an input sample counted from the reset slot. -/
def Port.sampleAt (P : Port) (i : Nat) : Slot := P.chain.resetSlot + BitVec.ofNat 64 (P.sampleSlots * i)

/-- Frame slot (R180): the causal slot of the frame's first sample. -/
def Port.frameSlot (P : Port) (q f : Nat) : Slot :=
  P.sampleAt (P.chain.causal q (f * pipeHop (P.chain.pipe q)))

/-- Samples of a sequence's stream whose positions the chain has passed since the reset. -/
def Port.passedSamples (P : Port) (q : Nat) : Nat :=
  slotsTo P.chain.resetSlot P.chain.passed / P.sampleSlots / (P.chain.decOf q).1

/-- Frames of a sequence whose last position has passed. -/
def Port.passedFrames (P : Port) (q : Nat) : Nat :=
  let n := pipeN (P.chain.pipe q)
  let k := P.passedSamples q
  if k < n then 0 else (k - n) / max 1 (pipeHop (P.chain.pipe q)) + 1

/-- Samples of a frame that arrived. -/
def Chain.frameSamples (c : Chain) (q f : Nat) : List (Nat × Cx × Bool) :=
  let a := f * pipeHop (c.pipe q)
  (c.pipes.get PipeSt.reset q).hist.filter fun x => decide (a ≤ x.1) && decide (x.1 < a + pipeN (c.pipe q))

/-- No position of a frame that has passed was lost (R175). -/
def Chain.frameWhole (c : Chain) (q f : Nat) : Bool := (c.frameSamples q f).length == pipeN (c.pipe q)

/-- The next frame that a sequence produces, once its last sample has arrived. -/
def Port.readyFrame (P : Port) (q : Nat) : Option Nat :=
  let k := (P.chain.seqs.get SeqSt.reset q).nextIdx.toNat
  ((List.range (P.passedFrames q - k)).map (k + ·)).find? (P.chain.frameWhole q)

/-- Slot before which a sequence produces no further frame. -/
def Port.frameBound (P : Port) (q : Nat) : Slot :=
  let k := (P.chain.seqs.get SeqSt.reset q).nextIdx.toNat
  P.frameSlot q ((P.readyFrame q).getD (max k (P.passedFrames q)))

/-! ### The spectrum ring (R185, R186) -/

/-- The item of a frame. -/
def frameItem (s : State) (C : Chain) (w : RingWait) : List (List Byte) :=
  [bytesOf 9 (s.tmOf w.slot).toNat,
   bytesOf 9 (pack [(6, 0), (6, s.tmStOf w.slot), (12, (C.seqs.get SeqSt.reset w.seq).itemsDropped.toNat), (3, 0),
     (1, b2n (C.specStore == 2)), (1, w.seq), (1, b2n w.tagged), (6, w.exp), (36, w.idx.toNat)])]
  ++ unitsOf (unitBytes w.words)

/-- The derived stream that a sequence transforms: the down-converter's, or that of its own pipe (R163). -/
def Chain.streamOf (c : Chain) (q : Nat) : Nat := if pipeSrc (c.pipe q) = 1 then 0 else 1 + q
/-- The derived streams in use. -/
def Chain.streams (c : Chain) : List Nat :=
  ((if c.dcEn then [0] else []) ++ c.seqList.map c.streamOf).eraseDups
/-- Decimation of a derived stream (R163). -/
def Chain.streamDec (c : Chain) (i : Nat) : Nat := if i = 0 then 2 ^ c.dec else (c.decOf (i - 1)).1

/-- An item takes its place in the ring, or is dropped whole; the engines that read the sequence get it, too (R185,
R186, R218). The next header of the sequence counts a drop. -/
def writeItem (s : State) (p : Nat) (w : RingWait) : State :=
  let P := s.port p
  let C := P.chain
  let item := match w.gap with
    | some g => gapItem s g g.lost
    | none => frameItem s C w
  let readers := if w.gap.isNone then [w.seq] else C.seqList.filter fun q => C.streamOf q == C.streamOf w.seq
  let s0 := forEach readers (fun s q => offer s p (4 + q) (itemWords item) w.slot) s
  if !P.ringOpen w.openAt then s0
  else
    let (s1, wr, done) := ringItem s0 p 3 C.specBase C.specUnits C.specWr.toNat item w.slot
    s1.modPort p fun P =>
      let C := P.chain
      let Q := C.seqs.get SeqSt.reset w.seq
      let lost := satInc C.specDropped
      let more := satInc Q.itemsDropped
      { P with chain := { C with
          specWr := BitVec.ofNat 32 wr
          specDropped := if done then C.specDropped else lost
          seqs := C.seqs.set w.seq { Q with
            itemsDropped := if !done then more else if w.gap.isNone then 0 else Q.itemsDropped } } }

/-- An item joins those that wait, in the order of their slots. -/
def insWait (w : RingWait) : List RingWait → List RingWait
  | [] => [w]
  | x :: xs =>
    if w.slot != x.slot && notAfter w.slot x.slot || (w.slot == x.slot && decide (w.seq < x.seq)) then w :: x :: xs
    else x :: insWait w xs

/-- The items that no later frame can precede are written (R185); all of them when the frames in progress are
discarded. -/
def flushRing (s : State) (p : Nat) (all : Bool) : State :=
  let P := s.port p
  let C := P.chain
  let goes := fun (w : RingWait) => all || C.seqList.all fun q => notAfter w.slot (P.frameBound q)
  (C.wait.takeWhile goes).foldl (fun s w => writeItem s p w)
    (s.setPort p { P with chain := { C with wait := C.wait.dropWhile goes } })

def addWait (s : State) (p : Nat) (w : RingWait) : State :=
  s.modPort p fun P =>
    let C := P.chain
    { P with chain := { C with wait := insWait w C.wait } }

/-! ### Gaps of the derived streams (R174, R175) -/

/-- The slots of a beat are lost to every derived stream. -/
def Chain.lose (c : Chain) (samp : Nat) (slot : Slot) (cause : BitVec 4) : Chain :=
  let e0 := slotsTo c.resetSlot slot / samp
  let e1 := slotsTo c.resetSlot (slot + 64) / samp
  { c with gaps := c.streams.foldl (fun gs i =>
      let g := ((gs.find? (·.1 == i)).map (·.2)).getD { StreamGap.reset with run := ⟨slot, 0, cause, false⟩ }
      let n := e1 / c.streamDec i - e0 / c.streamDec i
      gs.filter (·.1 != i) ++ [(i, { g with
        run := (addGap (some g.run) slot 64 cause).getD g.run, missed := g.missed + n })]) c.gaps }

/-- A stop begins a gap of every derived stream, or lengthens one. -/
def Chain.gapStop (c : Chain) (slot : Slot) : Chain :=
  { c with gaps := c.streams.foldl (fun gs i =>
      let g := match (gs.find? (·.1 == i)).map (·.2) with
        | some g => { g with stopped := true, run := { g.run with mixed := g.run.mixed || g.run.cause != 6 } }
        | none => { StreamGap.reset with stopped := true, run := ⟨slot, 0, 6, false⟩ }
      gs.filter (·.1 != i) ++ [(i, g)]) c.gaps }

/-- The markers of a gap: at most 2^48 - 1 slots each (R78). -/
def gapParts (g : GapRun) (n : Nat) : List GapRun :=
  let lim := 2 ^ 48 - 1
  (List.range ((n + lim - 1) / lim)).map fun k =>
    { g with start := g.start + BitVec.ofNat 64 (k * lim), lost := min lim (n - k * lim) }

/-- The first sample of a derived stream after a gap, at a causal slot: the gap's markers enter the spectrum ring
and the statistics ring in place of the frames that they cover (R174, R175, R185, R203). A marker counts the derived
stretch where that is shorter than the port's. -/
def closeGap (s : State) (p i : Nat) (slot : Slot) : State :=
  let P := s.port p
  let C := P.chain
  match (C.gaps.find? (·.1 == i)).map (·.2) with
  | none => s
  | some g =>
    let n := if g.stopped then slotsTo g.run.start slot
      else min g.run.lost (g.missed * C.streamDec i * P.sampleSlots)
    let s0 := s.setPort p { P with chain := { C with gaps := C.gaps.filter (·.1 != i) } }
    let s1 := (gapParts g.run n).foldl (fun s g =>
      let s1 := match C.seqList.find? fun q => C.streamOf q == i with
        | some q => if C.specStore = 0 then s else
            addWait s p { RingWait.reset with seq := q, slot := g.start, openAt := slot, gap := some g }
        | none => s
      if P.dens.statsEn && C.streamOf P.dens.seq == i && P.ringOpen slot then statItem s1 p (gapItem s g g.lost) slot
      else s1) s0
    flushRing s1 p false

/-! ### Events (R171 to R178) -/

/-- Removes the settling records of a slot: of the events that fall in one beat only the first counts (R177). -/
def dropSettling (s : State) (p : Nat) (slot : Slot) : State :=
  s.modPort p fun P => { P with run.recs := P.run.recs.filter fun r =>
    !(fbv r.tm 8 64 == slot && fld r.body 0 6 == 0x0C) }

/-- The intervals and the frames in progress end with a reset or a stop (R172, R174, R201, R202): the indices that
have passed without a frame count, and a release that waits for the frame boundary takes effect. -/
def endFrames (s : State) (p : Nat) : State :=
  let P := s.port p
  let q := P.dens.seq
  let k := (P.chain.seqs.get SeqSt.reset q).nextIdx.toNat
  let s1 := flushRing s p true
  let s2 := if P.chain.st == .stopped then s1
    else endInterval (passFrames s1 p k (P.passedFrames q)) p true 0
  s2.modPort p fun P => { P with dens := P.dens.finishRelease }

/-- New frequency and phase words, at a slot (R176). -/
def Chain.retune (c : Chain) (samp : Nat) (t : ChainTune) : Chain :=
  let cfg1 := match t.ftw with
    | some v => put c.cfg 16 48 v.toNat
    | none => c.cfg
  let old := fld c.cfg 64 48
  let new := (t.ofs.map (·.toNat)).getD old
  { c with
    cfg := put cfg1 64 48 new, phi := BitVec.ofNat 48 ((c.phiAt samp t.beat + new + 2 ^ 48 - old) % 2 ^ 48)
    phiSlot := t.beat }

/-- A retune at slot 0 of its beat (R176). A second one in the same beat applies in full, under the same record. -/
def chainRetune (s : State) (p : Nat) (t : ChainTune) : State :=
  let P := s.port p
  let C := P.chain
  let again := C.retuneSlot == some t.beat
  let (C1, n) := Chain.event { C.retune P.sampleSlots t with retuneSlot := some t.beat, lastCause := 4 }
    P.sampleSlots t.beat
  let s1 := s.setPort p { P with chain := C1 }
  if again then s1 else settlingRec s1 p t.beat n 4

/-- The retunes up to a slot take effect. -/
def applyTunes (s : State) (p : Nat) (slot : Slot) : State :=
  let due := (s.port p).chain.tunes.filter fun t => notAfter t.beat slot
  due.foldl (fun s t => chainRetune s p t) (s.modPort p fun P =>
    let C := P.chain
    { P with chain := { C with tunes := C.tunes.filter fun t => !notAfter t.beat slot } })

/-- A synchronising reset at a slot (R172): filters, phase, sample and frame indices restart. Retunes of its beat
give it their values (R177). -/
def chainReset (s0 : State) (p cause : Nat) (slot : Slot) : State :=
  let s := endFrames (applyTunes s0 p (slot - 1)) p
  let P := s.port p
  let C0 := (P.chain.tunes.filter fun t => t.beat == slot).foldl (fun c t => Chain.retune c P.sampleSlots t) P.chain
  let C : Chain := { C0 with
    st := if P.chain.st == .stopped then .running else P.chain.st
    tunes := P.chain.tunes.filter fun t => t.beat != slot
    resetSlot := slot, phi := fbv C0.cfg 64 48, phiSlot := slot, retuneSlot := none, passed := slot
    settleTo := none, lostAt := none, dc := DcState.reset, pipes := []
    lastCause := BitVec.ofNat 4 cause
    seqs := P.chain.seqs.map fun x => (x.1, { x.2 with nextIdx := 0 }) }
  let (C1, n) := C.event P.sampleSlots slot
  settlingRec (dropSettling (s.setPort p { P with chain := C1 }) p slot) p slot n cause

/-- A resync at the first input sample after lost slots (R175): filter state goes, phase and indices count on. -/
def chainResync (s : State) (p : Nat) (slot : Slot) : State :=
  let P := s.port p
  if P.chain.st == .stopped then s
  else
    let C0 := P.chain
    let C : Chain := { C0 with
      lastCause := 5, lostAt := none, dc := DcState.reset
      pipes := C0.pipes.map fun x => (x.1, { x.2 with line := [] }) }
    let (C1, n) := C.event P.sampleSlots slot
    settlingRec (s.setPort p { P with chain := C1 }) p slot n 5

/-- A stop of the chain at a slot (R171, R174, R177, R189): nothing is produced from there on, partial frames and
the events of its beat are discarded, and no spectral hit comes any more. A stop clears no table. -/
def stopChain (s0 : State) (p cause : Nat) (slot : Slot) : State :=
  if (s0.port p).chain.active then
    let s := endFrames (applyTunes s0 p (slot - 1)) p
    let s1 := (offerGap s p 3).modPort p fun P =>
      let C := if P.chain.st == .stopped then P.chain else P.chain.gapStop slot
      { P with
        trig := { P.trig with remote := P.trig.remote.filter fun r =>
          !(decide (8 ≤ r.gateSrc.code.toNat) && decide (r.gateSrc.code.toNat < 12) && notAfter slot r.slot) }
        chain := { C with
          st := .stopped, sched := [], tunes := [], settleTo := none, retuneSlot := none, lostAt := none
          dc := DcState.reset, dcOut := none, pipes := [], lastCause := BitVec.ofNat 4 cause } }
    settlingRec (dropSettling s1 p slot) p slot 0 cause
  else s0

end Sys2Proof.Machine
end

