-- ==== Sys2Proof/Machine/GateOps.lean ====
section
/-! DEFINITION. Samples of a beat (R67 to R69) and the hit definitions of the gates (R81 to R105). -/
namespace Sys2Proof.Machine

/-! ### Samples -/

/-- A sample of a beat: its first slot position, its length in slots and its words (R67). -/
structure Samp where
  pos : Nat
  len : Nat
  words : List (BitVec 18)
  deriving DecidableEq, Repr

/-- The samples of a beat in a format of `w` words, each slot of a word doubled in degraded mode (R43,
R67). -/
def beatSamples (w : Nat) (b : Beat) : List Samp :=
  let d := if b.half then 2 else 1
  let n := w * d
  if b.lost || n = 0 then [] else
    (List.range (64 / n)).map fun j =>
      ⟨n * j, n, (List.range w).map fun k => b.words.getD (n * j + d * k) 0⟩

/-- The view of a sample: the sig fields of its words (R83). -/
def Samp.view (x : Samp) : Nat := pack (x.words.map fun w => (16, fld w 0 16))
/-- qual, in word 0 (R68). -/
def Samp.qual (x : Samp) : Bool := bit (x.words.headD 0) 16
/-- glitch of word k (R68). -/
def Samp.glitch (x : Samp) (k : Nat) : Bool := bit (x.words.getD k 0) 17
/-- A word as a signed value (R64). -/
def wordVal (w : BitVec 18) : Int := w.toInt

/-! ### Descriptor fields (R86, R87) -/

abbrev Gate : Type := BitVec 512
def Gate.type (g : Gate) : Nat := fld g 0 4
def Gate.qualReq (g : Gate) : Bool := bit g 4
def Gate.selA (g : Gate) : Nat := fld g 8 8
def Gate.srcDc (g : Gate) : Bool := bit g 16
def Gate.mode (g : Gate) : Nat := fld g 17 3
def Gate.selB (g : Gate) : Nat := fld g 24 8
/-- Parameter n as an unsigned count, and as a threshold. -/
def Gate.par (g : Gate) (n : Nat) : Nat := fld g (64 + 32 * n) 32
def Gate.thr (g : Gate) (n : Nat) : Int := sgn 18 (g.par n)
def Gate.val (g : Gate) : Nat := fld g 256 128
def Gate.msk (g : Gate) : Nat := fld g 384 128
/-- Pulse width or timeout that follows another gate. -/
def Gate.follows (g : Gate) : Bool := (g.type == 5 || g.type == 7) && g.mode.testBit 2
def Gate.logic (g : Gate) : Bool :=
  g.type == 1 || g.type == 2 || g.type == 3 || g.type == 4 || g.type == 8 ||
    ((g.type == 5 || g.type == 7) && !g.mode.testBit 2)
def Gate.analogue (g : Gate) : Bool := g.type == 6 || g.type == 9 || g.type == 0xA
/-- Level class (R82). -/
def Gate.level (g : Gate) : Bool := g.type == 1 || g.type == 4 || (g.type == 9 && g.mode % 4 < 2)

/-- The checks of R87 on one descriptor, but for the gate it follows and for ownership. -/
def gateOk (g : Gate) : Bool :=
  let t := g.type
  let m := g.mode
  let logicType := g.logic || t == 5 || t == 7
  let thrOk := fun n => decide (g.par n < 2 ^ 18)
  zeros g [(5, 3), (20, 4), (32, 32), (192, 64)] && t != 0xF
  && (!g.qualReq || (logicType && t != 8 && t != 4))
  && (!g.srcDc || g.analogue)
  && (t == 8 || g.selB == 0)
  && match t with
    | 0 => g.toNat == 0
    | 1 => g.selA == 0 && m == 0 && zeros g [(64, 128)]
    | 2 => g.selA == 0 && m % 4 != 0 && zeros g [(64, 128), (256, 128)] && g.msk != 0
    | 3 => g.selA == 0 && m == 0 && zeros g [(64, 128), (256, 128), (392, 120)] && g.msk != 0
    | 4 => g.selA == 0 && decide (m < 2) && zeros g [(64, 128), (256, 256)]
    | 5 => decide (g.par 0 ≤ g.par 1) && zeros g [(128, 64), (256, 256)]
    | 6 => m % 4 != 0 && decide (m < 4) && thrOk 0 && thrOk 1 && decide (g.thr 0 < g.thr 1)
        && zeros g [(128, 64), (256, 256)]
    | 7 => m % 4 != 3 && decide (1 ≤ g.par 0) && zeros g [(96, 96), (256, 256)]
    | 8 => decide (m < 2) && decide (1 ≤ g.selB) && decide (g.selB ≤ 64)
        && zeros g [(64, 128), (320, 64), (448, 64)]
    | 9 => decide (m < 4) && thrOk 0 && thrOk 1 && decide (g.par 2 < 2 ^ 17)
        && decide (g.thr 0 ≤ g.thr 1) && zeros g [(160, 32), (256, 256)]
    | 0xA => decide (m < 4) && thrOk 0 && thrOk 1 && decide (g.thr 0 < g.thr 1)
        && decide (g.par 2 ≤ g.par 3) && zeros g [(256, 256)]
    | 0xB => decide (g.selA ≤ 2) && decide (m < 4) && m % 4 != 0 && zeros g [(64, 128), (256, 256)]
    | 0xC => decide (g.selA ≤ 3) && m == 0 && zeros g [(64, 128), (256, 256)]
    | 0xD => g.selA == 0 && m == 0 && zeros g [(64, 128), (272, 112), (392, 120)]
        && g.msk != 0 && g.val != 0
    | _ => decide (m < 2) && decide (g.selA < if m = 0 then 128 else 16) && zeros g [(64, 128), (256, 256)]

/-! ### Hits within a beat -/

/-- Hit bits of the slots `pos` to `pos + len - 1`. -/
def slotBits (pos len : Nat) : BitVec 64 := BitVec.ofNat 64 ((2 ^ len - 1) * 2 ^ pos)

/-- A gate without history (R102): at the first slot of an arm and after every gap. -/
def GateSt.fresh (st : GateSt) (slot : Slot) (g : Gate) : GateSt :=
  { st with
    prev := none, prevQual := true, level := none, timedOut := false, sh := 0, shN := 0, zone := none
    origZone := none, inside := none, dcVal := none
    start := if g.type = 7 then some slot else none }

/-- A width tested inside or outside two bounds (R93, R97). -/
def widthTest (outside : Bool) (lo hi w : Nat) : Bool :=
  if outside then decide (w < lo) || decide (hi < w) else decide (lo ≤ w) && decide (w ≤ hi)

/-- Zones of a value (R96): 0 low, 1 mid, 2 high. -/
def zoneOf (g : Gate) (x : Int) : BitVec 2 := if x < g.thr 0 then 0 else if x < g.thr 1 then 1 else 2

/-- One slot of the level that a pulse-width or timeout gate follows (R93, R94): state and hit. -/
def followSlot (g : Gate) (st : GateSt) (slot : Slot) (l : Bool) : GateSt × Bool :=
  let changed := match st.level with
    | some p => p != l
    | none => false
  if g.type = 5 then
    let active := l != g.mode.testBit 0
    let st1 := { st with level := some l }
    if !changed then (st1, false)
    else if active then ({ st1 with start := some slot }, false)
    else match st.start with
      | some a =>
        ({ st1 with start := none },
          widthTest (g.mode.testBit 1) (g.par 0) (g.par 1) (min (slotsTo a slot) (2 ^ 32 - 1)))
      | none => (st1, false)
  else
    let st1 := if changed then { st with level := some l, start := some slot, timedOut := false }
      else { st with level := some l }
    let want := match g.mode % 4 with
      | 0 => l
      | 1 => !l
      | _ => true
    match st1.start with
    | some a =>
      if slotsTo a slot + 1 = g.par 0 && want && !st1.timedOut then ({ st1 with timedOut := true }, true)
      else (st1, false)
    | none => (st1, false)

/-- One visible sample of a logic gate (R89 to R92, R95): state and hit bits. -/
def logicSample (g : Gate) (st : GateSt) (x : Samp) : GateSt × BitVec 64 :=
  let v := x.view
  let whole := slotBits x.pos x.len
  let first := slotBits x.pos 1
  let hit := fun (b : Bool) (m : BitVec 64) => if b then m else 0
  let st1 := { st with prev := some v }
  match g.type with
  | 1 => (st1, hit ((v ^^^ g.val) &&& g.msk == 0) whole)
  | 2 =>
    match st.prev with
    | none => (st1, 0)
    | some p =>
      let rise := (v ^^^ p) &&& v &&& g.msk
      let fall := (v ^^^ p) &&& p &&& g.msk
      let e := (if g.mode.testBit 0 then rise else 0) ||| (if g.mode.testBit 1 then fall else 0)
      (st1, hit (if g.mode.testBit 2 then e == g.msk else e != 0) first)
  | 3 => (st1, hit ((List.range 8).any fun k => g.msk.testBit k && x.glitch k) first)
  | 4 => (st1, hit (x.qual == g.mode.testBit 0) whole)
  | _ =>
    let shifts := x.qual && (!g.mode.testBit 0 || !st.prevQual)
    let st2 := { st1 with prevQual := x.qual }
    if shifts then
      let sh : BitVec 64 := (st.sh <<< 1) ||| (if v.testBit g.selA then 1 else 0)
      let n := min (st.shN + 1) 64
      let m := fld g 384 64 &&& (2 ^ g.selB - 1)
      ({ st2 with sh := sh, shN := n }, hit (decide (g.selB ≤ n) && (sh.toNat ^^^ fld g 256 64) &&& m == 0) first)
    else (st2, 0)

/-- One value of an analogue gate at a slot (R96 to R98): state, hit at that slot, and whether a level
gate hits while the value stands. -/
def analogueValue (g : Gate) (st : GateSt) (slot : Slot) (x : Int) : GateSt × Bool × Bool :=
  if g.type = 9 then
    let isIn := decide (g.thr 0 ≤ x) && decide (x ≤ g.thr 1)
    let out := decide (x < g.thr 0 - g.par 2) || decide (g.thr 1 + g.par 2 < x)
    let now := match st.inside with
      | none => isIn
      | some true => !out
      | some false => isIn
    let entered := st.inside == some false && now
    let left := st.inside == some true && !now
    ({ st with inside := some now },
      (g.mode == 2 && entered) || (g.mode == 3 && left),
      (g.mode == 0 && now) || (g.mode == 1 && !now))
  else
    let z := zoneOf g x
    let st1 := { st with zone := some z }
    if g.type = 6 then
      let orig := match st.zone with
        | some 1 => st.origZone
        | other => other
      if z = 1 then ({ st1 with origZone := orig }, false, false)
      else
        let runt := st.zone == some 1 && orig == some z
        ({ st1 with origZone := none },
          runt && (if z = 0 then g.mode.testBit 0 else g.mode.testBit 1), false)
    else
      let from' : BitVec 2 := if g.mode.testBit 0 then 2 else 0
      let to' : BitVec 2 := 2 - from'
      let a := if st.zone == some from' && z != from' then some slot
        else if z = from' then none else st.start
      if z = to' then
        match a with
        | some a0 =>
          ({ st1 with start := none },
            widthTest (g.mode.testBit 1) (g.par 2) (g.par 3) (min (slotsTo a0 slot) (2 ^ 32 - 1)), false)
        | none => ({ st1 with start := none }, false, false)
      else ({ st1 with start := a }, false, false)

/-- A gate that follows a signal or another gate's hits, over the slots of a beat. -/
def followBeat (g : Gate) (slot : Slot) (xs : List Samp) (other : BitVec 64) (st : GateSt) :
    GateSt × BitVec 64 :=
  let step := fun (y : GateSt × BitVec 64) (j : Nat) (l : Bool) =>
    let (st1, h) := followSlot g y.1 (slot + BitVec.ofNat 64 j) l
    (st1, if h then y.2 ||| slotBits j 1 else y.2)
  if g.follows then (List.range 64).foldl (fun y j => step y j (other.getLsbD j)) (st, 0)
  else xs.foldl (fun y x =>
    if g.qualReq && !x.qual then y
    else (List.range x.len).foldl (fun y i => step y (x.pos + i) (x.view.testBit g.selA)) y) (st, 0)

/-- An output of the down-converter in a beat: slot position of its causal slot, settling tag, components. -/
structure DcTap where
  pos : Nat
  tagged : Bool
  i : SWord
  q : SWord
  deriving DecidableEq, Repr

/-- The values that an analogue gate with src_dc sees in a beat (R85, R173): position, value while untagged. The
output in effect at the start of the beat is one where the gate does not see it yet, as after an arm or a gap, and
where none is in effect any more. -/
def dcValues (c : Nat) (eff : Option (SWord × SWord)) (dc : List DcTap) (st : GateSt) : List (Nat × Option Int) :=
  let part := fun (i q : SWord) => wordVal (if c = 0 then i else q)
  let vals := dc.map fun o => (o.pos, if o.tagged then none else some (part o.i o.q))
  if st.dcVal.isSome == eff.isSome then vals
  else vals.filter (·.1 == 0) ++ [(0, eff.map fun x => part x.1 x.2)] ++ vals.filter (·.1 != 0)

/-- A gate on the down-converter's output, over the slots of a beat (R85, R173). -/
def dcBeat (g : Gate) (slot : Slot) (vals : List (Nat × Option Int)) (st : GateSt) : GateSt × BitVec 64 :=
  (List.range 64).foldl (fun (y : GateSt × BitVec 64) j =>
    match vals.find? (fun v => v.1 == j) with
    | some (_, none) => ({ y.1 with dcVal := none }, y.2)
    | some (_, some x) =>
      let sl := slot + BitVec.ofNat 64 j
      let st0 := if y.1.dcVal.isNone then y.1.fresh sl g else y.1
      let (st1, h, lv) := analogueValue g st0 sl x
      ({ st1 with dcVal := some (BitVec.ofInt 36 x) }, if h || lv then y.2 ||| slotBits j 1 else y.2)
    | none =>
      match y.1.dcVal, y.1.inside with
      | some _, some i =>
        let lv := g.type == 9 && ((g.mode == 0 && i) || (g.mode == 1 && !i))
        (y.1, if lv then y.2 ||| slotBits j 1 else y.2)
      | _, _ => y) (st, 0)

/-- Codes of remote sources as they travel to ports (R99). -/
def srcRising (i : Nat) : Nat := i
def srcFalling (i : Nat) : Nat := 4 + i
def srcSpectral (u : Nat) : Nat := 8 + u
def srcEngine (e c : Nat) : Nat := 128 + 16 * e + c
def srcPort (p : Nat) : Nat := 256 + p
def srcPcs (n : Nat) : Nat := 512 + n

/-- The sources that a remote gate names. -/
def gateSources (g : Gate) : List Nat :=
  match g.type with
  | 0xB => (if g.mode.testBit 0 then [srcRising g.selA] else []) ++
      (if g.mode.testBit 1 then [srcFalling g.selA] else [])
  | 0xC => [srcSpectral g.selA]
  | 0xD => (List.range 8).flatMap fun e => if g.msk.testBit e then
      (List.range 16).filterMap fun c => if g.val.testBit c then some (srcEngine e c) else none else []
  | 0xE => [if g.mode = 0 then srcPort g.selA else srcPcs g.selA]
  | _ => []

/-- The first of the positions at which sources fired in a beat, as a hit. -/
def firstHit (slot : Slot) (rs : List RemoteHit) (src : List Nat) : BitVec 64 :=
  match (rs.filter fun r => beatSlot r.slot == slot && src.contains r.gateSrc.code.toNat).map
      fun r => r.slot.toNat % 64 with
  | [] => 0
  | j :: more => slotBits (more.foldl min j) 1

/-- Hits of a remote gate in a beat (R99, R100): each source delivers the position at which it fired first, and
the hits of several engines and codes are combined by OR. The edges of one input are one source. -/
def remoteBeat (g : Gate) (slot : Slot) (rs : List RemoteHit) : BitVec 64 :=
  let src := gateSources g
  if g.type = 0xD then src.foldl (fun m c => m ||| firstHit slot rs [c]) 0 else firstHit slot rs src

/-- One gate over one beat: the state after it and its hit bits. `other` holds the hits of the gate that it
follows. -/
def gateBeat (P : Port) (g : Gate) (slot : Slot) (xs : List Samp) (eff : Option (SWord × SWord)) (dc : List DcTap)
    (other : BitVec 64) (st : GateSt) : GateSt × BitVec 64 :=
  let t := g.type
  if t = 0 then (st, 0)
  else if t = 5 || t = 7 then followBeat g slot xs other st
  else if g.analogue then
    if g.srcDc then dcBeat g slot (dcValues g.selA eff dc st) st
    else xs.foldl (fun (y : GateSt × BitVec 64) x =>
      let (st1, h, lv) := analogueValue g y.1 (slot + BitVec.ofNat 64 x.pos) (wordVal (x.words.getD g.selA 0))
      (st1, y.2 ||| (if lv then slotBits x.pos x.len else if h then slotBits x.pos 1 else 0))) (st, 0)
  else if t = 0xB || t = 0xC || t = 0xD || t = 0xE then (st, remoteBeat g slot P.trig.remote)
  else xs.foldl (fun (y : GateSt × BitVec 64) x =>
    if g.qualReq && !x.qual then y
    else
      let (st1, h) := logicSample g y.1 x
      (st1, y.2 ||| h)) (st, 0)

def Port.gate (P : Port) (g : Nat) : Gate := P.trig.gates.get 0 g
def Port.gateSt (P : Port) (g : Nat) : GateSt := P.trig.gst.get GateSt.reset g

/-- The hit array of a beat and the gates after it (R81): level gates first, then those that may follow
them. `history` is false at the first beat of an arm and after a gap (R102). -/
def gatesBeat (P : Port) (b : Beat) (eff : Option (SWord × SWord)) (dc : List DcTap) (history : Bool) :
    List (BitVec 64) × Tab GateSt :=
  let xs := beatSamples ((fmtWords P.fmt.toNat).getD 0) b
  let start := fun g => if history then P.gateSt g else (P.gateSt g).fresh b.slot (P.gate g)
  let one := fun g other => gateBeat P (P.gate g) b.slot xs eff dc other (start g)
  let first := (List.range 32).map fun g => if (P.gate g).follows then (start g, 0) else one g 0
  let all := (List.range 32).map fun g =>
    if (P.gate g).follows then one g (first.getD (P.gate g).selA (GateSt.reset, 0)).2
    else first.getD g (GateSt.reset, 0)
  (all.map (·.2), (List.range 32).foldl (fun t g =>
    if (P.gate g).type = 0 then t else t.set g (all.getD g (GateSt.reset, 0)).1) P.trig.gst)

/-- The hit counters after a beat (R105). -/
def countHits (gst : Tab GateSt) (hits : List (BitVec 64)) : Tab GateSt :=
  (List.range 32).foldl (fun t g =>
    let n := popCount (hits.getD g 0)
    if n = 0 then t else t.mod GateSt.reset g fun st =>
      let c := satAdd 48 st.hits.toNat n
      { st with hits := BitVec.ofNat 48 c, sat := st.sat || c == 2 ^ 48 - 1 }) gst

end Sys2Proof.Machine
end

