-- ==== Sys2Proof/Machine/ChainRun.lean ====
section
/-! DEFINITION. What the spectral chain makes of a decided beat: mixer, filters and real-to-complex stages, the
down-converter's outputs and the pipes' samples (R163, R167 to R169, R173, R175, R179). -/
namespace Sys2Proof.Machine

/-- A channel's value in a sample (R162). -/
def chanValue (fmt ch : Nat) (ws : List SWord) : Cx :=
  if fmtComplex fmt then ((ws.getD (2 * ch) 0).toInt, (ws.getD (2 * ch + 1) 0).toInt)
  else ((ws.getD ch 0).toInt, 0)

/-- The coefficient tables in use (R164, R170). -/
def Chain.hbCoef (c : Chain) : List SWord := c.halfband.getD Config.factoryHb
def Chain.cfirCoef (c : Chain) : List SWord :=
  if bit c.cfg 10 then (List.range 32).map (c.userCfir.get 0) else Config.factoryCfir c.dec

/-- A chain along a beat: the chain, the down-converter's outputs, and the first causal slot of each derived stream
that gave a sample. -/
structure ChainBeat where
  chain : Chain
  outs : List DcTap
  firsts : List (Nat × Slot)

/-- A stream gave a sample. -/
def ChainBeat.gave (r : ChainBeat) (i : Nat) (slot : Slot) : ChainBeat :=
  if r.firsts.any (·.1 == i) then r else { r with firsts := r.firsts ++ [(i, slot)] }

/-- A sample enters the pipe of a sequence. -/
def Chain.feed (c : Chain) (q m : Nat) (x : Cx) (tagged : Bool) : Chain :=
  let t := c.pipes.get PipeSt.reset q
  { c with pipes := c.pipes.set q { t with hist := t.hist ++ [(m, x, tagged)] } }

/-- The down-converter over input sample `n` (R167 to R169, R173). -/
def dcSample (fmt : Nat) (slot : Slot) (n len pos : Nat) (ws : List SWord) (r : ChainBeat) : ChainBeat :=
  let c := r.chain
  let y := mix (c.phiAt len slot) (chanValue fmt (fld c.cfg 1 3) ws)
  let (st, o) := decStep c.dec c.fast c.hbCoef c.cfirCoef n y c.dc
  match o with
  | none => { r with chain := { c with dc := st } }
  | some v =>
    let (i, iSat) := saturate (roundShift (decBits c.dec c.fast) v.1)
    let (q, qSat) := saturate (roundShift (decBits c.dec c.fast) v.2)
    let tagged := decide (n < c.evPos + decSpan c.dec c.fast)
    let c1 : Chain := { c with
      dc := st, dcOut := some (i, q, tagged)
      satCount := if iSat || qSat then satInc c.satCount else c.satCount }
    let c2 := (c.seqList.filter fun k => pipeSrc (c.pipe k) == 1).foldl (fun c k =>
      c.feed k (n / 2 ^ c.dec) (i.toInt * 2 ^ 17, q.toInt * 2 ^ 17) tagged) c1
    ChainBeat.gave { r with chain := c2, outs := r.outs ++ [⟨pos, tagged, i, q⟩] } 0 slot

/-- The stream of a sequence's own pipe over input sample `n`: the raw complex channel, or the real-to-complex
stage (R163, R173, R179). -/
def pipeSample (fmt : Nat) (slot : Slot) (n : Nat) (ws : List SWord) (r : ChainBeat) (q : Nat) : ChainBeat :=
  let c := r.chain
  let x := chanValue fmt (fld (c.pipe q) 2 3) ws
  match pipeSrc (c.pipe q) with
  | 2 => ChainBeat.gave { r with chain := c.feed q n (Cx.times (2 ^ 17) x) false } (1 + q) slot
  | 3 =>
    let t := c.pipes.get PipeSt.reset q
    let line := (quarterTurn n x.1 :: t.line).take 47
    let c1 : Chain := { c with pipes := c.pipes.set q { t with line := line } }
    if n % 2 = 1 then
      ChainBeat.gave { r with
        chain := c1.feed q (n / 2) (firOut (hbTaps c.hbCoef) line) (decide (n < c.evPos + 46)) } (1 + q) slot
    else { r with chain := c1 }
  | _ => r

/-- One sample of a beat through the chain. -/
def chainSample (fmt : Nat) (base : Slot) (r : ChainBeat) (x : Samp) : ChainBeat :=
  let slot := base + BitVec.ofNat 64 x.pos
  let n := slotsTo r.chain.resetSlot slot / x.len
  let r1 := if r.chain.dcEn then dcSample fmt slot n x.len x.pos x.words r else r
  r.chain.seqList.foldl (pipeSample fmt slot n x.words) r1

/-- The down-converter's output in effect at the start of a beat, while it is not tagged (R85, R173). -/
def Chain.inEffect (c : Chain) : Option (SWord × SWord) :=
  match c.dcOut with
  | some (i, q, false) => if c.st == .stopped || !c.dcEn then none else some (i, q)
  | _ => none

/-- A beat of a running chain whose slots are lost (R175). -/
def chainLose (s : State) (p : Nat) (slot : Slot) (cause : BitVec 4) : State :=
  let s1 := (offerGap s p 3).modPort p fun P =>
    let C := P.chain
    { P with chain := { C.lose P.sampleSlots slot cause with
        lostAt := some (C.lostAt.getD slot), passed := slot + 64 } }
  applyTunes s1 p slot

/-- The settling ends once its slot has come (R171). -/
def settleChain (s : State) (p : Nat) (slot : Slot) : State :=
  s.modPort p fun P => match P.chain.settleTo with
    | some x => if P.chain.st == .settling && notAfter x slot then
        { P with chain := { P.chain with st := .running, settleTo := none } } else P
    | none => P

/-- A beat of a running chain (R163, R175 to R177): the resync after lost slots, the retunes of the beat, and its
samples. The answer has the down-converter's outputs. -/
def chainKeep (s : State) (p : Nat) (b : Beat) : State × List DcTap :=
  let s1 := if (s.port p).chain.lostAt.isSome then chainResync s p b.slot else s
  let s2 := applyTunes s1 p b.slot
  let P := s2.port p
  let r := (beatSamples ((fmtWords P.fmt.toNat).getD 0) b).foldl (chainSample P.fmt.toNat b.slot) ⟨P.chain, [], []⟩
  let s3 := s2.setPort p { P with chain := { r.chain with passed := b.slot + 64 } }
  let s4 := r.firsts.foldl (fun s x => closeGap s p x.1 x.2) s3
  let s5 := r.outs.foldl (fun s o => offer s p 3 [o.i, o.q] (b.slot + BitVec.ofNat 64 o.pos)) s4
  (settleChain s5 p (b.slot + 64), r.outs)

/-- What a decided beat means for the spectral chain. -/
def chainBeat (s : State) (p : Nat) (b : Beat) (lost : Option (BitVec 4)) : State × List DcTap :=
  if (s.port p).chain.st == .stopped then (s, [])
  else match lost with
    | some cause => (chainLose s p b.slot cause, [])
    | none => chainKeep s p b

end Sys2Proof.Machine
end

