-- ==== Sys2Proof/Machine/PortOps.lean ====
section
/-! DEFINITION. Operations on a probe port (R30 to R63): lanes, port states, messages, going DOWN,
degraded mode, retrains and the stop of the port's spectral chain. -/
namespace Sys2Proof.Machine

/-! ### Reading a port -/

def Port.lane (P : Port) (q : Nat) : Lane := P.lanes.get Lane.reset q
def Port.modLane (P : Port) (q : Nat) (f : Lane → Lane) : Port :=
  { P with lanes := P.lanes.set q (f (P.lane q)) }
/-- The physical positions of the lanes. -/
def positions : List Nat := List.range 9
def Port.setLanes (P : Port) (qs : List Nat) (f : Lane → Lane) : Port :=
  qs.foldl (fun P q => P.modLane q f) P

/-- State codes of lanes (R50). -/
def laneCode : LaneSt → Nat
  | .off => 0 | .acquire => 1 | .hunt => 2 | .block => 3 | .live => 4 | .suspect => 5 | .lost => 6 | .hold => 7

/-- State codes of ports (R51). -/
def portCode : PortSt → Nat
  | .down => 0 | .powered => 1 | .training => 2 | .live => 3 | .rebuild => 4 | .degraded => 5 | .warm => 6
  | .quarantined => 7

/-- A lane that delivers blocks (R50). -/
def Lane.usable (l : Lane) : Bool := l.st == .live || l.st == .suspect || l.st == .hold

/-- The port streams: its block periods carry slots (R51). -/
def Port.streams (P : Port) : Bool :=
  P.state == .live || P.state == .rebuild || P.state == .degraded || P.state == .warm

/-- Positions of the lanes that are out of use: LOST, or LOST and being retrained in place (R49). -/
def Port.outOfUse (P : Port) : List Nat := positions.filter fun q => !(P.lane q).usable

/-- The physical position that carries a lane_id. -/
def Port.posOf (P : Port) (id : Nat) : Option Nat := positions.find? fun q => (P.lane q).laneId.toNat == id

/-- The lane_id of a position: the one received there, or, before its block lock, the only one that no other
position has. -/
def Port.idOf (P : Port) (q : Nat) : BitVec 4 :=
  if (P.lane q).laneId = 0xF then
    match (List.range 9).filter fun id => (P.posOf id).isNone with
    | [id] => BitVec.ofNat 4 id
    | _ => 0xF
  else (P.lane q).laneId

/-- Lane mask by lane_id of one position (R46). -/
def Port.laneMask (P : Port) (q : Nat) : Nat := 2 ^ (P.idOf q).toNat % 512

/-- Slot power as driven on the chain (R63). -/
def Port.powerOut (P : Port) : Bool := bit P.slotStatus 1

/-- PORT_STATE (R63). -/
def Port.stateReg (P : Port) : Nat :=
  pack [(3, portCode P.state), (1, b2n P.halfRate), (4, P.lostA.toNat), (4, P.lostB.toNat),
    (4, P.failCode.toNat), (1, b2n P.onSpare), (4, P.fmt.toNat)]

/-- LANE_STATE and LANE_MAP (R63). -/
def Port.laneStates (P : Port) : Nat := pack (positions.map fun q => (3, laneCode (P.lane q).st))
def Port.laneIds (P : Port) : Nat := pack (positions.map fun q => (4, (P.lane q).laneId.toNat))

/-- The slot registers 0x08 to 0x24 (R63). -/
def Port.slotRegs (P : Port) : List Nat :=
  [P.stateReg, P.laneStates, P.laneIds % 2 ^ 32, P.laneIds / 2 ^ 32,
   P.loopDelay.toNat + 2 ^ 12 * P.skew.toNat, P.badBlocks.toNat, P.gapBlocks.toNat,
   P.lastMdb.toNat + 2 ^ 8 * P.ibiCount.toNat]

/-! ### Messages (R45, R46) -/

/-- Queues a return-lane message under the next msg_seq of the cycle 1 to 255. -/
def Port.send (P : Port) (ty : Nat) (body : List Nat) (eff : Option EffectKind := none)
    (effAt : Option (BitVec 18) := none) : Port :=
  { P with
    txQueue := P.txQueue ++ [⟨P.txSeq, BitVec.ofNat 5 ty, body.map (BitVec.ofNat 18), eff, effAt, 0⟩]
    txSeq := if P.txSeq = 255 then 1 else P.txSeq + 1 }

/-- Forgets every message and every effect that waits. -/
def Port.clearMsgs (P : Port) : Port :=
  { P with txQueue := [], unacked := [], effects := [], resend := false, txSeq := 1 }

/-- A latched wake edge drives WAKE# low while PERST# of endpoint A is asserted and PME_En was recorded
(R323). -/
def driveWake (s : State) : State :=
  let E := s.ep 0
  if E.perst && E.pmeRec && !E.wakeLow then (s.modEp 0 fun E => { E with wakeLow := true }).out (.wake true)
  else s

/-! ### Port states (R51, R63, R80) -/

/-- Slot 0 of the next beat that the port decides. -/
def Port.pos (P : Port) : Slot :=
  match P.deskew with
  | b :: _ => b.slot
  | [] => P.nextBeat

/-- Block periods of the port reach its stream: it streams, or it trains while armed (R25, R51). -/
def Port.inPeriods (P : Port) : Bool := P.streams || (P.state == .training && P.trig.armed)

/-- The slot at which a change of the port counts: the first slot of the block period that follows
(R52, R80), or the current beat while no block periods run. -/
def portSlot (s : State) (p : Nat) : Slot :=
  if (s.port p).inPeriods then (s.port p).nextBeat else s.time.slotCount

/-- Port state record (R80). -/
def portRecord (s : State) (p : Nat) (slot : Slot) : State :=
  let P := s.port p
  emitRec s p slot 5 (pack [(3, portCode P.state), (1, b2n P.onSpare), (4, P.lostA.toNat), (4, P.lostB.toNat)])

/-- A new port state: SLOT_STATUS, the port state record and EV_PORT. -/
def setPortState (s : State) (p : Nat) (st : PortSt) : State :=
  let P := s.port p
  if P.state == st then s
  else
    let slot := if P.inPeriods || st == .live || st == .rebuild || st == .degraded then P.nextBeat
      else s.time.slotCount
    let left := P.state == .down
    let s1 := s.modPort p fun P => { P with
      state := st
      slotStatus := put (put P.slotStatus 6 1 1) 8 1 (b2n (st == .quarantined))
      badBlocks := if left then 0 else P.badBlocks
      gapBlocks := if left then 0 else P.gapBlocks
      calBlocks := if left then 0 else P.calBlocks }
    evOwner (portRecord s1 p slot) p 0x8003
      (locPort p + 2 ^ 16 * portCode st + 2 ^ 19 * P.failCode.toNat) (s.tmOf slot).toNat

/-- Address that a probe head is assigned, and the addresses that open a transfer and a Hot-Join (R54,
R55). -/
def headAddr : BitVec 7 := 0x30
def broadcastAddr : BitVec 7 := 0x7E
def hotJoinAddr : BitVec 7 := 0x02

/-- The lower of two addresses that start in one START wins the arbitration (R55). -/
def headWins (head : BitVec 7) : Bool := decide (head < broadcastAddr)

/-- ENTDAA: the dynamic address is assigned (R54, R57). -/
def assignXfer (opening : I3c) : List I3c :=
  [opening, .addr broadcastAddr false, .ccc .entdaa, .restart, .addr broadcastAddr true, .assign headAddr, .stop]

/-- The head descriptor's read: a private write of the offset 0x0000, then a private read of 32 bytes
(R55, R57). -/
def descXfers (opening : I3c) : List (List I3c) :=
  [[opening, .addr broadcastAddr false, .restart, .addr headAddr false, .byte 0, .byte 0, .stop],
   [.start, .addr broadcastAddr false, .restart, .addr headAddr true, .take 32, .stop]]

/-- Reads the head descriptor, the dynamic address assigned first where the head has none (R57). -/
def readHead (s : State) (p : Nat) (assigned : Bool) : State :=
  let xs := if assigned then descXfers .start else assignXfer .start :: descXfers .start
  xs.foldl (fun s x => s.out (.i3c p x)) (s.modPort p fun P => { P with dynAddr := true, descRead := true })

/-- Starts a read of the head descriptor (R51, R57): with slot power on and a probe head present. -/
def startDescRead (s : State) (p : Nat) : State :=
  let P := s.port p
  if P.powerOut && !bit P.slotStatus 2 && P.prsnt && P.state == .down then readHead s p P.dynAddr
  else s

/-- The port leaves TRAINING, or its training is given up: the EV_DONE of PORT_OPEN or PORT_RETRAIN
(R300), and its waiting token request. -/
def leaveTraining (s : State) (p : Nat) : State :=
  let P := s.port p
  let s1 := s.modPwr fun W => { W with
    queue := W.queue.filter fun g => !(g.packet.isNone && g.holders.contains (.port p)) }
  finishJob s1 (.portTrain p) 0 (portCode P.state + 8 * P.failCode.toNat) 0

/-- An armed port is to be disarmed at slot 0 of a beat; a disarm that comes earlier stands (R113). -/
def Port.disarmBy (P : Port) (D : Slot) : Port :=
  if P.trig.armed then { P with trig := { P.trig with disarmAt := some (match P.trig.disarmAt with
    | some d => if notAfter d D then d else D
    | none => D) } }
  else P

/-- The port goes DOWN (R51): lanes off, messages dropped, the chain stopped, an armed port disarmed at
the end of the block period (R25), and the descriptor read again while slot power stays on. -/
def portDown (s : State) (p : Nat) : State :=
  let P := s.port p
  if P.state == .down then s
  else
    let slot := portSlot s p
    let s1 := stopChain s p 7 slot
    let s2 := s1.modPort p fun P0 => let P := P0.disarmBy slot; { P.clearMsgs with
      lanes := [], halfRate := false, rxHalf := false, lostA := 0xF, lostB := 0xF, named := [],
      namedSweep := 8, training := none, inPlace := none, selfTrain := false, liveGrant := false
      pending := []
      trig := { P.trig with downed := P.trig.armed } }
    startDescRead (leaveTraining (setPortState s2 p .down) p) p

/-- The port goes DOWN and SHUTDOWN is sent under the next msg_seq, after the messages before it, and resent
like any message (R45, R51, R300). -/
def closePort (s : State) (p : Nat) : State :=
  let P := s.port p
  let s1 := portDown s p
  if P.streams || P.state == .training then
    s1.modPort p fun Q => { Q with txQueue := P.txQueue, unacked := P.unacked, txSeq := P.txSeq }.send 0x0A []
  else s1

/-- The port is in service: its front end is not held in reset, and its die came up at boot (R436, R449). -/
def portServes (s : State) (p : Nat) : Bool := !(s.port p).trig.heldOut && (s.die (portDie p)).bootOk

/-! ### Lane losses and degraded mode (R41, R42, R43, R49) -/

/-- The lanes that RATE_SET names: four data lanes and the sweep lane by lane_id, of the good lanes
(R42); none where fewer than five lanes are good. -/
def nameLanes (good : List Nat) : Option (List Nat × Nat) :=
  let ids := (List.range 9).filter good.contains
  match ids.getLast? with
  | some top => if ids.length ≥ 5 then some ((ids.filter (· != top)).take 4, top) else none
  | none => none

/-- The good lane_ids of a port. -/
def Port.goodIds (P : Port) : List Nat :=
  (positions.filter fun q => (P.lane q).usable).map fun q => (P.lane q).laneId.toNat

/-- Degraded mode begins (R42): RATE_SET is sent with the given effect_seq, the chain stops, and a port
that is not WARM becomes DEGRADED. -/
def degrade (s : State) (p : Nat) (effAt : BitVec 18) : State :=
  let P := s.port p
  match nameLanes P.goodIds with
  | none => portDown s p
  | some (ds, sw) =>
    let s1 := s.modPort p fun P => { P.send 7 ([1] ++ ds ++ [sw]) (some (.rateSet true ds sw)) (some effAt)
      with halfRate := true, named := ds, namedSweep := sw }
    let s2 := stopChain s1 p 7 (portSlot s p)
    if P.state == .warm then s2 else setPortState s2 p .degraded

/-- Retrains a LOST lane in place while auto_lane_retrain is 1 and the port is in REBUILD, or WARM with
one lane LOST (R49). -/
def retrainLane (s : State) (p : Nat) : State :=
  let P := s.port p
  match P.outOfUse with
  | [q] =>
    if bit P.slotCtrl 11 && !P.halfRate && P.inPlace.isNone && !(P.lane q).noRetrain &&
        (P.lane q).st == .lost && (P.state == .rebuild || P.state == .warm) then
      s.modPort p fun P => { (P.send 5 [P.laneMask q]).modLane q fun l => { l with st := .acquire, badRun := 0 }
        with inPlace := some (q, 3) }
    else s
  | _ => s

/-- Marks a lane LOST, in lost_a or lost_b where one is still free (R41, R63). -/
def Port.loseLane (P : Port) (q : Nat) : Port :=
  let P1 := P.modLane q fun l => { l with st := .lost, badRun := 0 }
  if P.lostA = 0xF then { P1 with lostA := BitVec.ofNat 4 q }
  else if P.lostB = 0xF then { P1 with lostB := BitVec.ofNat 4 q }
  else P1

/-- A lane being retrained in place is LOST again, by loss of lock, electrical idle or bad blocks (R41): the
retrain starts anew while R49 allows it. -/
def loseInPlace (s : State) (p q : Nat) : State :=
  retrainLane (s.modPort p fun P =>
    { P.modLane q fun l => { l with st := .lost, badRun := 0 } with inPlace := none }) p

/-- Positions of the lanes named in degraded mode. -/
def Port.namedPos (P : Port) : List Nat := (P.named ++ [P.namedSweep]).filterMap P.posOf

/-- The lane losses of one block period, counted together (R51, R52). `seq` is the SEQ of the block whose
end triggers the declaration. -/
def applyLosses (s : State) (p : Nat) (qs : List Nat) (seq : BitVec 18) : State :=
  if qs.isEmpty || !(s.port p).streams then s
  else if qs.length ≥ 3 then portDown s p
  else
    let s1 := s.modPort p fun P => qs.foldl Port.loseLane P
    let P := s1.port p
    if P.halfRate then
      if (P.namedPos.filter fun q => !(P.lane q).usable).length ≥ 2 then portDown s1 p else s1
    else if P.outOfUse.length ≥ 2 then degrade s1 p (seq + 320)
    else
      let s2 := if P.state == .warm then s1 else setPortState s1 p .rebuild
      retrainLane s2 p

/-- A message fails (R45): a streaming port goes DOWN and trains again of its own accord; a training
fails. -/
def quarantine (s : State) (p : Nat) (fail : Nat) : State :=
  let s1 := s.modPort p fun P => { P.clearMsgs with
    failCode := BitVec.ofNat 4 fail, training := none
    ledQuar := true, ledFail := BitVec.ofNat 4 fail, ledBoot := s.boot.count, ledFails := satInc P.ledFails }
  leaveTraining (setPortState s1 p .quarantined) p

def messageFail (s : State) (p : Nat) : State :=
  let P := s.port p
  if P.state == .training then quarantine s p 7
  else if P.streams then
    let s1 := portDown (s.modPort p fun P => { P with failCode := 7 }) p
    s1.modPort p fun P => { P with selfTrain := true }
  else s

/-- A rejoin takes effect (R46, R49, R52): LIVE, HOLD while WARM, or standby in degraded mode. -/
def rejoin (s : State) (p : Nat) (mask : BitVec 9) : State :=
  let P := s.port p
  let qs := positions.filter fun q =>
    (P.lane q).st == .block && mask.getLsbD (P.lane q).laneId.toNat
  if qs.isEmpty || !P.streams then s
  else
    let st : LaneSt := if P.state == .warm then .hold else .live
    let P1 := P.setLanes qs fun l => { l with st := st, badRun := 0, standby := P.halfRate }
    let gone := fun (x : BitVec 4) => qs.contains x.toNat
    let rest := [P.lostA, P.lostB].filter fun x => x != 0xF && !gone x
    let P2 := { P1 with
      inPlace := none, lostA := rest.headD 0xF, lostB := (rest.drop 1).headD 0xF }
    let s1 := s.setPort p P2
    if P.state == .rebuild && P2.outOfUse.isEmpty then setPortState s1 p .live else s1

/-! ### Happenings of a block period (R52) -/

/-- Order of application (R52). -/
def Happening.rank : Happening → Nat
  | .presenceOff => 0
  | .powerFault | .powerRemoved | .headFault | .hotJoin => 1
  | .laneLost _ => 2
  | .messageFail => 3
  | .rejoin _ => 4

/-- Applies the happenings of a block period in the order of R52; `seq` is the SEQ of its block. -/
def applyHappenings (s : State) (p : Nat) (hs : List Happening) (seq : BitVec 18) : State :=
  let s0 := s.modPort p fun P => { P with pending := [] }
  let s1 := if hs.any (fun h => decide (h.rank ≤ 1)) then portDown s0 p else s0
  let lost := hs.filterMap fun h => match h with
    | .laneLost q => some q
    | _ => none
  let s2 := applyLosses s1 p lost.eraseDups seq
  let s2' := if hs.any (· == .hotJoin) && !hs.any (· == .presenceOff) then readHead s2 p false else s2
  let s3 := if hs.any (fun h => h.rank == 3) then messageFail s2' p else s2'
  hs.foldl (fun s h => match h with
    | .rejoin m => rejoin s p m
    | _ => s) s3

/-- A happening counts in the current block period of a streaming port; outside block periods it applies
at once (R52). -/
def happen (s : State) (p : Nat) (h : Happening) : State :=
  if (s.port p).streams then s.modPort p fun P => { P with pending := P.pending ++ [h] }
  else applyHappenings s p [h] (s.port p).seqExp

/-! ### Cold training (R47) -/

/-- A cold training starts: phase 1. The block period that it ends applies its happenings first (R52); a port
that they take DOWN does not train. fail_code returns to 0 here (log entry 211). -/
def startTraining (s : State) (p : Nat) : State :=
  let P := s.port p
  let s0 := if P.pending.isEmpty then s else applyHappenings s p P.pending P.seqExp
  if (s0.port p).state == .down then s0
  else
    let s1 := s0.modPort p fun P => { P.clearMsgs with
      lanes := [], halfRate := false, rxHalf := false, lostA := 0xF, lostB := 0xF, failCode := 0, named := []
      namedSweep := 8, inPlace := none, selfTrain := false, liveGrant := false, frames := 0
      training := some ⟨1, [], Origin.none⟩ }
    setPortState s1 p .training

/-- A cold training is wanted: it starts once the port's tokens are granted (R47, R393). -/
def wantTraining (s : State) (p : Nat) : State :=
  let g : Grant := { Grant.reset with holders := portHolders p }
  if grantCost s g = 0 && !(s.die (portDie p)).tCrit then startTraining s p
  else if s.pwr.queue.any (fun x => x.packet.isNone && x.holders.contains (.port p)) then s
  else requestTokens s g

/-- A cold training may be commanded from these states (R51, R58, R300). -/
def Port.retrainable (P : Port) : Bool := P.streams

end Sys2Proof.Machine
end

