-- ==== Sys2Proof/Machine/SlalomOps.lean ====
section
/-! DEFINITION. The slalom: its table, the model of one slot, a beat, the run-out (R106 to R126). -/
namespace Sys2Proof.Machine

/-! ### The table (R107, R108) -/

abbrev Slalom : Type := BitVec 10752
def Slalom.startState (T : Slalom) : Nat := fld T 0 4
def Slalom.gapPolicy (T : Slalom) : Bool := bit T 4
def Slalom.storeInit (T : Slalom) : Bool := bit T 5
def Slalom.roMode (T : Slalom) : Bool := bit T 6
def Slalom.roGate (T : Slalom) : Nat := fld T 8 5
def Slalom.ctrKeep (T : Slalom) (k : Nat) : Bool := bit T (16 + k)
def Slalom.recGates (T : Slalom) : Nat := fld T 32 32
def Slalom.roCount (T : Slalom) : Nat := fld T 64 48
def Slalom.liftBeats (T : Slalom) : Nat := fld T 112 16
def Slalom.roMax (T : Slalom) : Nat := fld T 128 48
def Slalom.ctrThr (T : Slalom) (k : Nat) : Nat := fld T (192 + 48 * k) 48
def Slalom.tmrLim (T : Slalom) (k : Nat) : Nat := fld T (384 + 48 * k) 48
def Slalom.runsMax (T : Slalom) : Nat := fld T 480 32

/-- State control: the first 32 bits that carry the counters' sources (R107). -/
def Slalom.control (T : Slalom) (x : Nat) : BitVec 128 := fbv T (8 * (64 + 80 * x)) 128
def Slalom.branch (T : Slalom) (x b : Nat) : BitVec 128 := fbv T (8 * (64 + 80 * x + 16 + 16 * b)) 128

abbrev Branch : Type := BitVec 128
def Branch.op (b : Branch) (n : Nat) : Nat := fld b (8 * n) 7
def Branch.truth (b : Branch) : Nat := fld b 32 16
def Branch.next (b : Branch) : Nat := fld b 48 4
def Branch.valid (b : Branch) : Bool := bit b 55
def Branch.trigger (b : Branch) : Bool := bit b 56
def Branch.storeOn (b : Branch) : Bool := bit b 57
def Branch.storeOff (b : Branch) : Bool := bit b 58
def Branch.xtrig (b : Branch) : Bool := bit b 59
def Branch.mark (b : Branch) : Bool := bit b 60
def Branch.silent (b : Branch) : Bool := bit b 61
def Branch.cntOp (b : Branch) (k : Nat) : Nat := fld b (64 + 2 * k) 2
def Branch.tmrOp (b : Branch) (k : Nat) : Nat := fld b (72 + 2 * k) 2

/-- Every branch of the table, by state and number. -/
def Slalom.branches (T : Slalom) : List Branch :=
  (List.range 16).flatMap fun x => (List.range 4).map (T.branch x)

/-- An operand code of R109. -/
def operandOk (c : Nat) : Bool := decide (c ≤ 0x27) || c == 0x7F

/-- The checks of R110. -/
def slalomOk (T : Slalom) : Bool :=
  zeros T [(7, 1), (13, 3), (20, 12), (176, 16)]
  && decide (96 ≤ T.liftBeats) && !(T.roMode && T.roCount == 0)
  && ((List.range 16).all fun x => zeros (T.control x) [(5, 2), (13, 2), (21, 2), (29, 2), (32, 96)])
  && T.branches.all fun b => zeros b [(7, 1), (15, 1), (23, 1), (31, 1), (52, 3), (62, 2), (76, 52)]
      && ((List.range 4).all fun n => operandOk (b.op n)) && !(b.storeOn && b.storeOff)

/-! ### One slot (R114) -/

/-- restart() of R114. -/
def slalomRestart (T : Slalom) (c : SlalomCore) : SlalomCore :=
  { c with
    st := BitVec.ofNat 4 T.startState
    store := T.storeInit
    ctr := (List.range 4).map fun k => if T.ctrKeep k then c.ctr.getD k 0 else 0
    tmr := [0, 0]
    run := [false, false]
    first := true }

/-- The value of an operand at the start of a slot (R109); `row` holds the hits of the slot. -/
def operand (T : Slalom) (c : SlalomCore) (row code : Nat) : Bool :=
  if code < 0x20 then row.testBit code
  else if code < 0x24 then decide (T.ctrThr (code - 0x20) ≤ c.ctr.getD (code - 0x20) 0)
  else if code < 0x26 then decide (T.tmrLim (code - 0x24) ≤ c.tmr.getD (code - 0x24) 0)
  else if code = 0x26 then c.first
  else if code = 0x27 then c.store
  else false

/-- A branch is true in a slot (R108, R109). -/
def branchTrue (T : Slalom) (c : SlalomCore) (row : Nat) (b : Branch) : Bool :=
  b.valid && b.truth.testBit (pack ((List.range 4).map fun n => (1, b2n (operand T c row (b.op n)))))

/-- One counter in a slot (R114, R116): the hit of its source first, then the branch's operation. -/
def counterStep (hit : Bool) (op v : Nat) : Nat :=
  let v1 := if hit then satAdd 48 v 1 else v
  match op with
  | 1 => 0
  | 2 => satAdd 48 v1 1
  | 3 => v1 - 1
  | _ => v1

/-- One timer in a slot (R114, R117): value and whether it runs. -/
def timerStep (op v : Nat) (run : Bool) : Nat × Bool :=
  let v0 := if op = 1 || op = 3 then 0 else v
  let r := if op = 1 then true else if op = 2 || op = 3 then false else run
  (if r then satAdd 48 v0 1 else v0, r)

/-- What a slot of HUNT did. -/
structure SlotOut where
  core : SlalomCore
  brTrue : Nat
  taken : Option (Nat × Branch)

/-- hunt_slot() of R114 on a slot that is not lost. -/
def huntSlot (T : Slalom) (c : SlalomCore) (slot : Slot) (row : Nat) : SlotOut :=
  let c0 := if c.gapSeen && T.gapPolicy then slalomRestart T c else c
  let x := c0.st.toNat
  let true' := (List.range 4).filter fun b => branchTrue T c0 row (T.branch x b)
  let taken := true'.head?.map fun b => (b, T.branch x b)
  let br : Branch := match taken with
    | some t => t.2
    | none => 0
  let ctl := T.control x
  let ctr := (List.range 4).map fun k =>
    counterStep (bit ctl (8 * k + 7) && row.testBit (fld ctl (8 * k) 5)) (br.cntOp k) (c0.ctr.getD k 0)
  let tmr := (List.range 2).map fun k => timerStep (br.tmrOp k) (c0.tmr.getD k 0) (c0.run.getD k false)
  let c1 : SlalomCore := { c0 with
    ctr := ctr
    ctrSat := (List.range 4).map fun k => c0.ctrSat.getD k false || ctr.getD k 0 == 2 ^ 48 - 1
    tmr := tmr.map (·.1)
    run := tmr.map (·.2)
    first := false
    gapSeen := false
    store := (c0.store || br.storeOn) && !br.storeOff
    st := if taken.isSome then BitVec.ofNat 4 br.next else c0.st }
  let c2 : SlalomCore := if br.trigger then { c1 with
    phase := .runout, trig := slot, roHits := 0, roDone := none } else c1
  ⟨c2, true'.foldl (fun m b => m + 2 ^ b) 0, taken⟩

/-- The body of an event word above bit 11 (R79). -/
def eventBody (from' to' brTrue : Nat) (taken : Option (Nat × Branch)) (row : Nat) : Nat :=
  match taken with
  | some (tb, br) =>
    pack [(4, from'), (4, to'), (4, brTrue), (2, tb), (1, 1), (1, b2n br.trigger), (1, b2n br.storeOn),
      (1, b2n br.storeOff), (1, b2n br.xtrig), (1, b2n br.mark), (1, b2n (fld br 64 8 != 0)),
      (1, b2n (fld br 72 4 != 0)), (32, row)]
  | none => pack [(4, from'), (4, to'), (4, brTrue), (10, 0), (32, row)]

/-- One slot of the run-out in event-count mode (R122): hits of ro_gate, and when the count is reached. -/
def runoutSlot (T : Slalom) (c : SlalomCore) (slot : Slot) (row : Nat) : SlalomCore :=
  if !T.roMode || c.roDone.isSome then c
  else
    let n := c.roHits + b2n (row.testBit T.roGate)
    let ends := decide (T.roCount ≤ n) || (T.roMax != 0 && slotsTo c.trig slot == T.roMax)
    { c with roHits := n, roDone := if ends then some slot else none }

/-! ### A beat (R119 to R121) -/

/-- What the slalom made of a beat. -/
structure BeatOut where
  core : SlalomCore
  /-- event words: slot position and body above bit 11 -/
  events : List (Nat × Nat)
  /-- position of the first cross-trigger action -/
  xtrig : Option Nat
  /-- position of the trigger -/
  trig : Option Nat
  /-- store qualification at the start of each slot -/
  storeAt : BitVec 64

/-- The hits of all gates at a slot position. -/
def rowAt (hits : List (BitVec 64)) (j : Nat) : Nat :=
  pack (hits.map fun h => (1, b2n (h.getLsbD j)))

/-- One slot of a beat. -/
def beatSlotStep (T : Slalom) (base : Slot) (lost : Bool) (hits : List (BitVec 64)) (o : BeatOut) (j : Nat) :
    BeatOut :=
  let slot := base + BitVec.ofNat 64 j
  let row := if lost then 0 else rowAt hits j
  let c := o.core
  let q := if c.store then o.storeAt ||| slotBits j 1 else o.storeAt
  let rec' := (row &&& T.recGates) != 0
  let x := c.st.toNat
  match c.phase with
  | .idle => { o with storeAt := q }
  | .hunt =>
    if lost then { o with core := { c with gapSeen := true }, storeAt := q }
    else
      let h := huntSlot T c slot row
      let acts := match h.taken with
        | some (_, br) => !br.silent || br.trigger || br.xtrig || br.mark
        | none => false
      let does : (Branch → Bool) → Bool := fun t => match h.taken with
        | some (_, br) => t br
        | none => false
      let q2 := if (if c.gapSeen && T.gapPolicy then T.storeInit else c.store) then o.storeAt ||| slotBits j 1
        else o.storeAt
      let from' := if c.gapSeen && T.gapPolicy then T.startState else x
      { core := h.core
        events := if acts || rec' then
            o.events ++ [(j, eventBody from' h.core.st.toNat h.brTrue h.taken row)]
          else o.events
        xtrig := if o.xtrig.isNone && does (·.xtrig) then some j else o.xtrig
        trig := if does (·.trigger) then some j else o.trig
        storeAt := q2 }
  | .runout | .lift =>
    { o with
      core := if c.phase == .runout then runoutSlot T c slot row else c
      events := if rec' then o.events ++ [(j, eventBody x x 0 none row)] else o.events
      storeAt := q }

/-- The slalom over the 64 slots of a beat. -/
def slalomBeat (T : Slalom) (c : SlalomCore) (base : Slot) (lost : Bool) (hits : List (BitVec 64)) : BeatOut :=
  (List.range 64).foldl (beatSlotStep T base lost hits) ⟨c, [], none, none, 0⟩

/-- Length of the run-out from t to e in slots (R122), once it is known: the later of ro_mode's end and
the post-trigger segment. -/
def runoutLen (T : Slalom) (c : SlalomCore) (post : Nat) : Option Nat :=
  if T.roMode then c.roDone.map fun d => max (slotsTo c.trig d) post
  else some (max T.roCount post)

/-- A slot lies at or before e, as far as the slalom knows it. -/
def inRunout (T : Slalom) (c : SlalomCore) (post : Nat) (slot : Slot) : Bool :=
  match runoutLen T c post with
  | some n => notAfter slot (c.trig + BitVec.ofNat 64 n)
  | none => true

/-- The status block (R125). -/
def slalomStatus (P : Port) : Nat :=
  let c := P.trig.sl
  pack [(2, match c.phase with | .idle => 0 | .hunt => 1 | .runout => 2 | .lift => 3),
    (1, b2n c.store), (5, 0), (4, c.st.toNat), (4, 0),
    (4, pack (c.ctrSat.map fun b => (1, b2n b))), (2, pack (c.run.map fun b => (1, b2n b))), (10, 0),
    (32, P.trig.runs.toNat), (192, pack (c.ctr.map fun v => (48, v))), (96, pack (c.tmr.map fun v => (48, v))),
    (72, P.trig.lastTrig.toNat), (88, 0)]

end Sys2Proof.Machine
end

