-- ==== Sys2Proof/Machine/XtOps.lean ====
section
/-! DEFINITION. The cross-trigger paths: to ports, sequencers, TRIG_OUT and the system lines (R99, R128 to
R131, R234 to R248, R371 to R374). -/
namespace Sys2Proof.Machine

/-- Slots of a number of beats. -/
def beats (n : Nat) : Slot := BitVec.ofNat 64 (64 * n)

/-- A source selector of R129: class and index. -/
def selCls (x : Nat) : Nat := x % 16
def selIdx (x : Nat) : Nat := x / 16 % 256
/-- src_index lies in the range of its class, with the largest class given (R129, R243, R383). -/
def selOk (x maxCls : Nat) : Bool :=
  decide (selCls x ≤ maxCls) && x / 4096 == 0 &&
    match selCls x with
    | 0 => selIdx x == 0
    | 1 => decide (selIdx x < 128)
    | 2 => decide (selIdx x < 16)
    | 3 => decide (selIdx x < 2)
    | 4 => selIdx x == 0
    | _ => decide (selIdx x < 144)

/-! ### To ports (R99, R238) -/

/-- D of the path from a port to a port, in beats, without X_src (R238). -/
def pathD (src dst : Nat) : Nat :=
  if portPair src = portPair dst then 4
  else if portRegion src = portRegion dst then 6
  else if portDie src = portDie dst then 8 else 13

/-- A remote hit on its way to a port, whether or not the port is armed yet: the gate that it meets is that of
its arrival (R99). While the port is not armed, hits that have arrived are dropped. -/
def Port.addRemote (P : Port) (now : Slot) (code : Nat) (slot : Slot) : Port :=
  let onWay := if P.trig.armed then P.trig.remote else P.trig.remote.filter fun r => notAfter now r.slot
  { P with trig := { P.trig with remote := onWay ++ [⟨⟨BitVec.ofNat 12 code⟩, slot⟩] } }

/-- A source that fired at a slot reaches the ports, `d` beats later. -/
def deliver (s : State) (code : Nat) (d : Nat → Nat) (slot : Slot) : State :=
  { s with ports := s.ports.map fun x => (x.1, x.2.addRemote s.time.slotCount code (slot + beats (d x.1))) }

/-! ### To sequencers (R130) -/

/-- An input of a sequencer fires: of several firings in one beat the earliest position stands (R99, R129). -/
def addInput (xs : List (Nat × Slot)) (i : Nat) (slot : Slot) : List (Nat × Slot) :=
  if xs.any (fun x => x.1 == i && beatSlot x.2 == beatSlot slot) then
    xs.map fun x => if x.1 == i && beatSlot x.2 == beatSlot slot && !notAfter x.2 slot then (i, slot) else x
  else xs ++ [(i, slot)]

def Pcs.en (q : Pcs) : Bool := bit q.table 359
def Pcs.sel (q : Pcs) (i : Nat) : Nat := fld q.table (16 * i) 16

/-- A firing reaches the inputs that select it. -/
def toSeqrs (s : State) (cls idx : Nat) (slot : Slot) : State :=
  { s with pcs := s.pcs.map fun x =>
    if x.2.en then
      (x.1, { x.2 with inputs := (List.range 16).foldl (fun xs i =>
        if selCls (x.2.sel i) == cls && selIdx (x.2.sel i) == idx then addInput xs i slot else xs) x.2.inputs })
    else x }

/-! ### To TRIG_OUT (R243, R244) -/

/-- An output idles high (R243). -/
def TrigOut.inv (t : TrigOut) : Bool := bit t.route 12

/-- The level of an output at a slot: inverted from the leading edge of a pulse to its end, idle otherwise. -/
def TrigOut.level (t : TrigOut) (slot : Slot) : Bool :=
  match t.busyTo with
  | some b => t.inv != (notAfter t.lead slot && !notAfter (b - 64) slot)
  | none => t.inv

/-- A pulse whose leading edge starts at a slot: driven, or counted as an overrun. -/
def drive (s : State) (n : Nat) (lead : Slot) : State :=
  let T := s.hub.trigOut.get TrigOut.reset n
  let width := fld T.route 16 8
  let late := match T.busyTo with
    | some b => notAfter b lead
    | none => true
  let put' := fun (T : TrigOut) => s.modHub fun H => { H with trigOut := H.trigOut.set n T }
  if late then
    (put' { T with fires := satInc T.fires, busyTo := some (lead + beats (width + 1)), lead := lead }).out
      (.trigOut n lead (64 * width) !T.inv)
  else put' { T with overruns := satInc T.overruns }

/-- A firing reaches the outputs routed from it, `k` DCLK after its slot. -/
def toTrigOut (s : State) (cls idx k : Nat) (slot : Slot) : State :=
  forEach [0, 1] (fun s n =>
    let r := (s.hub.trigOut.get TrigOut.reset n).route
    if fld r 0 4 == cls && fld r 4 8 == idx then drive s n (slot + beats k) else s) s

/-! ### To system lines (R371 to R374) -/

/-- Line carried in a carriage slot: the leader's own map, or the map learnt from upstream (R371). A
standalone package uses its own map (log entry 1001). -/
def carriageLine (s : State) (k : Nat) : Nat :=
  let v := s.vach
  if v.role = 3 || v.role = 0 then fld v.cfg (384 + 8 * k) 8
  else 255 - ((s.vp v.upstream.toNat).lineMap.get 0 k).toNat

/-- The carriage slot of a mapped line. -/
def carriageOf (s : State) (line : Nat) : Option Nat :=
  (List.range 12).find? fun k => carriageLine s k == line

/-- A beat record with one firing (R361). -/
def beatRecord (k : Nat) (slot : Slot) : BitVec 88 :=
  BitVec.ofNat 88 (slot.toNat / 64 % 16 + 2 ^ (4 + k) + slot.toNat % 64 * 2 ^ (16 + 6 * k))

/-- A mapped line fires in an entry beat of this package's bridge: its sequencers and TRIG_OUT routes see
it, and every TREE link but the one it came in on carries it (R245, R372). -/
def lineFire (s : State) (line : Nat) (slot : Slot) (from' : Option Nat) : State :=
  match carriageOf s line with
  | none => s
  | some k =>
    let s1 := toTrigOut (toSeqrs s 5 line slot) 5 line 3 slot
    forEach [0, 1, 2, 3] (fun s v =>
      if (s.vp v).st == .tree && from' != some v then s.out (.xtrig v (beatSlot slot) (beatRecord k slot))
      else s) s1

/-- Route k of the Vacheod block (R383): line and selector. -/
def routeLine (s : State) (k : Nat) : Nat := fld s.vach.cfg (96 + 24 * k) 8
def routeSel (s : State) (k : Nat) : Nat := fld s.vach.cfg (104 + 24 * k) 16

/-- A firing drives the lines routed from it, `g` beats after its beat (R372). Of two routes to one line
the line fires once. -/
def toLines (s : State) (cls idx g : Nat) (slot : Slot) : State :=
  let ks := (List.range 12).filter fun k => routeLine s k != 255 &&
    selCls (routeSel s k) == cls && selIdx (routeSel s k) == idx
  forEach (ks.map (routeLine s)).eraseDups (fun s line => lineFire s line (slot + beats g) none) s

/-! ### Sources -/

/-- The cross-trigger out of a port, at a slot of its beat (R99, R118, R238, R244). -/
def portFires (s : State) (p : Nat) (slot : Slot) : State :=
  let x := (s.port p).trig.xDelay
  let s1 := deliver s (srcPort p) (fun q => pathD p q + x) slot
  toLines (toTrigOut (toSeqrs s1 1 p slot) 1 p (41 + x) slot) 1 p (38 + x) slot

/-- The output of a sequencer, at a slot of its originating beat (R131, R238, R242). A sequencer that names
it sees it A = 50 beats later (R130; log entry 502). -/
def seqrFires (s : State) (n : Nat) (slot : Slot) : State :=
  let s1 := deliver s (srcPcs n) (fun _ => 26) slot
  toLines (toTrigOut (toSeqrs s1 2 n (slot + beats 50)) 2 n 54 slot) 2 n 51 slot

/-- An edge of TRIG_IN or 1PPS (input 2), at a slot (R99, R129, R238). Routes and sequencers take the first
rising edge of a beat. -/
def edgeFires (s : State) (input : Nat) (rising : Bool) (slot : Slot) : State :=
  let s1 := deliver s (if rising then srcRising input else srcFalling input) (fun _ => 0) slot
  let again := s.hub.edgeBeat.get none input == some (beatSlot slot)
  if rising && !again then
    let s2 := s1.modHub fun H => { H with edgeBeat := H.edgeBeat.set input (some (beatSlot slot)) }
    let cls := if input < 2 then 3 else 4
    let idx := if input < 2 then input else 0
    toLines (toTrigOut (toSeqrs s2 cls idx slot) cls idx 7 slot) cls idx 4 slot
  else s1

/-! ### One step of a sequencer (R129, R130) -/

def Pcs.startState (q : Pcs) : Nat := fld q.table 352 3
def Pcs.ctl (q : Pcs) : BitVec 16 := fbv q.table (8 * (64 + 40 * q.st.toNat)) 16
def Pcs.branch (q : Pcs) (b : Nat) : BitVec 64 := fbv q.table (8 * (64 + 40 * q.st.toNat + 8 + 8 * b)) 64

/-- The inputs that fired in a beat. -/
def Pcs.fired (q : Pcs) (beat : Slot) : List (Nat × Slot) := q.inputs.filter fun x => beatSlot x.2 == beat

def pcsOperand (q : Pcs) (fired : List (Nat × Slot)) (code : Nat) : Bool :=
  if code < 16 then fired.any fun x => x.1 == code
  else if code < 18 then decide (fld q.table (256 + 48 * (code - 16)) 48 ≤ q.ctr.getD (code - 16) 0)
  else false

/-- One step over an originating beat: the sequencer after it, and the position of its output when it
fires. -/
def pcsStep (q : Pcs) (beat : Slot) : Pcs × Option Nat :=
  let fired := q.fired beat
  let holds := fun (b : BitVec 64) => bit b 39 &&
    (fld b 20 16).testBit (pack ((List.range 4).map fun n => (1, b2n (pcsOperand q fired (fld b (5 * n) 5)))))
  let taken := ((List.range 4).map q.branch).find? holds
  let br := taken.getD 0
  let ctr := (List.range 2).map fun k =>
    let counts := match fld q.ctl (8 * k + 4) 2 with
      | 1 => fired.any fun x => x.1 == fld q.ctl (8 * k) 4
      | 2 => true
      | _ => false
    counterStep counts (fld br (44 + 2 * k) 2) (q.ctr.getD k 0)
  let q1 : Pcs := { q with
    ctr := ctr
    st := if taken.isSome then BitVec.ofNat 3 (fld br 36 3) else q.st
    inputs := q.inputs.filter fun x => !notAfter (beatSlot x.2) beat
    beat := beat + 64 }
  let named := fired.filter fun x => (List.range 4).any fun n => fld br (5 * n) 5 == x.1
  let poss := named.map fun x => x.2.toNat % 64
  (q1, if bit br 40 then some (match poss with
    | [] => 0
    | j :: js => js.foldl min j) else none)

end Sys2Proof.Machine
end

