-- ==== Sys2Proof/Machine/RunOps.lean ====
section
/-! DEFINITION. Runs: the configuration block, segments and their rings, edge records, the mask test and the
closing of a run (R132 to R160). -/
namespace Sys2Proof.Machine

/-! ### The configuration block (R133) -/

abbrev RunCfg : Type := BitVec 512
def RunCfg.src (c : RunCfg) : Nat := fld c 0 2
def RunCfg.stopFull (c : RunCfg) : Bool := bit c 2
def RunCfg.nDir (c : RunCfg) : Nat := 2 ^ fld c 3 5
def RunCfg.maskEn (c : RunCfg) : Bool := bit c 8
def RunCfg.maskStop (c : RunCfg) : Bool := bit c 9
def RunCfg.maskWord (c : RunCfg) : Nat := fld c 10 3
def RunCfg.pre (c : RunCfg) : Nat := fld c 32 32
def RunCfg.post (c : RunCfg) : Nat := fld c 64 32
def RunCfg.decl (c : RunCfg) : Nat := fld c 96 32
def RunCfg.dirBase (c : RunCfg) : Nat := fld c 128 39
def RunCfg.areaBase (c : RunCfg) : Nat := fld c 192 39
def RunCfg.samp (c : RunCfg) : Nat := fld c 256 32
def RunCfg.recArea (c : RunCfg) : Nat := fld c 288 32
def RunCfg.maskLen (c : RunCfg) : Nat := fld c 320 16 + 1
def RunCfg.maskOff (c : RunCfg) : Int := sgn 32 (fld c 336 32)

/-- The checks of R134. -/
def runCfgOk (c : RunCfg) : Bool :=
  c.src != 3 && decide (fld c 3 5 ≤ 28) && c.dirBase % 72 == 0 && c.areaBase % 72 == 0
  && c.samp % 8 == 0 && (if c.src = 0 then c.samp == 0 else decide (32 ≤ c.samp))
  && c.recArea % 8 == 0 && decide (192 ≤ c.recArea) && decide (-16384 ≤ c.maskOff)
  && zeros c [(13, 19), (167, 25), (231, 25), (368, 144)]

/-- Units of a segment, and where the segment and the entry of a run lie (R137, R143). -/
def RunCfg.segUnits (c : RunCfg) : Nat := 8 + c.samp + c.recArea
def RunCfg.segBase (c : RunCfg) (n : Nat) : Nat := c.areaBase + 9 * (n % c.nDir) * c.segUnits
def RunCfg.sampBase (c : RunCfg) (n : Nat) : Nat := c.segBase n + 72
def RunCfg.recBase (c : RunCfg) (n : Nat) : Nat := c.segBase n + 72 + 9 * c.samp
def RunCfg.entryAddr (c : RunCfg) (n : Nat) : Nat := c.dirBase + 27 * (n % c.nDir)

/-! ### Stores (R146, R153) -/

/-- run_seq of the next run to begin: next_seq, and the runs that have closed but whose entries are still to be
written (R145, R146). -/
def PortRun.openSeq (R : PortRun) : BitVec 36 := R.nextSeq + BitVec.ofNat 36 (R.closing.filter (·.live)).length

/-- The directory is full once the current run closes (R147). -/
def PortRun.fillsDir (R : PortRun) : Bool :=
  RunCfg.stopFull R.cfg && (R.curSeq + 1 - R.relSeq).toNat == RunCfg.nDir R.cfg

/-- The run of an arm or a re-arm begins: valid = 0 to its entry before anything else, and its segment's
rings start at unit 0 (R139, R140, R145, R146). The other bits of that entry are a free value (log entry 609). -/
def beginRun (s : State) (p : Nat) (slot : Slot) : State :=
  let P := s.port p
  let n := P.run.openSeq
  let (v, s0) := s.fresh
  let s1 := s0.setPort p { P with
    trig := { P.trig with firstHunt := slot, stopCause := none }
    run := { P.run with
      curSeq := n, sWr := 0, rWr := 0, exts := [], overAt := none, sampFull := false, recFull := false
      rawForm := false, lastVal := none, refSlot := none, afterGap := false, maskHist := [], maskFail := false
      maskDone := 0, maskIdx := 0, maskTrig := 0, unwritten := none, refused := none, hurt := none } }
  pushStores s1 p [plainStore (RunCfg.entryAddr P.run.cfg n.toNat) 1 n slot
    (bytesOf 27 (put (put (BitVec.ofNat 216 v) 180 1 0) 195 3 0).toNat)]

/-! ### Edge records (R148 to R150) -/

/-- Width of delta in a format (R148). -/
def deltaBits (w : Nat) : Nat := if w = 1 then 53 else if w = 2 then 35 else 64

/-- One edge record (R149): words of the sample, key, delta. -/
def edgeUnits (w : Nat) (ws : List SWord) (key : Bool) (delta : Nat) : List (List Byte) :=
  if w ≤ 2 then [bytesOf 9 (pack (ws.map (fun x => (18, x.toNat)) ++ [(1, b2n key), (deltaBits w, delta)]))]
  else bytesOf 9 (pack [(64, delta), (1, b2n key)]) :: unitsOf (unitBytes ws)

/-- Encoder state along a beat: latest value, reference, pending gap, units so far. -/
structure EdgeEnc where
  last : Option Nat
  ref : Option Slot
  gap : Bool
  units : List (List Byte)
  /-- no stored sample of the beat yet -/
  first : Bool
  /-- latest stored sample, while it stands unwritten -/
  held : Option Slot

/-- The words of a value of `w` words. -/
def valueWords (w v : Nat) : List SWord := (List.range w).map fun k => BitVec.ofNat 18 (v / 2 ^ (18 * k))

/-- The stored sample that is written because the delta of the next one does not fit (R148): key beats recur
every 16 beats, so it stands before a stretch without stored samples, and its record is stored with the sample
after the stretch (DEDUCED, log entry 606). -/
def edgeBefore (w : Nat) (e : EdgeEnc) (a : Slot) : EdgeEnc :=
  match e.ref, e.held, e.last with
  | some r, some u, some v =>
    if 2 ^ deltaBits w ≤ slotsTo r a then
      { e with ref := some u, held := none, units := e.units ++ edgeUnits w (valueWords w v) false (slotsTo r u) }
    else e
  | _, _, _ => e

/-- One sample of a beat, stored or not, in edge form (R148). -/
def edgeSample (w : Nat) (base : Slot) (keyBeat : Bool) (e0 : EdgeEnc) (x : Samp) (stored : Bool) : EdgeEnc :=
  if !stored then { e0 with gap := true }
  else
    let a := base + BitVec.ofNat 64 x.pos
    let v := pack (x.words.map fun q => (18, q.toNat))
    let key0 := keyBeat && e0.first
    let e := if key0 then e0 else edgeBefore w e0 a
    let writes := key0 || e.last != some v || x.words.any (fun q => bit q 17) || e.gap
    if writes then
      let delta := match e.ref with
        | some r => slotsTo r a
        | none => 0
      let key := key0 || e.ref.isNone || decide (2 ^ deltaBits w ≤ delta)
      { last := some v, ref := some a, gap := false, first := false, held := none
        units := e.units ++ edgeUnits w x.words key (if key then x.pos else delta) }
    else { e with first := false, held := some a }

/-! ### Storing a beat (R139 to R142) -/

/-- Beat of the latest key beat at or before a beat (edge mode); the beat itself otherwise. -/
def keyFloor (src : Nat) (first beat : Slot) : Slot :=
  if src = 2 then beat - BitVec.ofNat 64 (slotsTo first beat % 1024) else beat

/-- The first step that the current run may no longer overwrite (R139): that of the trigger's beat, or of its
key beat. -/
def protectedAt (P : Port) (f : BeatExt → Nat) : Option Nat :=
  if P.trig.sl.phase == .runout then
    let b := keyFloor (RunCfg.src P.run.cfg) P.trig.firstHunt (beatSlot P.trig.sl.trig)
    (P.run.exts.find? fun x => notAfter b x.beat).map f
  else none

/-- Newest beat whose units below a step are overwritten. -/
def overwritten (exts : List BeatExt) (f g : BeatExt → Nat) (low : Nat) (old : Option Slot) : Option Slot :=
  (exts.filter fun x => decide (f x < low) && decide (f x < g x)).foldl (fun o x =>
    match o with
    | some a => if notAfter a x.beat then some x.beat else some a
    | none => some x.beat) old

/-- A record as its two units (R77). -/
def recUnits (r : Rec) : List (List Byte) := [bytesOf 9 r.tm.toNat, bytesOf 9 r.body.toNat]

/-- A record clipped to the first HUNT beat; none where it lies before it (R140). -/
def clipRec (s : State) (first : Slot) (r : Rec) : Option Rec :=
  let slot := fbv r.tm 8 64
  if notAfter first slot then some r
  else if fld r.body 0 6 = 1 then
    let cut := slotsTo slot first
    let lost := fld r.body 18 48
    if cut < lost then some ⟨s.tmOf first, put (put r.body 6 6 (s.tmStOf first)) 18 48 (lost - cut)⟩ else none
  else none

/-- What a beat stores. -/
structure BeatData where
  slot : Slot
  units : List (List Byte)
  raw : Bool
  half : Bool
  storeOn : Bool

/-- Writes a beat's sample units and the records of the beat into the run's rings (R139, R140). `recs` are
in record-stream order. -/
def storeBeat (s : State) (p : Nat) (b : BeatData) (recs : List Rec) : State :=
  let P := s.port p
  let R := P.run
  let c : RunCfg := R.cfg
  let n := R.curSeq.toNat
  let sres := if b.units.isEmpty || R.sampFull then none
    else ringStores s (c.sampBase n) c.samp R.sWr b.units 1 0 R.curSeq b.slot
  let sfit := match sres, protectedAt P (·.sOff) with
    | some (_, _, next), some lo => decide (next ≤ lo + c.samp)
    | some _, none => true
    | none, _ => false
  let sampFull := R.sampFull || (!b.units.isEmpty && !sfit)
  let (sst, sOff, sEnd) := match sfit, sres with
    | true, some x => x
    | _, _ => ([], R.sWr, R.sWr)
  let rres := if recs.isEmpty || R.recFull then none
    else ringStores s (c.recBase n) c.recArea R.rWr (recs.flatMap recUnits) 2 0 R.curSeq b.slot
  let rfit := match rres, protectedAt P (·.rOff) with
    | some (_, _, next), some lo => decide (next ≤ lo + c.recArea)
    | some _, none => true
    | none, _ => false
  let recFull := R.recFull || (!recs.isEmpty && !rfit)
  let (rst, rOff, rEnd) := match rfit, rres with
    | true, some x => x
    | _, _ => ([], R.rWr, R.rWr)
  let ext : BeatExt := {
    beat := b.slot, sOff := sOff, sEnd := sEnd, rOff := rOff, rEnd := rEnd, raw := b.raw, half := b.half
    spare := P.onSpare, storeOn := b.storeOn
    recs := if rst.isEmpty then [] else (List.range recs.length).filterMap fun i =>
      (recs[i]?).map fun r => (fbv r.tm 8 64, fld r.body 0 6 == 1, rOff + 2 * i) }
  let over1 := overwritten R.exts (·.sOff) (·.sEnd) (sEnd - c.samp) R.overAt
  let overNow := overwritten R.exts (·.rOff) (·.rEnd) (rEnd - c.recArea) over1
  let old := b.slot - BitVec.ofNat 64 (c.pre + 64 * 17)
  let exts := (R.exts.filter fun x =>
    (P.trig.sl.phase == .runout || notAfter old x.beat || decide (slotsTo P.trig.firstHunt b.slot < c.pre + 64 * 17))
      && !(match overNow with | some o => notAfter x.beat o | none => false)) ++ [ext]
  let kept := RunCfg.src c == 2 && b.raw && !sst.isEmpty
  s.setPort p { P with run := { R with
    fifo := R.fifo ++ sst ++ rst, sWr := sEnd, rWr := rEnd, exts := exts, overAt := overNow
    sampFull := sampFull, recFull := recFull
    fallback := if kept then satInc R.fallback else R.fallback } }

/-! ### The mask test (R156 to R158) -/

/-- The entry of a mask position. -/
def maskEntry (P : Port) (k : Nat) : BitVec 36 := P.run.mask.get 0 k

/-- A position tested on a word: none, or the violation's bound and whether it is above (R156). -/
def maskTest (logic : Bool) (e : BitVec 36) (w : SWord) : Option (BitVec 18 × Bool) :=
  let lo := fbv e 0 18
  let hi := fbv e 18 18
  if logic then (if (w ^^^ lo) &&& hi != 0 then some (lo, false) else none)
  else if w.toInt < lo.toInt then some (lo, false)
  else if hi.toInt < w.toInt then some (hi, true)
  else none

/-- Mask position of a sample, from its distance in samples to the one that covers t (R157). -/
def maskPosOf (c : RunCfg) (d : Int) : Option Nat :=
  let k := d - c.maskOff
  if 0 ≤ k && k < c.maskLen then some k.toNat else none

/-- Tests one sample: slot at which a violation is found, mask position, word. -/
def maskSample (s : State) (p : Nat) (at' : Slot) (k : Nat) (w : SWord) : State :=
  let P := s.port p
  let R := P.run
  let logic := fmtLogic P.fmt.toNat
  match maskTest logic (maskEntry P k) w with
  | none => s.setPort p { P with run := { R with maskDone := R.maskDone + 1 } }
  | some (bound, above) =>
    let s1 := s.setPort p { P with run := { R with
      maskDone := R.maskDone + 1, maskViol := satInc R.maskViol, maskFail := true } }
    if R.maskFail then s1
    else emitRec s1 p at' 9
      (pack [(1, b2n above), (1, b2n logic), (16, k), (18, w.toNat), (18, bound.toNat)])

/-- The samples of a beat, lost or not, are counted: `n` of them (R157; log entry 607). -/
def countSamples (s : State) (p n : Nat) : State :=
  s.modPort p fun P => { P with run := { P.run with maskIdx := P.run.maskIdx + n } }

/-- The mask test over the samples of a beat: those of HUNT are kept, those of a run are tested, up to slot
e; at the trigger the kept ones are tested at t (R157, R158). `tested` says whether a slot lies in the run. -/
def maskBeat (s : State) (p : Nat) (trig : Option Slot) (xs : List (Slot × Nat × SWord))
    (tested : Slot → Bool) : State :=
  let c : RunCfg := (s.port p).run.cfg
  if !c.maskEn then s
  else
    let base := (s.port p).run.maskIdx
    let ys := (List.range xs.length).filterMap fun i => (xs[i]?).map fun x => (x.1, base + i, x.2.2)
    let hist := (s.port p).run.maskHist ++ ys
    let len := match xs with
      | x :: _ => x.2.1
      | [] => 1
    let s1 := match trig with
      | none => s
      | some t =>
        let n := base + t.toNat % 64 / len
        (hist.filter fun x => decide (x.2.1 < n)).foldl (fun s x =>
          match maskPosOf c ((x.2.1 : Int) - n) with
          | some k => maskSample s p t k x.2.2
          | none => s) (s.modPort p fun P => { P with run := { P.run with maskTrig := n } })
    let running := (s.port p).trig.sl.phase == .runout
    let s2 := if !running then s1 else
      ys.foldl (fun s x =>
        let n := (s.port p).run.maskTrig
        if decide (n ≤ x.2.1) && tested x.1 then
          match maskPosOf c ((x.2.1 : Int) - n) with
          | some k => maskSample s p x.1 k x.2.2
          | none => s
        else s) s1
    s2.modPort p fun P => { P with run := { P.run with maskHist := hist.drop (hist.length - 16384) } }

/-! ### Gap markers (R78) -/

/-- Markers of a lost stretch: at most 2^48 - 1 slots each. -/
def gapMarkers (s : State) (p : Nat) (g : GapRun) : State :=
  let lim := 2 ^ 48 - 1
  (List.range ((g.lost + lim - 1) / lim)).foldl (fun s k =>
    emitRec s p (g.start + BitVec.ofNat 64 (k * lim)) 1
      (pack [(4, g.cause.toNat), (1, b2n g.mixed), (1, 0), (48, min lim (g.lost - k * lim))])) s

/-- The slots of a port that is disarmed at `D` are lost from its next beat on, with cause 0x4 (R25). -/
def loseUpTo (s : State) (p : Nat) (D : Slot) : State :=
  let P := s.port p
  if P.trig.sl.phase == .idle || notAfter D P.pos then s
  else s.modPort p fun P => { P with trig := { P.trig with
    gap := addGap P.trig.gap P.pos (slotsTo P.pos D) 4 } }

/-- Ends the lost stretch in progress: its markers enter the record stream. -/
def endGap (s : State) (p : Nat) : State :=
  match (s.port p).trig.gap with
  | none => s
  | some g => gapMarkers (s.modPort p fun P => { P with trig := { P.trig with gap := none } }) p g

/-! ### Closing a run (R135 to R138, R144, R146) -/

/-- Slots from the first HUNT beat of the run to the first slot of its first beat, and pre_short (R135). -/
def runFirst (P : Port) : Nat × Bool :=
  let c : RunCfg := P.run.cfg
  let f := P.trig.firstHunt
  let t := slotsTo f P.trig.sl.trig
  let raw := (t - c.pre) / 64 * 64
  let a := if c.src = 2 then raw / 1024 * 1024 else raw
  let whole := match P.run.overAt with
    | some o => slotsTo f o + 64
    | none => 0
  let whole := if c.src = 2 then (whole + 1023) / 1024 * 1024 else whole
  let F := min (max a whole) (if c.src = 2 then t / 1024 * 1024 else t / 64 * 64)
  (F, decide (t < c.pre) || decide (raw < F))

/-- The last beat of R135, as slots from the first HUNT beat. -/
def runLast (P : Port) : Nat :=
  (slotsTo P.trig.firstHunt P.trig.sl.trig + RunCfg.post P.run.cfg) / 64 * 64

/-- fmt_lo of port_flags (R144). -/
def fmtLo (f : Nat) : Nat := if f < 8 then f - 1 else f - 8

/-- A run closes (R135 to R138, R144 to R146): header store, and the entry that DIRECTORY_ENTRY_WRITE will
write. `last` is the last beat, as slots from the first HUNT beat; `idle` says that the port goes to
IDLE. -/
def closeRun (s0 : State) (p : Nat) (last : Nat) (idle : Bool) : State :=
  let P0 := s0.port p
  let s := match P0.trig.gap with
    | some g =>
      let s1 := gapMarkers s0 p g
      let recs := (s1.port p).run.recs
      storeBeat (s1.modPort p fun P => { P with
          trig := { P.trig with gap := none }, run := { P.run with recs := [] } }) p
        ⟨P0.trig.firstHunt + BitVec.ofNat 64 last, [], P0.run.rawForm, false, P0.trig.sl.store⟩
        ((recs.filterMap (clipRec s0 P0.trig.firstHunt)).filter fun r =>
          decide (slotsTo P0.trig.firstHunt (fbv r.tm 8 64) < last + 64))
    | none => s0
  let P := s.port p
  let R := P.run
  let c : RunCfg := R.cfg
  let f := P.trig.firstHunt
  let (F, short) := runFirst P
  let t := slotsTo f P.trig.sl.trig
  let inRun := fun (x : Slot) => decide (F ≤ slotsTo f x) && decide (slotsTo f x < last + 64)
  let es := R.exts.filter fun x => inRun x.beat
  let recs := (R.exts.flatMap (·.recs)).filter fun r => inRun r.1
  let sHead := (es.head?.map (·.sOff)).getD R.sWr
  let sUnits := ((es.getLast?.map (·.sEnd)).getD sHead) - sHead
  let rHead := (recs.head?.map (·.2.2)).getD R.rWr
  let rUnits := (recs.getLast?.map fun r => r.2.2 + 2 - rHead).getD 0
  let hdr := pack [(36, R.curSeq.toNat), (32, if c.samp = 0 then 0 else sHead % c.samp), (32, sUnits),
    (32, if c.recArea = 0 then 0 else rHead % c.recArea), (32, rUnits)]
  let status := pack [(1, 1), (1, 0), (1, b2n (recs.any (·.2.1))), (1, b2n (es.any (·.half))),
    (1, b2n (es.any (·.spare))), (1, b2n short), (1, b2n (decide (last < runLast P))), (1, b2n R.sampFull),
    (1, b2n R.recFull), (1, b2n (c.src == 2 && es.any fun x => x.raw && decide (x.sOff < x.sEnd))),
    (1, b2n (c.src == 2 && (es.head?.map (·.raw)).getD R.rawForm)), (1, b2n R.maskFail),
    (1, b2n (c.maskEn && decide (R.maskDone < c.maskLen))),
    (1, b2n ((es.head?.map (·.storeOn)).getD P.trig.sl.store)), (1, b2n idle)]
  let flags := pack [(7, p), (6, R.trigTmSt.toNat), (2, c.src), (3, fmtLo P.fmt.toNat)]
  let entry := pack [(72, P.trig.lastTrig.toNat), (36, R.curSeq.toNat), (36, t - F),
    (36, 4 * (sUnits + rUnits)), (18, status), (18, flags)]
  pushStores (s.setPort p { P with run := { R with
      closing := R.closing ++ [{
        seq := R.curSeq, addr := c.entryAddr R.curSeq.toNat, live := true
        entry := BitVec.ofNat 216 entry, last := idle, sHead := sHead, sUnits := sUnits
        rHead := rHead, rUnits := rUnits
        poisoned := match R.hurt with
          | some h => inRun h
          | none => false }] } }) p
    [plainStore (c.segBase R.curSeq.toNat) 2 R.curSeq (f + BitVec.ofNat 64 last) (bytesOf 72 hdr)]

/-- The port leaves the armed state: IDLE, nothing more is evaluated or stored (R101, R111, R132). -/
def goIdle (s : State) (p : Nat) : State :=
  settlePackage (s.modPort p fun P => { P with
    trig := { P.trig with
      sl := { P.trig.sl with phase := .idle }, armed := false, armBeat := none, disarmAt := none, downed := false
      stopCause := none, tunes := [], gap := none }
    run := { P.run with recs := [], admitted := false, dropping := false, dropHeld := false, refused := none } })

end Sys2Proof.Machine
end

