-- ==== Sys2Proof/Machine/DmaMove.lean ====
section
/-! DEFINITION. How a DMA channel moves data: descriptors, the shared buffer, completion records,
checksums, bus errors and halts (R331 to R347, R416, R417). -/
namespace Sys2Proof.Machine

/-! ### Descriptor fields (R331) -/

def Desc.next (d : Desc) : BitVec 64 := fbv d.bits 0 64
def Desc.src (d : Desc) : Nat := fld d.bits 64 64
def Desc.dst (d : Desc) : Nat := fld d.bits 128 64
def Desc.idxAddr (d : Desc) : Nat := fld d.bits 192 64
def Desc.len (d : Desc) : Nat := fld d.bits 256 32
def Desc.elem (d : Desc) : Nat := fld d.bits 288 16
def Desc.srcSpace (d : Desc) : Nat := fld d.bits 304 4
def Desc.dstSpace (d : Desc) : Nat := fld d.bits 308 4
def Desc.gather (d : Desc) : Bool := bit d.bits 312
def Desc.last (d : Desc) : Bool := bit d.bits 313
def Desc.wantsRec (d : Desc) : Bool := bit d.bits 314
def Desc.crcReset (d : Desc) : Bool := bit d.bits 315
def Desc.crcOut (d : Desc) : Bool := bit d.bits 316
def Desc.path (d : Desc) : Bool := bit d.bits 317
def Desc.srcLoc (d : Desc) : Nat := fld d.bits 320 16
def Desc.ways (d : Desc) : Nat := 2 ^ fld d.bits 336 2
def Desc.fSlot (d : Desc) : Nat := fld d.bits 338 2
def Desc.user (d : Desc) : Nat := fld d.bits 384 64
def Desc.follows (d : Desc) : Bool := d.srcSpace == 4 || d.srcSpace == 5
/-- Units of a follow chunk (R335). -/
def Desc.chunk (d : Desc) : Nat := 8 * d.elem
def Desc.srcPort (d : Desc) : Nat := d.srcLoc % 512

/-- Bytes after the data: the CRC and the encryption trailer (R341, R416). -/
def Desc.tailLen (d : Desc) : Nat := (if d.crcOut then 4 else 0) + if d.ctr.isSome then 24 else 0

/-! ### Channel configuration (R348) -/

def Dma.cqBase (D : Dma) : Nat := fld D.cfg 0 64
def Dma.cqHead (D : Dma) : Nat := fld D.cfg 64 64
def Dma.cqLog2 (D : Dma) : Nat := fld D.cfg 128 5
def Dma.retry (D : Dma) : Nat := fld D.cfg 133 3
def Dma.bufMax (D : Dma) : Nat := fld D.cfg 144 16
def Dma.budget (D : Dma) : Nat := if fld D.cfg 160 32 = 0 then 65536 else fld D.cfg 160 32

/-- The endpoint of a channel's path: true for endpoint B (R277, R330). -/
def dmaEp (s : State) (n : Nat) (path : Bool) : Bool :=
  (match s.dmaOwner n with
    | some k => decide (8 ≤ k.toNat)
    | none => false) != path

def dmaPart (s : State) (n : Nat) : Nat := ((s.dmaOwner n).getD 0).toNat

/-! ### The shared buffer (R337) -/

/-- Bytes of buffer that a channel holds: data requested whose writes have not been handed on (R337, R340). -/
def Dma.bufBytes (D : Dma) : Nat :=
  match D.cur with
  | some d => max d.issued d.read - (if d.dstSpace = 0 then d.sent else d.written)
  | none => 0

/-- A channel may take space for `len` more bytes: within its reserve, or within buf_max and the pool. -/
def bufRoom (s : State) (n len : Nat) : Bool :=
  let mine := (s.dmaCh n).bufBytes + len
  let pool := sumOver ((List.range 32).filter (· != n)) fun m => (s.dmaCh m).bufBytes - 65536
  decide (mine ≤ 65536) ||
    (decide (mine ≤ 1024 * (s.dmaCh n).bufMax) && decide (pool + (mine - 65536) ≤ 2097152))

/-! ### Records (R342) -/

/-- The completion queue has room for the next record, by the last copy of the consumed count. -/
def Dma.cqRoom (D : Dma) : Bool := decide ((D.recCount - D.consumed).toNat < 2 ^ D.cqLog2)

/-- A completion record without its phase. -/
def recordBits (D : Dma) (n : Nat) (d : Desc) (status : Nat) : BitVec 256 :=
  let bytes := if D.job.isSome then d.read else min d.written d.total
  BitVec.ofNat 256 (pack [(64, if d.follows then d.firstPos.toNat else d.user), (32, bytes),
    (32, D.crc.toNat ^^^ 0xFFFFFFFF), (64, d.addr.toNat), (8, status), (3, d.retries), (1, b2n d.poison),
    (1, b2n d.skip), (3, 0), (5, n)])

/-- Writes one record at its place in the completion queue. -/
def writeRecord (s : State) (n : Nat) (r : BitVec 256) : State :=
  let D := s.dmaCh n
  let k := D.recCount.toNat
  let size := 2 ^ D.cqLog2
  let phase := b2n (k / size % 2 == 0)
  (s.modDma n fun D => { D with recCount := D.recCount + 1, recWait := none }).out
    (.dmaWrite n (dmaEp s n false) (BitVec.ofNat 64 (D.cqBase + 32 * (k % size)))
      (bytesOf 32 (r.toNat + 2 ^ 255 * phase)) false)

/-- A record goes to the queue, or waits for room in it; without a queue there is none. -/
def putRecord (s : State) (n : Nat) (r : BitVec 256) : State :=
  let D := s.dmaCh n
  if D.cqBase = 0 then s
  else if D.cqRoom then writeRecord s n r
  else s.modDma n fun D => { D with recWait := some r }

/-! ### Compression jobs that a channel carries (R357) -/

/-- A job ends: EV_DONE, the engine is freed and keeps no history, and the channel takes a state (R357). -/
def cmpEnd (s : State) (m outcome status detail : Nat) (st : DmaSt) : State :=
  let C := s.cmpEng m
  let s1 := s.modCmp m fun C => { C with
    st := 3, outcome := BitVec.ofNat 4 outcome, input := [], output := []
    inConsumed := if outcome = 2 then 0 else C.inConsumed, outTotal := if outcome = 2 then 0 else C.outTotal }
  let s2 := s1.modDma C.channel.toNat fun D => { D with
    st := st, cur := none, nextDesc := none, recWait := none, haltPend := none, job := none }
  finishJob s2 (.cmp m) status detail outcome

/-! ### Halts (R346) -/

/-- A channel after a unit reset: its configuration block and its sequence of descriptors stay (R23, R24). -/
def Dma.cleared (D : Dma) : Dma :=
  { Dma.reset with st := D.st, cfg := D.cfg, haltReason := D.haltReason, fetchSeq := D.fetchSeq, job := D.job }

/-- The channel is HALTED: DMA_HALT replies, and a job that it carries ends with outcome 6 (R350, R357). -/
def dmaHalted (s : State) (n : Nat) (reason : BitVec 8) : State :=
  let D := s.dmaCh n
  let s1 := s.modDma n fun D =>
    let D1 := { D with
      st := .halted, haltReason := reason, haltPend := none, cur := none, nextDesc := none, recWait := none
      dieWait := none, tries := 0, haltWait := [] }
    if D.resetting then D1.cleared else D1
  let s2 := match D.job with
    | some m => cmpEnd s1 m 6 0x50 (loc 6 n + 2 ^ 16 * reason.toNat) .halted
    | none => s1
  D.haltWait.foldl (fun s p => replyTo s false p 0 0 0 []) s2

/-- A channel in HALTING whose data have all been written writes the halt record and is HALTED; while the
completion queue is full the record waits. -/
def dmaSettleHalt (s : State) (n : Nat) : State :=
  let D := s.dmaCh n
  if D.st != .halting || D.recWait.isSome then s
  else match D.cur with
    | none => dmaHalted s n (D.haltPend.getD 0)
    | some d =>
      if !d.held.isEmpty || !d.back.isEmpty || d.written != d.sent then s
      else
        let s1 := putRecord s n (recordBits D n d (D.haltPend.getD 0).toNat)
        if (s1.dmaCh n).recWait.isSome then s1.modDma n fun D => { D with cur := none }
        else dmaHalted s1 n (D.haltPend.getD 0)

/-- A halt cause arrives (R346). Reads under way are dropped; the data held are written first, but under
reason 10, which discards them, and under reason 3, whose failed write ends the data that can be written
(log entry 1402). Reason 8 silences the channel. -/
def dmaHalt (s : State) (n reason : Nat) : State :=
  let D := s.dmaCh n
  if D.st == .idle || D.st == .halted || (D.st == .halting && reason != 8 && reason != 10) then s
  else if reason = 8 then silenceDma s n
  else
    let drop := reason = 3 || reason = 10
    let r : BitVec 8 := BitVec.ofNat 8 reason
    let s1 := s.modDma n fun D => { D with
      st := .halting, haltPend := some r, dieWait := none
      cur := D.cur.map fun d => { d with
        issued := d.read, resp := [], held := if drop then [] else d.held, back := if drop then [] else d.back
        sent := if drop then d.written else d.sent, total := d.read } }
    if reason = 10 && !(s.ep (b2n (dmaEp s n false))).up then dmaHalted s1 n r
    else dmaSettleHalt s1 n

/-! ### Bus errors (R343) -/

/-- A record write, or the read of the consumed count before it, has failed with its retries spent: a running
channel halts with reason 3 or 2 and its halt record is attempted once; where that attempt fails, or finds no
room, DMA_STATUS alone reports the halt (R343, log entry 1407). -/
def recordFail (s : State) (n : Nat) (write : Bool) : State :=
  let D := s.dmaCh n
  if D.st == .halting || !write then dmaHalted s n (D.haltPend.getD 2)
  else s.modDma n fun D => { D with
    st := .halting, haltPend := some 3, tries := D.retry, recWait := D.recWait.map fun r => put r 192 8 3 }

/-- One attempt of a request fails: it is retried in place, or the channel halts with reason 2 for a read
and reason 3 for a write. -/
def dmaFail (s : State) (n : Nat) (write : Bool) : State :=
  let D := s.dmaCh n
  let s1 := s.modDma n fun D => { D with busErrors := satInc D.busErrors }
  if D.recWait.isSome then
    if D.tries < D.retry then s1.modDma n fun D => { D with tries := D.tries + 1 } else recordFail s1 n write
  else if D.st == .halting then
    if write then
      dmaSettleHalt (s1.modDma n fun D => { D with cur := D.cur.map fun d => { d with
        held := [], back := [], sent := d.written } }) n
    else s1
  else if D.tries < D.retry then
    s1.modDma n fun D => { D with
      tries := D.tries + 1, cur := D.cur.map fun d => { d with retries := max d.retries (D.tries + 1) } }
  else dmaHalt s1 n (if write then 3 else 2)

/-- An access succeeded: the next one starts with no failed attempt. -/
def dmaWell (s : State) (n : Nat) : State := s.modDma n fun D => { D with tries := 0 }

/-! ### The bytes that leave (R341, R416) -/

/-- The AAD of an encrypted descriptor: session_id, ctr, src_addr (R416). -/
def offAad (x : Session) (d : Desc) (ctr : BitVec 64) : List Byte :=
  bytesOf 16 x.sid.toNat ++ bytesOf 8 ctr.toNat
    ++ bytesOf 8 (if d.follows then d.firstPos.toNat else d.src)

/-- Ciphertext and tag of a descriptor's data so far (R416). -/
def offCrypt (s : State) (n : Nat) (d : Desc) (plain : List Byte) : List Byte × List Byte :=
  match d.ctr, (s.part (dmaPart s n)).session with
  | some c, some x =>
    Config.gcm (bytesOf 32 x.koff.toNat) (bytesOf 4 x.salt.toNat ++ bytesOf 8 c.toNat) (offAad x d c) plain
  | _, _ => (plain, [])

/-- The bytes that a descriptor sends from offset `o` on: its data, encrypted where R416 says so, or its
tail. -/
def sentBytes (s : State) (n : Nat) (d : Desc) (o : Nat) (bs : List Byte) : List Byte :=
  if d.ctr.isSome && o < d.total then ((offCrypt s n d (d.plain.take (o + bs.length))).1.drop o).take bs.length
  else bs

/-- The CRC-32C after bytes at offset `o`: the CRC's own four bytes do not enter it (R341). -/
def crcAfter (D : Dma) (d : Desc) (o : Nat) (bs : List Byte) : BitVec 32 :=
  let skip := fun (i : Nat) => d.crcOut && decide (d.total ≤ i) && decide (i < d.total + 4)
  BitVec.ofNat 32 (crc32c D.crc.toNat
    ((bs.zip (List.range bs.length)).filterMap fun x => if skip (o + x.2) then none else some x.1))

/-- The tail of a descriptor: the finalised CRC-32C, then ctr and the tag (R341, R416). -/
def tailBytes (s : State) (n : Nat) (d : Desc) : List Byte :=
  (if d.crcOut then bytesOf 4 ((s.dmaCh n).crc.toNat ^^^ 0xFFFFFFFF) else [])
  ++ match d.ctr with
    | some c => bytesOf 8 c.toNat ++ (offCrypt s n d d.plain).2
    | none => []

/-! ### The end of a descriptor (R340, R342, R417) -/

/-- The source lies wholly inside the partition's session log windows (R417). -/
def logSource (s : State) (n : Nat) (d : Desc) : Bool :=
  d.srcSpace == 1 && !d.gather &&
    covered 1025 ((entriesOf s.hub.windows (dmaPart s n)).filter fun e => bit e 46) d.src (d.src + d.len)

/-- Data in leaves of 65,536 bytes. -/
def leaves : Nat → List Byte → List (List Byte)
  | 0, _ => []
  | k + 1, bs => if bs.isEmpty then [] else bs.take 65536 :: leaves k (bs.drop 65536)

/-- The descriptor digest (R417). -/
def descDigest (bs : List Byte) : BitVec 384 :=
  Config.sha384 ((leaves bs.length bs).flatMap fun l => bytesOf 48 (Config.sha384 l).toNat)

/-- The offload chain of the channel advances when a descriptor completes (R417). -/
def linkOffload (s : State) (n : Nat) (d : Desc) : State :=
  if (d.dstSpace == 0 && d.srcSpace != 0) || logSource s n d then
    modSession s (dmaPart s n) fun x =>
      let link := bytesOf 64 (pack [(8, d.srcSpace), (1, b2n d.gather), (1, b2n d.ctr.isSome), (6, 0),
        (16, d.srcLoc), (32, d.len), (64, if d.follows then d.firstPos.toNat else d.src),
        (384, (descDigest d.plain).toNat)])
      let o := x.offChain.get (chainStart x.sid n 2) n
      { x with
        offChain := x.offChain.set n (Config.sha384 (bytesOf 48 o.toNat ++ link))
        offLinks := x.offLinks.set n (x.offLinks.get 0 n + 1) }
  else s

/-- Between two descriptors: after the last one the channel is IDLE; while its function is in D3hot it
holds (R322, R329). -/
def dmaBetween (s : State) (n : Nat) : State :=
  let D := s.dmaCh n
  if D.cur.isSome || D.recWait.isSome || !(D.st == .running || D.st == .job) then s
  else if D.nextDesc.isNone then
    if D.st == .running then s.modDma n fun D => { D with st := .idle } else s
  else if (s.fn (dmaPart s n)).pm == .d3hot then s.modDma n fun D => { D with st := .hold, prior := D.st }
  else s

/-- A descriptor is complete: counters, offload chain, record, and what follows (R329, R340, R342). -/
def dmaComplete (s : State) (n : Nat) (d : Desc) : State :=
  let s1 := linkOffload (s.modDma n fun D => { D with
    cur := none, descs := satInc D.descs, nextDesc := if d.last then none else some d.next }) n d
  let s2 := if d.wantsRec then putRecord s1 n (recordBits (s.dmaCh n) n d 0) else s1
  dmaBetween s2 n

/-! ### Follow sources (R335, R336) -/

/-- The followed area: first byte and units. -/
def followArea (s : State) (d : Desc) : Nat × Nat :=
  let R := (s.port d.srcPort).run
  let c : RunCfg := R.cfg
  if d.srcSpace = 4 then (c.sampBase R.curSeq.toNat, c.samp) else (c.recBase R.curSeq.toNat, c.recArea)

/-- The write count of a port's ring: units, in the order written since the arm, before which every unit has
reached memory (R335). -/
def writeCount (s : State) (p ring : Nat) : Nat :=
  let R := (s.port p).run
  let top := if ring = 1 then R.sWr else R.rWr
  let a := (R.fifo.filter fun x => x.ring == ring && x.run == R.curSeq).map (·.step)
  let b := s.chans.flatMap fun c => ((c.2.queue ++ c.2.held).filter fun q =>
    q.cls == .ingest && q.who == p && q.ring == ring && q.run == R.curSeq).map (·.step)
  (a ++ b).foldl min top

/-- The follow descriptor has nothing more to deliver: its port has disarmed, every store has reached memory
and no whole chunk of its share is left (R336). -/
def followOver (s : State) (n : Nat) (d : Desc) : Bool :=
  let ring := if d.srcSpace = 4 then 1 else 2
  let R := (s.port d.srcPort).run
  let w := writeCount s d.srcPort ring
  (s.dmaCh n).haltPend == some 11 && d.follows && w == (if ring = 1 then R.sWr else R.rWr) &&
    decide (w < (s.dmaCh n).fpos.toNat + d.chunk)

/-- What follows once a channel's descriptor has moved on: its tail, its completion, its halt. -/
def dmaSettle (s : State) (n : Nat) : State :=
  let D := s.dmaCh n
  match D.cur with
  | none => dmaSettleHalt s n
  | some d =>
    if D.st == .halting then dmaSettleHalt s n
    else if !(D.st == .running || D.st == .job) then s
    else if followOver s n d then dmaHalt s n 11
    else if D.st == .job then
      if d.read = d.total then dmaComplete s n d else s
    else if d.read = d.total && d.written = d.total + (if d.tailed then d.tailLen else 0) then
      if !d.tailed && d.tailLen ≠ 0 then
        s.modDma n fun D => { D with cur := some { d with
          tailed := true, held := (tailBytes s n d).map (·, false) } }
      else dmaComplete s n d
    else s

/-- A port disarms: the follow descriptors on it end (R336). -/
def followEnd (s : State) (p : Nat) : State :=
  forEach (List.range 32) (fun s n =>
    match (s.dmaCh n).cur with
    | some d =>
      if d.follows && d.srcPort == p && (s.dmaCh n).st == .running then
        dmaSettle (s.modDma n fun D => { D with haltPend := some (D.haltPend.getD 11) }) n
      else s
    | none => s) s

/-- A new arm of a port sets the follow positions on it back (R335). -/
def followArm (s : State) (p : Nat) : State :=
  forEach (List.range 32) (fun s n =>
    match (s.dmaCh n).fKey with
    | some k => if k.1 == p then s.modDma n fun D => { D with fKey := none, fpos := 0 } else s
    | none => s) s

end Sys2Proof.Machine
end

