-- ==== Sys2Proof/Machine/Beat.lean ====
section
/-! DEFINITION. The events of an armed port: the arm beat, the decision of a beat, tunes, the end of the
run-out, the re-arm, the disarm and the directory (R99 to R126, R132 to R159). -/
namespace Sys2Proof.Machine

/-- The port still decides beats, or has beats left to decide. -/
def Port.decides (P : Port) : Bool := !P.deskew.isEmpty || P.streams || P.state == .training

/-- A beat is due: no beat before it is left to decide. -/
def Port.due (P : Port) (slot : Slot) : Bool := !P.decides || notAfter slot P.pos

/-- The run-out of the port has ended before a beat (R122, R123). -/
def Port.ended (P : Port) (slot : Slot) : Bool :=
  P.trig.sl.phase == .runout &&
    match runoutLen P.trig.table P.trig.sl (RunCfg.post P.run.cfg) with
    | some n => !notAfter slot (beatSlot (P.trig.sl.trig + BitVec.ofNat 64 n))
    | none => false

/-- Another event of the port comes before the decision of a beat. -/
def Port.blocked (P : Port) (slot : Slot) : Bool :=
  let by' := fun (o : Option Slot) => match o with
    | some a => notAfter a slot
    | none => false
  by' P.trig.armBeat || by' P.trig.disarmAt || P.trig.tunes.any (fun t => notAfter t.effect slot)
    || P.ended slot || (P.trig.sl.phase == .lift && notAfter P.trig.sl.liftEnd slot)
    || P.chain.sched.any (fun e => notAfter e.beat slot) || P.trig.fenced.isSome

/-- A checkpoint of the gates and the slalom (R444). -/
def checkpoint (T : PortTrig) (slot : Slot) : PortTrig :=
  { T with ckptBeat := some slot, ckptSt := T.sl, ckptGates := T.gst, agreed := T.sl }

/-- A waiting epoch load is abandoned when a port is armed (R73). -/
def abandonEpoch (s : State) (why : Nat) : State :=
  if s.time.wait.isSome then
    finishJob { s with time := { s.time with wait := none } } .epoch 0x40 (locPackage + 2 ^ 16 * why) 0
  else s

/-- ARM_BEAT: the port enters HUNT with every counter clear, gates without history and a new run (R101,
R102, R112, R114, R146, R386). -/
def execArmBeat (port : BitVec 7) (s : State) : Host.Outcome State Fault Refusal :=
  let p := port.toNat
  let P := s.port p
  match P.trig.armBeat with
  | none => .next s
  | some a =>
    if !P.due a || (match P.trig.disarmAt with | some D => notAfter D a | none => false) then .next s
    else
      let T := P.trig
      let sl := slalomRestart T.table { SlalomCore.reset with phase := .hunt }
      let gst := (List.range 32).foldl (fun (t : Tab GateSt) g =>
        if (P.gate g).type = 0 then t
        else t.set g ({ (P.gateSt g).fresh a (P.gate g) with hits := (P.gateSt g).hits })) T.gst
      let T1 : PortTrig := { T with sl := sl, gst := gst, armBeat := none, gap := none }
      ok (settlePackage (abandonEpoch (beginRun (s.setPort p { P with trig := checkpoint T1 a }) p a) 3))

/-! ### BEAT_DECIDE -/

/-- Removes the head of the deskew, and keeps it in the replay ring of 2,816 beats (R444). -/
def popBeat (s : State) (p : Nat) : State :=
  s.modPort p fun P =>
    let ring := P.trig.ring ++ P.deskew.take 1
    { P with deskew := P.deskew.drop 1, trig := { P.trig with ring := ring.drop (ring.length - 2816) } }

/-- The cause of the slots lost with a dropped beat (R154, R271). -/
def dropCause (R : PortRun) : BitVec 4 := if R.storesHeld || (R.dropping && R.dropHeld) then 7 else 3

/-- The port would store this beat (R132, R154). -/
def Port.wouldStore (P : Port) (slot : Slot) : Bool :=
  P.trig.sl.phase == .hunt ||
    (P.trig.sl.phase == .runout && decide (slotsTo P.trig.firstHunt slot ≤ runLast P))

/-- The drop test of a beat (R154): whether it is dropped. -/
def Port.drops (P : Port) : Bool :=
  let free := 262144 - P.run.fifoWords
  decide (free < 1024) || (P.run.dropping && decide (free < 16384))

/-- A lost beat (R78, R120, R154): it extends the lost stretch, and the slalom does not step. A dropped beat
loses its records too. -/
def loseBeat (s : State) (p : Nat) (b : Beat) (dropped : Bool) : State :=
  let P := s.port p
  let cause : BitVec 4 := if dropped then dropCause P.run else b.cause
  let o := slalomBeat P.trig.table P.trig.sl b.slot true []
  let n := 64 / max 1 ((fmtWords P.fmt.toNat).getD 1 * if b.half then 2 else 1)
  s.setPort p { P with
    trig := { P.trig with sl := o.core, agreed := o.core, gap := addGap P.trig.gap b.slot 64 cause }
    run := if !dropped then { P.run with maskIdx := P.run.maskIdx + n } else { P.run with
      maskIdx := P.run.maskIdx + n, dropped := satInc P.run.dropped, dropping := true, dropHeld := dropCause P.run == 7
      recs := P.run.recs.filter fun r => beatSlot (fbv r.tm 8 64) != b.slot } }

/-- The trigger of a run enters the books of the port and of its partition (R124, R125, R127, R288). -/
def noteTrigger (s : State) (p : Nat) (t : Slot) : State :=
  let P := s.port p
  let runs := satInc P.trig.runs
  let stop := if Slalom.runsMax P.trig.table != 0 && runs.toNat == Slalom.runsMax P.trig.table then some 1
    else none
  let s1 := s.setPort p { P with
    trig := { P.trig with runs := runs, lastTrig := s.tmOf t, stopCause := stop }
    run := { P.run with trigTmSt := BitVec.ofNat 6 (s.tmStOf t) } }
  match s.portOwner p with
  | none => s1
  | some k => s1.modPart k.toNat fun K => K.noteTrig t (s.tmOf t) p

/-- The samples of a beat in the form that the port stores (R141, R142, R148 to R150). -/
def encodeBeat (P : Port) (b : Beat) (xs : List Samp) (storeAt : BitVec 64) : PortRun × BeatData × Option Bool :=
  let c : RunCfg := P.run.cfg
  let R := P.run
  let w := (fmtWords P.fmt.toNat).getD 0
  let stored := fun (x : Samp) => storeAt.getLsbD x.pos
  let kept := xs.filter stored
  let rawUnits := unitsOf (unitBytes (kept.flatMap (·.words)))
  let data := fun us raw => (⟨b.slot, us, raw, b.half, storeAt.getLsbD 0⟩ : BeatData)
  if c.src = 0 then (R, data [] false, none)
  else if c.src = 1 then (R, data rawUnits false, none)
  else
    let key := slotsTo P.trig.firstHunt b.slot % 1024 == 0
    let e := xs.foldl (fun e x => edgeSample w b.slot key e x (stored x))
      (⟨R.lastVal, R.refSlot, R.afterGap, [], true, R.unwritten⟩ : EdgeEnc)
    let esz := e.units.length
    let rsz := rawUnits.length
    let raw := if R.rawForm then !(rsz != 0 && decide (2 * esz ≤ rsz)) else decide (rsz < esz)
    let lastRaw := kept.getLast?
    let R1 := if raw then
        match lastRaw with
        | some x => { R with
            rawForm := true, unwritten := none, lastVal := some (pack (x.words.map fun q => (18, q.toNat)))
            refSlot := some (b.slot + BitVec.ofNat 64 x.pos)
            afterGap := (xs.getLast?.map fun x => !stored x).getD R.afterGap }
        | none => { R with rawForm := true, afterGap := e.gap }
      else { R with
        rawForm := false, lastVal := e.last, refSlot := e.ref, afterGap := e.gap, unwritten := e.held }
    (R1, data (if raw then rawUnits else e.units) raw, if raw != R.rawForm then some raw else none)

/-- Takes from the record stream what leaves with a beat: the records up to its end (R77, R140). -/
def takeRecs (s : State) (p : Nat) (stop : Slot) : List Rec × State :=
  let P := s.port p
  let (now, later) := P.run.recs.partition fun r => !notAfter stop (fbv r.tm 8 64)
  (now.filterMap (clipRec s P.trig.firstHunt),
    s.setPort p { P with run := { P.run with recs := later } })

/-- The samples of a beat are offered to the engines that read them (R218): those whose index since the effective
slot is a multiple of 2^dec_log2, and with qual_only those that the port stores under qualification; `stored` says
which. -/
def offerSamples (s : State) (p : Nat) (b : Beat) (stored : BitVec 64) : State :=
  let xs := beatSamples ((fmtWords (s.port p).fmt.toNat).getD 0) b
  onInputs s p 1 fun E n t => xs.foldl (fun t x =>
    let a := b.slot + BitVec.ofNat 64 x.pos
    if E.listens a && slotsTo (E.startAt.getD E.effSlot) a / x.len % 2 ^ E.decLog n == 0
        && (!E.qualOnly n || stored.getLsbD x.pos) then t.offer x.words a else t) t

/-- The records of the stream up to a slot are offered to the engines that read them (R77, R218). -/
def offerRecs (s : State) (p : Nat) (stop : Slot) : State :=
  ((s.port p).run.recs.filter fun r => !notAfter stop (fbv r.tm 8 64)).foldl (fun s r =>
    onInputs s p 2 fun E _ t =>
      if bit E.cfg (192 + fld r.body 0 6) && E.listens (fbv r.tm 8 64) then
        t.offer (itemWords (recUnits r)) (fbv r.tm 8 64) else t) s

/-- Stores the beat and its records (R132, R139, R140). -/
def storeStage (s0 : State) (p : Nat) (b : Beat) (xs : List Samp) (storeAt : BitVec 64) : State :=
  let s := offerSamples s0 p b (if (s0.port p).wouldStore b.slot then storeAt else 0)
  let P := s.port p
  if P.wouldStore b.slot then
    let (R1, d, sw) := encodeBeat P b xs storeAt
    let s1 := s.setPort p { P with run := { R1 with dropping := false, dropHeld := false } }
    let s2 := match sw with
      | some raw => emitRec s1 p b.slot 8 (b2n raw)
      | none => s1
    let (recs, s3) := takeRecs (offerRecs s2 p (b.slot + 64)) p (b.slot + 64)
    storeBeat s3 p d recs
  else if P.trig.sl.phase == .runout then
    let stop := P.trig.firstHunt + BitVec.ofNat 64 (runLast P + 64)
    let (recs, s1) := takeRecs (offerRecs s p (b.slot + 64)) p stop
    let s2 := s1.modPort p fun P => { P with run := { P.run with
      recs := P.run.recs.filter fun r => notAfter (b.slot + 64) (fbv r.tm 8 64) } }
    if recs.isEmpty then s2 else storeBeat s2 p ⟨b.slot, [], P.run.rawForm, b.half, P.trig.sl.store⟩ recs
  else
    (offerRecs s p (b.slot + 64)).modPort p fun P => { P with run := { P.run with
      recs := P.run.recs.filter fun r => notAfter (b.slot + 64) (fbv r.tm 8 64) } }

/-- A kept beat: gates, slalom, mask test, actions and storage (R81 to R121, R139 to R158). -/
def keepBeat (s0 : State) (p : Nat) (b : Beat) (eff : Option (SWord × SWord)) (dc : List DcTap) : State :=
  let history := (s0.port p).trig.gap.isNone
  let s := endGap s0 p
  let P := s.port p
  let T : Slalom := P.trig.table
  let c : RunCfg := P.run.cfg
  let xs := beatSamples ((fmtWords P.fmt.toNat).getD 0) b
  let (hits, gst) := gatesBeat P b eff dc history
  let o := slalomBeat T P.trig.sl b.slot false hits
  let s1 := s.setPort p { P with
    trig := { P.trig with
      sl := o.core, agreed := o.core
      remote := P.trig.remote.filter fun r => notAfter (b.slot + 64) (beatSlot r.slot) }
    run := if history then P.run else { P.run with afterGap := true } }
  let s2 := match o.trig with
    | some j => noteTrigger s1 p (b.slot + BitVec.ofNat 64 j)
    | none => s1
  let samples := xs.map fun x => (b.slot + BitVec.ofNat 64 x.pos, x.len, x.words.getD c.maskWord 0)
  let s3 := maskBeat s2 p (o.trig.map fun j => b.slot + BitVec.ofNat 64 j) samples
    (inRunout T o.core c.post)
  let stops := (countSamples s3 p xs.length).modPort p fun P => { P with trig := { P.trig with
    stopCause := if P.trig.stopCause.isNone && P.trig.sl.phase == .runout then
        if c.maskEn && c.maskStop && P.run.maskFail then some 3
        else if P.ended (b.slot + 64) && P.run.fillsDir then some 2 else none
      else P.trig.stopCause } }
  -- after e a stop condition has moved the port to IDLE: nothing more is evaluated (R124)
  let live := fun j => (stops.port p).trig.stopCause.isNone || o.core.phase != .runout ||
    inRunout T o.core c.post (b.slot + BitVec.ofNat 64 j)
  let mask := (List.range 64).foldl (fun m j => if live j then m ||| slotBits j 1 else m) (0 : BitVec 64)
  let s4 := stops.modPort p fun P => { P with trig := { P.trig with
    gst := countHits gst (hits.map (· &&& mask)) } }
  let s5 := (o.events.filter fun e => live e.1).foldl (fun s e =>
    emitRec s p (b.slot + BitVec.ofNat 64 e.1) 2 e.2) s4
  let s6 := match o.xtrig, (s5.port p).trig.replaying with
    | some j, none => portFires s5 p (b.slot + BitVec.ofNat 64 j)
    | _, _ => s5
  let s7 := storeStage s6 p b xs o.storeAt
  s7.modPort p fun P =>
    match P.trig.ckptBeat with
    | some k => if slotsTo k b.slot ≥ 65536 then { P with trig := checkpoint P.trig (b.slot + 64) } else P
    | none => P

/-- BEAT_DECIDE: the next deskewed beat of the port is decided. Outside the armed phases it is only
passed on. -/
def execBeatDecide (port : BitVec 7) (s : State) : Host.Outcome State Fault Refusal :=
  let p := port.toNat
  let P := s.port p
  match P.deskew with
  | [] => .next s
  | b0 :: _ =>
    let b := if P.trig.heldOut && P.trig.armed then { b0 with lost := true, cause := 4 } else b0
    if P.blocked b.slot then .next s
    else
      let dropped := !b.lost && P.wouldStore b.slot && P.drops
      let lost := if dropped then some (dropCause P.run) else if b.lost then some b.cause else none
      let eff := P.chain.inEffect
      let (s1, dc) := chainBeat (popBeat s p) p b lost
      if lost.isSome then
        let s2 := offerGap s1 p 1
        ok (if P.trig.sl.phase == .idle then s2 else loseBeat s2 p b dropped)
      else if P.trig.sl.phase == .idle then ok (offerSamples s1 p b 0)
      else ok (keepBeat s1 p b eff dc)

/-! ### Tunes (R103, R104, R126) -/

/-- Writes the image of a tune: p0 to p3, val and msk of a gate, or the thresholds and limits. -/
def applyTune (T : PortTrig) (t : Tune) : PortTrig :=
  match t.gate with
  | some g =>
    let d : BitVec 512 := T.gates.get 0 g
    { T with gates := T.gates.set g (put (put d 64 128 t.image) 256 256 (t.image / 2 ^ 128)) }
  | none => { T with table := put T.table 192 288 t.image }

/-- TUNE_APPLY: the tunes due at the port's next beat take effect, in the order of their arrival. -/
def execTuneApply (port : BitVec 7) (s : State) : Host.Outcome State Fault Refusal :=
  let p := port.toNat
  let P := s.port p
  let due := P.trig.tunes.filter fun t => P.due t.effect
  if due.isEmpty then .next s
  else
    let T := due.foldl applyTune P.trig
    ok (s.setPort p { P with trig := { T with tunes := P.trig.tunes.filter fun t => !P.due t.effect } })

/-! ### The ends of a run (R113, R122 to R124, R136) -/

/-- EV_RUN_STOP (R288): cause, run_seq of the last run, first IDLE slot. -/
def evRunStop (s : State) (p cause : Nat) (seq : BitVec 36) (slot : Slot) : State :=
  evOwner s p 0x8004 (p + 2 ^ 16 * cause) (seq.toNat + 2 ^ 36 * (s.tmOf slot).toNat)

/-- RUNOUT_END: the run closes, and the port goes into the lift, or to IDLE on a stop condition. -/
def execRunoutEnd (port : BitVec 7) (s : State) : Host.Outcome State Fault Refusal :=
  let p := port.toNat
  let P := s.port p
  if P.ended P.pos && P.trig.fenced.isNone then
    let n := (runoutLen P.trig.table P.trig.sl (RunCfg.post P.run.cfg)).getD 0
    let e := P.trig.sl.trig + BitVec.ofNat 64 n
    match P.trig.stopCause <|> (if P.run.fillsDir then some 2 else none) with
    | some cause =>
      let s1 := closeRun s p (runLast P) true
      ok (followEnd (goIdle (evRunStop s1 p cause P.run.curSeq (e + 1)) p) p)
    | none =>
      ok ((closeRun s p (runLast P) false).modPort p fun P => { P with trig := { P.trig with
        sl := { P.trig.sl with
          phase := .lift, liftEnd := beatSlot e + beats (Slalom.liftBeats P.trig.table + 1) } } })
  else .next s

/-- RE_ARM: the lift ends, and the slalom restarts in HUNT with a new run (R123, R146, R444). -/
def execReArm (port : BitVec 7) (s : State) : Host.Outcome State Fault Refusal :=
  let p := port.toNat
  let P := s.port p
  let a := P.trig.sl.liftEnd
  if P.trig.sl.phase == .lift && P.due a && P.trig.fenced.isNone then
    let T1 : PortTrig := { P.trig with
      sl := slalomRestart P.trig.table { P.trig.sl with phase := .hunt, gapSeen := false } }
    ok (beginRun (s.setPort p { P with trig := checkpoint T1 a }) p a)
  else .next s

/-- DISARM_EFFECT: the slalom goes to IDLE from any phase; a run in RUNOUT ends short (R113, R136, R275), at
DOWN with the beat before the first lost slot. -/
def execDisarmEffect (port : BitVec 7) (s : State) : Host.Outcome State Fault Refusal :=
  let p := port.toNat
  let P := s.port p
  match P.trig.disarmAt with
  | none => .next s
  | some D =>
    if !P.due D || P.ended D then .next s
    else
      let f := P.trig.firstHunt
      let upTo := match P.run.refused with
        | some x => min (slotsTo f x) (slotsTo f D)
        | none => slotsTo f D
      let stop := match P.trig.gap with
        | some g => if P.trig.downed then min (slotsTo f g.start) upTo else upTo
        | none => upTo
      let running := P.trig.sl.phase == .runout
      let s1 := if running then closeRun s p (min (runLast P) (stop - 64)) true else s
      let s2 := if P.run.refused.isSome then
          evRunStop s1 p 4 (if running then P.run.curSeq else P.run.curSeq - 1) D
        else s1
      ok (followEnd (goIdle (offerRecs (endGap s2 p) p D) p) p)

/-! ### The directory (R144 to R146, R159) -/

/-- A piece of run `n` of a port is still on its way to memory. -/
def runPieces (s : State) (p : Nat) (n : BitVec 36) : Bool :=
  (s.port p).run.fifo.any (fun x => x.run == n && (x.kind == 0 || x.kind == 2 || x.kind == 3)) ||
  s.chans.any fun x => (x.2.queue ++ x.2.held).any fun q =>
    q.cls == .ingest && q.who == p && q.run == n && (q.kind == 0 || q.kind == 2 || q.kind == 3)

/-- DIRECTORY_ENTRY_WRITE: every data write of the oldest closed run has completed; its entry goes to memory
with valid = 1. -/
def execDirectoryEntryWrite (port : BitVec 7) (s : State) : Host.Outcome State Fault Refusal :=
  let p := port.toNat
  let P := s.port p
  match P.run.closing with
  | [] => .next s
  | c :: _ =>
    if runPieces s p c.seq then .next s
    else
      ok (pushStores s p [plainStore c.addr 3 c.seq P.pos
        (bytesOf 27 (put c.entry 181 1 (b2n c.poisoned)).toNat)])

/-- Sets poisoned, bit 181 of an entry at `a`, in the bytes that stand from address `b` on (R144). -/
def markBytes (a b : Nat) (bs : List Byte) : List Byte :=
  (List.range bs.length).map fun i => bs.getD i 0 ||| if b + i = a + 22 then 0x20 else 0

/-- Marks the entry of run `n` of a port poisoned, wherever the entry stands (R159): before its write, in the
store FIFO, among the requests of a channel; an entry that stands valid in memory is written again, by the path
of R146, unless the entry of a later run is already on its way there. -/
def poisonEntry (s : State) (p : Nat) (n : BitVec 36) : State :=
  let P := s.port p
  let a := match P.run.closing.find? fun c => c.seq == n with
    | some c => c.addr
    | none => RunCfg.entryAddr P.run.cfg n.toNat
  let markReq := fun (q : MemReq) => if q.cls == .ingest && q.who == p && q.run == n && q.kind == 3 then
    { q with data := markBytes a q.addr q.data } else q
  let s1 := s.setPort p { P with run := { P.run with
    closing := P.run.closing.map fun c => if c.seq == n then { c with poisoned := true } else c
    fifo := P.run.fifo.map fun x => if x.run == n && x.kind == 3 then
      { x with data := markBytes a x.addr x.data } else x } }
  let s2 := { s1 with chans := s1.chans.map fun x => (x.1, { x.2 with
    queue := x.2.queue.map markReq, held := x.2.held.map markReq }) }
  let e := BitVec.ofNat 216 (le (Memory.readList s.mem a 27))
  let later := P.run.fifo.any (fun x => x.addr == a && x.kind == 1) ||
    s.chans.any fun x => (x.2.queue ++ x.2.held).any fun q => q.cls == .ingest && q.kind == 1 &&
      decide (q.addr < a + 27) && decide (a < q.addr + q.data.length)
  if bit e 180 && fbv e 72 36 == n && !bit e 181 && !later && !chanOut s (addrChan a) then
    pushStores s2 p [plainStore a 5 n P.pos (markBytes a a (bytesOf 27 e.toNat))]
  else s2

/-- RUN_POISON_MARK: device firmware makes a mark that it owes (R159, R265, R267, R271). -/
def execRunPoisonMark (port : BitVec 7) (n : BitVec 36) (s : State) : Host.Outcome State Fault Refusal :=
  let mine := fun (m : Nat × BitVec 36 × Option Nat) => m.1 == port.toNat && m.2.1 == n
  if s.hub.marks.any mine then
    ok ((poisonEntry s port.toNat n).modHub fun H => { H with marks := H.marks.filter fun m => !mine m })
  else .next s

end Sys2Proof.Machine
end

