-- ==== Sys2Proof/Machine/Gate.lean ====
section
/-! DEFINITION. The commands of family 0x04: GATE_SET, GATE_GET, GATE_TUNE (R86, R87, R103, R105, R300). -/
namespace Sys2Proof.Machine

/-- The next beat of a port in which a tune can take effect (R103): later than the current beat, and not
decided yet. -/
def nextBeatOf (s : State) (p : Nat) : Slot :=
  let now := s.time.slotCount + 64
  let P := s.port p
  if P.decides && notAfter now P.pos then P.pos else now

/-- ST_STATE while the port is armed (R300), with its state code. -/
def needIdle (s : State) (p : Nat) : Option Fail :=
  let P := s.port p
  need (!P.trig.armed) (stState (locPort p) (portCode P.state))

/-- ST_STATE on a port that is not armed, with phase 0 (R103, R126). -/
def needArmed (s : State) (p : Nat) : Option Fail :=
  need (s.port p).trig.armed (stState (locPort p) 0)

/-- The indices that a descriptor names lie in their ranges, and a followed gate is of the level class
(R87). -/
def gateLinks (P : Port) (g : Gate) : Bool :=
  if g.follows then decide (g.selA < 32) && Gate.level (P.gate g.selA)
  else if g.type = 5 || g.type = 7 || g.type = 8 then decide (g.selA < 128)
  else if g.analogue then decide (g.selA < if g.srcDc then 2 else 8)
  else true

/-- A cross-port gate names a block of the partition (R87, R88). -/
def gateOwned (s : State) (k : BitVec 4) (g : Gate) : Bool :=
  g.type != 0xE || (if g.mode = 0 then s.portOwner g.selA else s.pcsOwner g.selA) == some k

def cmdGateSet : Cmd := { opcode := 0x0401, cls := some 0, sub := true, data := 64 }

/-- GATE_SET. -/
def execGateSet (p : Packet) (s : State) : Host.Outcome State Fault Refusal :=
  let g : Gate := p.blk 512
  Cmd.run cmdGateSet p s
    [need (decide (p.subv < 32)) (badParam noLoc 18),
     need (gateOk g && gateLinks (s.port p.idx) g) (badParam noLoc (p.dataOff false))]
    [need (gateOwned s p.fn g) (denied 2), needIdle s p.idx]
    fun s => (s.modPort p.idx fun P => { P with trig := { P.trig with gates := P.trig.gates.set p.subv g } }, .ok)

def cmdGateGet : Cmd := { opcode := 0x0402, cls := some 0, sub := true, buffer := true }

/-- GATE_GET: the descriptor, the hit counter and sat. -/
def execGateGet (p : Packet) (s : State) : Host.Outcome State Fault Refusal :=
  Cmd.run cmdGateGet p s
    [need (decide (p.subv < 32)) (badParam noLoc 18)] []
    fun s =>
      let P := s.port p.idx
      let st := P.gateSt p.subv
      (s, .bytes (bytesOf 64 (P.gate p.subv).toNat ++ bytesOf 8 (st.hits.toNat + 2 ^ 48 * b2n st.sat)))

/-- A tune joins the port's queue, and the reply names its beat (R103, R126). -/
def queueTune (s : State) (p : Nat) (gate : Option Nat) (image : Nat) : State × Slot :=
  let at' := nextBeatOf s p
  (s.modPort p fun P => { P with trig := { P.trig with tunes := P.trig.tunes ++ [⟨gate, image, at'⟩] } }, at')

/-- The descriptor that a tune leaves (R103). -/
def tunedGate (P : Port) (g image : Nat) : Gate := put (put (P.gate g) 64 128 image) 256 256 (image / 2 ^ 128)

def cmdGateTune : Cmd := { opcode := 0x0403, cls := some 0, sub := true, data := 48 }

/-- GATE_TUNE. -/
def execGateTune (p : Packet) (s : State) : Host.Outcome State Fault Refusal :=
  Cmd.run cmdGateTune p s
    [need (decide (p.subv < 32)) (badParam noLoc 18),
     need (gateOk (tunedGate (s.port p.idx) p.subv (p.dat 0 48))) (badParam noLoc (p.dataOff false))]
    [needArmed s p.idx]
    fun s =>
      let (s1, at') := queueTune s p.idx (some p.subv) (p.dat 0 48)
      (s1, .result (s1.tmOf at').toNat)

end Sys2Proof.Machine
end

