-- ==== Sys2Proof/Machine/RunArm.lean ====
section
/-! DEFINITION. The checks of RUN_ARM in the order of R161: format, windows, ranges, state, directory and
capacity (R88, R141, R143, R148, R151, R152, R156, R186, R203, R236, R240). -/
namespace Sys2Proof.Machine

/-! ### Beat fields (R283) -/

/-- A beat field from byte `o` of the data: immediate, and the named slot. -/
def beatImm (p : Packet) (o : Nat) : Bool := p.dat (o + 9) 1 % 2 == 1
def beatAt (p : Packet) (o : Nat) : Slot := BitVec.ofNat 64 (p.dat (o + 1) 8)
/-- The checks of a beat field: reserved bits, and a timemark on a beat boundary unless immediate. -/
def beatFieldOk (p : Packet) (o : Nat) : Bool :=
  p.dat (o + 9) 1 / 2 == 0 && (beatImm p o || (p.dat o 1 == 0 && p.dat (o + 1) 8 % 64 == 0))

/-- The ports of a mask in inline bytes 0 to 15. -/
def maskPorts (p : Packet) : List Nat := allPorts.filter fun n => p.inl.getLsbD n

/-! ### Step 2: format -/

/-- A gate fits the format in effect (R83, R88). -/
def gateFits (P : Port) (g : Gate) : Bool :=
  let f := P.fmt.toNat
  let w := (fmtWords f).getD 0
  let logic := fmtLogic f
  (!g.logic || logic) && (!g.analogue || (w != 0 && !logic)) && (!g.qualReq || logic)
  && (match g.type with
    | 1 | 2 => decide (g.msk < 2 ^ (16 * w))
    | 3 => decide (g.msk < 2 ^ w)
    | 5 | 7 => g.follows || decide (g.selA < 16 * w)
    | 8 => decide (g.selA < 16 * w)
    | _ => true)
  && (!g.analogue || (if g.srcDc then P.chain.dcEn else decide (g.selA < w)))
  && gateLinks P g

def Port.gateList (P : Port) : List Gate := (List.range 32).map P.gate

/-- A raw port whose qualification is always on (R151). -/
def alwaysStores (T : Slalom) : Bool := T.storeInit && !T.branches.any fun b => b.valid && b.storeOff

/-- Step 2 of R161 for one port. -/
def formatCheck (s : State) (k : BitVec 4) (p : Nat) : List (Option Fail) :=
  let P := s.port p
  let c : RunCfg := P.run.cfg
  let T : Slalom := P.trig.table
  let bad := badParam (locPort p) noLoc
  let floor := if P.halfRate then 810000 else 1620000
  [need (P.gateList.all (gateFits P)) bad,
   need (P.gateList.all (gateOwned s k)) (denied 2),
   need (c.src == 0 || !T.branches.any fun b => b.valid && b.silent && (b.storeOn || b.storeOff)) bad,
   need (c.src == 0 || (fmtWords P.fmt.toNat).isSome) bad,
   need (c.src != 2 || fmtLogic P.fmt.toNat) bad,
   need (c.src != 1 || !alwaysStores T || decide (floor ≤ c.decl)) bad,
   need (!c.maskEn || decide (c.maskWord < (fmtWords P.fmt.toNat).getD 0)) bad]

/-! ### Ranges (R137, R143, R161, R186, R203) -/

/-- Rate of a stream of items in Mbit/s, rounded up: units of `n` items per hop of a sequence over `every`
frames; the channel's rate is 90 GS/s over W (R66, R186, R203). -/
def itemRate (P : Port) (q units every : Nat) : Nat :=
  let den := (fmtWords P.fmt.toNat).getD 1 * P.chain.rateDiv q * max 1 (pipeHop (P.chain.pipe q)) * max 1 every
  (90000 * 72 * units + den - 1) / den

/-- A ring of a port: first byte, length, and the rate that it carries in Mbit/s. -/
structure RingArea where
  base : Nat
  len : Nat
  rate : Nat
  deriving DecidableEq, Repr

/-- The spectrum and statistics rings with their rates (R186, R203). -/
def portRings (P : Port) : List RingArea :=
  let C := P.chain
  let D := P.dens
  (if C.specStore = 0 || C.seqList.isEmpty then [] else
    [⟨C.specBase, 9 * C.specUnits, sumOver C.seqList fun q => itemRate P q C.itemUnits 1⟩])
  ++ (if D.statsEn then [⟨D.statBase, 9 * D.statUnits, itemRate P D.seq D.itemUnits D.statFrames⟩] else [])

/-- Every range that a port writes: its directory, its run area and its rings (R161). -/
def portRanges (P : Port) : List (Nat × Nat) :=
  let c : RunCfg := P.run.cfg
  (c.dirBase, 27 * c.nDir) :: (c.areaBase, 9 * c.nDir * c.segUnits) :: (portRings P).map fun a => (a.base, a.len)

/-- Channels of the sample areas and of the record areas of a port's segments (R137, R152). -/
def RunCfg.sampChans (c : RunCfg) : List Nat := stridedChans (c.sampBase 0) (9 * c.segUnits) c.nDir (9 * c.samp)
def RunCfg.recChans (c : RunCfg) : List Nat := stridedChans (c.recBase 0) (9 * c.segUnits) c.nDir (9 * c.recArea)

/-- The areas that must each cover a channel that is not RETIRED, by their first bytes and their channels
(R152, R161). -/
def portAreas (P : Port) : List (Nat × List Nat) :=
  let c : RunCfg := P.run.cfg
  [(c.dirBase, areaChans c.dirBase (27 * c.nDir))]
  ++ (if c.samp = 0 then [] else [(c.sampBase 0, c.sampChans)])
  ++ [(c.recBase 0, c.recChans)]
  ++ (portRings P).map fun a => (a.base, areaChans a.base a.len)

def overlap (a b : Nat × Nat) : Bool := decide (a.1 < b.1 + b.2) && decide (b.1 < a.1 + a.2)

/-- Step 3 of R161: the ranges lie in valid entries of the partition with wr = 1. -/
def inWritable (s : State) (k : BitVec 4) (r : Nat × Nat) : Bool :=
  covered 1025 ((entriesOf s.hub.windows k.toNat).filter fun e => bit e 44) r.1 (r.1 + r.2)

/-- The distinct channels of a list that are not RETIRED. -/
def liveChans (s : State) (cs : List Nat) : List Nat := (cs.filter fun c => !chanOut s c).eraseDups

/-- The ports that count as armed besides those of a list. -/
def armedPorts (s : State) (ps : List Nat) : List Nat :=
  allPorts.filter fun q => (s.port q).trig.armed && !ps.contains q

/-- Step 4 of R161 for one port. -/
def rangeCheck (s : State) (ps : List Nat) (p : Nat) : List (Option Fail) :=
  let P := s.port p
  let bad := badParam (locPort p) noLoc
  let others := (ps ++ armedPorts s ps).filter (· != p)
  [need ((portRanges P).all fun r => areaOnDie r.1 r.2 (portDie p)) bad,
   match (portAreas P).find? fun a => (liveChans s a.2).isEmpty with
    | some a => some (badParam (loc 4 (addrChan a.1)) noLoc)
    | none => none,
   need (!others.any fun q => (portRanges (s.port q)).any fun r => (portRanges P).any (overlap r)) bad]

/-! ### Step 5: state -/

/-- Step 5 of R161 for one port. -/
def armState (s : State) (p : Nat) : Option Fail :=
  let P := s.port p
  need (!P.trig.armed && P.streams) (stState (locPort p) (portCode P.state))

/-! ### Step 7: capacity (R143, R152, R240) -/

/-- A common multiple of the numbers of channels among which a rate is divided. -/
def shareUnit : Nat := 144403552893600

/-- The shares of one port: channel and Mbit/s in units of 1 / shareUnit (R152). -/
def portShares (s : State) (p : Nat) : List (Nat × Nat) :=
  let c : RunCfg := (s.port p).run.cfg
  let share := fun (cs : List Nat) (rate : Nat) => cs.map fun k => (k, rate * shareUnit / max 1 cs.length)
  share (liveChans s (c.sampChans ++ c.recChans)) c.decl
  ++ (portRings (s.port p)).flatMap fun a => share (liveChans s (areaChans a.base a.len)) a.rate

/-- The admission limits and the directory total, over all the ports that would be armed. -/
def capacityCheck (s : State) (ps : List Nat) : List (Option Fail) :=
  let all := ps ++ armedPorts s ps
  let shares := all.flatMap fun p => (portShares s p).map fun x => (p, x.1, x.2)
  let sum := fun (t : Nat × Nat × Nat → Bool) => ((shares.filter t).map (·.2.2)).foldl (· + ·) 0
  let dirs := sumOver all fun p => RunCfg.nDir (s.port p).run.cfg
  [need (decide (dirs ≤ 2 ^ 28)) (noResource (locPort (ps.headD 0)) 4),
   (captureChans.find? fun c => decide (1198412 * shareUnit < sum fun x => x.2.1 == c)).map
    fun c => noResource (loc 4 c) 1,
   ((List.range 16).find? fun r => decide (2400000 * shareUnit <
      sum fun x => portRegion x.1 == r && chanRegion x.2.1 != r)).map fun r => noResource (loc 8 r) 2,
   ((List.range 4).find? fun d => decide (6400000 * shareUnit <
      sum fun x => portDie x.1 == d && chanRegion x.2.1 != portRegion x.1)).map fun d => noResource (loc 9 d) 3]

/-- The sources from outside a die that a gate names, one for each external input (R240). -/
def outsideSources (d : Nat) (g : Gate) : List Nat :=
  match g.type with
  | 0xB => [g.selA]
  | 0xE => if g.mode = 0 then (if portDie g.selA = d then [] else [srcPort g.selA]) else [srcPcs g.selA]
  | _ => []

/-- At most 64 distinct outside sources to a die (R240). -/
def sourceCheck (s : State) (ps : List Nat) : Option Fail :=
  let all := ps ++ armedPorts s ps
  ((List.range 4).find? fun d =>
    decide (64 < (((all.filter fun p => portDie p == d).flatMap fun p =>
      (s.port p).gateList.flatMap (outsideSources d)).eraseDups).length)).map fun d => noResource (loc 9 d) 5

/-- The analogue delay X of a port (R236). -/
def analogueDelay (P : Port) : Nat :=
  let k := P.chain.dec
  let pipe := if k ≥ 4 then (if P.chain.fast then 5 else 10) else 3 + 2 * k
  if P.gateList.any fun g => g.analogue && g.srcDc then 1 + pipe
  else if P.gateList.any Gate.analogue then 1 else 0

end Sys2Proof.Machine
end

