-- ==== Sys2Proof/Machine/MemOps.lean ====
section
/-! DEFINITION. What a DRAM controller does with its requests: window checks, scheduling, hazards, error
correction, the poison list and the retirement of a channel (R253 to R275). -/
namespace Sys2Proof.Machine

/-! ### Requests (R253, R254) -/

/-- A requester of R259: a port's store queue, a DMA channel, or the control processor. -/
def MemReq.id (q : MemReq) : Nat :=
  match q.cls with
  | .ingest => q.who
  | .dma => 128 + q.who
  | .control => 160
  | .scrub => 161

def MemReq.size (q : MemReq) : Nat := if q.write then q.data.length else q.len
/-- Target of a class in slots (R253). -/
def classTarget : ReqClass → Nat
  | .ingest => nsSlots 400
  | .control => nsSlots 2000
  | _ => nsSlots 10000
/-- Age of a request in slots. -/
def MemReq.slots (q : MemReq) : Nat := 64 * q.age
/-- Urgency (R254, rule 1). -/
def MemReq.urgency (q : MemReq) : Nat :=
  let t := classTarget q.cls
  if q.cls == .scrub || 2 * q.slots < t then 0 else if 4 * q.slots < 3 * t then 1 else 2
/-- The request is past its deadline (R255). -/
def MemReq.late (q : MemReq) : Bool := decide (classTarget q.cls < q.slots)

/-- Where a request goes: its channel, and the channel-local byte it begins at (R249, R250). -/
def MemReq.chan (q : MemReq) : Nat := q.inChan.getD (addrChan q.addr)
def MemReq.start (q : MemReq) : Nat := if q.inChan.isSome then q.addr else addrLocal q.addr
def MemReq.row (q : MemReq) : Nat := q.start / 4608
/-- The bursts that a request touches, first and last. A request lies in one row (R250). -/
def MemReq.bursts (q : MemReq) : Nat × Nat := (q.start / 72, (q.start + q.size - 1) / 72)

/-- A later request waits for an earlier one: by rows in IN_ORDER (R258), by bursts otherwise (R257); and
writes of one source to one channel stay in order (R27). -/
def waitsFor (inOrder : Bool) (q e : MemReq) : Bool :=
  (q.write && e.write && q.id == e.id) ||
  if inOrder then q.row == e.row
  else (q.write || e.write) && decide (q.bursts.1 ≤ e.bursts.2) && decide (e.bursts.1 ≤ q.bursts.2)

/-- The requests that the hazards let go, with their positions in the queue. -/
def readyReqs (inOrder : Bool) (qs : List MemReq) : List (Nat × MemReq) :=
  ((List.range qs.length).zip qs).filter fun x => !(qs.take x.1).any (waitsFor inOrder x.2)

/-- Rank and bank of a row index as one number (R251). -/
def bankKey (cfg : BitVec 256) (v : Nat) : Nat :=
  let x := bankOf cfg v
  16 * b2n x.2.1 + x.2.2

/-- A row is open (R256). -/
def rowOpen (cfg : BitVec 256) (C : Chan) (v : Nat) : Bool := C.openRow.get none (bankKey cfg v) == some v

/-- The order of R254 as a number pair: the lower goes first. -/
def serveRank (cfg : BitVec 256) (C : Chan) (q : MemReq) : Nat × Int :=
  (2 - q.urgency,
    if q.urgency = 2 then (classTarget q.cls : Int) - q.slots else if rowOpen cfg C q.row then 0 else 1)

def rankBefore (a b : Nat × Int) : Bool := decide (a.1 < b.1) || (a.1 == b.1 && decide (a.2 < b.2))

/-- The first request by R254 of a list in order of age. -/
def firstByRank (cfg : BitVec 256) (C : Chan) : List (Nat × MemReq) → Option (Nat × MemReq)
  | [] => none
  | x :: xs =>
    match firstByRank cfg C xs with
    | some y => if rankBefore (serveRank cfg C y.2) (serveRank cfg C x.2) then some y else some x
    | none => some x

/-- Throttling holds a request back: it needs an activation less than thr_gap after its requester's last one in
the bank (R259). -/
def throttleHolds (cfg : BitVec 256) (now : Slot) (C : Chan) (q : MemReq) : Bool :=
  !rowOpen cfg C q.row && C.throttled.any fun t =>
    t.1 == q.id && t.2.1 == bankKey cfg q.row && decide (slotsTo t.2.2 now < nsSlots (1000 * fld cfg 112 8))

/-- Scrub requests are issued only while no ingest request and no request of urgency 1 or 2 is held, and sweep
bursts take their place in an in-place sweep (R254 rule 5, R261). -/
def scrubGoes (C : Chan) : Bool :=
  C.reSweep.isNone && !C.queue.any fun q => q.cls == .ingest || q.urgency != 0

/-- The controller serves the request at position `i` next: the choice of R254 among the requests that the
hazards and throttling let go (R257 to R259). -/
def mayServe (s : State) (c i : Nat) : Bool :=
  let C := s.chan c
  let cfg := s.hub.memCfg
  let rs := (readyReqs (C.st == .inOrder) C.queue).filter fun x =>
    !throttleHolds cfg s.time.slotCount C x.2 && (x.2.cls != .scrub || scrubGoes C)
  chanServes s c && (firstByRank cfg C rs).map (·.1) == some i

/-- A request reaches its row: an activation where the row is not open, and the rank leaves power-down
(R256, R259). -/
def touchRow (cfg : BitVec 256) (now : Slot) (C : Chan) (v who : Nat) : Chan :=
  let k := bankKey cfg v
  let C1 := { C with rankDown := C.rankDown.set (k / 16) false }
  if rowOpen cfg C v then C1
  else
    let n := C.acts.get 0 v + 1
    { C1 with
      openRow := C.openRow.set k (some v), acts := C.acts.set v n
      throttled := C.throttled.map fun t => if t.1 == who && t.2.1 == k then (who, k, now) else t
      hammerDue := if n = fld cfg 96 16 then C.hammerDue ++ [(who, v, now)] else C.hammerDue }

/-! ### Windows (R273 to R275, R429) -/

/-- The window table as a cache sees it: its own entries first (R274). -/
def viewOf (s : State) (w : WinCache) : Tab (BitVec 128) :=
  w.entries.foldl (fun t x => t.set x.1 x.2) s.hub.windows

/-- The entry of a table that allows an access of one granule to a partition, with its index (R429). -/
def allowing (t : Tab (BitVec 128)) (k : Nat) (write : Bool) (a len : Nat) : Option (Nat × BitVec 128) :=
  t.find? fun x => winValid x.2 && winPart x.2 == k && bit x.2 (if write then 44 else 43) &&
    decide (winBase x.2 ≤ a) && decide (a + len ≤ winBase x.2 + winSize x.2)

/-- EV_WINDOW, with its log entry (R275, R288, R456). -/
def refuse (s : State) (l k a : Nat) : State :=
  logEv (evM s 0x8007 (l + 2 ^ 16 * k) a) 0x8007 l (l + 2 ^ 16 * k) a

/-- The partition whose valid window holds an address. -/
def windowOwner (s : State) (a : Nat) : Option (BitVec 4) :=
  (s.hub.windows.find? fun x => winValid x.2 && decide (winBase x.2 ≤ a) &&
    decide (a < winBase x.2 + winSize x.2)).map fun x => BitVec.ofNat 4 (winPart x.2)

/-! ### The directory entries that an error concerns (R159) -/

/-- The valid entry at index `i` of a port's directory, by the memory's own bytes. -/
def entryAt (s : State) (p i : Nat) : Option (BitVec 216) :=
  let R := (s.port p).run
  let a := RunCfg.dirBase R.cfg + 27 * i
  let e : BitVec 216 := BitVec.ofNat 216 (le (Memory.readList s.mem a 27))
  let back := (R.nextSeq - fbv e 72 36).toNat
  if bit e 180 && 1 ≤ back && back ≤ RunCfg.nDir R.cfg && !chanOut s (addrChan a) then some e else none

/-- The valid entries of the runs whose segment holds an address. -/
def runsAt (s : State) (a : Nat) : List (Nat × BitVec 36) :=
  s.ports.filterMap fun x =>
    let c : RunCfg := x.2.run.cfg
    let size := 9 * c.segUnits
    if c.areaBase ≤ a && a < c.areaBase + c.nDir * size then
      (entryAt s x.1 ((a - c.areaBase) / size)).map fun e => (x.1, fbv e 72 36)
    else none

/-- A stretch of `n` units from step `k` of a ring has data in a channel. -/
def stretchHas (base size k n c : Nat) : Bool :=
  if size = 0 || n = 0 then false
  else
    let h := k % size
    let first := min n (size - h)
    (areaChans (base + 9 * h) (9 * first)).contains c ||
      (decide (first < n) && (areaChans base (9 * min (n - first) size)).contains c)

/-- The segment of a valid entry has data in a channel: its header, or the units that the header names. -/
def entryHas (s : State) (p : Nat) (e : BitVec 216) (c : Nat) : Bool :=
  let g : RunCfg := (s.port p).run.cfg
  let n := fld e 72 36
  let h : BitVec 164 := BitVec.ofNat 164 (le (Memory.readList s.mem (g.segBase n) 21))
  (areaChans (g.segBase n) 72).contains c ||
    stretchHas (g.sampBase n) g.samp (fld h 36 32) (fld h 68 32) c ||
    stretchHas (g.recBase n) g.recArea (fld h 100 32) (fld h 132 32) c

/-- The valid entries of a port's directory that stand in memory: only an index whose entry holds a byte
other than zero can be valid. -/
def entriesOn (s : State) (p : Nat) : List (BitVec 216) :=
  let g : RunCfg := (s.port p).run.cfg
  let is := ((s.mem.filter fun x => decide (g.dirBase ≤ x.1) && decide (x.1 < g.dirBase + 27 * g.nDir)).map
    fun x => (x.1 - g.dirBase) / 27).eraseDups
  is.filterMap (entryAt s p)

/-! ### Errors (R264, R265, R267, R268) -/

/-- Enters a burst in the poison list while it has room (R268). -/
def Chan.listBurst (C : Chan) (b : Nat) : Chan :=
  if C.plist.contains b || C.plist.length ≥ 256 then C else { C with plist := C.plist ++ [b] }

/-- The latest slots within one second (R270). -/
def lastSecond (now : Slot) (xs : List Slot) : List Slot :=
  xs.filter fun x => decide (slotsTo x now < nsSlots 1000000000)

/-- An uncorrectable burst is found (R264, R265, R267, R270, R276, R288, R455): count, poison list, log, and
the marks that device firmware owes. -/
def foundBad (s : State) (c b : Nat) : State :=
  let a := chanAddr c (72 * b)
  let now := s.time.slotCount
  let s1 := s.modChan c fun C => { C.listBurst b with
    ue := satInc C.ue, ueTimes := lastSecond now C.ueTimes ++ [now]
    lastUe := BitVec.ofNat 39 (a.getD (72 * b)) }
  let s2 := s1.modFaults fun F => { F with ueTotal := satInc F.ueTotal }
  let s3 := evFault s2 (a.bind (windowOwner s)) (loc 4 c) 4 false (a.getD (72 * b))
  match a with
  | some x => s3.modHub fun H => { H with
      marks := H.marks ++ ((runsAt s x).map fun r => (r.1, r.2, none)).filter fun m => !H.marks.contains m }
  | none => s3

/-! ### Codewords (R249, R263) -/

/-- Errors of a burst's symbols, in the order of the symbols: each with the bits that are wrong. -/
abbrev SymErrs : Type := List (Nat × BitVec 16)

/-- Flips bits of one symbol. -/
def xorSym : SymErrs → Nat → BitVec 16 → SymErrs
  | [], i, x => if x = 0 then [] else [(i, x)]
  | (j, y) :: es, i, x =>
    if j < i then (j, y) :: xorSym es i x
    else if i < j then (if x = 0 then (j, y) :: es else (i, x) :: (j, y) :: es)
    else if y ^^^ x = 0 then es else (i, y ^^^ x) :: es

def xorSyms (es fs : SymErrs) : SymErrs := fs.foldl (fun es f => xorSym es f.1 f.2) es

/-- The poison code as a difference from the codeword of the data (R268). -/
def poisonCode : SymErrs := [(36, 0xFFFF), (38, 0xFFFF), (39, 0xFFFF)]

/-- What the decoder makes of a word: data, off by `left` where it is miscorrected, with the symbol it
corrected; or an uncorrectable error. -/
inductive Decoded where
  | good (left : SymErrs) (fixed : Option Nat)
  | bad
  deriving DecidableEq, Repr

/-- The decoder of R263. An error pattern of three or more symbols within one symbol of another codeword, which
lies at distance 5 or more from the true one, is taken for that codeword; the poison code never is (R268). -/
def decodeSyms (es : SymErrs) : Decoded :=
  match es with
  | [] => .good [] none
  | [x] => .good [] (some x.1)
  | [_, _] => .bad
  | _ =>
    let w := xorSyms [] (Config.rsNear es)
    let d := xorSyms es w
    if es != poisonCode && decide (5 ≤ w.length) && decide (d.length ≤ 1) then .good w (d.head?.map (·.1)) else .bad

/-- Data bytes with symbol errors: symbol i holds bytes 2i and 2i + 1 of the burst (R263). -/
def symBytes (es : SymErrs) (bs : List Byte) : List Byte :=
  (bs.zip (List.range bs.length)).map fun x =>
    match es.find? fun e => e.1 == x.2 / 2 with
    | some e => x.1 ^^^ fbv e.2 (8 * (x.2 % 2)) 8
    | none => x.1

/-- First byte of the reserved area (R249). -/
def reservedFrom : Nat := 0x100000800

/-- The bytes of a burst that package addresses reach: the first address, and how many follow in the region
(R250). -/
def burstAt (c b : Nat) : Option (Nat × Nat) :=
  (chanAddr c (72 * b)).map fun a => (a, min 72 (regionEnd (addrRegion a) - addrOff a))

/-- The pattern byte under a channel-local byte: the reserved area holds training patterns (R249, R261). -/
def patternAt (C : Chan) (k : Nat) : Byte :=
  if C.reserved && decide (reservedFrom ≤ k) then Config.pattern (k - reservedFrom) else 0

/-- The 72 data bytes of a burst (R249). -/
def burstBytes (s : State) (c b : Nat) : List Byte :=
  let C := s.chan c
  let own := fun (k n : Nat) => (List.range n).map fun i => Memory.read C.priv (k + i) ^^^ patternAt C (k + i)
  match burstAt c b with
  | some (a, n) => Memory.readList s.mem a n ++ own (72 * b + n) (72 - n)
  | none => own (72 * b) 72

/-- Writes the 72 data bytes of a burst. -/
def putBurst (s : State) (c b : Nat) (bs : List Byte) : State :=
  let own := fun (C : Chan) (k : Nat) (bs : List Byte) => { C with
    priv := Memory.writeList C.priv k ((bs.zip (List.range bs.length)).map fun x => x.1 ^^^ patternAt C (k + x.2)) }
  match burstAt c b with
  | some (a, n) => { s with mem := Memory.writeList s.mem a (bs.take n) }.modChan c fun C =>
      own C (72 * b + n) (bs.drop n)
  | none => s.modChan c fun C => own C (72 * b) bs

/-- The stored word of a burst, by symbols: data, check symbols, and what differs from the codeword (R263). -/
def burstWord (s : State) (c b : Nat) : List (BitVec 16) :=
  let bs := burstBytes s c b
  let es := (s.chan c).errs.get [] b
  let data := (List.range 36).map fun i => BitVec.ofNat 16 (le (slice bs (2 * i) 2))
  ((data ++ Config.rsCheck bs).zip (List.range 40)).map fun x =>
    match es.find? fun e => e.1 == x.2 with
    | some e => x.1 ^^^ e.2
    | none => x.1

/-- The errors of a stored word; a burst without errors has no entry. -/
def Chan.setErrs (C : Chan) (b : Nat) (es : SymErrs) : Chan :=
  { C with errs := if es.isEmpty then C.errs.filter (·.1 != b) else C.errs.set b es }

/-- A corrected error: counted, noted for its byte lane, and the corrected burst is written back in the scrub
class where `back` says so (R261, R264). -/
def corrected (s : State) (c b sym : Nat) (bs : List Byte) (back : Bool) : State :=
  let now := s.time.slotCount
  s.modChan c fun C => { C with
    ce := satInc C.ce
    laneCe := (C.laneCe.filter fun x => decide (slotsTo x.1 now < nsSlots 1000000)) ++ [(now, sym / 8)]
    queue := if back then C.queue ++ [{ MemReq.reset with
      cls := .scrub, write := true, addr := 72 * b, inChan := some c, data := bs }] else C.queue }

/-- A read of one burst: the bytes, the poison mark, and the counts (R263 to R265, R268). `back` says that a
corrected burst is written back. -/
def readBurst (s : State) (c b : Nat) (x : BurstIn) (back : Bool := true) : State × List Byte × Bool :=
  let es := xorSyms ((s.chan c).errs.get [] b) x.hard
  let s1 := if x.hard.isEmpty then s else s.modChan c fun C => C.setErrs b es
  let seen := xorSyms es x.soft
  let listed := (s.chan c).plist.contains b
  match decodeSyms seen with
  | .good left fixed =>
    let bs := symBytes left (burstBytes s1 c b)
    (match fixed with
      | some i => corrected s1 c b i bs back
      | none => s1, bs, listed)
  | .bad => (foundBad s1 c b, symBytes seen (burstBytes s1 c b), true)

/-- A write-back of a corrected burst: the data are written as a codeword; an entry of the poison list stays
(R264; log entry 1108). -/
def writeBack (s : State) (c b : Nat) (bs : List Byte) : State :=
  (putBurst s c b bs).modChan c fun C => C.setErrs b []

/-- Writes bytes `lo` and on of a burst: whole, or merged with what a read of the burst gives; a burst
that decodes as uncorrectable, is in the poison list, or is written with the mark takes the poison code
(R264, R268, R321, R345). -/
def writeBurst (s : State) (c b lo : Nat) (bs : List Byte) (mark : Bool) (x : BurstIn) : State :=
  let whole := lo = 0 && bs.length = 72
  let r := if whole then (s, bs, false) else readBurst s c b x false
  let new := r.2.1.take lo ++ bs ++ r.2.1.drop (lo + bs.length)
  (putBurst r.1 c b new).modChan c fun C =>
    let C1 := if whole then { C with plist := C.plist.filter (· != b) } else C
    let C2 := if mark then C1.listBurst b else C1
    C2.setErrs b (if mark || r.2.2 then poisonCode else [])

/-- Writes the data of a request burst by burst; the bursts are read, where they are, with the errors that the
list gives. The first argument counts the bursts. -/
def writeBursts (c : Nat) (mark : Bool) : Nat → State → Nat → Nat → List Byte → List BurstIn → State
  | 0, s, _, _, _, _ => s
  | n + 1, s, b, lo, bs, xs =>
    let k := min bs.length (72 - lo)
    writeBursts c mark n (writeBurst s c b lo (bs.take k) mark (xs.headD {})) (b + 1) 0 (bs.drop k) (xs.drop 1)

/-- Reads the bursts of a request. -/
def readBursts (c : Nat) : Nat → State → Nat → List BurstIn → State × List (Byte × Bool)
  | 0, s, _, _ => (s, [])
  | n + 1, s, b, xs =>
    let (s1, bs, bad) := readBurst s c b (xs.headD {})
    let (s2, rest) := readBursts c n s1 (b + 1) (xs.drop 1)
    (s2, bs.map (·, bad) ++ rest)

/-! ### Serving a request (R254 to R259, R264) -/

/-- The counts of a request that completes after its deadline (R255). -/
def countLate (q : MemReq) (C : Chan) : Chan :=
  if !q.late then C
  else if q.cls == .ingest then { C with lateIngest := satInc C.lateIngest }
  else { C with lateOther := satInc C.lateOther }

/-- The number of bursts that a request touches. -/
def MemReq.count (q : MemReq) : Nat := q.bursts.2 - q.bursts.1 + 1

/-- The request at position `i` of a channel's queue is served: its row opens, and its bursts are read or
written. The answer holds the bytes read. -/
def serveReq (s : State) (c i : Nat) (q : MemReq) (xs : List BurstIn) : State × List (Byte × Bool) :=
  let s1 := s.modChan c fun C =>
    countLate q (touchRow s.hub.memCfg s.time.slotCount { C with queue := C.queue.eraseIdx i } q.row q.id)
  let b := q.bursts.1
  if q.write then
    (if q.cls == .scrub then writeBack s1 c b q.data
      else writeBursts c q.poison q.count s1 b (q.start % 72) q.data xs, [])
  else
    let (s2, bs) := readBursts c q.count s1 b xs
    (s2, (bs.drop (q.start % 72)).take q.len)

/-- An accepted write: it makes its partition dirty (R430) and cancels the write-backs of its bursts that have
not been issued (R264). -/
def noteWrite (s : State) (q : MemReq) (part : Option Nat) : State :=
  if !q.write then s
  else
    let s1 := match part with
      | some k => s.modPart k fun P => { P with dirty := true }
      | none => s
    let old := fun (r : MemReq) => r.cls == .scrub && r.write && decide (q.bursts.1 ≤ r.bursts.1) &&
      decide (r.bursts.1 ≤ q.bursts.2)
    s1.modChan q.chan fun C => { C with
      queue := C.queue.filter fun r => !old r, held := C.held.filter fun r => !old r }

/-- A request that another command's row carries from its acceptance to its completion: it stands among the
queued requests by its age, and is served when its turn comes. None while it has to wait; `false` for a write
that ends in an error response (R272). -/
def direct (s : State) (q : MemReq) (part : Option Nat) (xs : List BurstIn) :
    Option (State × List (Byte × Bool) × Bool) :=
  let c := q.chan
  let s1 := noteWrite s q part
  if (s.chan c).st == .retired then
    some (s1.modChan c (countLate q), if q.write then [] else List.replicate q.len (0, true), !q.write)
  else
    let older := (s1.chan c).queue.takeWhile fun r => decide (q.age ≤ r.age)
    let s2 := s1.modChan c fun C => { C with queue := older ++ q :: C.queue.drop older.length }
    if mayServe s2 c older.length then
      let r := serveReq s2 c older.length q xs
      some (r.1, r.2, true)
    else none

/-! ### What follows a request -/

/-- The entry of a closed run has been written: next_seq passes it, and the run chain of the session advances
(R146, R160, R417). -/
def entryDone (s : State) (p : Nat) : State :=
  match (s.port p).run.closing with
  | [] => s
  | x :: xs =>
    let s1 := s.modPort p fun P => { P with run := { P.run with closing := xs, nextSeq := if x.live then x.seq + 1 else P.run.nextSeq } }
    match s.portOwner p with
    | none => s1
    | some k => modSession s1 k.toNat fun S =>
        let d := S.runChain.get (chainStart S.sid p 1) p
        { S with
          runChain := S.runChain.set p
            (Config.sha384 (bytesOf 48 d.toNat ++ bytesOf 27 (put x.entry 181 1 0).toNat))
          runLinks := S.runLinks.set p (S.runLinks.get 0 p + 1)
          gapped := if bit x.entry 182 then S.gapped + 1 else S.gapped }

/-- A piece of a store has left the queues: the last piece of an entry with valid = 1 ends its run. -/
def storeDone (s : State) (q : MemReq) : State :=
  if q.kind == 3 && !((s.port q.who).run.fifo.any (·.kind == 3)) && !(s.chans.any fun x => (x.2.queue ++ x.2.held).any fun r =>
      r.cls == .ingest && r.who == q.who && r.kind == 3) then entryDone s q.who
  else s

/-- A read of a DMA channel returns. -/
def dmaReturn (s : State) (n off : Nat) (bs : List (Byte × Bool)) : State :=
  dmaWell (s.modDma n fun D => { D with cur := D.cur.map fun d => { d with resp := d.resp ++ [(off, bs)] } }) n

/-- A request completes, served by the channel. -/
def reqDone (s : State) (q : MemReq) (bs : List (Byte × Bool)) : State :=
  match q.cls with
  | .ingest => storeDone s q
  | .dma =>
    if q.write then
      dmaWell (s.modDma q.who fun D => { D with
        cur := D.cur.map fun d => { d with acked := d.acked + q.data.length } }) q.who
    else dmaReturn s q.who q.off bs
  | .control => s.out (.control false (bs.map (·.1)) (bs.any (·.2)))
  | .scrub => s

/-- A request completes as one to a retired channel: a read returns zeros with the poison mark, a write is
discarded with an error response (R272). -/
def reqRetired (s0 : State) (q : MemReq) : State :=
  let s := s0.modChan q.chan (countLate q)
  match q.cls with
  | .ingest => storeDone s q
  | .dma =>
    if q.write then
      dmaFail (s.modDma q.who fun D => { D with cur := D.cur.map fun d =>
        if D.st == .halting then { d with sent := d.sent - q.data.length }
        else { d with back := d.back ++ [(q.off, q.data.map (·, q.poison))] } }) q.who true
    else dmaReturn s q.who q.off (List.replicate q.len (0, true))
  | .control =>
    s.out (.control q.write (if q.write then [] else List.replicate q.len 0) (!q.write))
  | .scrub => s

/-- The controller accepts a checked request: into its queue, or among those that wait while the channel
does not serve; a retired channel answers at once (R260, R272). -/
def acceptReq (s : State) (q : MemReq) (part : Option Nat) : State :=
  let c := q.chan
  let s1 := noteWrite s q part
  if (s.chan c).st == .retired then reqRetired s1 q
  else if chanServes s c then s1.modChan c fun C => { C with queue := C.queue ++ [q] }
  else s1.modChan c fun C => { C with held := C.held ++ [q] }

/-! ### Stores (R146, R153, R275) -/

/-- Cuts a stretch of bytes at granule boundaries (R250). The first argument bounds the pieces. -/
def cutGranules : Nat → Nat → List Byte → List (Nat × List Byte)
  | 0, _, _ => []
  | n + 1, a, bs =>
    if bs.isEmpty then []
    else
      let k := min bs.length (4608 - addrOff a % 4608)
      (a, bs.take k) :: cutGranules n (a + k) (bs.drop k)

def storePieces (x : Store) : List (Nat × List Byte) := cutGranules (x.data.length / 4608 + 2) x.addr x.data

/-- A store of the port that no later one may pass is outstanding (R146). -/
def clearing (s : State) (p : Nat) : Bool :=
  s.chans.any fun x => (x.2.queue ++ x.2.held).any fun q => q.cls == .ingest && q.who == p && q.kind == 1

/-- A refused store: the port disarms at slot 0 of the next beat (R275). -/
def refuseStore (s : State) (p : Nat) (x : Store) (a : Nat) : State :=
  let k := ((s.portOwner p).getD 0).toNat
  let next := nextBeatOf s p
  refuse (s.modPort p fun P =>
    if P.trig.armed then
      let Q := P.disarmBy next
      { Q with run := { Q.run with refused := some (P.run.refused.getD x.slot) } }
    else P) (loc 8 (portRegion p)) k a

/-- One piece of a store: the router checks it against its cache, the controller against the table
(R273, R274). Device firmware's marks of entries are control requests, which nothing checks (R159, R253). -/
def issuePiece (p : Nat) (x : Store) (s : State) (piece : Nat × List Byte) : State :=
  let a := piece.1
  let r := portRegion p
  let k := ((s.portOwner p).getD 0).toNat
  let W := (s.region r).cache
  let q : MemReq := { MemReq.reset with
    cls := .ingest, who := p, part := BitVec.ofNat 4 k, write := true, addr := a, data := piece.2, run := x.run
    kind := x.kind, slot := x.slot, ring := x.ring, step := x.step }
  if x.kind == 5 then acceptReq s { q with cls := .control } none
  else match allowing (viewOf s W) k true a piece.2.length with
  | none => storeDone (refuseStore (s.modRegion r fun R => { R with winLocal := satInc R.winLocal }) p x a) q
  | some (i, e) =>
    let s1 := s.modRegion r fun R => { R with cache := { R.cache with entries := R.cache.entries.set i e } }
    match allowing s.hub.windows k true a piece.2.length with
    | none => storeDone (refuseStore (s1.modChan (addrChan a) fun C => { C with
        winRefused := satInc C.winRefused }) p x a) q
    | some _ => acceptReq s1 q (some k)

/-- The oldest store of a port's FIFO is issued. -/
def issueStore (s : State) (p : Nat) (x : Store) (rest : List Store) : State :=
  (storePieces x).foldl (issuePiece p x) (s.modPort p fun P => { P with run := { P.run with fifo := rest } })

/-! ### Requests of DMA channels (R21, R333, R337, R339, R347) -/

/-- The two ends of an access lie in one granule. -/
def oneGranule (a len : Nat) : Bool := 0 < len && a / 2 ^ 35 == (a + len - 1) / 2 ^ 35 &&
  addrOff a / 4608 == addrOff (a + len - 1) / 4608

/-- Source address of a descriptor's byte `o`, and how many bytes follow it without a break (R333). -/
def srcAt (d : Desc) (o : Nat) : Nat × Nat :=
  if d.gather then (d.src + d.index.getD (o / d.elem) 0 + o % d.elem, d.elem - o % d.elem)
  else (d.src + o, d.total - o)

/-- The request that a channel may make now: offset in the descriptor's data, and the bytes to write. -/
def dmaWants (s : State) (n : Nat) (write : Bool) (a len : Nat) : Option (Nat × List (Byte × Bool)) :=
  let D := s.dmaCh n
  match D.cur with
  | none => none
  | some d =>
    if D.recWait.isSome || !oneGranule a len then none
    else if write then
      if d.dstSpace != 1 || D.job.isSome || !(D.st == .running || D.st == .halting) then none
      else
        let bs := match d.back.find? fun x => d.dst + x.1 == a && x.2.length == len with
          | some x => some x
          | none => if d.dst + d.sent == a && len ≤ d.held.length then some (d.sent, d.held.take len) else none
        match bs with
        | some x =>
          if x.2.any (·.2) && addrBurst a != addrBurst (a + len - 1) then none else some x
        | none => none
    else if d.srcSpace != 1 || !(D.st == .running || D.st == .job) || (srcAt d d.issued).1 != a ||
        (srcAt d d.issued).2 < len || d.total < d.issued + len || !bufRoom s n len then none
    else some (d.issued, [])

/-- The channel's descriptor after a request has been accepted. -/
def dmaIssued (write : Bool) (off len : Nat) (d : Desc) : Desc :=
  if !write then { d with issued := d.issued + len }
  else if d.back.any (·.1 == off) then { d with back := d.back.filter (·.1 != off) }
  else { d with sent := d.sent + len, held := d.held.drop len }

/-- What becomes of an access of a DMA channel on its way to the controller. -/
inductive Passage where
  /-- an error response -/
  | fails (s : State)
  /-- it waits for the die's link, or for the die (`off`) -/
  | waits (off : Bool)
  | passes (s : State)

/-- A DMA channel waits for the die of an address: patrol brings it up, ahead of other requests (R21, R394). -/
def waitDie (s : State) (n a : Nat) : State :=
  if (s.dmaCh n).dieWait.isSome then s
  else requestTokens (s.modDma n fun D => { D with dieWait := some (addrRegion a / 4) })
    { Grant.reset with holders := [.die (addrRegion a / 4), .stack (addrRegion a / 2)], dma := true }

/-- The way of one access of a DMA channel within a granule: a backed address, the die's link and power, the
channel's cache, the controller's table (R21, R250, R273 to R275, R347, R450). -/
def dmaGate (s : State) (n : Nat) (write : Bool) (a len : Nat) : Passage :=
  let die := addrRegion a / 4
  let k := dmaPart s n
  let c := addrChan a
  if !backed a || !backed (a + len - 1) then .fails s
  else if !(s.die die).linkUp then .waits false
  else if (s.die die).pwr == 0 || (s.die die).powering then .waits true
  else
    let W := (s.dmaCh n).cache
    match allowing (viewOf s W) k write a len with
    | none => .fails (refuse (s.modDma n fun D => { D with winLocal := satInc D.winLocal }) (loc 6 n) k a)
    | some (i, e) =>
      let s1 := s.modDma n fun D => { D with cache := { D.cache with entries := D.cache.entries.set i e } }
      match allowing s.hub.windows k write a len with
      | none => .fails (refuse (s1.modChan c fun C => { C with winRefused := satInc C.winRefused }) (loc 6 n) k a)
      | some _ => .passes s1

/-- A request of a DMA channel (R253, R273, R347). -/
def dmaRequest (s : State) (n : Nat) (write : Bool) (a len : Nat) : State :=
  match dmaWants s n write a len with
  | none => s
  | some (off, bs) =>
    match dmaGate s n write a len with
    | .fails s1 => dmaFail s1 n write
    | .waits off => if off then waitDie s n a else s
    | .passes s1 =>
      acceptReq (s1.modDma n fun D => { D with cur := D.cur.map (dmaIssued write off len) })
        { MemReq.reset with
          cls := .dma, who := n, part := BitVec.ofNat 4 (dmaPart s n), write := write, addr := a, data := bs.map (·.1)
          len := len, poison := bs.any (·.2), off := off } (some (dmaPart s n))

/-- A stretch of memory that a DMA channel reads or writes as part of another command's row, one access for each
granule (R250, R253). -/
inductive Access where
  /-- an error response: what went before it stands -/
  | fails (s : State)
  /-- one of the accesses waits, for a die that is off where an address stands -/
  | waits (off : Option Nat)
  | done (s : State) (bs : List (Byte × Bool))

/-- Reads or writes a stretch through the controllers; `data` is what a write writes. The first argument bounds
the accesses. -/
def dmaAccess (n : Nat) (write : Bool) (age : Nat) : Nat → State → Nat → Nat → List Byte → List BurstIn → Access
  | 0, s, _, _, _, _ => .done s []
  | f + 1, s, a, len, bs, xs =>
    if len = 0 then .done s []
    else
      let k := min len (4608 - addrOff a % 4608)
      match dmaGate s n write a k with
      | .fails s1 => .fails s1
      | .waits off => .waits (if off then some a else none)
      | .passes s1 =>
        let q : MemReq := { MemReq.reset with
          cls := .dma, who := n, part := BitVec.ofNat 4 (dmaPart s n), write := write, addr := a
          data := bs.take k, len := k, age := age }
        match direct s1 q (some (dmaPart s n)) xs with
        | none => .waits none
        | some (s2, _, false) => .fails s2
        | some (s2, out, true) =>
          match dmaAccess n write age f s2 (a + k) (len - k) (bs.drop k) (xs.drop q.count) with
          | .done s3 rest => .done s3 (out ++ rest)
          | r => r

/-! ### Retirement (R270, R271) -/

/-- A port's areas or directory cover a channel. -/
def portCovers (s : State) (p c : Nat) : Bool :=
  (portRanges (s.port p)).any fun r => (areaChans r.1 r.2).contains c

/-- A port has stores to issue, or may have more. -/
def storing (s : State) (p : Nat) : Bool := (s.port p).trig.armed || !(s.port p).run.fifo.isEmpty

/-- The closed and the current run of a port that have data in a channel (R159, R271). -/
def hurtRuns (R : PortRun) (c : Nat) : PortRun :=
  let g : RunCfg := R.cfg
  let has := fun (n sHead sUnits rHead rUnits : Nat) =>
    stretchHas (g.sampBase n) g.samp sHead sUnits c || stretchHas (g.recBase n) g.recArea rHead rUnits c
  { R with
    closing := R.closing.map fun x =>
      if has x.seq.toNat x.sHead x.sUnits x.rHead x.rUnits || (areaChans (g.segBase x.seq.toNat) 72).contains c
      then { x with poisoned := true } else x
    hurt := match (R.exts.filter fun x =>
        has R.curSeq.toNat x.sOff (x.sEnd - x.sOff) x.rOff (x.rEnd - x.rOff)).getLast? with
      | some x => some x.beat
      | none => R.hurt }

/-- The marks that a retirement owes: every valid entry whose segment has data in the channel (R159). -/
def retireMarks (s : State) (c : Nat) : List (Nat × BitVec 36 × Option Nat) :=
  s.ports.flatMap fun x => ((entriesOn s x.1).filter fun e => entryHas s x.1 e c).map fun e =>
    (x.1, fbv e 72 36, some c)

/-- What the fencing of a channel does to a port of its die: runs that lose data are marked, and stores that
the channel covers are held (R159, R270, R271). -/
def fencePort (c : Nat) (s : State) (p : Nat) : State :=
  let covers := storing s p && portCovers s p c
  let s1 := s.modPort p fun P => { P with run := { hurtRuns P.run c with
    storesHeld := P.run.storesHeld || covers } }
  (((s1.port p).run.closing.filter (·.poisoned)).map (·.seq)).foldl (fun s n => poisonEntry s p n) s1

/-- A channel is fenced: its accepted stores are lost, its other requests wait, the affected ports' stores
are held, and the runs with data in it are to be marked (R271). -/
def fence (s : State) (c : Nat) (cause : Nat) (injected : Bool := false) : State :=
  let C := s.chan c
  let lost := C.queue.filter fun q => q.cls == .ingest
  let s1 := s.modChan c fun C => { C with
    st := .fenced, retireCause := some cause, reSweep := none, queue := []
    held := C.held ++ C.queue.filter fun q => q.cls != .ingest }
  let s2 := lost.foldl storeDone s1
  let s3 := forEach ((s.ports.map (·.1)).filter fun p => portDie p == chanDie c) (fencePort c) s2
  let s4 := s3.modHub fun H => { H with marks := H.marks ++ retireMarks s c }
  evFault s4 none (loc 4 c) 2 injected

/-! ### The resume (R271) -/

/-- Steps of a ring before and after the held stores are placed again. -/
abbrev StepMap : Type := List (Nat × Nat)

def stepTo (m : StepMap) (k : Nat) : Nat := ((m.find? fun x => x.1 == k).map (·.2)).getD k
/-- The step after a stretch whose last unit is `k - 1`. -/
def endTo (m : StepMap) (k : Nat) : Nat := if k = 0 then 0 else stepTo m (k - 1) + 1

/-- Places the held stores of one ring of one run again, stepping over retired granules: the stores, and the
map of their steps. The stores come in ring order; `k` is the next step free. -/
def replaceStores (s : State) : List Store → Option Nat → List Store × StepMap
  | [], _ => ([], [])
  | x :: xs, k =>
    let n := x.data.length / 9
    let from' := max x.step (k.getD x.step)
    match ringStores s x.base x.size from' (unitsOf x.data) x.ring x.kind x.run x.slot with
    | none =>
      let r := replaceStores s xs k
      (x :: r.1, r.2)
    | some (st, _, next) =>
      let steps := ((placeUnits s x.base x.size (n + x.size) from' n []).map (·.1)).getD []
      let r := replaceStores s xs (some next)
      (st ++ r.1, ((List.range n).map (x.step + ·)).zip steps ++ r.2)

/-- A closed run whose units were placed again. -/
def closingTo (ms mr : StepMap) (g : RunCfg) (x : Closing) : Closing :=
  let sHead := stepTo ms x.sHead
  let sUnits := endTo ms (x.sHead + x.sUnits) - sHead
  let rHead := stepTo mr x.rHead
  let rUnits := endTo mr (x.rHead + x.rUnits) - rHead
  if g.samp = 0 && g.recArea = 0 then x
  else { x with
    sHead := sHead, sUnits := if x.sUnits = 0 then 0 else sUnits
    rHead := rHead, rUnits := if x.rUnits = 0 then 0 else rUnits
    entry := put x.entry 144 36 (4 * ((if x.sUnits = 0 then 0 else sUnits) + if x.rUnits = 0 then 0 else rUnits)) }

/-- The segment header of a closed run (R138). -/
def segHeader (g : RunCfg) (x : Closing) : List Byte :=
  bytesOf 72 (pack [(36, x.seq.toNat), (32, if g.samp = 0 then 0 else x.sHead % g.samp), (32, x.sUnits),
    (32, if g.recArea = 0 then 0 else x.rHead % g.recArea), (32, x.rUnits)])

/-- The beats of the current run after their units were placed again. -/
def extTo (ms mr : StepMap) (x : BeatExt) : BeatExt :=
  { x with
    sOff := if x.sOff = x.sEnd then x.sOff else stepTo ms x.sOff
    sEnd := if x.sOff = x.sEnd then x.sEnd else endTo ms x.sEnd
    rOff := if x.rOff = x.rEnd then x.rOff else stepTo mr x.rOff
    rEnd := if x.rOff = x.rEnd then x.rEnd else endTo mr x.rEnd
    recs := x.recs.map fun r => (r.1, r.2.1, stepTo mr r.2.2) }

/-- The router steps over the retired channel's units for every store it holds (R271). Rings and runs are
taken one after another; the order of the FIFO stays. -/
def resumePort (s : State) (p : Nat) : State :=
  let R := (s.port p).run
  let g : RunCfg := R.cfg
  let keys := (R.fifo.filterMap fun x => if x.ring = 0 then none else some (x.ring, x.run)).eraseDups
  let plans := keys.map fun k =>
    (k, replaceStores s (R.fifo.filter fun x => x.ring == k.1 && x.run == k.2) none)
  let mapOf := fun (ring : Nat) (run : BitVec 36) =>
    ((plans.find? fun x => x.1 == (ring, run)).map (·.2.2)).getD []
  let close := R.closing.map fun x => closingTo (mapOf 1 x.seq) (mapOf 2 x.seq) g x
  let ms := mapOf 1 R.curSeq
  let mr := mapOf 2 R.curSeq
  let piece := fun (x : Store) =>
    if x.ring = 0 then
      [if x.kind = 2 then { x with data := ((close.find? fun y => y.seq == x.run).map (segHeader g)).getD x.data }
        else x]
    else ((plans.find? fun y => y.1 == (x.ring, x.run)).map fun y => y.2.1.filter fun z =>
      z.slot == x.slot && decide (stepTo y.2.2 x.step ≤ z.step) &&
        decide (z.step < endTo y.2.2 (x.step + x.data.length / 9))).getD [x]
  s.modPort p fun P => { P with run := { P.run with
    fifo := R.fifo.flatMap piece
    closing := close
    sWr := endTo ms R.sWr
    rWr := endTo mr R.rWr
    exts := R.exts.map (extTo ms mr) } }

/-- The channel takes part in service again unless something keeps it in IN_ORDER (R258, R260). -/
def toService (s : State) (c : Nat) : State :=
  let C := s.chan c
  if C.st == .inOrder && !C.wiping && C.testing.isNone && C.reSweep.isNone &&
      !((s.region (chanRegion c)).recover && !isLodge c) then
    s.modChan c fun C => { C with st := .service }
  else s

/-- The routers resume and the channel is RETIRED: requests that waited complete, the held stores step over
it, and the region's other channels go through IN_ORDER (R271). -/
def retired (s : State) (c : Nat) : State :=
  let r := chanRegion c
  let waiting := (s.chan c).held
  let s1 := s.modChan c fun C => { C with st := .retired, held := [], queue := [] }
  let s2 := waiting.foldl reqRetired s1
  let ps := (s.ports.map (·.1)).filter fun p => portDie p == chanDie c && (s.port p).run.storesHeld
  let s3 := forEach ps (fun s p =>
    let more := captureChans.any fun k => (s.chan k).st == .fenced && portCovers s p k
    (resumePort s p).modPort p fun P => { P with run := { P.run with storesHeld := more } }) s2
  let s4 := s3.modRegion r fun R => { R with recover := true, recoverFrom := s.time.slotCount }
  forEach (regionChans r) (fun s k =>
    if (s.chan k).st == .service then s.modChan k fun C => { C with st := .inOrder } else s) s4

/-- Every request gets one beat older (R253, R254). -/
def ageReqs (s : State) : State :=
  { s with chans := s.chans.map fun x => (x.1, { x.2 with
      queue := x.2.queue.map fun q => { q with age := q.age + 1 }
      held := x.2.held.map fun q => { q with age := q.age + 1 } }) }

end Sys2Proof.Machine
end

