-- ==== Sys2Proof/Machine/Clock.lean ====
section
/-! DEFINITION. What passes while no command waits: one beat. -/
namespace Sys2Proof.Machine

/-- One beat passes: slot_count advances by 64 once it counts (R70, R73), the requests at the DRAM controllers
get older (R254), and beats spent coasting are counted (R402; log entry 5). -/
def idle (s : State) : State :=
  let s0 := ageReqs s
  let s1 := if s0.time.coast then { s0 with clk := { s0.clk with coastBeats := satInc s0.clk.coastBeats } } else s0
  if s1.time.counting then { s1 with time := { s1.time with slotCount := s1.time.slotCount + 64 } } else s1

end Sys2Proof.Machine
end

