-- ==== Sys2Proof/Machine/Device.lean ====
section
/-! DEFINITION. The commands of family 0x01, and LOG_READ, LOG_INFO and DIAG_LEDGER (R300, R301, R438,
R439, R455 to R457). -/
namespace Sys2Proof.Machine

/-- The device information block (R301). -/
def deviceInfo (s : State) (k : Nat) : Nat :=
  pack [(16, 0x7128), (8, Config.revision.toNat), (8, 0), (32, (runningFw s).version.toNat),
    (1, s.sec.fwSlot), (3, lifecycle s), (1, b2n s.sec.approved), (3, 0), (12, fld s.vach.cfg 0 12), (4, k)]

def cmdDevInfo : Cmd := { opcode := 0x0101 }

/-- DEV_INFO (R301). -/
def execDevInfo (p : Packet) (s : State) : Host.Outcome State Fault Refusal :=
  Cmd.run cmdDevInfo p s [] [] fun s => (s, .result (deviceInfo s p.part))

def cmdDevStatus : Cmd := { opcode := 0x0102, buffer := true }

/-- seen becomes fault_seq (R455); the recovery service changes no state (R440). -/
def seenFaults (s : State) : State :=
  if s.boot.recovery then s else s.modFaults fun F => { F with seen := F.faultSeq }

/-- DEV_STATUS: the fault summary (R455). -/
def execDevStatus (p : Packet) (s : State) : Host.Outcome State Fault Refusal :=
  Cmd.run cmdDevStatus p s [] [] fun s =>
    let s1 := seenFaults s
    (s1, .bytes (bytesOf 64 (faultSummary s1)))

def cmdDevReset : Cmd := { opcode := 0x0103, mgmt := true, auth := true }

/-- DEV_RESET: a package reset begins 1 ms after the reply (R300). -/
def execDevReset (p : Packet) (s : State) : Host.Outcome State Fault Refusal :=
  Cmd.run cmdDevReset p s [] [] fun s =>
    (s.modHub fun H => { H with resetDue := some 4 }, .ok)

def cmdDevEcho : Cmd := { opcode := 0x0104, buffer := true }

/-- DEV_ECHO: returns the data unchanged (R300). -/
def execDevEcho (p : Packet) (s : State) : Host.Outcome State Fault Refusal :=
  let n := p.inb 4 2
  Cmd.run cmdDevEcho p s
    [need (n ≤ 4032) (badParam noLoc 20), need (n ≤ p.data.length) (badParam noLoc (p.dataOff true + p.data.length))]
    [] fun s => (s, .bytes (slice p.data 0 n))

/-- seq of the oldest entry that the log holds; next_seq where it holds none (R457). -/
def oldestLogged (s : State) : Nat :=
  match s.faults.log with
  | e :: _ => fld e.bits 0 64
  | [] => s.faults.logSeq.toNat

def cmdLogRead : Cmd := { opcode := 0x1001, mgmt := true, buffer := true }

/-- Entries of the log are marked as read, so that their overwriting counts in no log_overflow (R456); the
recovery service changes no state (R440). -/
def markRead (es : List LogEnt) (s : State) : State :=
  if s.boot.recovery then s
  else s.modFaults fun F => { F with
    log := F.log.map fun e => { e with read := e.read || es.any (·.bits == e.bits) } }

/-- LOG_READ: the entries that it returns are marked (R456, R457). -/
def execLogRead (p : Packet) (s : State) : Host.Outcome State Fault Refusal :=
  let first := p.inb 4 8
  let n := p.inb 12 4
  Cmd.run cmdLogRead p s
    [need (1 ≤ n && n ≤ 1024) (badParam noLoc 28)] []
    fun s =>
      let es := (s.faults.log.filter fun e => first ≤ fld e.bits 0 64).take n
      (markRead es s,
        .done 0 0 (oldestLogged s) (es.flatMap fun e => bytesOf 64 e.bits.toNat))

def cmdLogInfo : Cmd := { opcode := 0x1002 }

/-- LOG_INFO (R457). -/
def execLogInfo (p : Packet) (s : State) : Host.Outcome State Fault Refusal :=
  Cmd.run cmdLogInfo p s [] [] fun s =>
    (s, .result (pack [(64, s.faults.logSeq.toNat), (32, s.faults.log.length), (32, s.faults.logOver.toNat)]))

/-- EV_LOG: new entries are reported, at most once per ms (R456). -/
def execEvLog (s : State) : Host.Outcome State Fault Refusal :=
  if s.faults.logNew = 0 then .next s
  else ok (evM (s.modFaults fun F => { F with logNew := 0 }) 0x800C s.faults.logNew 0)

/-! ### The boot ledger -/

/-- The first 16 bytes of the ledger header (R438). -/
def ledgerHead (s : State) : BitVec 128 :=
  let B := s.boot
  BitVec.ofNat 128 (pack [(32, B.count.toNat), (4, B.cause.toNat), (4, B.lastStep.toNat), (1, s.sec.fwSlot),
    (1, b2n (s.sec.slots.get Fw.reset 0).bad), (1, b2n (s.sec.slots.get Fw.reset 1).bad), (1, b2n s.sec.staged),
    (1, b2n B.recovery), (19, 0), (32, B.bootMs.toNat)])

def stepRecords (s : State) : List (BitVec 128) := (List.range 11).map (s.boot.steps.get 0)

def bytes16 (x : BitVec 128) : List Byte := bytesOf 16 x.toNat

def padTo (n : Nat) (bs : List Byte) : List Byte := slice bs 0 n

/-- A stack record (R438). -/
def stackRecord (r : StackRec) : List Byte :=
  bytesOf 16 (pack [(2, r.strike.toNat), (1, b2n r.lgValid), (5, 0), (8, r.minEye.toNat), (16, 0),
    (32, r.lgBoot.toNat), (32, r.fails.toNat)])

/-- A port record (R438). -/
def ledgerPort (P : Port) : List Byte :=
  bytesOf 16 (pack [(1, b2n P.ledQuar), (3, 0), (4, P.ledFail.toNat), (24, 0), (32, P.ledBoot.toNat),
    (32, P.ledFails.toNat)])

/-- The boot-ledger view of 16 KiB (R438). -/
def ledgerView (s : State) : List Byte :=
  padTo 0x100 (padTo 0x40 (bytes16 (ledgerHead s)) ++ (stepRecords s).flatMap bytes16) ++
  padTo 0x100 ((List.range 8).flatMap fun k => stackRecord (s.boot.stackRecs.get StackRec.reset k)) ++
  padTo 0xE00 (allPorts.flatMap fun p => ledgerPort (s.port p)) ++
  padTo 0x3000 (s.boot.history.flatMap fun h => padTo 256 (bytes16 h.1 ++ h.2.flatMap bytes16))

def cmdLedger : Cmd :=
  { opcode := 0x1003, mgmt := true, buffer := true, freeTarget := true, sub := true }

/-- DIAG_LEDGER sub 0 (R438). A sub of no row takes this row. -/
def execDiagLedgerRead (p : Packet) (s : State) : Host.Outcome State Fault Refusal :=
  if p.subv = 1 || p.subv = 2 then .next s else
  Cmd.run cmdLedger p s [need (p.target = 0) (badParam noLoc 16), need (p.subv = 0) (badParam noLoc 18)] []
    fun s => (s, .bytes (ledgerView s))

/-- DIAG_LEDGER sub 1: the stack's strike clears from the next boot (R439). -/
def execDiagLedgerClearStrike (p : Packet) (s : State) : Host.Outcome State Fault Refusal :=
  if p.subv ≠ 1 then .next s else
  Cmd.run cmdLedger p s [need (locOk p.target && p.target / 0x1000 = 0xB) (badParam noLoc 16)] []
    fun s => (s.modBoot fun B => { B with
      stackRecs := B.stackRecs.mod StackRec.reset p.idx fun r => { r with clear := true } }, .ok)

/-- DIAG_LEDGER sub 2: the slot's bad mark clears from the next boot (R439). -/
def execDiagLedgerClearSlot (p : Packet) (s : State) : Host.Outcome State Fault Refusal :=
  if p.subv ≠ 2 then .next s else
  Cmd.run cmdLedger p s
    [need (p.target = 0) (badParam noLoc 16), need (p.inb 4 1 ≤ 1) (badParam noLoc 20)] []
    fun s => (s.modBoot fun B => { B with clearSlot := B.clearSlot ++ [p.inb 4 1] }, .ok)

end Sys2Proof.Machine
end

