-- ==== Sys2Proof/Machine/Flags.lean ====
section
/-! DEFINITION. The arithmetic of the X slot and its flags (R210, R212, R213). -/
namespace Sys2Proof.Machine

/-! ### Modes -/

def modeSat (m : BitVec 18) : Bool := bit m 0
def modeRnd (m : BitVec 18) : Nat := fld m 1 2
def modeFrac (m : BitVec 18) : Bool := bit m 3
def modeDz (m : BitVec 18) : Bool := bit m 4
def modeOv (m : BitVec 18) : Bool := bit m 5

/-! ### fit and scale (R212) -/

/-- fit(v, n): the value and whether it overflowed. -/
def fit (m : BitVec 18) (n : Nat) (v : Int) : Int × Bool :=
  let lo : Int := -2 ^ (n - 1)
  let hi : Int := 2 ^ (n - 1) - 1
  if lo ≤ v ∧ v ≤ hi then (v, false)
  else if modeSat m then (if v > 0 then hi else lo, true)
  else ((v - lo) % 2 ^ n + lo, true)

/-- scale(v, k): v / 2^k under the rounding mode. -/
def scale (m : BitVec 18) (v : Int) (k : Nat) : Int :=
  let q := v.fdiv (2 ^ k)
  let r := v.fmod (2 ^ k)
  let half : Int := 2 ^ k
  match modeRnd m with
  | 1 => if 2 * r > half ∨ (2 * r = half ∧ v > 0) then q + 1 else q
  | 2 => if 2 * r > half ∨ (2 * r = half ∧ q % 2 = 1) then q + 1 else q
  | _ => q

/-! ### Flags (R210) -/

/-- What an X slot does to the flags. -/
structure FlagSet where
  z : Option Bool := none
  n : Option Bool := none
  c : Option Bool := none
  v : Option Bool := none
  dz : Bool := false
  av : Bool := false

/-- Writes a bit where a value is given. -/
def setBit (f : BitVec 18) (i : Nat) : Option Bool → BitVec 18
  | none => f
  | some b => put f i 1 (b2n b)

/-- FLAGS after an X slot: V also sets SV. -/
def FlagSet.apply (x : FlagSet) (f : BitVec 18) : BitVec 18 :=
  let f1 := setBit (setBit (setBit (setBit f 0 x.z) 1 x.n) 2 x.c) 3 x.v
  let f2 := if x.v == some true then put f1 4 1 1 else f1
  let f3 := if x.dz then put f2 5 1 1 else f2
  if x.av then put f3 6 1 1 else f3

/-- Z and N of a result. -/
def znOf (v : Int) : FlagSet := { z := some (decide (v = 0)), n := some (decide (v < 0)) }

/-! ### The X slot -/

/-- What an X slot computes: a g register, an accumulator, the flags, whether a fit overflowed and whether it
divided by zero. -/
structure XOut where
  g : Option (Nat × BitVec 18) := none
  acc : Option (Nat × BitVec 48) := none
  fs : FlagSet := {}
  ov : Bool := false
  dz : Bool := false

/-- A g result of `fit`, with Z, N and V. -/
def fitG (m : BitVec 18) (d : Nat) (v : Int) : XOut :=
  let (x, ov) := fit m 18 v
  { g := some (d, BitVec.ofInt 18 x), fs := { znOf x with v := some ov }, ov := ov }

/-- A g result of a bitwise operation, with Z and N. -/
def bitG (d : Nat) (v : BitVec 18) : XOut := { g := some (d, v), fs := znOf v.toInt }

/-- A count: Z alone. -/
def countG (d v : Nat) : XOut := { g := some (d, BitVec.ofNat 18 v), fs := { z := some (decide (v = 0)) } }

/-- An accumulator result of `fit`, with Z, N, V and AV. -/
def fitA (m : BitVec 18) (d : Nat) (v : Int) : XOut :=
  let (x, ov) := fit m 48 v
  { acc := some (d, BitVec.ofInt 48 x), fs := { znOf x with v := some ov, av := ov }, ov := ov }

/-- A shift: it never sets V, and an amount of 18 or more leaves V = 0 (R213; log entry 904). -/
def shiftG (d k : Nat) (v : BitVec 18) : XOut :=
  { g := some (d, v), fs := { znOf v.toInt with v := if k < 18 then none else some false } }

/-- Left, arithmetic right and logical right shifts by 0 to 63. -/
def shiftBy (kind : Nat) (x : BitVec 18) (k : Nat) : BitVec 18 :=
  match kind with
  | 0 => x <<< k
  | 1 => BitVec.ofInt 18 (x.toInt.fdiv (2 ^ k))
  | _ => x >>> k

/-- Comparison (CMP, CMPI). -/
def compareX (a b : BitVec 18) : XOut :=
  { fs := { z := some (a == b), n := some (decide (a.toInt < b.toInt)), c := some (decide (a.toNat < b.toNat))
            v := some false } }

/-- Redundant sign bits: 17 for 0 and 777777o. -/
def normOf (x : BitVec 18) : Nat :=
  ((List.range 17).takeWhile fun i => bit x (16 - i) == bit x 17).length

/-- Index of the lowest 1 bit; 18 for 0. -/
def ffsOf (x : BitVec 18) : Nat := ((List.range 18).takeWhile fun i => !bit x i).length

/-- DIV (R213). -/
def divX (m : BitVec 18) (d : Nat) (a b : Int) : XOut :=
  if b = 0 then
    let v : Int := if 0 ≤ a then 2 ^ 17 - 1 else -2 ^ 17
    { g := some (d, BitVec.ofInt 18 v), fs := { znOf v with v := some false, dz := true }, dz := true }
  else fitG m d (a.tdiv b)

/-- REM (R213). -/
def remX (d : Nat) (a b : Int) : XOut :=
  if b = 0 then { g := some (d, BitVec.ofInt 18 a), fs := { znOf a with dz := true }, dz := true }
  else
    let v := a.tmod b
    { g := some (d, BitVec.ofInt 18 v), fs := znOf v }

/-- The X slot of a bundle over the registers as they stood before it, under a mode. -/
def xEval (E : Engine) (m : BitVec 18) (w : BitVec 36) : XOut :=
  let d := xd w
  let a := E.gr (xa w)
  let b := E.gr (xb w)
  let imm := fbv w 0 18
  let k := (fld b 0 6)
  let ki := fld w 0 6
  let acc := (E.ac d).toInt
  let acca := (E.ac (xa w)).toInt
  let prod := a.toInt * b.toInt * if modeFrac m then 2 else 1
  match opOf w with
  | 0x01 => fitG m d (a.toInt + b.toInt)
  | 0x02 => fitG m d (a.toInt - b.toInt)
  | 0x03 => fitG m d (a.toInt + imm.toInt)
  | 0x04 => fitG m d (-a.toInt)
  | 0x05 => fitG m d a.toInt.natAbs
  | 0x06 => bitG d (a &&& b)
  | 0x07 => bitG d (a ||| b)
  | 0x08 => bitG d (a ^^^ b)
  | 0x09 => bitG d (a &&& imm)
  | 0x0A => { g := some (d, imm) }
  | 0x0B => { g := some (d, a) }
  | 0x0C => bitG d (if a.toInt < b.toInt then a else b)
  | 0x0D => bitG d (if a.toInt < b.toInt then b else a)
  | 0x0E => shiftG d k (shiftBy 0 a k)
  | 0x0F => shiftG d k (shiftBy 1 a k)
  | 0x10 => shiftG d k (shiftBy 2 a k)
  | 0x11 => shiftG d ki (shiftBy (fld w 6 2) a ki)
  | 0x12 => compareX a b
  | 0x13 => compareX a imm
  | 0x14 => fitG m d (scale m (a.toInt * b.toInt) 17)
  | 0x15 => divX m d a.toInt b.toInt
  | 0x16 => remX d a.toInt b.toInt
  | 0x17 => countG d (popCount a)
  | 0x18 => countG d (normOf a)
  | 0x19 => countG d (ffsOf a)
  | 0x20 => fitA m d (acc + prod)
  | 0x21 => fitA m d (acc - prod)
  | 0x22 => { acc := some (d, BitVec.ofInt 48 prod), fs := znOf prod }
  | 0x23 => { acc := some (d, 0) }
  | 0x24 => fitA m d (a.toInt * 2 ^ ki)
  | 0x25 => fitA m d (acc + acca)
  | 0x26 =>
    let v := acca.fdiv (2 ^ ki)
    { acc := some (d, BitVec.ofInt 48 v), fs := znOf v }
  | 0x27 => fitG m d (scale m acca ki)
  | _ => {}

/-- The exception that the arithmetic of an X slot raises (R212, R213): 6 DZ, 7 OV. -/
def XOut.cause (x : XOut) (m : BitVec 18) : Option Nat :=
  if x.dz && modeDz m then some 6
  else if x.ov && !modeSat m && modeOv m then some 7 else none

/-- The results of an X slot. -/
def XOut.write (x : XOut) (E : Engine) : Engine :=
  let E1 := match x.g with
    | some (i, v) => E.setG i v
    | none => E
  let E2 := match x.acc with
    | some (i, v) => { E1 with a := E1.a.set i v }
    | none => E1
  { E2 with flags := x.fs.apply E2.flags }

end Sys2Proof.Machine
end

