-- ==== Sys2Proof/Machine/Slalom.lean ====
section
/-! DEFINITION. The commands of family 0x05, and the events of the sequencers and of TRIG_IN (R106 to R131,
R300). -/
namespace Sys2Proof.Machine

def cmdSlalomSet : Cmd := { opcode := 0x0501, cls := some 0, data := 1344 }

/-- SLALOM_SET (R106, R110). -/
def execSlalomSet (p : Packet) (s : State) : Host.Outcome State Fault Refusal :=
  let t : Slalom := p.blk 10752
  Cmd.run cmdSlalomSet p s
    [need (slalomOk t) (badParam noLoc (p.dataOff false))] [needIdle s p.idx]
    fun s => (s.modPort p.idx fun P => { P with trig := { P.trig with table := t } }, .ok)

def cmdSlalomGet : Cmd := { opcode := 0x0502, cls := some 0, sub := true, buffer := true }

/-- The beat at whose slot 0 the values of a port's slalom stand (R125). -/
def slalomBeatOf (s : State) (p : Nat) : Slot :=
  let P := s.port p
  if P.decides then P.pos else s.time.slotCount

/-- SLALOM_GET: the table, or the status block with the timemark of its beat (R125). -/
def execSlalomGet (p : Packet) (s : State) : Host.Outcome State Fault Refusal :=
  Cmd.run cmdSlalomGet p s
    [need (decide (p.subv ≤ 1)) (badParam noLoc 18)] []
    fun s =>
      let P := s.port p.idx
      (s, if p.subv = 0 then .bytes (bytesOf 1344 P.trig.table.toNat)
        else .done 0 0 (s.tmOf (slalomBeatOf s p.idx)).toNat (bytesOf 64 (slalomStatus P)))

def cmdSlalomTune : Cmd := { opcode := 0x0503, cls := some 0, data := 36 }

/-- SLALOM_TUNE (R126). -/
def execSlalomTune (p : Packet) (s : State) : Host.Outcome State Fault Refusal :=
  Cmd.run cmdSlalomTune p s [] [needArmed s p.idx]
    fun s =>
      let (s1, at') := queueTune s p.idx none (p.dat 0 36)
      (s1, .result (s1.tmOf at').toNat)

/-! ### Sequencers -/

/-- The reserved fields and codes of a sequencer's table (R129). -/
def pcsOk (t : BitVec 3072) : Bool :=
  ((List.range 16).all fun i => selOk (fld t (16 * i) 16) 5)
  && zeros t [(355, 4), (360, 152)]
  && ((List.range 8).all fun x =>
    let base := 8 * (64 + 40 * x)
    zeros t [(base + 6, 2), (base + 14, 2), (base + 16, 48)]
    && fld t (base + 4) 2 != 3 && fld t (base + 12) 2 != 3
    && (List.range 4).all fun b =>
      let o := base + 64 + 64 * b
      zeros t [(o + 41, 3), (o + 48, 16)]
      && (List.range 4).all fun n => decide (fld t (o + 5 * n) 5 < 0x12) || fld t (o + 5 * n) 5 == 0x1F)

/-- Every input that the table names belongs to the partition, or is open to all (R128; log entry 501). -/
def pcsOwned (s : State) (k : BitVec 4) (t : BitVec 3072) : Bool :=
  (List.range 16).all fun i =>
    let x := fld t (16 * i) 16
    match selCls x with
    | 1 => s.portOwner (selIdx x) == some k
    | 2 => s.pcsOwner (selIdx x) == some k
    | 5 => s.lineOwner (selIdx x) == some k
    | _ => true

def cmdSlalomPcsSet : Cmd := { opcode := 0x0504, cls := some 0xA, sub := true, data := 384 }

/-- SLALOM_PCS_SET: a new table; an enabled sequencer starts at the next beat (R128 to R130). -/
def execSlalomPcsSet (p : Packet) (s : State) : Host.Outcome State Fault Refusal :=
  let t : BitVec 3072 := p.blk 3072
  Cmd.run cmdSlalomPcsSet p s
    [need (decide (p.subv < 16)) (badParam noLoc 18), need (pcsOk t) (badParam noLoc (p.dataOff false))]
    [need (s.pcsOwner p.subv == some p.fn && pcsOwned s p.fn t) (denied 2),
     need (!((s.seqr p.subv).en && bit t 359)) (stState locPackage 0)]
    fun s => (s.modSeqr p.subv fun _ => { Pcs.reset with
      table := t, st := fbv t 352 3, beat := s.time.slotCount + 64 }, .ok)

def cmdSlalomPcsGet : Cmd := { opcode := 0x0505, cls := some 0xA, sub := true, buffer := true }

/-- SLALOM_PCS_GET. -/
def execSlalomPcsGet (p : Packet) (s : State) : Host.Outcome State Fault Refusal :=
  Cmd.run cmdSlalomPcsGet p s
    [need (decide (p.subv < 16)) (badParam noLoc 18)]
    [need (s.pcsOwner p.subv == some p.fn) (denied 2)]
    fun s => (s, .bytes (bytesOf 384 (s.seqr p.subv).table.toNat))

/-- Every input of an originating beat has reached a sequencer (R130, R242): A = 50 beats have passed, and the
ports and sequencers that it names have decided what they fire in that beat. -/
def pcsReady (s : State) (q : Pcs) (beat : Slot) : Bool :=
  notAfter (beat + beats 50) s.time.slotCount && (List.range 16).all fun i =>
    let x := q.sel i
    match selCls x with
    | 1 => !(s.port (selIdx x)).decides || !notAfter (s.port (selIdx x)).pos beat
    | 2 => !(s.seqr (selIdx x)).en || !notAfter ((s.seqr (selIdx x)).beat + beats 50) beat
    | _ => true

/-- PCS_STEP: an enabled sequencer steps the originating beat that is its turn (R130, R131). -/
def execPcsStep (n : BitVec 4) (beat : BitVec 64) (s : State) : Host.Outcome State Fault Refusal :=
  let q := s.seqr n.toNat
  if q.en && q.beat == beat && pcsReady s q beat then
    let (q1, fire) := pcsStep q beat
    let s1 := s.modSeqr n.toNat fun _ => q1
    ok (match fire with
      | some j => seqrFires s1 n.toNat (beat + BitVec.ofNat 64 j)
      | none => s1)
  else .next s

/-- TRIG_IN_EDGE: an edge is timemarked and delivered as a remote source (R99, R129, R244). -/
def execTrigInEdge (input : Bool) (rising : Bool) (tm : BitVec 72) (s : State) :
    Host.Outcome State Fault Refusal :=
  ok (edgeFires s (b2n input) rising (fbv tm 8 64))

end Sys2Proof.Machine
end

