-- ==== Sys2Proof/Machine/EngOps.lean ====
section
/-! DEFINITION. The issue of a bundle by a measurement engine: exceptions, waits, the Y slot, events, tunes,
hardware loops, delay bundles and the mode shadow (R207 to R227). -/
namespace Sys2Proof.Machine

/-- The partition of an engine. -/
def State.engOwner (s : State) (e : Nat) : Option (BitVec 4) := s.pairOwner (engCluster e)

/-- The DCLK cycles stalled up to a slot, those of the wait in progress among them (R230). -/
def Engine.stallsAt (E : Engine) (now : Slot) : BitVec 48 :=
  if E.stall.isSome && notAfter E.stallFrom now then satInc E.stalls (slotsTo E.stallFrom now / 64) else E.stalls

/-- Entry to HALTED, reported by EV_ENGINE (R229, R288). -/
def haltEng (s : State) (e ecause : Nat) : State :=
  let s1 := s.modEng e fun E => { E with
    st := .halted, branch := none, stalls := E.stallsAt s.time.slotCount, stall := none }
  match s.engOwner e with
  | some k => evPart s1 k.toNat 0x8005 (loc 2 e + 2 ^ 16 * ecause + 2 ^ 21 * 4) (s1.eng e).pc.toNat
  | none => s1

/-! ### Exceptions (R225, R226) -/

/-- A cause that a bundle raises: code, Y slot, address of an ADDR exception. -/
structure Cause where
  code : Nat
  inY : Bool
  addr : Nat := 0

/-- Of several causes the lowest code (R225). -/
def lowest : List Cause → Option Cause
  | [] => none
  | c :: cs => match lowest cs with
    | some d => if d.code < c.code then some d else some c
    | none => some c

/-- The registers that entry to an exception saves (R226), for a bundle `epc` to return to. The pending MODE
value is a free value while none is pending (log entry 3). -/
def saveExc (E : Engine) (c : Cause) (epc : BitVec 13) (free : Nat) : Engine :=
  let dly := E.branch.isSome
  let tk := match E.branch with
    | some (_, t) => t
    | none => false
  { E with
    epc := epc.setWidth 18
    ecause := BitVec.ofNat 18 (pack [(5, c.code), (1, b2n c.inY), (2, c.addr / 2 ^ 18)])
    eaddr := if c.code = 4 then BitVec.ofNat 18 c.addr else E.eaddr
    estat := BitVec.ofNat 18 (pack [(2, E.shadow), (1, b2n dly), (1, b2n tk)])
    etgt := match E.branch with
      | some (t, _) => t.setWidth 18
      | none => E.etgt
    emode := E.mode
    epend := match E.modePend with
      | some v => v
      | none => BitVec.ofNat 18 free
    statCause := BitVec.ofNat 5 c.code }

/-- Entry to an exception (R226). -/
def takeExc (s : State) (e : Nat) (c : Cause) (epc : BitVec 13) : State :=
  let E := s.eng e
  if E.inHandler then haltEng (s.setEng e { E with statCause := 0x1F }) e 0x1F
  else
    let (v, s0) := s.fresh
    let E1 := saveExc E c epc v
    let E2 : Engine := { E1 with
      inHandler := true, mode := 0, modePend := none, shadow := 0, branch := none, stall := none
      lastIssue := some s.time.slotCount, busyTo := dclks s.time.slotCount 3 }
    if E.tvecEn then s0.setEng e { E2 with st := .handler, pc := BitVec.ofNat 13 E.tvec }
    else haltEng (s0.setEng e E2) e c.code

/-! ### What stands against a bundle (R206, R207, R210, R211, R215 to R217, R221, R225) -/

/-- Bundle b lies in the last two bundles of the body of an active loop (R217). -/
def loopTail (E : Engine) (b : Nat) : Bool :=
  (List.range 2).any fun n =>
    let stop := (E.le.getD n 0).toNat
    E.lc.getD n 0 != 0 && decide ((E.ls.getD n 0).toNat ≤ b) && (b == stop || b + 1 == stop)

/-- LOOP and LOOPI set a loop that R217 allows. -/
def loopOk (E : Engine) (n stop : Nat) : Bool :=
  let b := E.pc.toNat
  decide (b + 1 ≤ stop)
  && (n == 1 || E.lc.getD 1 0 == 0)
  && (n == 0 || E.lc.getD 0 0 == 0 ||
      (decide ((E.ls.getD 0 0).toNat ≤ b + 1) && decide (stop ≤ (E.le.getD 0 0).toNat)))

/-- ADDR of a memory operand (R207). -/
def addrCause (E : Engine) (w : BitVec 36) : List Cause :=
  let a := engAddr E w
  let o := opOf w
  let quad := o == 3 || o == 4
  if (isLocal a || isShared a) && !(quad && a % 4 != 0) && !(o == 5 && isLocal a) then []
  else [⟨4, true, a⟩]

/-- The causes of the Y slot, besides a reserved encoding. -/
def yCauses (E : Engine) (e : Nat) (w : BitVec 36) : List Cause :=
  let b := E.pc.toNat
  let y := fun (code : Nat) (bad : Bool) => if bad then [(⟨code, true, 0⟩ : Cause)] else []
  let dly := E.branch.isSome
  match opOf w with
  | 0x01 | 0x02 | 0x03 | 0x04 | 0x05 => addrCause E w
  | 0x0A | 0x0B | 0x0C => y 2 (dly || loopTail E b)
  | 0x0D => y 2 (dly || E.inHandler || !loopOk E (ys w) (ydest w))
  | 0x0E => y 2 (dly || E.inHandler || !loopOk E (yr w) (ydest w))
  | 0x0F | 0x10 => y 5 (E.bindSrc (ys w) == 0)
  | 0x11 | 0x12 => y 5 (E.outWords == 0)
  | 0x15 =>
    let a := (E.pr (yp w)).toNat
    if a % 4 = 0 ∧ a + 24 ≤ 0x8000 then [] else [⟨4, true, a⟩]
  | 0x19 => match ctlWriteCause E (yimm w) (E.gr (yr w)) with
    | some c => [⟨c, true, 0⟩]
    | none => []
  | 0x1A => y 1 (ctlRead E e (yimm w)).isNone
  | 0x1B => y 2 (dly || loopTail E b) ++ [⟨8, true, 0⟩]
  | 0x1C => y 2 (dly || !E.inHandler)
  | _ => []

/-- Every cause that a bundle raises under the mode in effect. -/
def bundleCauses (E : Engine) (e : Nat) (x y : BitVec 36) : List Cause :=
  if !xOk x || !yOk y || slotsConflict x y then
    [⟨1, xOk x && !slotsConflict x y, 0⟩]
  else
    (match (xEval E E.mode x).cause E.mode with
      | some c => [⟨c, false, 0⟩]
      | none => []) ++ yCauses E e y

/-! ### Waits (R209, R219 to R221, R224) -/

/-- Words that an input holds. -/
def Stream.words (t : Stream) : Nat := (t.fifo.map (·.words.length)).foldl (· + ·) 0

/-- Words of an OUT or OUTQ. -/
def outCount (w : BitVec 36) : Nat := if opOf w = 0x12 then 4 else 1

/-- Target of a TUNE: gate (32 for the slalom) and port. -/
def tuneTarget (E : Engine) (e : Nat) (w : BitVec 36) : Nat × Nat :=
  let t := E.gr (yr w)
  (fld t 0 6, 2 * engCluster e + fld t 6 1)

/-- The engines of a cluster, besides one, whose bundle waits with a Y slot of a kind. -/
def waiting (s : State) (e : Nat) (kind : BitVec 36 → Bool) : List Nat :=
  (clusterEngines (engCluster e)).filter fun f => f != e && (s.eng f).runs &&
    match (s.eng f).stall with
    | some b => kind (ySlot b)
    | none => false

/-- The place of a physical index in the tune port's round robin (R224). -/
def tuneRank (C : Cluster) (phys : Nat) : Nat := (phys + 511 - C.tuneLast) % 512

/-- The tune port does not take the engine's tune (R103, R224): it has taken one in this DCLK, another engine that
waits comes before it, or the front end is fenced. -/
def tuneWaits (s : State) (e : Nat) (w : BitVec 36) : Bool :=
  let C := s.cluster (engCluster e)
  let fenced := fun f y => (s.port (tuneTarget (s.eng f) f y).2).trig.fenced.isSome
  let rank := fun f => tuneRank C (physOf (s.eng f) f)
  fenced e w || C.tuneBeat == some (beatSlot s.time.slotCount)
  || (waiting s e fun y => opOf y == 0x15).any fun f => decide (rank f < rank e) &&
    match (s.eng f).stall with
    | some b => !fenced f (ySlot b)
    | none => false

/-- SWAIT does not proceed (R209): the counter is 0, or engines of lower physical index wait for all that it
has. -/
def syncWaits (s : State) (e n : Nat) : Bool :=
  let before := (waiting s e fun y => opOf y == 0x17 && fld y 0 4 == n).filter fun f =>
    decide (physOf (s.eng f) f < physOf (s.eng e) e)
  decide (((s.cluster (engCluster e)).sync.get 0 n).toNat ≤ before.length)

/-- The Y slot of a bundle waits. -/
def yWaits (s : State) (e : Nat) (w : BitVec 36) : Bool :=
  let E := s.eng e
  match opOf w with
  | 0x0F => (E.stream (ys w)).words == 0
  | 0x10 => decide ((E.stream (ys w)).words < 4)
  | 0x11 | 0x12 => decide (E.outWords < (E.outWr - E.outRd).toNat + outCount w)
  | 0x15 => tuneWaits s e w
  | 0x17 => syncWaits s e (fld w 0 4)
  | _ => false

/-- The bundle waits as a whole, on an interlock or for its Y slot (R214). -/
def bundleWaits (s : State) (e : Nat) (x y : BitVec 36) : Bool :=
  interlocked (s.eng e) s.time.slotCount x y || yWaits s e y

/-! ### Streams and the ring -/

/-- Takes one word of an input: the word, whether it is the first of its element, whether that element is
across a loss, and the input after it (R218, R219). -/
def Stream.take (t : Stream) : BitVec 18 × Bool × Bool × Stream :=
  match t.fifo with
  | [] => (0, false, false, t)
  | el :: els =>
    let rest := el.words.drop 1
    (el.words.headD 0, el.whole, el.whole && el.loss,
      { t with
        cursor := if el.whole then el.cursor else t.cursor
        fifo := if rest.isEmpty then els else { el with words := rest, whole := false } :: els
        imageDone := t.imageDone || (el.words.length == 1 && els.isEmpty && t.imagePos == 87400) })

/-- Takes `n` words: the words, EL and GP of the read. -/
def Stream.takeN : Nat → Stream → List (BitVec 18) × Bool × Bool × Stream
  | 0, t => ([], false, false, t)
  | n + 1, t =>
    let (w, el, gp, t1) := t.take
    let (ws, el', gp', t2) := Stream.takeN n t1
    (w :: ws, el || el', gp || gp', t2)

/-- SIN and SINQ. -/
def streamRead (E : Engine) (w : BitVec 36) (n : Nat) : Engine :=
  let k := ys w
  let (ws, el, gp, t) := (E.stream k).takeN n
  let E1 := E.setGs (yr w) ws
  { E1 with
    streams := E1.streams.set k t
    flags := put (put E1.flags 7 1 (b2n gp)) 8 1 (b2n el) }

/-- OUT and OUTQ (R221). -/
def ringWrite (s : State) (e : Nat) (ws : List (BitVec 18)) : State :=
  let E := s.eng e
  let s1 := (ws.zipIdx).foldl (fun s x =>
    sharedWrite s e (E.outBase + (E.outWr.toNat + x.2) % E.outWords) x.1 none) s
  s1.modEng e fun E => { E with outWr := E.outWr + BitVec.ofNat 48 ws.length }

/-! ### Events and tunes (R222 to R224) -/

/-- D_eng. -/
def engDelay (E : Engine) (e : Nat) : Nat := if runsAway E e then 5 else 3

/-- An engine event: hits at the gates of both ports of the pair, and its record. `src` is the stream, 7 for
EVTR. -/
def engEvent (s : State) (e code src : Nat) (slot : Slot) (evtr : Bool) : State :=
  let E := s.eng e
  let d := engDelay E e
  let now := s.time.slotCount
  let hit := now + beats d + slot % 64
  let name := srcEngine (e % 8) code
  let s1 := forEach (pairPorts (engCluster e)) (fun s p =>
    s.modPort p fun P => P.addRemote s.time.slotCount name hit) s
  let lag := if evtr then d else min (slotsTo (beatSlot slot) (beatSlot hit) / 64) (2 ^ 32 - 1)
  emitRec s1 (engPort e) hit 0x10 (pack [(3, e % 8), (4, code), (3, src), (32, lag)])

/-- The tune image at word address `a` of local memory, as GATE_TUNE and SLALOM_TUNE carry it (R224). -/
def tuneImage (E : Engine) (a : Nat) (slalom : Bool) : Nat :=
  let unit := fun (k : Nat) => pack ((List.range 4).map fun i => (18, (E.dmem.get 0 (a + 4 * k + i)).toNat))
  if slalom then pack ((List.range 6).map fun k => (48, unit k))
  else pack [(64, unit 0), (64, unit 1), (72, unit 2), (56, unit 3), (72, unit 4), (56, unit 5)]

/-- TUNE: the tune port takes it, and it joins the port's queue, or sets TF (R103, R126, R224). -/
def engTune (s0 : State) (e : Nat) (E0 : Engine) (w : BitVec 36) : State :=
  let s := s0.modCluster (engCluster e) fun C => { C with
    tuneBeat := some (beatSlot s0.time.slotCount), tuneLast := physOf E0 e }
  let (g, p) := tuneTarget E0 e w
  let P := s.port p
  let image := tuneImage E0 (E0.pr (yp w)).toNat (g == 32)
  let good := (E0.gr (yr w)).toNat < 128 && P.trig.armed &&
    (if g < 32 then gateOk (tunedGate P g image) else g == 32)
  if good then (queueTune s p (if g < 32 then some g else none) image).1
  else s.modEng e fun E => { E with flags := put E.flags 9 1 1 }

/-! ### The Y slot's effect -/

/-- The address register after a memory operand (R211). -/
def postMod (E : Engine) (E0 : Engine) (w : BitVec 36) : Engine :=
  if ypm w then E.setP (yp w) (E0.pr (yp w) + BitVec.ofNat 20 (yimm w)) else E

/-- Sets loop n (R217). -/
def setLoop (E : Engine) (n stop count : Nat) : Engine :=
  { E with
    ls := E.ls.set n (E.pc + 1), le := E.le.set n (BitVec.ofNat 13 stop)
    lc := E.lc.set n (BitVec.ofNat 18 count) }

/-- The effect of the Y slot over the operands `E0` as they stood before the bundle, after the X slot's
results. Branches, TRAP, RETE and HALT act at the bundle's completion. -/
def yEffect (s : State) (e : Nat) (E0 : Engine) (w : BitVec 36) : State :=
  let a := engAddr E0 w
  let r := yr w
  let mod := fun (s : State) => s.modEng e (postMod · E0 w)
  match opOf w with
  | 0x01 => mod (s.modEng e fun E => E.setG r (engRead s e a))
  | 0x02 => mod (engWrite s e a (E0.gr r))
  | 0x03 => mod (s.modEng e fun E => E.setGs r ((List.range 4).map fun i => engRead s e (a + i)))
  | 0x04 => mod ((List.range 4).foldl (fun s i => engWrite s e (a + i) (E0.gr (r + i))) s)
  | 0x05 => mod (sharedWrite s e (a - 0x80000) (E0.gr r) (some r))
  | 0x06 => s.modEng e fun E => E.setP (yp w) (BitVec.ofNat 20 (yimm w))
  | 0x07 => s.modEng e fun E => E.setP (yp w) (E0.pr (yp w) + BitVec.ofNat 20 (yimm w))
  | 0x08 => s.modEng e fun E => E.setP (yp w) (put (E0.pr (yp w)) 0 18 (E0.gr r).toNat)
  | 0x09 => s.modEng e fun E => E.setG r (fbv (E0.pr (yp w)) 0 18)
  | 0x0B => s.modEng e fun E => E.setP 7 (E0.pc.setWidth 20 + 2)
  | 0x0D => s.modEng e fun E => setLoop E (ys w) (ydest w) (E0.gr r).toNat
  | 0x0E => s.modEng e fun E => setLoop E r (ydest w) (fld w 13 13)
  | 0x0F => s.modEng e fun E => streamRead E w 1
  | 0x10 => s.modEng e fun E => streamRead E w 4
  | 0x11 => ringWrite s e [E0.gr r]
  | 0x12 => ringWrite s e ((List.range 4).map fun i => E0.gr (r + i))
  | 0x13 => engEvent s e (yimm w) (ys w) (E0.stream (ys w)).cursor false
  | 0x14 => engEvent s e (yimm w) 7 (s.time.slotCount + BitVec.ofNat 64 ((E0.gr r).toNat % 64)) true
  | 0x15 => engTune s e E0 w
  | 0x16 => s.modCluster (engCluster e) fun C => { C with
      sync := C.sync.set (yimm w) (satInc (C.sync.get 0 (yimm w))) }
  | 0x17 => s.modCluster (engCluster e) fun C => { C with
      sync := C.sync.set (yimm w) (C.sync.get 0 (yimm w) - 1) }
  | 0x19 => s.modEng e fun E => ctlWrite E (yimm w) (E0.gr r)
  | 0x1A => match ctlRead E0 e (yimm w) with
    | some v => s.modEng e fun E => E.setG r v
    | none => s
  | _ => s

/-! ### Completion (R215 to R217, R226, R227) -/

/-- The mode shadow after a bundle (R216): `fresh` says that the bundle was the MTC itself. -/
def shadowStep (E : Engine) (fresh : Bool) : Engine :=
  match E.modePend with
  | none => E
  | some v =>
    if fresh then E
    else if E.shadow ≤ 1 then { E with mode := v, modePend := none, shadow := 0 }
    else { E with shadow := E.shadow - 1 }

/-- The loop test (R217). -/
def loopTest (E : Engine) (b : BitVec 13) : Engine :=
  let dec := fun (E : Engine) n => { E with lc := E.lc.set n (E.lc.getD n 0 - 1) }
  let outer := fun (E : Engine) =>
    if E.lc.getD 0 0 != 0 && b == E.le.getD 0 0 then
      let E1 := dec E 0
      if E1.lc.getD 0 0 != 0 then { E1 with pc := E1.ls.getD 0 0 } else { E1 with pc := b + 1 }
    else { E with pc := b + 1 }
  if E.inHandler then { E with pc := b + 1 }
  else if E.lc.getD 1 0 != 0 && b == E.le.getD 1 0 then
    let E1 := dec E 1
    if E1.lc.getD 1 0 != 0 then { E1 with pc := E1.ls.getD 1 0 } else outer E1
  else outer E

/-- The branch that a bundle leaves pending over its delay bundle (R215). -/
def newBranch (E0 : Engine) (w : BitVec 36) : Option (BitVec 13 × Bool) :=
  match opOf w with
  | 0x0A => some (BitVec.ofNat 13 (ydest w), condHolds E0 (yr w))
  | 0x0B => some (BitVec.ofNat 13 (ydest w), true)
  | 0x0C => some (fbv (E0.pr (yp w)) 0 13, true)
  | _ => none

/-- The count of a LOOP or LOOPI is 0: its body is skipped (R217). -/
def skipsBody (E0 : Engine) (w : BitVec 36) : Bool :=
  (opOf w == 0x0D && E0.gr (yr w) == 0) || (opOf w == 0x0E && fld w 13 13 == 0)

/-- RETE (R227). -/
def returnExc (E : Engine) : Engine :=
  let sh := fld E.estat 0 2
  { E with
    inHandler := false, st := .running, pc := fbv E.epc 0 13, mode := E.emode
    modePend := if sh = 0 then none else some E.epend, shadow := sh
    branch := if bit E.estat 2 then some (fbv E.etgt 0 13, bit E.estat 3) else none }

/-- Where execution continues after bundle b. -/
def nextPc (E : Engine) (E0 : Engine) (w : BitVec 36) : Engine :=
  let b := E0.pc
  let E1 := { E with branch := newBranch E0 w }
  if opOf w = 0x1D then E1
  else match E0.branch with
  | some (t, true) => { E1 with pc := t }
  | _ =>
    if opOf w = 0x1C then returnExc E1
    else if skipsBody E0 w then { E1 with pc := BitVec.ofNat 13 (ydest w) + 1 }
    else loopTest E1 b

/-- A bundle that completes without an exception. -/
def completeBundle (s : State) (e : Nat) (x y : BitVec 36) : State :=
  let E0 := s.eng e
  let E1 := (xEval E0 E0.mode x).write E0
  let s1 := yEffect (s.setEng e E1) e E0 y
  let s2 := s1.modEng e fun E =>
    let E2 := shadowStep E (opOf y == 0x19 && yimm y == 0)
    setInterlocks E0 e s.time.slotCount x y (nextPc { E2 with bundles := satInc E2.bundles, stall := none } E0 y)
  if opOf y = 0x1D then haltEng s2 e 0 else s2

/-- A wait ends. -/
def endStall (s : State) (e : Nat) : State :=
  s.modEng e fun E => { E with stall := none, stalls := E.stallsAt s.time.slotCount }

/-- The bundle at the pc issues: it waits on an interlock, excepts, waits for its Y slot, or completes (R211 to
R227). -/
def issueBundle (s : State) (e : Nat) (bundle : BitVec 72) : State :=
  let E := s.eng e
  let x := xSlot bundle
  let y := ySlot bundle
  let wait := fun (s : State) => if E.stall.isSome then s else s.modEng e fun E => { E with
    stall := some bundle
    stallFrom := if E.lastIssue == some s.time.slotCount then dclks s.time.slotCount 1 else s.time.slotCount }
  if interlocked E s.time.slotCount x y then wait s
  else match lowest (bundleCauses E e x y) with
  | some c =>
    if c.code = 8 then
      -- TRAP: the other slot completes, and EPC names the next bundle
      takeExc ((completeBundle (endStall s e) e x y).modEng e fun T => { T with pc := E.pc }) e c (E.pc + 1)
    else takeExc (endStall s e) e c E.pc
  | none =>
    if yWaits s e y then wait s else completeBundle (endStall s e) e x y

/-- An engine issues a bundle: its program has that bundle at the pc (R205). -/
def issue (e : Nat) (bundle : BitVec 72) (s : State) : Host.Outcome State Fault Refusal :=
  let E := s.eng e
  if E.runs && Tab.get 0 E.imem E.pc.toNat == bundle then ok (issueBundle s e bundle) else .next s

/-- The same for a row that names an X slot, with the Y slot beside it. -/
def issueX (e : BitVec 9) (op : Nat) (x : XOps) (o : BitVec 36) (s : State) : Host.Outcome State Fault Refusal :=
  issue e.toNat (bundleOf (xWord op x) o) s

/-- The same for a row that names a Y slot, with the X slot beside it. -/
def issueY (e : BitVec 9) (op : Nat) (y : YOps) (o : BitVec 36) (s : State) : Host.Outcome State Fault Refusal :=
  issue e.toNat (bundleOf o (yWord op y)) s

end Sys2Proof.Machine
end

