-- ==== Sys2Proof/Machine/Run.lean ====
section
/-! DEFINITION. The commands of family 0x06: RUN_SET to RUN_MASK_SET (R112, R113, R133, R147, R156, R160,
R161, R300). -/
namespace Sys2Proof.Machine

def cmdRunSet : Cmd := { opcode := 0x0601, cls := some 0, data := 64 }

/-- RUN_SET: the block, with next_seq and rel_seq back at 0 (R133, R145). A run that has closed but whose entry
is still to be written keeps its place in the former directory. -/
def execRunSet (p : Packet) (s : State) : Host.Outcome State Fault Refusal :=
  let c : RunCfg := p.blk 512
  Cmd.run cmdRunSet p s
    [need (runCfgOk c) (badParam noLoc (p.dataOff false))] [needIdle s p.idx]
    fun s => (s.modPort p.idx fun P => { P with run := { P.run with
      cfg := c, nextSeq := 0, relSeq := 0, closing := P.run.closing.map fun x => { x with live := false } } }, .ok)

def cmdRunGet : Cmd := { opcode := 0x0602, cls := some 0, buffer := true }

/-- RUN_GET. -/
def execRunGet (p : Packet) (s : State) : Host.Outcome State Fault Refusal :=
  Cmd.run cmdRunGet p s [] []
    fun s => (s, .bytes (bytesOf 64 (s.port p.idx).run.cfg.toNat))

/-- The latest of the next beats of some ports. -/
def lastBeatOf (s : State) (ps : List Nat) : Slot :=
  ps.foldl (fun a p => let b := nextBeatOf s p
    if notAfter a b then b else a) (s.time.slotCount + 64)

/-- The first beat after the ports have loaded their tables, and in which none of them is WARM: at most 5 µs
later, 7,031 beats; how many is a free value (R112, R391; log entry 3). -/
def loadBeat (s : State) (ps : List Nat) : Slot := lastBeatOf s ps + beats (Config.free s.freeCtr % 7031)

/-- Arms one port from the reply of RUN_ARM on (R105, R112, R160, R236, R295, R391). -/
def armPort (arm : Slot) (s : State) (p : Nat) : State :=
  s.modPort p fun P =>
    let P0 := { P with chain := { P.chain with arm0 := arm } }
    let P1 := if P0.state == .warm then P0.send 8 [P.fmt.toNat + 16] (some (.streamCtrl true P.fmt)) else P0
    { P1 with
      trig := { P1.trig with
        armed := true, armBeat := some arm, disarmAt := none, downed := false, runs := 0
        sl := SlalomCore.reset, xDelay := analogueDelay P1, tunes := [], gap := none
        gst := P1.trig.gst.map fun x => (x.1, { x.2 with hits := 0, sat := false }) }
      run := { P1.run with
        dropped := 0, fallback := 0, maskViol := 0, recs := [], admitted := true
        declArm := RunCfg.decl P1.run.cfg, dropping := false, dropHeld := false } }

/-- Steps 1 to 7 of R161, in their order, but for the power tokens; `load` is the first beat that an
immediate arm could take. -/
def armChecks (p : Packet) (s : State) (load : Slot) : List (Option Fail) :=
  let ps := maskPorts p
  let k := p.fn
  [need (ps.all fun q => s.portOwner q == some k) (denied 2)]
    ++ ps.flatMap (formatCheck s k)
    ++ [need (ps.all fun q => (portRanges (s.port q)).all (inWritable s k)) (denied 6)]
    ++ ps.flatMap (rangeCheck s ps)
    ++ ps.map (fun q => bootBusy s (locPort q))
    ++ ps.map (fun q => need (portServes s q) (stFault (locPort q) 3)) ++ ps.map (armState s)
    ++ [need (!s.hub.cfgWipe) (stState locPackage 0), need (lodgeServes s) (stFault 0x4007 3)]
    ++ ps.map (fun q =>
        let P := s.port q
        need (!(RunCfg.stopFull P.run.cfg &&
          (P.run.openSeq - P.run.relSeq).toNat == RunCfg.nDir P.run.cfg)) (noResource (locPort q) 7))
    ++ capacityCheck s ps ++ [sourceCheck s ps,
        need (beatImm p 0 || notAfter load (beatAt p 0)) (stState (locPort (ps.headD 0)) 0)]

/-- The ports of the mask are armed for a beat (R112, R433): a waiting epoch load is abandoned, and the arm
enters the audit ring. -/
def armPorts (p : Packet) (arm : Slot) (s : State) : State :=
  let ps := maskPorts p
  let s1 := abandonEpoch (ps.foldl followArm (ps.foldl (armPort arm) s.fresh.2)) 3
  let sid := match (s1.part p.fn.toNat).session with
    | some x => x.sid.toNat
    | none => 0
  settlePackage (audit s1 4 p.fn.toNat (b2n (sid != 0)) locPackage 0 (p.inl.toNat % 2 ^ 64) sid)

def cmdRunArm : Cmd := { opcode := 0x0603, freeTarget := true, data := 10 }

/-- RUN_ARM (R112, R161). -/
def execRunArm (p : Packet) (s : State) : Host.Outcome State Fault Refusal :=
  let ps := maskPorts p
  let warm := ps.filter fun q => (s.port q).state == .warm
  let ready := warm.all fun q => (s.port q).liveGrant
  let hs := warm.flatMap portHolders
  let load := loadBeat s ps
  let arm := if beatImm p 0 then load else beatAt p 0
  Cmd.runPowered cmdRunArm p s ready hs.eraseDups true
    [need (!ps.isEmpty) (badParam noLoc 16), need (beatFieldOk p 0) (badParam noLoc (p.dataOff false))]
    (armChecks p s load)
    fun s => (armPorts p arm s, .result (s.tmOf arm).toNat)

def cmdRunDisarm : Cmd := { opcode := 0x0604, freeTarget := true, data := 10 }

/-- RUN_DISARM (R113): the beat at which the disarm takes effect. Ports of the mask that are not armed are left
as they are (log entry 604). -/
def execRunDisarm (p : Packet) (s : State) : Host.Outcome State Fault Refusal :=
  let ps := maskPorts p
  let next := lastBeatOf s ps
  let at' := if beatImm p 0 then next else beatAt p 0
  Cmd.run cmdRunDisarm p s
    [need (!ps.isEmpty) (badParam noLoc 16), need (beatFieldOk p 0) (badParam noLoc (p.dataOff false))]
    ([need (ps.all fun q => s.portOwner q == some p.fn) (denied 2)] ++ ps.map (fun q => bootBusy s (locPort q)) ++
     [need (beatImm p 0 || notAfter next (beatAt p 0)) (stState (locPort (ps.headD 0)) 0)])
    fun s => (ps.foldl (fun s q => s.modPort q fun P => P.disarmBy at') s,
      .result (s.tmOf at').toNat)

def cmdRunRelease : Cmd := { opcode := 0x0605, cls := some 0 }

/-- RUN_RELEASE (R147). -/
def execRunRelease (p : Packet) (s : State) : Host.Outcome State Fault Refusal :=
  let R := (s.port p.idx).run
  let m : BitVec 36 := BitVec.ofNat 36 (p.inb 4 5)
  Cmd.run cmdRunRelease p s
    [need (p.inb 4 5 < 2 ^ 36 && decide ((m - R.relSeq).toNat < (R.nextSeq - R.relSeq).toNat))
      (badParam noLoc 20)] []
    fun s => (s.modPort p.idx fun P => { P with run := { P.run with relSeq := m + 1 } }, .ok)

/-- The run status block (R160). -/
def runStatus (R : PortRun) : Nat :=
  pack [(36, R.nextSeq.toNat), (36, R.relSeq.toNat), (48, R.dropped.toNat), (48, R.fallback.toNat),
    (48, R.maskViol.toNat), (40, 0)]

def cmdRunStatus : Cmd := { opcode := 0x0606, cls := some 0, buffer := true }

/-- RUN_STATUS. -/
def execRunStatus (p : Packet) (s : State) : Host.Outcome State Fault Refusal :=
  Cmd.run cmdRunStatus p s [] []
    fun s => (s, .bytes (bytesOf 32 (runStatus (s.port p.idx).run)))

/-- Entries of 36 bits, two to a unit (R156). -/
def entries36 (bs : List Byte) (n : Nat) : List (BitVec 36) :=
  (List.range n).map fun i => BitVec.ofNat 36 (le (slice bs (9 * (i / 2)) 9) >>> (36 * (i % 2)))

def cmdRunMaskSet : Cmd := { opcode := 0x0607, cls := some 0 }

/-- RUN_MASK_SET: positions from the first on, two to a unit (R156). -/
def execRunMaskSet (p : Packet) (s : State) : Host.Outcome State Fault Refusal :=
  let first := p.inb 4 2
  let n := p.inb 6 2
  Cmd.run cmdRunMaskSet p s
    [need (first + n ≤ 65536) (badParam noLoc 20),
     need (9 * ((n + 1) / 2) ≤ p.data.length) (badParam noLoc (p.dataOff false + p.data.length))]
    [needIdle s p.idx]
    fun s => (s.modPort p.idx fun P => { P with run := { P.run with
      mask := P.run.mask.setList first (entries36 p.data n) } }, .ok)

end Sys2Proof.Machine
end

