-- ==== Sys2Proof/Machine/SpecOps.lean ====
section
/-! DEFINITION. Frames of the spectral chain: configuration checks, trigger units, the spectrum ring and
frequency-domain triggers (R164 to R192). -/
namespace Sys2Proof.Machine

/-! ### Configuration (R164 to R166, R183) -/

/-- The state code of a chain (R171): a scheduled start puts it into SETTLING from the reply on (R295). -/
def Chain.code (c : Chain) : Nat :=
  match c.st with
  | .stopped => if c.sched.isEmpty then 0 else 1
  | .settling => 1
  | .running => 2

/-- ST_STATE unless the chain is STOPPED. -/
def needStopped (s : State) (p : Nat) : Option Fail :=
  let C := (s.port p).chain
  need (!C.active) (stState (locPort p) C.code)

/-- Fields of a pipe in use (R165). -/
def pipeOk (c : Chain) (q : Nat) : Bool :=
  let x := c.pipe q
  decide (6 ≤ fld x 8 5) && decide (fld x 8 5 ≤ 16) && pipeHop x != 0 && decide (fld x 13 3 < 6)
  && (pipeSrc x != 1 || c.dcEn)

/-- The checks of SPEC_SET (R165). -/
def specOk (x : BitVec 512) : Bool :=
  let c : Chain := { Chain.reset with cfg := x }
  zeros x [(12, 4), (112, 16), (133, 3), (148, 4), (176, 80), (261, 3), (276, 4), (304, 80), (388, 12), (471, 9)]
  && decide (c.dec ≤ 16) && (!c.fast || decide (4 ≤ c.dec))
  && c.pipeMode != 3 && c.specStore != 3
  && c.seqList.all (pipeOk c)
  && (c.pipeMode == 0 || pipeSrc (c.pipe 0) != 0)
  && (c.pipeMode == 2 || c.pipe 1 == 0)
  && (c.specStore == 0 ||
    (decide (c.stLo ≤ c.stHi) && (c.seqList.all fun q => decide (c.stHi < pipeN (c.pipe q)))
      && c.specBase % 72 == 0 && decide (2 * c.itemUnits ≤ c.specUnits)))

/-- Least hop of a sequence (R183): Fp is 90 GS/s over the samples' slots and the decimation. -/
def hopMin (P : Port) (q : Nat) : Nat :=
  let c := P.chain
  let den := (fmtWords P.fmt.toNat).getD 1 * c.rateDiv q * if c.pipeMode = 1 then 2 else 1
  max 1 ((2 * pipeN (c.pipe q) + den - 1) / den)

/-- The parameter checks of SPEC_START against the format in effect (R166). -/
def startOk (P : Port) : Bool :=
  let c := P.chain
  let f := P.fmt.toNat
  let chan := fun n => decide (n < fmtChans f)
  (!c.dcEn || (chan (fld c.cfg 1 3) && !(f == 8 && c.dec == 0)))
  && c.seqList.all fun q =>
    let x := c.pipe q
    (pipeSrc x == 1 || chan (fld x 2 3)) && (pipeSrc x != 2 || fmtComplex f) && (pipeSrc x != 3 || !fmtComplex f)
    && decide (hopMin P q ≤ pipeHop x)

/-- The density block against the spectral configuration (R194). -/
def densFits (P : Port) : Bool :=
  let c := P.chain
  let d := P.dens
  let n := pipeN (c.pipe d.seq)
  (!(d.en || d.statsEn) || d.seq == 0 || c.pipeMode == 2)
  && decide (d.colLo < n)
  && ((List.range 4).all fun k => !d.bandsUsed.testBit k || (decide (d.bandLo k ≤ d.bandHi k) && decide (d.bandHi k < n)))
  && d.statBase % 72 == 0
  && (!d.statsEn || decide (2 * d.itemUnits ≤ d.statUnits))

/-! ### Windows (R181, R192) -/

/-- A quotient rounded to one of its two neighbours. -/
def roundQuot (n d : Nat) : Nat :=
  if d = 0 then Config.quotOfZero n
  else n / d + if n % d != 0 && Config.roundsUp n d then 1 else 0

/-- The fields of the pipe of a number: pipe 1 uses pipe 0's in paired mode (R164). -/
def Chain.pipeFields (c : Chain) (k : Nat) : BitVec 128 := c.pipe (if c.pipeMode = 1 then 0 else k)

/-- Coherent gain in Q1.15 and ENBW in 1/4096 bin of the window of a pipe (R181): the table's for the cosine sums,
computed for Kaiser and user windows. -/
def windowGain (c : Chain) (k : Nat) : BitVec 16 × BitVec 16 :=
  let x := c.pipeFields k
  match fld x 13 3 with
  | 0 => (32768, 4096)
  | 1 => (16384, 6144)
  | 2 => (11756, 8210)
  | 3 => (7064, 15443)
  | _ =>
    let w := pipeWindow x (c.window.get [] k)
    let (num, den) := windowEnbw w
    (BitVec.ofNat 16 (roundQuot (w.foldl (· + ·) 0).toNat (2 ^ 49 * pipeN x)),
      BitVec.ofNat 16 (roundQuot (4096 * num) den))

/-- The gains of the pipe of a number: a pipe that is off has none. -/
def Chain.gain (c : Chain) (k : Nat) : BitVec 16 × BitVec 16 :=
  if c.seqList.contains (if c.pipeMode = 1 then 0 else k) then windowGain c k else (0, 0)

/-! ### Trigger units (R187 to R191) -/

def TrigUnit.ttype (u : TrigUnit) : Nat := fld u.desc 0 2
def TrigUnit.seq (u : TrigUnit) : Nat := fld u.desc 2 1
def TrigUnit.mode (u : TrigUnit) : Nat := fld u.desc 3 2
def TrigUnit.lo (u : TrigUnit) : Nat := fld u.desc 16 16
def TrigUnit.hi (u : TrigUnit) : Nat := fld u.desc 32 16
def TrigUnit.par (u : TrigUnit) (n : Nat) : Nat := fld u.desc (64 + 32 * n) 32

/-- The constraints of R188. -/
def trigUnitOk (P : Port) (d : BitVec 256) : Bool :=
  let u : TrigUnit := { TrigUnit.reset with desc := d }
  let c := P.chain
  let inN := decide (u.lo ≤ u.hi) && decide (u.hi < pipeN (c.pipe u.seq))
  zeros d [(5, 11), (48, 16), (160, 96)]
  && (u.seq == 0 || c.pipeMode == 2)
  && match u.ttype with
    | 0 => true
    | 1 => u.mode != 0 && inN && decide (u.par 0 + u.hi - u.lo ≤ 65535) && decide (1 ≤ u.par 1)
        && decide (1 ≤ u.par 2) && decide (u.par 2 ≤ 256)
    | 2 => inN && decide (u.par 0 ≤ 262143) && decide (u.par 1 ≤ 65535)
    | _ => decide (u.hi ≤ 1023) && decide (u.par 0 % 256 ≤ u.par 0 / 256 % 256) && decide (1 ≤ u.par 1)
        && decide (u.par 1 ≤ 256) && decide (1 ≤ u.par 2) && u.seq == P.dens.seq

/-- A unit without history: a tagged frame, or a position that a resync left without frames (R189). -/
def TrigUnit.forget (u : TrigUnit) : TrigUnit := { u with qualRun := 0, above := none, window := [] }

/-- The mask table as a frame sees it: loads of commands that completed before the frame began (R191). -/
def Chain.maskAt (c : Chain) (slot : Slot) : Tab (BitVec 36) :=
  c.maskNew.foldl (fun m x => if notAfter slot x.1 then m else m.setList x.2.1 x.2.2) c.mask

/-- Bins of a frame that violate a unit's mask (R188). -/
def maskHits (mask : Tab (BitVec 36)) (u : TrigUnit) (bins : List (BitVec 18)) : Nat :=
  ((List.range (u.hi + 1 - u.lo)).filter fun i =>
    let e := mask.get 0 (u.par 0 + i)
    let lp := (bins.getD (u.lo + i) 0).toNat
    (u.mode.testBit 0 && decide (fld e 18 18 < lp)) || (u.mode.testBit 1 && decide (lp < fld e 0 18))).length

/-- Hits that a frame adds to a unit's columns and rows of the density field (R188). -/
def densHits (d : Dens) (u : TrigUnit) (bins : List (BitVec 18)) : Nat :=
  if !d.en then 0 else
    ((d.hitCells bins).filter fun i =>
      decide (u.lo ≤ i / 256) && decide (i / 256 ≤ u.hi) && decide (u.par 0 % 256 ≤ i % 256)
        && decide (i % 256 ≤ u.par 0 / 256 % 256)).length

/-- A unit over one evaluated frame: the unit after it, whether it fires, and the value of its record (R188,
R190). `bp` is the unit's band power in the frame. -/
def unitFrame (d : Dens) (mask : Tab (BitVec 36)) (u0 : TrigUnit) (fr : Frame) (bp : Nat) :
    TrigUnit × Bool × Nat :=
  let u : TrigUnit := match u0.tune with
    | some x => { u0 with desc := put u0.desc 64 96 x.toNat, tune := none }
    | none => u0
  match u.ttype with
  | 0 => (u, false, 0)
  | 1 =>
    let n := maskHits mask u fr.bins
    let run := if u.par 1 ≤ n then min (u.qualRun + 1) 256 else 0
    ({ u with qualRun := run }, decide (u.par 2 ≤ run) && decide (u.par 1 ≤ n), min n 262143)
  | 2 =>
    let was := u.above
    let now := match was with
      | none => decide (u.par 0 ≤ bp)
      | some a => if u.par 0 ≤ bp then true else if bp + u.par 1 < u.par 0 then false else a
    let fires := match u.mode with
      | 0 => now
      | 1 => !now
      | 2 => was == some false && now
      | _ => was == some true && !now
    ({ u with above := some now }, fires, bp)
  | _ =>
    let w := (densHits d u fr.bins :: u.window).take (u.par 1)
    let n := w.foldl (· + ·) 0
    ({ u with window := w }, decide (u.par 2 ≤ n), min n 262143)

/-- The spectral term of the latency, in beats (R239). -/
def specDelay (P : Port) (q : Nat) : Nat :=
  let c := P.chain
  let w := (fmtWords P.fmt.toNat).getD 1
  let src := match pipeSrc (c.pipe q) with
    | 1 => if c.dec ≥ 4 then (if c.fast then 5 else 10) else 3 + 2 * c.dec
    | _ => 3
  ((pipeN (c.pipe q) - 1) * w * c.rateDiv q + 63) / 64 + src + 24

/-- A firing of a unit: its record, and the hit at the port's own gates (R99, R189, R190). -/
def unitFires (s : State) (p u : Nat) (fr : Frame) (value : Nat) : State :=
  let s1 := emitRec s p fr.slot 0x0D
    (pack [(2, u), (1, 0), (1, fr.seq), (36, fr.idx.toNat), (18, value), (2, 0)])
  s1.modPort p fun P =>
    P.addRemote s.time.slotCount (srcSpectral u) (fr.slot + beats (specDelay P fr.seq))

/-! ### One frame (R173, R180 to R182) -/

/-- Frame `f` of a sequence as its pipe computes it: in paired mode pipe 1 computes the odd frames (R180). -/
def buildFrame (P : Port) (q f : Nat) : Frame :=
  let c := P.chain
  let x := c.pipe q
  let k := if c.pipeMode = 1 then f % 2 else q
  let xs := c.frameSamples q f
  let w := pipeWindow x (c.window.get [] k)
  let amps := (List.range (pipeN x)).map (binAmp w (xs.map (·.2.1)))
  { seq := q, idx := BitVec.ofNat 36 f, slot := P.frameSlot q f, tagged := xs.any (·.2.2), amps := amps
    bins := amps.map fun a => lpOf (ampPow a) (2 ^ 128), enbw := windowEnbw w }

/-- The frame's item joins those that wait for the spectrum ring (R185, R186). -/
def ringFrame (s : State) (p : Nat) (fr : Frame) : State :=
  let C := (s.port p).chain
  if C.specStore = 0 then s
  else
    let n := C.stHi + 1 - C.stLo
    let as := (fr.amps.drop C.stLo).take n
    let e := if C.specStore = 2 then frameExp as else 0
    flushRing (addWait s p { RingWait.reset with
      seq := fr.seq, slot := fr.slot, openAt := fr.slot, idx := fr.idx, tagged := fr.tagged, exp := e
      words := if C.specStore = 2 then
          as.flatMap fun a => [(saturate (mantissa e a.1)).1, (saturate (mantissa e a.2)).1]
        else (fr.bins.drop C.stLo).take n }) p false

/-- The trigger units of the frame's sequence evaluate it, or lose their history (R188, R189): the units, and
the firings with their values. -/
def unitsFrame (P : Port) (fr : Frame) (skipped : Bool) : Tab TrigUnit × List (Nat × Nat) :=
  let mask := P.chain.maskAt fr.slot
  (List.range 4).foldl (fun acc k =>
    let u0 := P.chain.units.get TrigUnit.reset k
    if u0.seq != fr.seq || u0.ttype = 0 then acc
    else
      let u1 := if skipped || fr.tagged then u0.forget else u0
      if fr.tagged then (acc.1.set k u1, acc.2)
      else
        let (u2, fires, v) := unitFrame P.dens mask u1 fr (fr.bandPow u1.lo u1.hi)
        (acc.1.set k u2, if fires then acc.2 ++ [(k, v)] else acc.2)) (P.chain.units, [])

/-- A frame is produced: counts, trigger units, rings, density field and statistics (R180, R185 to R191, R195
to R203). A release with clearing that waits for the frame boundary takes effect before the frame (R198). -/
def frameDone (s : State) (p : Nat) (fr : Frame) : State :=
  let P := s.port p
  let C := P.chain
  let q := fr.seq
  let Q := C.seqs.get SeqSt.reset q
  let from' := Q.nextIdx.toNat
  let (units, fires) := unitsFrame P fr (decide (from' < fr.idx.toNat))
  let alone := C.seqList.length ≤ 1
  let next := (fr.idx.toNat + 1) * pipeHop (C.pipe q)
  let T := C.pipes.get PipeSt.reset q
  let C1 : Chain := { C with
    units := units
    mask := if alone then C.maskAt fr.slot else C.mask
    maskNew := C.maskNew.filter fun x => !(alone && !notAfter fr.slot x.1)
    pipes := C.pipes.set q { T with hist := T.hist.filter fun x => decide (next ≤ x.1) }
    seqs := C.seqs.set q { Q with frames := Q.frames + 1, nextIdx := fr.idx + 1 } }
  let s1 := s.setPort p { P with chain := C1 }
  let s2 := fires.foldl (fun s x => unitFires s p x.1 fr x.2) s1
  let s3 := ringFrame s2 p fr
  let ours := P.dens.seq == q
  let s4 := if ours then s3.modPort p fun P => { P with dens := P.dens.finishRelease } else s3
  let s5 := if ours && P.dens.en && !fr.tagged then
      s4.modPort p fun P => { P with dens := { P.dens.count fr.bins (s.tmOf fr.slot) fr.idx with
        lastTmSt := BitVec.ofNat 6 (s.tmStOf fr.slot) } }
    else s4
  if ours then statFrame s5 p fr from' (!fr.tagged) else s5

end Sys2Proof.Machine
end

