-- ==== Sys2Proof/Machine/Spectral.lean ====
section
/-! DEFINITION. The spectral and density families 0x07 and 0x08, their scheduled beats, frames and frame
boundaries (R162 to R204, R300). -/
namespace Sys2Proof.Machine

def cmdSpecSet : Cmd := { opcode := 0x0701, cls := some 0, data := 64 }

/-- SPEC_SET (R164, R165). -/
def execSpecSet (p : Packet) (s : State) : Host.Outcome State Fault Refusal :=
  let x : BitVec 512 := p.blk 512
  Cmd.run cmdSpecSet p s
    [need (specOk x) (badParam noLoc (p.dataOff false))] [needStopped s p.idx]
    fun s => (s.modPort p.idx fun P => { P with chain := { P.chain with cfg := x, specWr := 0 } }, .ok)

/-- The spectral status block (R192). -/
def specStatus (C : Chain) : Nat :=
  pack [(2, C.code), (6, 0), (4, C.lastCause.toNat), (4, 0), (36, (C.seqs.get SeqSt.reset 0).frames.toNat),
    (36, (C.seqs.get SeqSt.reset 1).frames.toNat), (48, C.satCount.toNat), (48, C.specDropped.toNat),
    (32, C.specWr.toNat), (16, C.cg0.toNat), (16, C.enbw0.toNat), (16, C.cg1.toNat), (16, C.enbw1.toNat)]

def cmdSpecGet : Cmd := { opcode := 0x0702, cls := some 0, sub := true, buffer := true }

/-- SPEC_GET: the configuration, the coefficients of table 1 and of the factory compensation FIR for k, or the
status (R164, R170, R192). -/
def execSpecGet (p : Packet) (s : State) : Host.Outcome State Fault Refusal :=
  Cmd.run cmdSpecGet p s
    [need (decide (p.subv ≤ 2)) (badParam noLoc 18),
     need (p.subv != 1 || decide (p.inb 4 1 ≤ 16)) (badParam noLoc 20)] []
    fun s =>
      let C := (s.port p.idx).chain
      (s, .bytes (match p.subv with
        | 0 => bytesOf 64 C.cfg.toNat
        | 1 =>
          let hb := C.halfband.getD Config.factoryHb
          let fir := Config.factoryCfir (p.inb 4 1)
          unitBytes ((List.range 12).map (hb.getD · 0) ++ (List.range 32).map (fir.getD · 0))
        | _ => bytesOf 48 (specStatus C)))

/-- What SPEC_START clears and sets before its beat (R181, R192, R199, R201, R204). -/
def startChain (P : Port) (at' : Slot) : Port :=
  let C := P.chain
  let g0 := C.gain 0
  let g1 := C.gain 1
  let D := P.dens.clear
  { P with
    chain := { C with
      sched := [⟨at', 1⟩], satCount := 0, specDropped := 0, mask := C.maskAt at', maskNew := []
      cg0 := g0.1, enbw0 := g0.2, cg1 := g1.1, enbw1 := g1.2, lostAt := none, tunes := []
      units := C.units.map fun x => (x.1, x.2.forget) }
    dens := { D with
      framesCounted := 0, statItems := 0, statDropped := 0, emptyIntervals := 0, interval := 0, ivFrames := 0
      ivSkipped := 0, bandAcc := [] } }

def cmdSpecStart : Cmd := { opcode := 0x0703, cls := some 0, data := 10 }

/-- SPEC_START (R166, R172, R194, R199): the cluster is switched on where it is off (R22). -/
def execSpecStart (p : Packet) (s : State) : Host.Outcome State Fault Refusal :=
  let n := p.idx
  let P := s.port n
  let k := portPair n
  let load := loadBeat s [n]
  let at' := if beatImm p 0 then load else beatAt p 0
  let bad := badParam (locPort n) noLoc
  let streams := P.state == .live || P.state == .rebuild || P.state == .warm
  Cmd.runPowered cmdSpecStart p s (clusterUsable s k) (clusterHolders k) true
    [need (beatFieldOk p 0) (badParam noLoc (p.dataOff false))]
    [needStopped s n,
     need (!fmtLogic P.fmt.toNat && streams) (stState (locPort n) (portCode P.state)),
     need (P.dens.hold == .none) (stState (locPort n) P.chain.code),
     need (startOk P) bad, need (densFits P) bad,
     need (beatImm p 0 || notAfter load (beatAt p 0)) (stState (locPort n) P.chain.code)]
    fun s => (s.fresh.2.modPort n fun P => startChain P at', .result (s.tmOf at').toNat)

def cmdSpecStop : Cmd := { opcode := 0x0704, cls := some 0 }

/-- SPEC_STOP (R171, R174): the chain stops at slot 0 of the next beat. -/
def execSpecStop (p : Packet) (s : State) : Host.Outcome State Fault Refusal :=
  Cmd.run cmdSpecStop p s [] []
    fun s => (stopChain s p.idx 6 (nextBeatOf s p.idx), .ok)

def cmdSpecSync : Cmd := { opcode := 0x0705, cls := some 0, data := 10 }

/-- SPEC_SYNC (R172): a synchronising reset at the named beat. A chain that is STOPPED has nothing to reset
(log entry 701). -/
def execSpecSync (p : Packet) (s : State) : Host.Outcome State Fault Refusal :=
  let n := p.idx
  let next := nextBeatOf s n
  let at' := if beatImm p 0 then next else beatAt p 0
  Cmd.run cmdSpecSync p s
    [need (beatFieldOk p 0) (badParam noLoc (p.dataOff false))]
    [need (beatImm p 0 || notAfter next (beatAt p 0)) (stState (locPort n) (s.port n).chain.code)]
    fun s =>
      (if (s.port n).chain.active then
        s.modPort n fun P => { P with chain := { P.chain with sched := P.chain.sched ++ [⟨at', 2⟩] } }
      else s, .result (s.tmOf at').toNat)

def cmdSpecTune : Cmd := { opcode := 0x0706, cls := some 0, data := 13 }

/-- SPEC_TUNE: a retune at slot 0 of the next beat (R176), which the chain makes when it reads that beat. -/
def execSpecTune (p : Packet) (s : State) : Host.Outcome State Fault Refusal :=
  let n := p.idx
  let C := (s.port n).chain
  let at' := nextBeatOf s n
  let f := p.dat 12 1
  Cmd.run cmdSpecTune p s
    [need (decide (f < 4)) (badParam noLoc (p.dataOff false + 12))]
    [need C.active (stState (locPort n) C.code)]
    fun s =>
      let t : ChainTune := {
        beat := at'
        ftw := if f.testBit 0 then some (BitVec.ofNat 48 (p.dat 0 6)) else none
        ofs := if f.testBit 1 then some (BitVec.ofNat 48 (p.dat 6 6)) else none }
      (s.modPort n fun P =>
        let C := P.chain
        { P with chain := { C with tunes := C.tunes ++ [t] } }, .result (s.tmOf at').toNat)

def cmdSpecCoefSet : Cmd := { opcode := 0x0707, cls := some 0, sub := true }

/-- SPEC_COEF_SET (R170): a table, or the factory halfband with the default flag. -/
def execSpecCoefSet (p : Packet) (s : State) : Host.Outcome State Fault Refusal :=
  let dflt := p.inb 4 1 == 1
  let n := if p.subv = 0 then 32 else 12
  Cmd.run cmdSpecCoefSet p s
    [need (decide (p.subv ≤ 1)) (badParam noLoc 18), need (decide (p.inb 4 1 ≤ 1)) (badParam noLoc 20),
     need (dflt || 9 * n / 4 ≤ p.data.length) (badParam noLoc (p.dataOff false + p.data.length))]
    [needStopped s p.idx]
    fun s => (s.modPort p.idx fun P =>
      let C := P.chain
      let ws := wordsOf p.data n
      { P with chain :=
          if dflt then { C with halfband := none }
          else if p.subv = 0 then { C with userCfir := C.userCfir.setList 0 ws }
          else { C with halfband := some ws } }, .ok)

def cmdSpecWindowSet : Cmd := { opcode := 0x0708, cls := some 0, sub := true }

/-- SPEC_WINDOW_SET (R170, R181): a user window of N words, N being the pipe's. -/
def execSpecWindowSet (p : Packet) (s : State) : Host.Outcome State Fault Refusal :=
  let n := pipeN ((s.port p.idx).chain.pipe (if (s.port p.idx).chain.pipeMode = 1 then 0 else p.subv))
  Cmd.run cmdSpecWindowSet p s
    [need (decide (p.subv ≤ 1)) (badParam noLoc 18),
     need (9 * ((n + 3) / 4) ≤ p.data.length) (badParam noLoc (p.dataOff false + p.data.length))]
    [needStopped s p.idx]
    fun s => (s.modPort p.idx fun P =>
      let C := P.chain
      let w := Tab.setList (Tab.get [] C.window p.subv) 0 (wordsOf p.data n)
      { P with chain := { C with window := C.window.set p.subv w } }, .ok)

def cmdSpecTrigSet : Cmd := { opcode := 0x0709, cls := some 0, sub := true, data := 32 }

/-- SPEC_TRIG_SET (R187, R188): the unit starts without history. -/
def execSpecTrigSet (p : Packet) (s : State) : Host.Outcome State Fault Refusal :=
  let d : BitVec 256 := p.blk 256
  Cmd.run cmdSpecTrigSet p s
    [need (decide (p.subv < 4)) (badParam noLoc 18),
     need (trigUnitOk (s.port p.idx) d) (badParam noLoc (p.dataOff false))]
    [needStopped s p.idx]
    fun s => (s.modPort p.idx fun P =>
      let C := P.chain
      { P with chain := { C with units := C.units.set p.subv { TrigUnit.reset with desc := d } } }, .ok)

def cmdSpecTrigTune : Cmd := { opcode := 0x070A, cls := some 0, sub := true, data := 12 }

/-- SPEC_TRIG_TUNE (R191): p0 to p2 wait for the next frame that is evaluated. -/
def execSpecTrigTune (p : Packet) (s : State) : Host.Outcome State Fault Refusal :=
  let u := (s.port p.idx).chain.units.get TrigUnit.reset p.subv
  let x : BitVec 96 := p.blk 96
  Cmd.run cmdSpecTrigTune p s
    [need (decide (p.subv < 4)) (badParam noLoc 18),
     need (trigUnitOk (s.port p.idx) (put u.desc 64 96 x.toNat)) (badParam noLoc (p.dataOff false))] []
    fun s => (s.modPort p.idx fun P =>
      let C := P.chain
      let v := C.units.get TrigUnit.reset p.subv
      { P with chain := { C with units := C.units.set p.subv { v with tune := some x } } }, .ok)

def cmdSpecMaskSet : Cmd := { opcode := 0x070B, cls := some 0 }

/-- SPEC_MASK_SET (R191): the entries wait for the first frame that begins after the command. -/
def execSpecMaskSet (p : Packet) (s : State) : Host.Outcome State Fault Refusal :=
  let first := p.inb 4 2
  let n := p.inb 6 3
  Cmd.run cmdSpecMaskSet p s
    [need (first + n ≤ 65536) (badParam noLoc 20),
     need (9 * ((n + 1) / 2) ≤ p.data.length) (badParam noLoc (p.dataOff false + p.data.length))] []
    fun s => (s.modPort p.idx fun P =>
      let C := P.chain
      let es := entries36 p.data n
      { P with chain := if C.active then { C with maskNew := C.maskNew ++ [(s.time.slotCount, first, es)] }
          else { C with mask := C.mask.setList first es } }, .ok)

/-! ### Scheduled beats and frames -/

/-- SYNCHRONISING_RESET_BEAT (R172, R177): the earliest scheduled beat of the chain comes, once the pipes have
delivered the frames before it; of the events that fall in it the record names the first cause. -/
def execSynchronisingResetBeat (port : BitVec 7) (s : State) : Host.Outcome State Fault Refusal :=
  let p := port.toNat
  let P := s.port p
  match P.chain.sched with
  | [] => .next s
  | e :: es =>
    let at' := es.foldl (fun a x => if notAfter a x.beat then a else x.beat) e.beat
    if !P.due at' || P.chain.seqList.any (fun q => (P.readyFrame q).isSome) then .next s
    else
      let now := (e :: es).filter fun x => x.beat == at'
      let cause := (now.map (·.cause.toNat)).foldl min 15
      let start := cause == 1
      let s1 := s.modPort p fun P => { P with chain := { P.chain with sched := (e :: es).filter fun x => x.beat != at' } }
      if P.chain.st == .stopped && !start then ok s1 else ok (chainReset s1 p cause at')

/-- FRAME_COMPLETE (R180 to R203): the next frame of a sequence of a running chain, once all its samples have
arrived. A density field that stands at a frame boundary first makes its decay step or its freeze (R199). -/
def execFrameComplete (port : BitVec 7) (seq : Bool) (s : State) : Host.Outcome State Fault Refusal :=
  let p := port.toNat
  let P := s.port p
  let D := P.dens
  let q := b2n seq
  let boundary := D.seq == q && (D.decayDue || D.snapReq.isSome)
  match P.readyFrame q with
  | some f =>
    if P.chain.st != .stopped && P.chain.seqList.contains q && !boundary then ok (frameDone s p (buildFrame P q f))
    else .next s
  | none => .next s

/-! ### Family 0x08 (R193 to R204) -/

/-- State code of a density field: its hold state (R204). -/
def Dens.code (d : Dens) : Nat :=
  match d.hold with
  | .none => 0
  | .frozen => 1
  | .merging => 2

def cmdDensSet : Cmd := { opcode := 0x0801, cls := some 0, data := 64 }

/-- DENS_SET (R194). -/
def execDensSet (p : Packet) (s : State) : Host.Outcome State Fault Refusal :=
  let x : BitVec 512 := p.blk 512
  Cmd.run cmdDensSet p s
    [need (densOk x) (badParam noLoc (p.dataOff false))] [needStopped s p.idx]
    fun s => (s.modPort p.idx fun P => { P with dens := { P.dens with cfg := x, statWr := 0 } }, .ok)

/-- The density status block (R204). -/
def densStatus (d : Dens) : Nat :=
  pack [(2, d.code), (6, 0), (19, d.satCells), (5, 0), (48, d.framesCounted.toNat), (24, d.decayPending),
    (48, d.statItems.toNat), (48, d.statDropped.toNat), (48, d.emptyIntervals.toNat)]

def cmdDensGet : Cmd := { opcode := 0x0802, cls := some 0, sub := true, buffer := true }

/-- DENS_GET. -/
def execDensGet (p : Packet) (s : State) : Host.Outcome State Fault Refusal :=
  Cmd.run cmdDensGet p s
    [need (decide (p.subv ≤ 1)) (badParam noLoc 18)] []
    fun s =>
      let D := (s.port p.idx).dens
      (s, .bytes (if p.subv = 0 then bytesOf 64 D.cfg.toNat else bytesOf 32 (densStatus D)))

def cmdDensSnap : Cmd := { opcode := 0x0803, cls := some 0 }

/-- DENS_SNAP: the freeze takes place at the next frame boundary, and the reply then carries its frame index
(R198, R199). -/
def execDensSnap (p : Packet) (s : State) : Host.Outcome State Fault Refusal :=
  let n := p.idx
  let D := (s.port n).dens
  Cmd.run cmdDensSnap p s []
    [need (D.hold != .merging && D.snapReq.isNone) (stBusy (locPort n)),
     need (D.hold != .frozen) (stState (locPort n) D.code)]
    fun s => (s.modPort n fun P => { P with dens := { P.dens with snapReq := some p.core } }, .wait)

/-- A running engine has a density image of the port left to read (R220). -/
def imageClaimed (s : State) (p : Nat) : Bool :=
  (clusterEngines (portPair p)).any fun e =>
    let E := s.eng e
    (E.st == .running || E.st == .handler) &&
      (List.range 4).any fun n => E.bindSrc n == 6 && bindPort E e n == p && !(E.stream n).imageDone

def cmdDensReleaseClear : Cmd := { opcode := 0x0804, cls := some 0 }

/-- DENS_RELEASE with clearing (R198): it takes effect at the next frame boundary; while the chain is STOPPED no
frame is in progress, and that is now. -/
def execDensReleaseClear (p : Packet) (s : State) : Host.Outcome State Fault Refusal :=
  let n := p.idx
  let D := (s.port n).dens
  if p.inb 4 1 % 2 = 0 then .next s
  else Cmd.run cmdDensReleaseClear p s
    [need (decide (p.inb 4 1 ≤ 1)) (badParam noLoc 20)]
    [need (D.hold == .frozen && !D.releasing) (stState (locPort n) D.code),
     need (!imageClaimed s n) (stBusy (locPort n))]
    fun s => (s.modPort n fun P =>
      let D := { P.dens with releasing := true }
      { P with dens := if P.chain.st == .stopped then D.finishRelease else D }, .ok)

def cmdDensReleaseMerge : Cmd := { opcode := 0x0804, cls := some 0 }

/-- DENS_RELEASE without clearing (R198): the banks merge. -/
def execDensReleaseMerge (p : Packet) (s : State) : Host.Outcome State Fault Refusal :=
  let n := p.idx
  let D := (s.port n).dens
  if p.inb 4 1 % 2 = 1 then .next s
  else Cmd.run cmdDensReleaseMerge p s
    [need (decide (p.inb 4 1 ≤ 1)) (badParam noLoc 20)]
    [need (D.hold == .frozen && !D.releasing) (stState (locPort n) D.code),
     need (!imageClaimed s n) (stBusy (locPort n))]
    fun s => (s.modPort n fun P => { P with dens := { P.dens with hold := .merging } }, .ok)

def cmdDensClear : Cmd := { opcode := 0x0805, cls := some 0 }

/-- DENS_CLEAR (R199). -/
def execDensClear (p : Packet) (s : State) : Host.Outcome State Fault Refusal :=
  let n := p.idx
  let D := (s.port n).dens
  Cmd.run cmdDensClear p s []
    [need (D.hold == .none) (stState (locPort n) D.code)]
    fun s => (s.modPort n fun P => { P with dens := P.dens.clear }, .ok)

/-- DENS_DECAY_STEP (R197): every counter decays between two frames; during a hold the step is deferred to the
merge (R198, R204). -/
def execDensDecayStep (port : BitVec 7) (s : State) : Host.Outcome State Fault Refusal :=
  let p := port.toNat
  let D := (s.port p).dens
  if !D.decayDue then .next s
  else
    let n := min (D.decayPending + 1) (2 ^ 24 - 1)
    let d1 : Dens :=
      if D.hold == .none then { D with live := D.live.map fun x => (x.1, decay D.decayShift x.2) }
      else { D with decayPending := n }
    ok (s.modPort p fun P => { P with dens := { d1 with decayDue := false } })

/-- The image of a new hold is offered to the running engines that read it (R220), unless its frame slot lies
before their start (R218). -/
def offerImage (s : State) (p : Nat) : State :=
  let slot := fbv (s.port p).dens.snapTm 8 64
  forEach (clusterEngines (portPair p)) (fun s e =>
    let E := s.eng e
    if E.takes && notAfter E.effSlot slot then
      forEach [0, 1, 2, 3] (fun s n =>
        if E.bindSrc n == 6 && bindPort E e n == p then
          s.modEng e fun E =>
            let t := E.stream n
            { E with streams := E.streams.set n { t with imageDone := false, imagePos := 0 } }
        else s) s
    else s) s

/-- DENS_FREEZE (R198 to R200): the live bank freezes at the frame boundary, after its decay step; the waiting
DENS_SNAP is answered. -/
def execDensFreeze (port : BitVec 7) (s : State) : Host.Outcome State Fault Refusal :=
  let p := port.toNat
  let D := (s.port p).dens
  match D.snapReq with
  | none => .next s
  | some q =>
    if D.decayDue then .next s
    else
      let d1 : Dens := { D with
        hold := .frozen, frozen := D.live, live := [], delta := [], snapReq := none, decayPending := 0
        snapTm := D.lastTm, snapIdx := D.lastIdx, snapTmSt := D.lastTmSt }
      let s1 := s.modPort p fun P => { P with dens := d1 }
      ok (replyTo (offerImage s1 p) false q 0 0 D.lastIdx.toNat [])

/-- One cell of a merge (R196, R198). -/
def mergeCell (d : Dens) (i : Nat) : Dens :=
  let v := decayN d.decayShift d.decayPending (d.frozen.get 0 i) + d.delta.get 0 i
  if v < 2 ^ 24 then { d with live := d.live.set i v }
  else { d with
    live := d.live.set i (2 ^ 24 - 1), satMap := d.satMap.set (i / 256) true
    satCells := if d.satSet.get false i then d.satCells else d.satCells + 1
    satSet := d.satSet.set i true }

/-- DENS_MERGE_DONE (R198). -/
def execDensMergeDone (port : BitVec 7) (s : State) : Host.Outcome State Fault Refusal :=
  let p := port.toNat
  let D := (s.port p).dens
  if D.hold != .merging then .next s
  else
    let cells := (D.frozen.map (·.1) ++ D.delta.map (·.1)).eraseDups
    let d1 := cells.foldl mergeCell { D with live := [] }
    ok (s.modPort p fun P => { P with dens := { d1 with
      hold := .none, frozen := [], delta := [], decayPending := 0 } })

end Sys2Proof.Machine
end

