-- ==== Sys2Proof/Machine/Engines.lean ====
section
/-! DEFINITION. The engine family 0x09, and the events of the engines: start beats, stream elements, faults and
restarts (R218 to R221, R228 to R233, R300). -/
namespace Sys2Proof.Machine

/-! ### Loading and configuration -/

/-- State code of an engine (R229): a scheduled start puts it into RUNNING from the reply on (R295). -/
def Engine.code (E : Engine) : Nat :=
  if E.startAt.isSome then 2 else match E.st with
    | .empty => 0 | .stopped => 1 | .running => 2 | .handler => 3 | .halted => 4 | .restarting => 5

/-- ST_STATE while the engine is RUNNING, HANDLER or RESTARTING (R228). -/
def needEngIdle (s : State) (e : Nat) : Option Fail :=
  need (!engBusy s e) (stState (loc 2 e) (s.eng e).code)

def cmdEngLoad : Cmd := { opcode := 0x0901, cls := some 2, sub := true }

/-- ENG_LOAD (R228): a chunk of the program or of the data image. -/
def execEngLoad (p : Packet) (s : State) : Host.Outcome State Fault Refusal :=
  let e := p.idx
  let k := engCluster e
  let first := p.inb 4 4
  let n := p.inb 8 4
  let limit := if p.subv = 0 then 8192 else 32768
  let len := if p.subv = 0 then 9 * n else 9 * ((n + 3) / 4)
  Cmd.runPowered cmdEngLoad p s (clusterUsable s k) (clusterHolders k) true
    [need (decide (p.subv ≤ 1)) (badParam noLoc 18), need (first + n ≤ limit) (badParam noLoc 20),
     need (len ≤ p.data.length) (badParam noLoc (p.dataOff false + p.data.length))]
    [needEngIdle s e]
    fun s => (s.modEng e fun E =>
      let bundles := (List.range n).map fun i => BitVec.ofNat 72 (le (slice p.data (9 * i) 9))
      let E1 : Engine := { E with st := .stopped, resumable := false }
      if p.subv = 0 then { E1 with imem := E1.imem.setList first bundles }
      else { E1 with image := E1.image.setList first (wordsOf p.data n) }, .ok)

/-- Two rings of shared memory overlap. -/
def ringsOverlap (a n b m : Nat) : Bool := n != 0 && m != 0 && decide (a < b + m) && decide (b < a + n)

/-- The checks of ENG_SET (R218, R228). -/
def engCfgOk (s : State) (e : Nat) (x : BitVec 512) : Bool :=
  let E : Engine := { Engine.reset with cfg := x }
  zeros x [(13, 3), (30, 2), (115, 13), (147, 13), (256, 256)]
  && ((List.range 4).all fun n => fld x (42 + 16 * n) 6 == 0 && decide (E.bindSrc n < 8))
  && E.outWords % 4 == 0 && (E.outWords == 0 || decide (E.outBase + E.outWords ≤ sharedWords))
  && (clusterEngines (engCluster e)).all fun f => f == e ||
    !ringsOverlap E.outBase E.outWords (s.eng f).outBase (s.eng f).outWords

def cmdEngSet : Cmd := { opcode := 0x0902, cls := some 2, data := 64 }

/-- ENG_SET. -/
def execEngSet (p : Packet) (s : State) : Host.Outcome State Fault Refusal :=
  let e := p.idx
  let x : BitVec 512 := p.blk 512
  Cmd.run cmdEngSet p s
    [need (engCfgOk s e x) (badParam noLoc (p.dataOff false))] [needEngIdle s e]
    fun s => (s.modEng e fun E => { E with cfg := x }, .ok)

/-- The engine status block (R230). -/
def engStatus (E : Engine) (e : Nat) (now : Slot) : Nat :=
  pack ([(3, E.code), (5, 0), (13, E.pc.toNat), (5, E.statCause.toNat), (6, 0), (48, E.bundles.toNat),
    (48, (E.stallsAt now).toNat), (9, physOf E e), (7, E.restarts.toNat), (16, 0)]
    ++ (List.range 4).map fun n => (24, (E.stream n).lost.toNat))

def cmdEngGet : Cmd := { opcode := 0x0903, cls := some 2, sub := true, buffer := true }

/-- ENG_GET. -/
def execEngGet (p : Packet) (s : State) : Host.Outcome State Fault Refusal :=
  let e := p.idx
  Cmd.run cmdEngGet p s
    [need (decide (p.subv ≤ 1)) (badParam noLoc 18)] []
    fun s =>
      let E := s.eng e
      (s, .bytes (if p.subv = 0 then bytesOf 64 E.cfg.toNat else bytesOf 32 (engStatus E e s.time.slotCount)))

/-! ### Start and stop (R229) -/

/-- Every stream names a source that is configured (R229). -/
def streamsOk (s : State) (e : Nat) : Bool :=
  let E := s.eng e
  (List.range 4).all fun n =>
    let P := s.port (bindPort E e n)
    let C := P.chain
    match E.bindSrc n with
    | 3 => C.dcEn
    | 4 => C.specStore != 0 && C.seqList.contains 0
    | 5 => C.specStore != 0 && C.seqList.contains 1
    | 6 => P.dens.en
    | 7 => P.dens.statsEn
    | _ => true

/-- The start beat of a timed engine command: the named beat, or the next one. -/
def engStartBeat (p : Packet) (s : State) : Slot :=
  if beatImm p 0 then s.time.slotCount + 64 else beatAt p 0

def cmdEngStart : Cmd := { opcode := 0x0904, cls := some 2, data := 10 }

/-- ENG_START for a fresh start or a resume, told apart by inline byte 4. -/
def engStart (p : Packet) (s : State) (resume : Bool) : Host.Outcome State Fault Refusal :=
  let e := p.idx
  let k := engCluster e
  let E := s.eng e
  let at' := engStartBeat p s
  let okSt := if resume then E.st == .stopped && E.resumable else E.st == .stopped || E.st == .halted
  if p.inb 4 1 % 2 != b2n resume then .next s
  else Cmd.runPowered cmdEngStart p s (clusterUsable s k) (clusterHolders k) true
    [need (decide (p.inb 4 1 ≤ 1)) (badParam noLoc 20), need (beatFieldOk p 0) (badParam noLoc (p.dataOff false)),
     need (streamsOk s e) (badParam (loc 2 e) noLoc)]
    [need (okSt && E.startAt.isNone) (stState (loc 2 e) E.code),
     need (notAfter (s.time.slotCount + 64) at') (stState (loc 2 e) E.code)]
    fun s => (s.modEng e fun E => { E with startAt := some at', startResume := resume },
      .result (s.tmOf at').toNat)

/-- ENG_START, fresh. -/
def execEngStartFresh (p : Packet) (s : State) : Host.Outcome State Fault Refusal := engStart p s false

/-- ENG_START, resume. -/
def execEngStartResume (p : Packet) (s : State) : Host.Outcome State Fault Refusal := engStart p s true

/-- Registers at their reset values, the data image loaded, the inputs empty and the ring counts 0 (R210, R229).
`eff` is the effective slot; elements from it on that are due still come. The inputs of a restarted engine begin
across a loss, and it keeps its result ring with both counts (R232, R233). -/
def freshEngine (E : Engine) (eff : Slot) (loss : Bool) : Engine :=
  { Engine.reset with
    st := .running, imem := E.imem, image := E.image, dmem := E.image, cfg := E.cfg
    pc := BitVec.ofNat 13 E.entry, effSlot := eff, phys := E.phys, restarts := E.restarts, warmEnd := E.warmEnd
    outWr := if loss then E.outWr else 0, outRd := if loss then E.outRd else 0
    streams := (List.range 4).map fun n =>
      let t := E.stream n
      (n, { Stream.reset with
        pendLoss := loss, gapped := t.gapped, due := t.due.filter fun x => notAfter eff x.cursor }) }

/-- ENGINE_START_BEAT: the named beat comes (R229). -/
def execEngineStartBeat (e : BitVec 9) (s : State) : Host.Outcome State Fault Refusal :=
  let n := e.toNat
  match (s.eng n).startAt with
  | none => .next s
  | some at' => if !notAfter at' s.time.slotCount then .next s else ok (s.modEng n fun E =>
      if E.startResume then { E with
        startAt := none, st := if E.inHandler then .handler else .running, resumable := false }
      else freshEngine E at' false)

def cmdEngStop : Cmd := { opcode := 0x0905, cls := some 2 }

/-- ENG_STOP: at the next bundle boundary; a bundle that waits has not issued (R229). -/
def execEngStop (p : Packet) (s : State) : Host.Outcome State Fault Refusal :=
  let e := p.idx
  Cmd.run cmdEngStop p s [] []
    fun s => (s.modEng e fun E =>
      if E.startAt.isSome then { E with startAt := none }
      else match E.st with
        | .running | .handler => Engine.unclaim { E with
            st := .stopped, resumable := true, stalls := E.stallsAt s.time.slotCount, stall := none }
        | .restarting => { E with st := .stopped, resumable := false }
        | _ => E, .ok)

def cmdEngRingAck : Cmd := { opcode := 0x0906, cls := some 2 }

/-- ENG_RING_ACK (R221). -/
def execEngRingAck (p : Packet) (s : State) : Host.Outcome State Fault Refusal :=
  let e := p.idx
  let v : BitVec 48 := BitVec.ofNat 48 (p.inb 4 6)
  let E := s.eng e
  Cmd.run cmdEngRingAck p s
    [need (decide ((v - E.outRd).toNat ≤ (E.outWr - E.outRd).toNat)) (badParam noLoc 20)] []
    fun s => (s.modEng e fun E => { E with outRd := v }, .ok)

/-! ### Waits and streams -/

/-- ENG_STALL_END: the wait of the engine's bundle has ended, and it issues (R209, R214, R219, R221). -/
def execEngStallEnd (e : BitVec 9) (s : State) : Host.Outcome State Fault Refusal :=
  let n := e.toNat
  let E := s.eng n
  match E.stall with
  | none => .next s
  | some b => if E.runs && !bundleWaits s n (xSlot b) (ySlot b) then ok (issueBundle s n b) else .next s

/-- STREAM_ELEMENT_ARRIVE for the density image (R220): its next unit, while the hold stands. -/
def imageArrive (s : State) (i k : Nat) : State :=
  let E := s.eng i
  let t := E.stream k
  let D := (s.port (bindPort E i k)).dens
  let words := (List.range 4).map fun j => BitVec.ofNat 18 (D.imageUnit t.imagePos >>> (18 * j))
  if !E.takes || t.imageDone || t.imagePos ≥ 87400 || !D.readable || 4096 < t.words + 4 then s
  else
    let el : Elem := { words := words, whole := t.imagePos == 0, cursor := fbv D.snapTm 8 64, loss := t.pendLoss }
    s.modEng i fun E => { E with
      streams := E.streams.set k { t with fifo := t.fifo ++ [el], imagePos := t.imagePos + 1, pendLoss := false } }

/-- STREAM_ELEMENT_ARRIVE for every other source (R218, R219): the oldest element due enters the FIFO whole, or is
dropped and counted where it does not fit, or where a restart flushes the input (R232). -/
def elementArrive (s : State) (i k : Nat) : State :=
  let E := s.eng i
  let t := E.stream k
  match t.due with
  | [] => s
  | el :: rest =>
    let put' := fun (t : Stream) => s.modEng i fun E => { E with streams := E.streams.set k { t with due := rest } }
    if E.startAt.isSome then s
    else if !notAfter E.effSlot el.cursor then put' { t with pendLoss := t.pendLoss || el.loss }
    else if E.st == .restarting || 4096 < t.words + el.words.length then
      put' { t with lost := satInc t.lost el.words.length, pendLoss := true }
    else if E.takes then
      put' { t with fifo := t.fifo ++ [{ el with loss := el.loss || t.pendLoss }], pendLoss := false }
    else put' t

/-- STREAM_ELEMENT_ARRIVE: the next element of an input comes. -/
def execStreamElementArrive (e : BitVec 9) (n : BitVec 2) (s : State) : Host.Outcome State Fault Refusal :=
  let src := (s.eng e.toNat).bindSrc n.toNat
  if src = 0 then .next s
  else if src = 6 then ok (imageArrive s e.toNat n.toNat)
  else ok (elementArrive s e.toNat n.toNat)

/-! ### Faults and restarts (R231 to R233) -/

/-- A physical engine is free: in service, in a cluster that is switched on, and no loaded engine is placed on
it (log entry 908). -/
def physFree (s : State) (x : Nat) : Bool :=
  let k := x / 8
  clusterUsable s k && !(s.cluster k).failed.get false (x % 8)
  && !((s.engines.any fun y => y.2.st != .empty && physOf y.2 y.1 == x))

/-- The physical engine for a restart (R232). -/
def pickPhys (s : State) (e : Nat) : Option Nat :=
  let k := engCluster e
  match (clusterEngines k).find? (physFree s) with
  | some x => some x
  | none =>
    let others := ((List.range 4).map (4 * (k / 4) + ·)).filter fun c =>
      c != k && (s.pairOwner c == s.pairOwner k || (s.pairOwner c).isNone)
    (others.flatMap clusterEngines).find? (physFree s)

/-- Offset of the next word in the result ring. -/
def ringPos (E : Engine) : Nat := if E.outWords = 0 then 0 else E.outWr.toNat % E.outWords

/-- An engine result flag record (R233). -/
def flagRec (s : State) (e : Nat) (slot : Slot) (phase restarted phys pos : Nat) : State :=
  emitRec s (engPort e) slot 0x11
    (pack [(3, e % 8), (1, phase), (1, restarted), (9, phys), (19, pos)])

/-- An engine fault at physical engine `physOf`: the faulting bundle leaves no effect, the physical engine goes
out of service, and a free one is chosen. -/
def engFault (s : State) (e : Nat) (injected : Bool := false) : State :=
  let E := s.eng e
  let old := physOf E e
  let s1 := s.modCluster (old / 8) fun C => { C with failed := C.failed.set (old % 8) true }
  let new := pickPhys s1 e
  let s2 := flagRec s1 e s.time.slotCount 0 (b2n new.isSome) old (ringPos E)
  s2.modEng e fun E => { E with
    st := .restarting, stalls := E.stallsAt s.time.slotCount, stall := none, phys := match new with
      | some x => some (BitVec.ofNat 9 x)
      | none => E.phys
    noPhys := new.isNone, injected := injected }

/-- ENGINE_FAULT (R231): on a running engine. -/
def execEngineFault (e : BitVec 9) (s : State) : Host.Outcome State Fault Refusal :=
  if (s.eng e.toNat).runs then ok (engFault s e.toNat) else .next s

/-- ENGINE_RESTART (R232, R233): the engine starts fresh on the physical engine chosen, or goes to HALTED. -/
def execEngineRestart (e : BitVec 9) (s : State) : Host.Outcome State Fault Refusal :=
  let n := e.toNat
  let E := s.eng n
  if E.st != .restarting then .next s
  else if E.noPhys then
    let (v, s0) := s.fresh
    ok (haltEng s0 n (v % 32))
  else
    let now := s.time.slotCount
    let s1 := s.modEng n fun E => { freshEngine E now true with
      restarts := satInc E.restarts, warmEnd := some (now + BitVec.ofNat 64 E.warmSlots) }
    let s2 := s1.modFaults fun F => { F with restarts := satInc F.restarts }
    ok ((evFault s2 (s.engOwner n) (loc 2 n) 3 E.injected).modEng n fun E => { E with injected := false })

/-- WARM_SLOTS_END (R233): the flagged interval of a restart ends. -/
def execWarmSlotsEnd (e : BitVec 9) (s : State) : Host.Outcome State Fault Refusal :=
  let n := e.toNat
  let E := s.eng n
  match E.warmEnd with
  | none => .next s
  | some w => if !notAfter (beatSlot w) s.time.slotCount then .next s else
    ok ((flagRec s n (beatSlot w) 1 1 (physOf E n) (ringPos E)).modEng n fun E => { E with warmEnd := none })

end Sys2Proof.Machine
end

