-- ==== Sys2Proof/Machine/Memory.lean ====
section
/-! DEFINITION. The commands of family 0x0A and the events of the DRAM controllers (R249 to R276, R300). -/
namespace Sys2Proof.Machine

/-! ### Commands -/

/-- The ranges and reserved fields of the controller configuration block (R251). -/
def memCfgOk (c : BitVec 256) : Bool :=
  zeros c [(15, 1), (31, 1), (47, 1), (63, 1), (79, 1), (121, 7), (136, 120)] &&
    decide (512 ≤ fld c 96 16) && decide (1 ≤ fld c 112 8) && decide (1 ≤ fld c 128 8)

/-- The capture-class channels that a wipe reaches: RETIRED ones hold nothing (R260). -/
def wipeable (s : State) (cs : List Nat) : List Nat :=
  cs.filter fun c => !isLodge c && (s.chan c).st != .retired

def cmdMemCfgSet : Cmd := { opcode := 0x0A01, mgmt := true, accepts := true, data := 32 }

/-- MEM_CFG_SET (R251, R252): a change of a select field starts a wipe of every capture-class channel, which ends
at once where none is left. -/
def execMemCfgSet (p : Packet) (s : State) : Host.Outcome State Fault Refusal :=
  let c : BitVec 256 := p.blk 256
  let same := fbv c 0 80 == fbv s.hub.memCfg 0 80
  let r := Cmd.run cmdMemCfgSet p s
    [need (memCfgOk c) (badParam noLoc (p.dataOff false))]
    [bootBusy s (loc 4 0), need (!s.ports.any fun x => x.2.trig.armed) (stState locPackage 0)]
    (fun s =>
      if same then (s.modHub fun H => { H with memCfg := c }, .ok)
      else
        let cs := wipeable s captureChans
        let s1 := forEach cs (fun s k => s.modChan k fun C => { C with
          wiping := true, openRow := [], st := if C.st == .service then .inOrder else C.st }) s
        (s1.modHub fun H => { H with memCfg := c, cfgWipe := true, wipes := H.wipes ++ [⟨.memCfg, cs⟩] },
          .accept .memCfg 0))
  match r with
  | .next s1 =>
    if s1.hub.wipes.any fun w => w.kind == .memCfg && w.chans.isEmpty then
      ok (finishJob (s1.modHub fun H => { H with
        cfgWipe := false, wipes := H.wipes.filter fun w => w.kind != .memCfg || !w.chans.isEmpty }) .memCfg 0 0 0)
    else r
  | r => r

def cmdMemCfgGet : Cmd := { opcode := 0x0A02, buffer := true }

/-- MEM_CFG_GET (R251). -/
def execMemCfgGet (p : Packet) (s : State) : Host.Outcome State Fault Refusal :=
  Cmd.run cmdMemCfgGet p s [] []
    fun s => (s, .bytes (bytesOf 32 s.hub.memCfg.toNat))

/-- State code of a channel (R260). -/
def chanCode : ChanSt → Nat
  | .off => 0 | .training => 1 | .inOrder => 2 | .service => 3 | .selfRef => 4 | .fenced => 5 | .retired => 6

/-- The channel status block (R276). -/
def chanStatus (C : Chan) (mgmt : Bool) : Nat :=
  pack [(3, chanCode C.st), (1, b2n C.scrubOverdue), (1, b2n (!C.throttled.isEmpty)),
    (1, b2n (decide (256 ≤ C.plist.length))), (1, b2n C.delaysFixed), (1, 0), (9, C.plist.length), (15, 0),
    (48, C.ce.toNat), (48, C.ue.toNat), (48, C.lateIngest.toNat), (48, C.lateOther.toNat), (48, C.hammer.toNat),
    (24, C.winRefused.toNat), (8, 0), (26, C.scrubPos.toNat), (6, 0), (39, if mgmt then C.lastUe.toNat else 0),
    (1, 0), (32, C.passHours.toNat)]

def cmdMemStatus : Cmd := { opcode := 0x0A03, cls := some 4, buffer := true }

/-- MEM_STATUS (R276). -/
def execMemStatus (p : Packet) (s : State) : Host.Outcome State Fault Refusal :=
  Cmd.run cmdMemStatus p s [] []
    fun s => (s, .bytes (bytesOf 64 (chanStatus (s.chan p.idx) (p.fn == 0))))

def cmdMemDelayGet : Cmd := { opcode := 0x0A04, cls := some 4, buffer := true }

/-- MEM_DELAY_GET (R262). -/
def execMemDelayGet (p : Packet) (s : State) : Host.Outcome State Fault Refusal :=
  Cmd.run cmdMemDelayGet p s [] []
    fun s => (s, .bytes (bytesOf 16 (s.chan p.idx).delays.toNat))

def cmdMemTest : Cmd := { opcode := 0x0A05, mgmt := true, accepts := true, cls := some 4 }

/-- MEM_TEST (R258, R260, R300): the channel goes to IN_ORDER for its test, and is then wiped. -/
def execMemTest (p : Packet) (s : State) : Host.Outcome State Fault Refusal :=
  let c := p.idx
  Cmd.run cmdMemTest p s []
    [need (!(regionPorts (chanRegion c)).any fun q => (s.port q).trig.armed)
      (stState (loc 4 c) (chanCode (s.chan c).st)),
     need ((s.chan c).st == .service) (stState (loc 4 c) (chanCode (s.chan c).st))]
    fun s =>
      let s1 := s.modChan c fun C => { C with st := .inOrder, testing := some (originOf p), wiping := true }
      (s1.modHub fun H => { H with wipes := H.wipes ++ [⟨.memTest c, [c]⟩] }, .accept (.memTest c) 0)

def cmdMemRetire : Cmd := { opcode := 0x0A06, mgmt := true, cls := some 4 }

/-- MEM_RETIRE (R270, R271). -/
def execMemRetire (p : Packet) (s : State) : Host.Outcome State Fault Refusal :=
  let c := p.idx
  Cmd.run cmdMemRetire p s
    [need (!isLodge c) (badParam (loc 4 c) 16)]
    [need (chanServes s c) (stState (loc 4 c) (chanCode (s.chan c).st))]
    fun s => (fence s c 3, .ok)

/-! ### Requests -/

/-- MEM_REQUEST: a request arrives, is checked against the windows and is queued (R253, R272 to R275). A
store leaves its port's FIFO in order, and not while the port's stores are held (R271) or a write that must
complete first is outstanding (R146). -/
def execMemRequest (r : ReqIn) (s : State) : Host.Outcome State Fault Refusal :=
  match r with
  | .store port =>
    let p := port.toNat
    let R := (s.port p).run
    match R.fifo with
    | [] => .next s
    | x :: rest =>
      if R.storesHeld || clearing s p ||
          (storePieces x).any (fun y => (s.chan (addrChan y.1)).st == .fenced) then .next s
      else ok (issueStore s p x rest)
  | .dma n write a len => ok (dmaRequest s n.toNat write a len)
  | .firmware write a bs len =>
    if a + len ≤ 2 ^ 39 && backed a && backed (a + len - 1) then
      let pieces := cutGranules (len / 4608 + 2) a (if write then bs else List.replicate len 0)
      ok (pieces.foldl (fun s x => acceptReq s { MemReq.reset with
        cls := .control, write := write, addr := x.1, data := if write then x.2 else [], len := x.2.length } none) s)
    else ok (s.out (.control true [] false))
  | .lodge write hi a bs len =>
    let q : MemReq := { MemReq.reset with
      cls := .control, write := write, addr := a, inChan := some (if hi then 15 else 7), data := bs, len := len }
    if 0 < q.size && a + q.size ≤ reservedFrom && a / 4608 == (a + q.size - 1) / 4608 then ok (acceptReq s q none)
    else ok (s.out (.control true [] false))

/-- MEM_ACCESS_COMPLETE: the request at position `i` of the queue completes; `bursts` are the errors of the bursts
that it reads (R254 to R258, R263 to R265, R268). -/
def execMemAccessComplete (c : BitVec 7) (i : Nat) (bursts : List BurstIn) (s : State) :
    Host.Outcome State Fault Refusal :=
  let k := c.toNat
  let C := s.chan k
  match C.queue[i]? with
  | none => .next s
  | some q =>
    if !mayServe s k i then .next s
    else
      let r := serveReq s k i q bursts
      ok (reqDone r.1 q r.2)

/-- REFRESH (R254, R256, R259): the refresh of the interval is issued and closes every row, or is postponed
by an interval while a request of urgency 2 waits, at most 8 of them. The refresh window ends with it where
`windowEnd` says so. -/
def execRefresh (c : BitVec 7) (postpone windowEnd : Bool) (s : State) : Host.Outcome State Fault Refusal :=
  let k := c.toNat
  let C := s.chan k
  if !chanServes s k then .next s
  else if postpone then
    if C.queue.any (fun q => q.urgency == 2) && decide (C.postponed < 8) then
      ok (s.modChan k fun C => { C with postponed := C.postponed + 1 })
    else .next s
  else
    ok ((s.modChan k fun C => { C with
      openRow := [], postponed := C.postponed - 1, acts := if windowEnd then [] else C.acts }).out (.refresh k none))

/-- Row indices of the rows next to a row, in its rank and bank (R251, R259). -/
def neighbours (cfg : BitVec 256) (v : Nat) : List Nat :=
  let row := v / 32
  let at' := fun (r : Nat) => ((List.range 32).map (32 * r + ·)).filter fun w => bankKey cfg w == bankKey cfg v
  (if row = 0 then [] else at' (row - 1)) ++ if row + 1 < 29128 then at' (row + 1) else []

/-- HAMMER_THRESHOLD: a row has reached act_thr activations. The groomer is no requester that is throttled
(R259). -/
def execHammerThreshold (c : BitVec 7) (who : Nat) (s : State) : Host.Outcome State Fault Refusal :=
  let k := c.toNat
  match (s.chan k).hammerDue.find? fun x => x.1 == who with
  | none => .next s
  | some x =>
    let cfg := s.hub.memCfg
    let s1 := (neighbours cfg x.2.1).foldl (fun s v => s.out (.refresh k (some v))) s
    ok (s1.modChan k fun C => { C with
      hammerDue := C.hammerDue.erase x, hammer := satInc C.hammer
      throttled := if who < 161 then C.throttled ++ [(who, bankKey cfg x.2.1, x.2.2)] else C.throttled })

/-- THROTTLE_END: 1 ms after the threshold (R259). -/
def execThrottleEnd (c : BitVec 7) (who : Nat) (s : State) : Host.Outcome State Fault Refusal :=
  match (s.chan c.toNat).throttled.find? fun x => x.1 == who with
  | none => .next s
  | some x => ok (s.modChan c.toNat fun C => { C with throttled := C.throttled.erase x })

/-- RANK_POWER_DOWN: a rank without an access for pd_idle ns; its rows close (R256). -/
def execRankPowerDown (c : BitVec 7) (rank : Bool) (s : State) : Host.Outcome State Fault Refusal :=
  let k := c.toNat
  let r := b2n rank
  let C := s.chan k
  if !chanServes s k || fld s.hub.memCfg 80 16 == 0 || C.rankDown.getD r false ||
      C.queue.any (fun q => bankKey s.hub.memCfg q.row / 16 == r) then .next s
  else ok (s.modChan k fun C => { C with
    rankDown := C.rankDown.set r true, openRow := C.openRow.filter fun x => x.1 / 16 != r })

/-! ### The groomer (R266 to R269) -/

/-- Bursts of a channel, the reserved area included (R249). -/
def chanBursts : Nat := 59654144

/-- EV_SCRUB, with its log entry. -/
def evScrub (s : State) (c : Nat) (on : Bool) : State :=
  let d := loc 4 c + 2 ^ 16 * b2n on
  logEv (evM s 0x8008 d 0) 0x8008 (loc 4 c) d 0

/-- Slots of one hour. -/
def hourSlots : Nat := nsSlots 3600000000000

/-- Slots since the groomer's pass began. -/
def passSlots (s : State) (C : Chan) : Nat := slotsTo (C.passStart.getD s.time.slotCount) s.time.slotCount

/-- The duration of a pass in 1/1,024 h; between two steps the package rounds (log entry 1115). -/
def passUnits (n : Nat) : Nat :=
  n * 1024 / hourSlots + b2n (n * 1024 % hourSlots != 0 && Config.roundsUp (n * 1024) hourSlots)

/-- Moves the groomer to the next burst. The next pass begins when one ends (R266, R269, R276). -/
def groomerNext (s : State) (c : Nat) : State :=
  let C := s.chan c
  if C.scrubPos.toNat + 1 < chanBursts then s.modChan c fun C => { C with
    scrubPos := C.scrubPos + 1, passStart := some (C.passStart.getD s.time.slotCount) }
  else
    let clear := C.scrubOverdue && decide (passSlots s C ≤ 24 * hourSlots)
    let s1 := s.modChan c fun C => { C with
      scrubPos := 0, passHours := BitVec.ofNat 32 (min (passUnits (passSlots s C)) (2 ^ 32 - 1))
      passStart := some s.time.slotCount, scrubOverdue := C.scrubOverdue && !clear }
    if clear then evScrub s1 c false else s1

/-- The groomer's request takes its turn among the requests of the channel, and its row opens (R254, R256 to
R259). -/
def groomerTurn (s : State) (c : Nat) (q : MemReq) : Option State :=
  let older := (s.chan c).queue.takeWhile fun r => decide (q.age ≤ r.age)
  let s1 := s.modChan c fun C => { C with queue := older ++ q :: C.queue.drop older.length }
  if mayServe s1 c older.length then
    some (s.modChan c fun C => touchRow s.hub.memCfg s.time.slotCount C q.row q.id)
  else none

/-- The groomer's read of a burst (R264, R267): once more where it does not decode; a second read that decodes is
a corrected error, a second one that does not leaves the burst as it is and marks it. -/
def groomBurst (s : State) (c b : Nat) (first again : BurstIn) : State :=
  let es := xorSyms ((s.chan c).errs.get [] b) first.hard
  let s1 := if first.hard.isEmpty then s else s.modChan c fun C => C.setErrs b es
  match decodeSyms (xorSyms es first.soft) with
  | .good _ none => s1
  | .good left (some i) => corrected s1 c b i (symBytes left (burstBytes s1 c b)) true
  | .bad =>
    let es2 := xorSyms es again.hard
    let s2 := if again.hard.isEmpty then s1 else s1.modChan c fun C => C.setErrs b es2
    match decodeSyms (xorSyms es2 again.soft) with
    | .good left fixed => corrected s2 c b (fixed.getD 40) (symBytes left (burstBytes s2 c b)) true
    | .bad => foundBad s2 c b

/-- GROOMER_READ: the groomer reads the next burst (R254, R266). -/
def execGroomerRead (c : BitVec 7) (age : Nat) (first again : BurstIn) (s : State) :
    Host.Outcome State Fault Refusal :=
  let k := c.toNat
  let b := (s.chan k).scrubPos.toNat
  let q : MemReq := { MemReq.reset with cls := .scrub, addr := 72 * b, inChan := some k, len := 72, age := age }
  if !chanServes s k then .next s
  else match groomerTurn s k q with
    | none => .next s
    | some s1 => ok (groomerNext (groomBurst s1 k b first again) k)

/-- SCRUB_OVERDUE: the pass has not ended 24 h after it began (R269). -/
def execScrubOverdue (c : BitVec 7) (s : State) : Host.Outcome State Fault Refusal :=
  let C := s.chan c.toNat
  if !chanServes s c.toNat || C.scrubOverdue || passSlots s C < 24 * hourSlots then .next s
  else ok (evScrub (s.modChan c.toNat fun C => { C with scrubOverdue := true }) c.toNat true)

/-! ### Re-sweeps and retirement (R261, R270, R271) -/

/-- LANE_RESWEEP: more than 64 corrected errors on one lane within 1 ms. -/
def execLaneResweep (c : BitVec 7) (lane : BitVec 3) (s : State) : Host.Outcome State Fault Refusal :=
  let C := s.chan c.toNat
  let recent := C.laneCe.filter fun x =>
    x.2 == lane.toNat && decide (slotsTo x.1 s.time.slotCount < nsSlots 1000000)
  if C.st == .service && lane.toNat < 5 && !isLodge c.toNat && decide (64 < recent.length) then
    ok (s.modChan c.toNat fun C => { C with st := .inOrder, reSweep := some lane.toNat })
  else .next s

/-- CHANNEL_RETIRE: a cause of R270 is found in a serving capture-class channel. A sweep that leaves no usable
delays retires the channel in its own row. -/
def execChannelRetire (c : BitVec 7) (cause : RetireCause) (s : State) : Host.Outcome State Fault Refusal :=
  let k := c.toNat
  let C := s.chan k
  let holds := match cause with
    | .errors => bit s.hub.memCfg 120 &&
        decide (fld s.hub.memCfg 128 8 ≤ (lastSecond s.time.slotCount C.ueTimes).length)
    | .noResponse => true
    | .sweep => false
  if isLodge k || !chanServes s k || !holds then .next s
  else ok (fence s k (match cause with | .errors => 0 | .noResponse => 1 | .sweep => 2))

/-- RETIREMENT_RESUME: the marks of the retirement are written, every router of the die has been loaded, and
the channel is RETIRED. -/
def execRetirementResume (c : BitVec 7) (s : State) : Host.Outcome State Fault Refusal :=
  let k := c.toNat
  if (s.chan k).st != .fenced || s.hub.marks.any (fun m => m.2.2 == some k) then .next s
  else ok (retired s k)

/-- IN_ORDER_RECOVERY_END: 1 ms after a retirement the region's other channels return to SERVICE. -/
def execInOrderRecoveryEnd (r : BitVec 4) (s : State) : Host.Outcome State Fault Refusal :=
  if (s.region r.toNat).recover && decide (nsSlots 1000000 ≤ slotsTo (s.region r.toNat).recoverFrom s.time.slotCount) then
    ok (forEach (regionChans r.toNat) toService (s.modRegion r.toNat fun R => { R with recover := false }))
  else .next s

end Sys2Proof.Machine
end

