-- ==== Sys2Proof/Machine/Scope.lean ====
section
/-! DEFINITION. Reset scopes, switching a container off, and the resets of a function (R20, R22 to R25,
R325 to R327, R396). -/
namespace Sys2Proof.Machine

/-! ### Wipes and the requests they meet (R25, R269) -/

/-- A request to a block that is being reset ends with an error response (R25). -/
def reqError (s0 : State) (q : MemReq) : State :=
  let s := s0.modChan q.chan (countLate q)
  match q.cls with
  | .dma =>
    if q.write then reqRetired s0 q
    else dmaFail (s.modDma q.who fun D => { D with cur := D.cur.map fun d => { d with
      issued := min d.issued q.off, resp := d.resp.filter fun x => decide (x.1 < q.off) } }) q.who false
  | .ingest => storeDone s q
  | .control => s.out (.control true [] false)
  | .scrub => s0

/-- Every request at a channel ends with an error response. -/
def failReqs (s : State) (c : Nat) : State :=
  let qs := (s.chan c).queue ++ (s.chan c).held
  qs.foldl reqError (s.modChan c fun C => { C with queue := [], held := [] })

/-- A channel after a reset (R23, R24): state and counters go; its place in service, its delays, the marks of a
retirement, and what a wipe in progress still clears stay. -/
def Chan.cleared (C : Chan) : Chan :=
  { Chan.reset with
    st := C.st, delaysFixed := C.delaysFixed, delays := C.delays, lastGood := C.lastGood, reserved := C.reserved
    plist := C.plist, errs := C.errs, priv := C.priv, wiping := C.wiping, testing := C.testing
    retireCause := C.retireCause }

/-- A reset of channels within the scope that a location code names: what is in flight fails, and they are
wiped (R23, R25, R260). -/
def resetChans (s : State) (l : Nat) (cs : List Nat) : State :=
  startWipe (forEach (cs.filter fun c => (s.chan c).st != .retired && (s.chan c).st != .fenced)
    (fun s c => (failReqs s c).modChan c Chan.cleared) s) (.scope l) cs

/-- One reset scope, by location code, lies in another (R23). -/
def scopeCovers (a b : Nat) : Bool :=
  a == b || match a / 0x1000 with
    | 8 => locRegion b == some (a % 512)
    | 9 => locDie b == some (a % 512)
    | _ => false

/-- A reset in progress, of the package or of a scope that ends with its wipe, covers a reset of the block that a
location code names: the latter has no further effect (R25). -/
def coveredReset (s : State) (l : Nat) : Bool :=
  s.hub.wipes.any fun w => match w.kind with
    | .reset => true
    | .scope a => scopeCovers a l
    | _ => false

/-! ### Unit reset (R23 to R25, R171, R229, R346) -/

/-- Registers of the port service table that belong to the front end return to their reset values (R24,
R63). -/
def Port.clearRegs (P : Port) : Port :=
  { P with fmt := 0, validEn := false, skew := 0, loopDelay := 0, badBlocks := 0, gapBlocks := 0, calBlocks := 0 }

/-- A front end is reset (R25): operating state and counters go, tables stay. An armed port is disarmed at
slot 0 of the first beat after the reset; its slots up to there are lost with cause 0x4. -/
def frontReset (s : State) (p : Nat) : State :=
  let next := nextBeatOf s p
  s.modPort p fun P0 =>
    let P := P0.clearRegs
    let T := P.trig
    let T1 := { T with
      gst := [], runs := 0, lastTrig := 0, tunes := [], remote := [], ckptBeat := none
      ckptSt := SlalomCore.reset, ckptGates := [], replaying := none, mismatches := [] }
    let R1 := { P.run with dropped := 0, fallback := 0, maskViol := 0 }
    if T.armed then { P with
      deskew := P.deskew.map fun b =>
        if notAfter next b.slot then b else { b with lost := true, cause := 4, words := [] }
      trig := { T1 with
        disarmAt := (P0.disarmBy next).trig.disarmAt
        sl := { SlalomCore.reset with
          phase := T.sl.phase, trig := T.sl.trig, roHits := T.sl.roHits, roDone := T.sl.roDone
          liftEnd := T.sl.liftEnd } }
      run := R1 }
    else { P with trig := { T1 with sl := SlalomCore.reset }, run := R1 }

/-- Unit reset of an engine: STOPPED with reset registers and its images loaded again (R229). -/
def engineReset (s : State) (e : Nat) : State :=
  s.modEng e fun E => { Engine.reset with
    st := if E.st == .empty then .empty else .stopped
    imem := E.imem, image := E.image, dmem := E.image, cfg := E.cfg, phys := E.phys }

/-- Unit reset of an FFT pipe: its chain stops and its counters clear (R171). -/
def pipeReset (s : State) (f : Nat) : State :=
  let p := f / 2
  (stopChain s p 7 (portSlot s p)).modPort p fun P => { P with chain := { P.chain with
    satCount := 0, specDropped := 0 } }

/-- Unit reset of a compression engine: a job in progress ends with outcome 7, and nothing of it is kept. -/
def cmpReset (s : State) (m : Nat) : State :=
  let C := s.cmpEng m
  let s1 := if C.st == 1 || C.st == 2 then
      cmpEnd s m 7 2 (min C.inConsumed.toNat (2 ^ 32 - 1)) .idle
    else s
  s1.modCmp m fun _ => Cmp.reset

/-- Unit reset of a DMA channel (R23 to R25, R346): one that runs halts with reason 9 and writes a record, of
the descriptor in progress or of the last one, and its state and counters clear once it is HALTED; one that is
stopped clears at once. -/
def dmaReset (s : State) (n : Nat) : State :=
  let D := s.dmaCh n
  if D.st == .idle || D.st == .halted then s.modDma n fun D => { D.cleared with st := .idle }
  else
    let s1 := s.modDma n fun D => { D with resetting := true }
    if D.cur.isSome || D.recWait.isSome || D.st == .halting then dmaHalt s1 n 9
    else
      let (v, s2) := s1.fresh
      dmaHalt (s2.modDma n fun D => { D with
        cur := some { Desc.reset with addr := D.descAddr, bits := put 0 384 64 v } }) n 9

/-- Unit reset of the block that a location code names. Only units have one. -/
def unitReset (s : State) (l : Nat) : State :=
  let i := l % 512
  if !locOk l then s
  else match l / 0x1000 with
    | 0 => frontReset s i
    | 1 => match (s.region i).spareOf with
      | some p => frontReset s p
      | none => s
    | 2 => engineReset s i
    | 3 => pipeReset s i
    | 4 => resetChans s l [i]
    | 5 => cmpReset s i
    | 6 => dmaReset s i
    | _ => s

/-! ### Region and die reset (R23 to R25) -/

/-- What a port's front end keeps of a wider reset than a unit's: the spare that serves it, and a home front
end out of service, until package reset (R448, R449). -/
def clearFront (P : Port) : Port :=
  { P.clearRegs with
    deskew := [], chain := Chain.reset, dens := Dens.reset, run := PortRun.reset
    trig := { PortTrig.reset with heldOut := P.trig.heldOut, fenced := P.trig.fenced } }

/-- The ports of a region lose their front ends: each goes DOWN and is disarmed, and the marker of its lost
slots, up to the disarm, enters its record stream (R25). -/
def dropPort (s : State) (p : Nat) : State :=
  let marked := endGap (loseUpTo s p (nextBeatOf s p)) p
  let s1 := portDown (frontReset s p) p
  (followEnd (goIdle s1 p) p).modPort p fun P =>
    let Q := clearFront P
    { Q with run := { Q.run with recs := (marked.port p).run.recs } }

/-- What a region loses in a reset, but for its channels. -/
def regionClear (s : State) (r : Nat) : State :=
  let s1 := forEach (regionPorts r) dropPort s
  let s2 := forEach ((List.range 4).map (4 * r + ·)) Sys2Proof.Machine.clusterReset s1
  s2.modRegion r fun R => { Region.reset with
    powered := R.powered, powering := R.powering, spareOf := R.spareOf }

/-- Region reset: it ends with the wipe of the region's channels. -/
def regionReset (s : State) (r : Nat) : State := resetChans (regionClear s r) (loc 8 r) (regionChans r)

/-- Die reset: every region of the die, with one wipe. What patrol holds about the die stays with patrol. -/
def dieReset (s : State) (d : Nat) : State :=
  let rs := (List.range 4).map (4 * d + ·)
  resetChans (forEach rs regionClear s) (loc 9 d) (rs.flatMap regionChans)

/-! ### Switching off (R20, R22, R396) -/

/-- A cluster is switched off: every memory of it is lost (R20). Device firmware keeps copies of the images and the
configuration of engines, chains and density fields, and writes them again when it switches the cluster on (R228):
what stands here meanwhile are its copies. -/
def clusterOff (s : State) (k : Nat) : State :=
  let s1 := s.modCluster k fun C => { Cluster.reset with failed := C.failed, idleOff := true }
  let s2 := forEach (clusterEngines k) engineReset s1
  forEach (pairPorts k) (fun s p => (stopChain s p 7 (portSlot s p)).modPort p fun P =>
    let C := P.chain
    { P with
      chain := { Chain.reset with
        cfg := C.cfg, userCfir := C.userCfir, halfband := C.halfband, window := C.window, units := C.units
        mask := C.mask, lastCause := C.lastCause }
      dens := { Dens.reset with cfg := P.dens.cfg } }) s2

/-- A port of the region has power: it is beyond cold, armed, or has stores to write (R20, R391). -/
def portPowered (P : Port) : Bool :=
  portTokens P != 0 || P.trig.armed || !P.run.fifo.isEmpty || !P.run.closing.isEmpty

def regionClusters (r : Nat) : List Nat := (List.range 4).map (4 * r + ·)
def dieRegions (d : Nat) : List Nat := (List.range 4).map (4 * d + ·)

/-- The region is no longer needed (R396): no powered port or cluster, and no policy that keeps it (R398). -/
def regionIdle (s : State) (r : Nat) : Bool :=
  let R := s.region r
  let D := s.die (r / 4)
  R.powered && !R.powering && (D.policy != 3 || D.tCrit) &&
    !(regionPorts r).any (fun p => portPowered (s.port p)) &&
    !(regionClusters r).any fun k => clusterOn (s.cluster k)

/-- die_state follows the regions (R401). -/
def settleDie (s : State) (d : Nat) : State :=
  s.modDie d fun D =>
    if D.pwr = 0 then D
    else { D with pwr := if (dieRegions d).any fun r => (s.region r).powered then 2 else 1 }

/-- A region is switched off: router queues and routing tables are lost (R20). -/
def regionOff (s : State) (r : Nat) : State :=
  settleDie (s.modRegion r fun R => { R with powered := false, powering := false, cache := WinCache.reset })
    (r / 4)

/-- Patrol switches off the regions that are no longer needed (R396). -/
def patrolRegions (s : State) : State :=
  forEach (List.range 16) (fun s r => if regionIdle s r then regionOff s r else s) s

/-- The capture-class channels of a stack that are in SERVICE go into self-refresh (R20, R260). -/
def selfRefresh (s : State) (k : Nat) : State :=
  forEach (stackChans k) (fun s c =>
    if (s.chan c).st == .service then s.modChan c fun C => { C with
      st := .selfRef, openRow := [], postponed := 0, rankDown := [false, false] }
    else s) s

/-- Requests, wipes, trainings or an in-order phase of the die's channels are under way: self-refresh is entered
from SERVICE (R260). -/
def dieWorks (s : State) (d : Nat) : Bool :=
  (dieRegions d).any fun r => (regionChans r).any fun c =>
    let C := s.chan c
    !C.queue.isEmpty || !C.held.isEmpty || C.wiping || C.testing.isSome || C.st == .fenced || C.st == .inOrder ||
      C.st == .training

/-- A DMA channel waits for the die's memory (R21). -/
def dieWanted (s : State) (d : Nat) : Bool :=
  s.pwr.queue.any fun g => g.dma && g.holders.contains (.die d)

/-- A capture die is switched off: its stacks go into self-refresh first, and all die state is lost (R20). -/
def dieOff (s : State) (d : Nat) : State :=
  let s1 := forEach [2 * d, 2 * d + 1] selfRefresh s
  let s2 := forEach (dieRegions d) (fun s r =>
    forEach (regionPorts r) (fun s p => s.modPort p fun P =>
      let Q := clearFront P
      { Q with chain := P.chain, dens := P.dens }) (regionOff (forEach (regionClusters r) clusterOff s) r)) s1
  s2.modDie d fun D => { D with pwr := 0, powering := false }

/-! ### Function reset and FLR (R325 to R327) -/

/-- The registers of a function after a function reset; what waits for an entry keeps its reservation
(R289, R291, R325). Event records of the backlog are lost with the queue. -/
def Fn.cleared (F : Fn) (owed : Nat) : Fn :=
  { Fn.reset with
    qSeq := F.qSeq, evtCount := F.evtCount, doneWait := F.doneWait, reserved := F.doneWait.length + owed
    evtLost := BitVec.ofNat 32 F.backlog.length, lostRun := satInc F.lostRun F.backlog.length
    aerPoison := F.aerPoison, wasPending := F.wasPending, inta := F.inta, pmeEn := F.pmeEn, flr := F.flr, flrWiped := F.flrWiped }

/-- Accepted work of a function's queue. -/
def owedBy (s : State) (f : Nat) : Nat :=
  (s.hub.accepted.filter fun a => match a.origin with
    | .cmd false g _ _ _ => g.toNat == f
    | _ => false).length

/-- The mailbox command in progress completes with no reply (R325, R326). -/
def dropMailbox (s : State) : State :=
  { s.modHub (fun H => { H with accepted := H.accepted.filter fun a => match a.origin with
      | .cmd true _ _ _ _ => false
      | _ => true }) with
    mbox := { s.mbox with busy := false, begun := false } }

/-- Token requests of a function's commands that have not begun are withdrawn with them. -/
def dropGrants (s : State) (f : Nat) : State :=
  s.modPwr fun P => { P with queue := P.queue.filter fun g => match g.packet with
    | some p => p.mbox || p.fn.toNat != f
    | none => true }

/-- A function reset (R325): registers clear, fetched commands are discarded, begun ones reply no more, and
the partition's DMA channels halt with reason 9. -/
def functionReset (s : State) (f : Nat) : State :=
  let s1 := if f = 0 then dropMailbox s else s
  let s2 := (dropGrants s1 f).modFn f fun F => F.cleared (owedBy s1 f)
  forEach (s.partDma f) (fun s n => dmaHalt s n 9) s2

/-- The eight functions of an endpoint (R277). -/
def epFns (ep : Bool) : List Nat := (List.range 8).map (8 * b2n ep + ·)

/-- A DMA channel uses an endpoint: its partition's path, or the path of its descriptor (R327, R346). -/
def usesEp (s : State) (n : Nat) (ep : Bool) : Bool :=
  dmaEp s n false == ep || match (s.dmaCh n).cur with
    | some d => dmaEp s n d.path == ep
    | none => false

/-- A link goes down (R327): the DMA channels on it halt with reason 10, and its functions are reset. -/
def linkDown (s : State) (ep : Bool) : State :=
  let s1 := s.modEp (b2n ep) fun E => { E with up := false }
  let s2 := forEach ((List.range 32).filter fun n => (s.dmaOwner n).isSome && usesEp s n ep)
    (fun s n => dmaHalt s n 10) s1
  forEach (epFns ep) functionReset s2

/-- The partition's capture stops (R326): ports are disarmed, engines and chains stop, the clusters of its
port pairs are reset, and its session ends. -/
def silencePartition (s : State) (k : Nat) : State :=
  let s1 := forEach (s.partDma k) silenceDma s
  let s2 := forEach (s.partPorts k) (fun s p =>
    let next := nextBeatOf s p
    (stopChain s p 7 (portSlot s p)).modPort p fun P => P.disarmBy next) s1
  let pairs := (List.range 64).filter fun i => s.pairOwner i == some (BitVec.ofNat 4 k)
  endUserSession (forEach pairs Sys2Proof.Machine.clusterReset s2) k 1

/-- The compression jobs of a partition end with no EV_DONE (R358). -/
def dropJobs (s : State) (k : Nat) : State :=
  forEach ((List.range 16).filter fun m => (s.cmpEng m).part == k && ((s.cmpEng m).st == 1 || (s.cmpEng m).st == 2))
    (fun s m => s.modCmp m fun C => { C with st := 3, outcome := 6, input := [], output := [] }) s

/-- The steps of an FLR from its start to the beginning of its wipe (R297, R326). -/
def startFlr (s : State) (f : Nat) : State :=
  let s0 := s.modFn f fun F => { F with flr := true, flrWiped := false, doneWait := [] }
  let s1 := s0.modHub fun H => { H with accepted := H.accepted.filter fun a => match a.origin with
    | .cmd false g _ _ _ => g.toNat != f
    | _ => true }
  let s2 := silencePartition (dropJobs s1 f) f
  let s3 := functionReset s2 f
  let s4 := if f = 0 then { s3 with mbox := { s3.mbox with ready := false, done := false } } else s3
  if (partChans s4 f).all fun c => (s4.chan c).st == .retired || (s4.chan c).st == .fenced then
    (endPartWipe s4 f 2).modFn f fun F => { F with flrWiped := true }
  else startWipe s4 (.flr f) (partChans s4 f)

end Sys2Proof.Machine
end

