-- ==== Sys2Proof/Machine/Security.lean ====
section
/-! DEFINITION. The commands of family 0x0F and the steps of the security island (R408 to R435). -/
namespace Sys2Proof.Machine

/-! ### Attestation -/

def cmdAttest : Cmd := { opcode := 0x0F01, buffer := true, sub := true, island := true }

def cmdAttestReport : Cmd := { cmdAttest with data := 32 }

/-- The row is selected by sub; a sub of no row takes the first row. -/
def execSecAttestReport (p : Packet) (s : State) : Host.Outcome State Fault Refusal :=
  if p.subv = 1 || p.subv = 2 then .next s else
  Cmd.run cmdAttestReport p s
    [need (p.subv = 0) (badParam noLoc 18)]
    [need (canSign s) (denied 5)]
    fun s =>
      let cal := calRecord s p.part false
      let nonce := Config.sha384 (slice p.data 0 32)
      (s, .bytes (sealBytes s p.part true 0 nonce.toNat 0 s.nowTm.toNat 0 none cal))

/-- SEC_ATTEST sub 1: the installed certificates, and before that both public keys (R422). -/
def execSecAttestCerts (p : Packet) (s : State) : Host.Outcome State Fault Refusal :=
  if p.subv ≠ 1 then .next s else
  Cmd.run cmdAttest p s [] [] fun s =>
    (s, .bytes (if s.sec.certs.isEmpty then Config.pubKeys else s.sec.certs))

/-- SEC_ATTEST sub 2: the calibration record (R420). -/
def execSecAttestCal (p : Packet) (s : State) : Host.Outcome State Fault Refusal :=
  if p.subv ≠ 2 then .next s else
  Cmd.run cmdAttest p s [] [] fun s => (s, .bytes (calRecord s p.part false))

/-! ### Sessions -/

def cmdSecSessionOpen : Cmd := { opcode := 0x0F02, accepts := true, buffer := true, island := true }

/-- SEC_SESSION_OPEN (R413): the request is checked, and the island opens the session later. -/
def execSecSessionOpen (p : Packet) (s : State) : Host.Outcome State Fault Refusal :=
  let r := p.refData
  let role := le (slice r 0 1)
  let cl := le (slice r 2 2)
  Cmd.run cmdSecSessionOpen p s
    [ need p.dataRef (badParam noLoc 6),
      need (9216 + cl ≤ r.length) (badParam noLoc r.length),
      need (credentialOk s p.part r || role > 1) ⟨0x31, 2⟩,
      need (role ≠ 1 || p.fn == 0) (denied 3),
      need (role = 1 || lifecycle s = 1 || lifecycle s = 2) (denied 5),
      need (role ≤ 1) (badParam noLoc 0),
      need (reqReserved r) (badParam noLoc noLoc),
      need (cl = 0 || cl = 7504) (badParam noLoc 2),
      need (Config.keyValid (slice r 64 97) && Config.keyValid (slice r 192 2592) &&
        Config.keyValid (slice r 2784 97) && Config.keyValid (slice r 2912 1568)) (badParam noLoc noLoc) ]
    [ need (if role = 1 then s.sec.coSession.isNone else (s.part p.part).session.isNone)
        (stState 0xC005 0) ]
    fun s => (s.modSec fun S => { S with islandJob := S.islandJob ++ [(.sessionOpen, p)] },
      .accept .island 0)

/-- A compression job of the partition is RUNNING or HELD (R358). -/
def partCompressing (s : State) (k : Nat) : Bool :=
  s.cmp.any fun m => m.2.part == k && (m.2.st == 1 || m.2.st == 2)

def cmdSecSessionClose : Cmd := { opcode := 0x0F03, auth := true, accepts := true, buffer := true, island := true }

/-- SEC_SESSION_CLOSE (R419). -/
def execSecSessionClose (p : Packet) (s : State) : Host.Outcome State Fault Refusal :=
  let role := p.inb 4 1
  let busyDma := (s.partDma p.part).any fun n =>
    let st := (s.dmaCh n).st
    st == .running || st == .halting || st == .job
  Cmd.run cmdSecSessionClose p s
    [need (role ≤ 1) (badParam noLoc 20)]
    [ need (if role = 1 then s.sec.coSession.isSome else (s.part p.part).session.isSome)
        (stState 0xC005 0),
      need (!(s.partPorts p.part).any fun n => (s.port n).trig.armed) (stState 0xC005 0),
      need (!busyDma) (stState 0xC005 0),
      need (!partCompressing s p.part) (stState 0xC005 0) ]
    fun s => (s.modSec fun S => { S with islandJob := S.islandJob ++ [(.seal, p)] }, .accept .island 0)

/-! ### Approved mode and life cycle -/

/-- A session other than the Crypto Officer session that authenticates the command is open (R410; log
entry 1701). -/
def otherSession (s : State) : Bool := (List.range 16).any fun k => (s.part k).session.isSome

def cmdApproved : Cmd := { opcode := 0x0F04, mgmt := true, auth := true }

def setApproved (p : Packet) (s : State) (on : Bool) : Host.Outcome State Fault Refusal :=
  Cmd.run cmdApproved p s
    [ need (lifecycle s = 2) (denied 5),
      need (on || !bit s.sec.sensed 8) (denied 4),
      need (p.inb 4 1 = b2n on) (badParam noLoc 20) ]
    [need (!otherSession s) (stState 0xC005 0)]
    fun s => (audit (s.modSec fun S => { S with approved := on }) 7 0 2 0xC005 0 (b2n on) 0, .ok)

/-- SEC_APPROVED, enter (R410). -/
def execSecApprovedEnter (p : Packet) (s : State) : Host.Outcome State Fault Refusal :=
  if p.inb 4 1 ≠ 1 then .next s else setApproved p s true

/-- SEC_APPROVED, leave (R410); an option of no row takes this row. -/
def execSecApprovedLeave (p : Packet) (s : State) : Host.Outcome State Fault Refusal :=
  if p.inb 4 1 = 1 then .next s else setApproved p s false

def cmdLifecycle : Cmd :=
  { opcode := 0x0F05, mgmt := true, auth := true, accepts := true, island := true }

/-- Blows the lc fuses up to a state's thermometer code, writes the audit entry and starts the package
reset (R423). -/
def toLifecycle (s : State) (code : Nat) : State :=
  let lc := [0, 1, 3, 7, 15].getD code 15
  let s1 := s.modSec fun S => { S with fuses := put S.fuses 0 4 (fld S.fuses 0 4 ||| lc) }
  (audit s1 6 0 2 0xC005 0 code 0).modHub fun H => { H with resetDue := some 3 }

/-- The reply of a life-cycle transition: ST_ACCEPTED with no EV_DONE (R423). The mailbox never gives
ST_ACCEPTED (R299), so its reply is the final ST_OK. -/
def lifecycleReply (p : Packet) : Rep := if p.mbox then .ok else .done 1 0 0 []

/-- Op 1: BLANK to FACTORY; the identity is generated on entry (R422, R423). An op of no row takes this
row. -/
def execSecLifecycleFactory (p : Packet) (s : State) : Host.Outcome State Fault Refusal :=
  if 2 ≤ p.inb 4 1 && p.inb 4 1 ≤ 6 then .next s else
  Cmd.run cmdLifecycle p s
    [need (p.inb 4 1 = 1) (badParam noLoc 20), need (lifecycle s = 0) (denied 5)] []
    fun s =>
      let (_, s1) := rand s 384
      (toLifecycle (s1.modSec fun S => { S with identity := true }) 1, lifecycleReply p)

/-- Op 2: installs the identity certificates, in FACTORY only (R422, R423). -/
def execSecLifecycleCerts (p : Packet) (s : State) : Host.Outcome State Fault Refusal :=
  if p.inb 4 1 ≠ 2 then .next s else
  Cmd.run cmdLifecycle p s
    [need (lifecycle s = 1) (denied 5), need p.dataRef (badParam noLoc 6)] []
    fun s => (s.modSec fun S => { S with islandJob := S.islandJob ++ [(.lifecycle, p)] },
      .accept .island 0)

/-- Op 3: FACTORY to FIELD with the owner root keys; root_hash is blown (R421, R423). -/
def execSecLifecycleField (p : Packet) (s : State) : Host.Outcome State Fault Refusal :=
  if p.inb 4 1 ≠ 3 then .next s else
  Cmd.run cmdLifecycle p s
    [ need (lifecycle s = 1) (denied 5), need p.dataRef (badParam noLoc 6),
      need (2689 ≤ p.refData.length) (badParam noLoc p.refData.length) ]
    [need (!s.sec.certs.isEmpty) (stState 0xC005 0)]
    fun s =>
      let h := Config.sha384 (slice p.refData 0 2689)
      (toLifecycle (s.modSec fun S => { S with
        fuses := put S.fuses 144 384 (fld S.fuses 144 384 ||| h.toNat) }) 2, lifecycleReply p)

/-- Op 4: FIELD to RETURN; the identity's private keys are zeroised (R423, R424). -/
def execSecLifecycleReturn (p : Packet) (s : State) : Host.Outcome State Fault Refusal :=
  if p.inb 4 1 ≠ 4 then .next s else
  Cmd.run cmdLifecycle p s [need (lifecycle s = 2) (denied 5)] []
    fun s => (toLifecycle (s.modSec fun S => { S with identity := false }) 3, lifecycleReply p)

/-- Op 5: any other state to VOID (R423). -/
def execSecLifecycleVoid (p : Packet) (s : State) : Host.Outcome State Fault Refusal :=
  if p.inb 4 1 ≠ 5 then .next s else
  Cmd.run cmdLifecycle p s [need (lifecycle s ≠ 4) (denied 5)] []
    fun s => (toLifecycle (s.modSec fun S => { S with identity := false }) 4, lifecycleReply p)

def cmdDebugUnlock : Cmd := { cmdLifecycle with nonApproved := true }

/-- Op 6: opens the hub test access port until the next package reset (R410, R423). -/
def execSecLifecycleDebugUnlock (p : Packet) (s : State) : Host.Outcome State Fault Refusal :=
  if p.inb 4 1 ≠ 6 then .next s else
  Cmd.run cmdDebugUnlock p s
    [ need (fld s.sec.sensed 4 2 = 1 && (lifecycle s = 1 || lifecycle s = 3)) (denied 5) ] []
    fun s => (s.modSec fun S => { S with islandJob := S.islandJob ++ [(.lifecycle, p)] },
      .accept .island 0)

/-! ### Firmware -/

/-- The inactive firmware slot (R425). -/
def inactiveSlot (s : State) : Nat := 1 - s.sec.fwSlot

/-- Anti-rollback count of the sensed fuses: number of ones (R421). -/
def fusedArc (s : State) : Nat := popCount (fbv s.sec.sensed 16 128)

/-- An image verifies: its signature pair, and its arc against the fused count (R425). -/
def imageOk (s : State) (img : List Byte) : Bool :=
  let n := img.length - 4728
  4728 ≤ img.length &&
  Config.fwValid (bytesOf 48 (Config.sha384 (img.take n)).toNat ++ slice img n 5) (slice img (n + 5) 4723) &&
  fusedArc s ≤ le (slice img n 1)

/-- Places an image in the inactive slot after its verification, and reports it (R425, R433, R435,
R440). -/
def installImage (s : State) (img : List Byte) : State :=
  let n := img.length - 4728
  let good := imageOk s img
  let meas := Config.sha384 (img.take n)
  let fw : Fw := { Fw.reset with
    image := img, valid := good, version := BitVec.ofNat 32 (le (slice img (n + 1) 4))
    arc := BitVec.ofNat 8 (le (slice img n 1)), meas := meas, booted := false }
  let s1 := s.modSec fun S => { S with
    slots := S.slots.set (inactiveSlot s) fw, staged := good, chunks := [] }
  if s.boot.recovery then
    s1.modSec fun S => { S with recoveryLoad := some (if good then 0 else 0x31) }
  else
    let s2 := audit s1 8 0 2 0xC005 (if good then 0 else 0x31) fw.version.toNat (meas.toNat % 2 ^ 128)
    if good then evSec s2 8 0xF else s2

def cmdFw : Cmd :=
  { opcode := 0x0F06, mgmt := true, auth := true, accepts := true, island := true }

/-- SEC_FW_UPDATE op 0 (R425): an image by reference, or a mailbox chunk. A chunk out of order discards
the chunks already written. An op of no row takes this row. -/
def execSecFwUpdateWrite (p : Packet) (s : State) : Host.Outcome State Fault Refusal :=
  if p.inb 4 1 = 1 then .next s else
  let off := p.inb 8 4
  let last := p.inb 5 1 % 2 = 1
  let inOrder := off == 0 || off == s.sec.chunks.length
  Cmd.run cmdFw p s
    [ need (p.inb 4 1 = 0) (badParam noLoc 20),
      need (p.mbox || p.dataRef) (badParam noLoc 6),
      need (!p.mbox || p.data.length ≤ 4016) (badParam noLoc 4) ] []
    fun s =>
      if !p.mbox then
        (s.modSec fun S => { S with islandJob := S.islandJob ++ [(.fwVerify, p)] }, .accept .island 0)
      else if !inOrder then
        (s.modSec fun S => { S with chunks := [] }, .fail (badParam noLoc 24))
      else
        let s1 := s.modSec fun S => { S with chunks := (if off = 0 then [] else S.chunks) ++ p.data }
        if last then
          (s1.modSec fun S => { S with islandJob := S.islandJob ++ [(.fwVerify, p)] }, .accept .island 0)
        else (s1, .ok)

/-- SEC_FW_UPDATE op 1: blows arc up to the running image's arc (R425). -/
def execSecFwUpdateCommit (p : Packet) (s : State) : Host.Outcome State Fault Refusal :=
  if p.inb 4 1 ≠ 1 then .next s else
  Cmd.run cmdFw p s [] [need (runningFw s).booted (stState 0xC005 0)]
    fun s =>
      let fw := runningFw s
      (audit (s.modSec fun S => { S with
        fuses := put S.fuses 16 128 (fld S.fuses 16 128 ||| (2 ^ fw.arc.toNat - 1)) })
        8 0 2 0xC005 0 fw.version.toNat (fw.meas.toNat % 2 ^ 128), .ok)

/-! ### Zeroisation, self-tests, audit -/

def cmdZeroise : Cmd := { opcode := 0x0F07, mgmt := true, auth := true, sub := true }

/-- SEC_ZEROISE sub 0 (R428). A sub of no row takes this row. -/
def execSecZeroise (p : Packet) (s : State) : Host.Outcome State Fault Refusal :=
  if p.subv = 1 then .next s else
  Cmd.run cmdZeroise p s [need (p.subv = 0) (badParam noLoc 18)] []
    fun s => (audit (zeroise s) 9 0 2 0xC005 0 0 0, .ok)

/-- SEC_ZEROISE sub 1: also destroys the wrapped identity keys and moves to VOID (R428). -/
def execSecZeroiseVoid (p : Packet) (s : State) : Host.Outcome State Fault Refusal :=
  if p.subv ≠ 1 then .next s else
  Cmd.run cmdZeroise p s [] []
    fun s => (toLifecycle ((audit (zeroise s) 9 0 2 0xC005 0 1 0).modSec fun S =>
      { S with identity := false }) 4, .ok)

def cmdSelftest : Cmd := { opcode := 0x0F08, mgmt := true, accepts := true, island := true }

def startSelftest (p : Packet) (s : State) : State × Rep :=
  (s.modSec fun S => { S with islandJob := S.islandJob ++ [(.selfTest, p)] }, .accept .island 0)

/-- SEC_SELFTEST (R426). -/
def execSecSelftest (p : Packet) (s : State) : Host.Outcome State Fault Refusal :=
  if p.inb 4 1 % 2 = 1 then .next s else Cmd.run cmdSelftest p s [] [] (startSelftest p)

def cmdFaultInsert : Cmd := { cmdSelftest with nonApproved := true }

/-- SEC_SELFTEST with fault insertion, a non-approved service (R410, R426). -/
def execSecSelftestFaultInsert (p : Packet) (s : State) : Host.Outcome State Fault Refusal :=
  if p.inb 4 1 % 2 = 0 then .next s else
  Cmd.run cmdFaultInsert p s [] [] (startSelftest p)

def cmdSecAuditRead : Cmd := { opcode := 0x0F09, mgmt := true, buffer := true }

/-- The first 96 × count bytes of the audit entries from a sequence on (R434). -/
def execSecAuditRead (p : Packet) (s : State) : Host.Outcome State Fault Refusal :=
  Cmd.run cmdSecAuditRead p s [] [] fun s =>
    let es := s.sec.audit.filter fun e => p.inb 4 8 ≤ fld e.bits 0 64
    let oldest := match s.sec.audit with
      | e :: _ => fld e.bits 0 64
      | [] => s.sec.auditSeq.toNat
    (s, .done 0 0 oldest ((es.take (p.inb 12 4)).flatMap auditBytes))

/-! ### Steps of the island -/

/-- The return buffer of accepted work ends unreachable, or takes the bytes (R280); the final status and
detail. -/
def lateReturn (s : State) (p : Packet) (bs : List Byte) : State × Nat × Nat :=
  if p.mbox then
    let cap := min (fld p.ret 64 32) 4064
    ({ s with mbox := { s.mbox with ret := bs.take cap } },
      if cap < bs.length then 2 else 0, if cap < bs.length then bs.length else 0)
  else if p.retFail then (s, 0x50, locEndpoint p.part + 2 ^ 16)
  else
    let cap := fld p.ret 64 32
    (s.out (.ret p.part (fbv p.ret 0 64) (bs.take cap)),
      if cap < bs.length then 2 else 0, if cap < bs.length then bs.length else 0)

/-- The effect of an operation that the island finished without a failing test. -/
def finishIsland (s : State) (op : IslandOp) (p : Packet) : State :=
  let o := originOf p
  let k := p.part
  match op with
  | .sessionOpen =>
    let role := le (slice p.refData 0 1)
    if (if role = 1 then s.sec.coSession.isSome else (s.part k).session.isSome) then finish s o 0x40 0xC005 0 else
    let (x, resp, s1) := openSession s p
    let (s2, st, dt) := lateReturn s1 p resp
    if st = 0x50 then finish s2 o st dt 0
    else
      let s3 := if role = 1 then s2.modSec fun S => { S with coSession := some x }
        else s2.modPart k fun P => { P with session := some x }
      let s4 := if role = 1 then s3 else
        forEach (s3.partPorts k) (fun s n => s.modPort n fun P => { P with calSess := 0 }) s3
      finish (audit s4 1 k (role + 1) 0xC005 0 role x.sid.toNat) o st dt 0
  | .seal =>
    let co := p.inb 4 1 = 1
    match (if co then s.sec.coSession else (s.part k).session) with
    | none => finish s o 0x40 0xC005 0
    | some x =>
      let runs := (x.runLinks.map (·.2)).foldl (· + ·) 0
      let s1 := audit s 2 k (if co then 2 else 1) 0xC005 0 (if co then 0 else runs) x.sid.toNat
      let cal := calRecord s1 k true
      let body := sealBytes s1 k false x.sid.toNat x.transcript.toNat x.opHash.toNat x.openTm.toNat
        s1.nowTm.toNat (if co then none else some x) cal
      let s2 := if co then s1.modSec fun S => { S with coSession := none }
        else s1.modPart k fun P => { P with session := none }
      let (s3, st, dt) := lateReturn s2 p
        (body ++ (if co then [] else portItems x ++ chanItems x) ++ cal)
      finish s3 o st dt 0
  | .fwVerify =>
    let img := if p.mbox then s.sec.chunks else p.refData
    let good := imageOk s img
    finish (installImage s img) o (if good then 0 else 0x31) (if good then 0 else 2) 0
  | .selfTest =>
    let s1 := if s.sec.error && !s.sec.errEntropy then
        evSec (s.modSec fun S => { S with error := false, errTest := 0 }) 2 0xF
      else s
    finish s1 o 0 0 0
  | .lifecycle =>
    if p.inb 4 1 = 2 then finish (s.modSec fun S => { S with certs := p.refData }) o 0 0 0
    else finish (evSec (audit (s.modSec fun S => { S with debugOpen := true }) 15 0 2 0xC005 0 0 0) 6 0xF)
      o 0 0 0

/-- ISLAND_OPERATION_DONE: the oldest operation ends, or a failing test puts the island in its error
state (R413, R419, R425 to R427). While that lasts, an operation that is neither a self-test nor the recovery's image
ends with ST_FAULT; one that needs random values waits for a reseed that is due (R409). -/
def execIslandOperationDone (r : IslandIn) (s : State) : Host.Outcome State Fault Refusal :=
  match s.sec.islandJob with
  | [] => .next s
  | (op, p) :: js =>
    let s1 := s.modSec fun S => { S with islandJob := js }
    match r.fail with
    | none =>
      if op == .sessionOpen && reseedDue s then .next s
      else if s.sec.error && !(op == .selfTest || (op == .fwVerify && s.boot.recovery)) then
        ok (finish s1 (originOf p) 0x50 (0xC005 + 2 ^ 16) 0)
      else ok (finishIsland s1 op p)
    | some n =>
      let s2 := enterError s1 n r.entropy
      ok (finish s2 (originOf p) (if op == .selfTest then 0 else 0x50)
        (if op == .selfTest then n.toNat else 0xC005 + 2 ^ 16) 0)

/-- DRBG_RESEED: after 2^20 requests the DRBG reseeds; a failing entropy test puts the island in its
error state (R409, R426, R427). -/
def execDrbgReseed (good : Bool) (s : State) : Host.Outcome State Fault Refusal :=
  if !reseedDue s then .next s
  else if good then ok (s.modSec fun S => { S with drbgReq := 0 })
  else ok (enterError s 0 true)

end Sys2Proof.Machine
end

