-- ==== Sys2Proof/Machine/Boot.lean ====
section
/-! DEFINITION. Sweeps, wipes and the boot: package reset, the boot steps, the boot ledger and the resume
from Parked (R23, R261, R262, R269, R436 to R441, R388). -/
namespace Sys2Proof.Machine

/-! ### Sweeps (R261, R262, R439) -/

def stackOf (c : Nat) : Nat := c / 16

def State.modStack (s : State) (k : Nat) (f : StackRec → StackRec) : State :=
  s.modBoot fun B => { B with stackRecs := B.stackRecs.mod StackRec.reset k f }

/-- Windows of consecutive passing steps in a map of 128: first step and width. -/
def windows (m : BitVec 128) : List (Nat × Nat) :=
  let r := (List.range 128).foldl (fun (x : List (Nat × Nat) × Nat) i =>
    if m.getLsbD i then (x.1, x.2 + 1) else (if x.2 = 0 then x.1 else x.1 ++ [(i - x.2, x.2)], 0)) ([], 0)
  if r.2 = 0 then r.1 else r.1 ++ [(128 - r.2, r.2)]

/-- The widest passing window of a lane, none in a map without a passing step. The spec does not say which of
several equally wide ones is taken (log entry 1110). -/
def widest (m : BitVec 128) : Nat × Nat :=
  let ws := windows m
  let top := (ws.map (·.2)).foldl max 0
  let best := ws.filter (·.2 == top)
  best.getD (Config.windowTie m best.length % max 1 best.length) (0, 0)

/-- The centre of a window, its first and last step's mean; between two steps the package rounds (log entry
1110). -/
def centre (w : Nat × Nat) : Nat :=
  let t := 2 * w.1 + (w.2 - 1)
  t / 2 + if t % 2 = 1 && Config.roundsUp t 2 then 1 else 0

/-- What a sweep of some lanes finds (R261, R262): whether it passes, and the delay block; the other lanes of
`old` stay. -/
def sweepFinds (r : SweepIn) (lanes : List Nat) (old : BitVec 128) : Bool × BitVec 128 :=
  let rd := fun l => widest (r.rd.getD l 0)
  let wr := fun l => widest (r.wr.getD l 0)
  let eye := (lanes.map fun l => min (rd l).2 (wr l).2).foldl min 128
  let block := lanes.foldl (fun b l => put (put b (16 * l) 7 (centre (rd l))) (16 * l + 8) 7 (centre (wr l))) old
  (decide (24 ≤ eye) && r.errs == 0, put (put block 80 1 0) 88 8 eye)

/-- The lanes that a sweep takes: one of them in an in-place sweep, otherwise all. -/
def sweepLanes (C : Chan) : List Nat :=
  match C.reSweep with
  | some l => if l < 5 then [l] else List.range 5
  | none => List.range 5

/-- The narrowest window of the latest sweeps of a stack's channels. -/
def stackEye (s : State) (k : Nat) : BitVec 8 :=
  let eyes := ((stackChans k).filter fun c => !(s.chan c).delaysFixed && (s.chan c).lastGood.isSome).map
    fun c => fld (s.chan c).delays 88 8
  BitVec.ofNat 8 (eyes.foldl min 255)

/-- A passing sweep: its delays serve and become last good (R261, R439). -/
def sweepPass (s : State) (c : Nat) (d : BitVec 128) (clearStrike : Bool) : State :=
  let k := stackOf c
  let s1 := s.modChan c fun C => { C with
    delays := d, lastGood := some d, delaysFixed := false, reserved := true
    priv := C.priv.filter fun x => decide (x.1 < reservedFrom) }
  s1.modStack k fun R => { R with
    lgValid := true, lgBoot := s.boot.count, minEye := stackEye s1 k
    strike := if clearStrike then 0 else R.strike }

/-- The channel serves on its last good delays, a lodge channel on its factory delays (R261, R262). Its reserved
area holds the patterns of phase 3. -/
def sweepFixed (s : State) (c : Nat) : State :=
  s.modChan c fun C => { C with
    delays := put (put (if isLodge c then Config.lodgeDelays c &&& 0x7F7F7F7F7F7F7F7F7F7F else C.lastGood.getD 0) 80 1 1) 88 8 0
    delaysFixed := true, reserved := true
    priv := C.priv.filter fun x => decide (x.1 < reservedFrom) }

/-- A trained channel serves the requests that waited (R260). -/
def serveChan (s : State) (c : Nat) : State :=
  toService (s.modChan c fun C => { C with st := .inOrder, queue := C.queue ++ C.held, held := [] }) c

/-- A training leaves no usable delays: the channel is RETIRED (R260, R270). -/
def sweepRetire (s : State) (c : Nat) : State :=
  retired (evFault (s.modChan c fun C => { C with retireCause := some 2, reSweep := none }) none (loc 4 c) 2) c

/-- A failed sweep counts for its stack (R438, R439). -/
def sweepFail (s : State) (c : Nat) (strike : BitVec 2) : State :=
  s.modStack (stackOf c) fun R => { R with strike := strike, fails := satInc R.fails }

/-- The end of a channel's training (R261). A channel whose stack had failed its last sweep only checks its last
good delays, and sweeps in place afterwards (R439). -/
def trainChan (s : State) (c : Nat) (r : SweepIn) : State :=
  let C := s.chan c
  let fixedOk := r.fixedErrs == 0 && C.lastGood.isSome
  let x := sweepFinds r (List.range 5) 0
  if C.reSweep.isSome then
    if fixedOk then serveChan (sweepFixed s c) c else sweepRetire (sweepFail s c 2) c
  else if x.1 then serveChan (sweepPass s c x.2 false) c
  else
    let s1 := sweepFail s c 1
    if fixedOk then serveChan (sweepFixed s1 c) c else sweepRetire s1 c

/-- The end of an in-place sweep (R261, R439). -/
def endReSweep (s : State) (c : Nat) (r : SweepIn) : State :=
  let strike := (s.boot.stackRecs.get StackRec.reset (stackOf c)).strike
  let x := sweepFinds r (sweepLanes (s.chan c)) (s.chan c).delays
  let s1 := s.modChan c fun C => { C with reSweep := none, laneCe := [] }
  if x.1 then toService (sweepPass s1 c x.2 true) c
  else if strike = 1 then fence (sweepFail s1 c 2) c 2
  else if r.fixedErrs == 0 && (s.chan c).lastGood.isSome then toService (sweepFixed (sweepFail s1 c 1) c) c
  else fence (sweepFail s1 c 1) c 2

/-- A lodge channel on its factory delays, verified by phase 3, or left out (R262, R442). -/
def trainLodge (s : State) (c errs : Nat) : State :=
  if errs = 0 then serveChan (sweepFixed s c) c
  else s.modChan c fun C => { C with st := .retired, queue := [], held := [] }

/-- SWEEP_DONE: a sweep at a warm start, the check of a lodge channel's fixed delays, or an in-place sweep, ends
(R261, R262). -/
def execSweepDone (c : BitVec 7) (r : SweepIn) (s : State) : Host.Outcome State Fault Refusal :=
  let k := c.toNat
  let C := s.chan k
  if isLodge k then if C.st == .training then ok (trainLodge s k r.fixedErrs) else .next s
  else if C.st == .training then ok (trainChan s k r)
  else if C.st == .inOrder && C.reSweep.isSome then ok (endReSweep s k r)
  else .next s

/-! ### Step records (R436, R438, R456) -/

/-- Writes the record of a boot step, and its entry in the event log. Entries of steps before step 5 carry
boot time. -/
def stepRecord (s : State) (k outcome l detail : Nat) (t : BitVec 32 × BitVec 32) : State :=
  let r : BitVec 128 := BitVec.ofNat 128 (pack
    [(8, k), (4, outcome), (4, 0), (16, l), (32, t.1.toNat), (32, t.2.toNat), (32, detail)])
  let s1 := s.modBoot fun B => { B with
    steps := B.steps.set k r, lastStep := if B.lastStep.toNat < k then BitVec.ofNat 4 k else B.lastStep }
  if outcome = 5 then s1
  else logAt s1 (if k < 5 then some (t.1.toNat + t.2.toNat) else none) false (0x100 + k) l
    (outcome + 2 ^ 32 * detail) 0

def bootTime (b : BootIn) (k : Nat) : BitVec 32 × BitVec 32 := b.times.getD (k - 1) (0, 0)

/-! ### Package reset (R23, R24, R390) -/

/-- What a package reset leaves of a port: the lodge's latches and the ledger's port record; a port whose
training had failed stays QUARANTINED (R318, R439). -/
def Port.afterReset (P : Port) : Port :=
  { Port.reset with
    prsntLatch := P.prsntLatch, attnLatch := P.attnLatch, ledQuar := P.ledQuar, ledFail := P.ledFail
    ledBoot := P.ledBoot, ledFails := P.ledFails
    state := if P.ledQuar then .quarantined else .down
    failCode := if P.ledQuar then P.ledFail else 0
    slotStatus := if P.ledQuar then put Port.reset.slotStatus 8 1 1 else Port.reset.slotStatus }

/-- Vacheod after a package reset: the block that MRAM keeps, and the lodge's wake latches (R318, R383). -/
def Vach.afterReset (V : Vach) : Vach :=
  { Vach.reset with
    cfg := V.cfg
    ports := (List.range 4).map fun v => (v, { Vp.reset with wake := (V.ports.get Vp.reset v).wake }) }

/-- The security island after a package reset: fuses, and the items of MRAM. -/
def Sec.afterReset (S : Sec) : Sec :=
  { Sec.reset with
    fuses := S.fuses, sensed := S.sensed, approved := S.approved, identity := S.identity, certs := S.certs
    slots := S.slots, fwSlot := S.fwSlot, staged := S.staged, audit := S.audit, auditSeq := S.auditSeq
    efp := S.efp, recoveryLoad := S.recoveryLoad }

/-- The ledger at the start of the next boot (R438, R439). -/
def Boot.afterReset (B : Boot) (head : BitVec 128) (steps : List (BitVec 128)) (cause : Nat) : Boot :=
  { Boot.reset with
    lodgeOn := true, count := B.count + 1, cause := BitVec.ofNat 4 cause
    stackRecs := B.stackRecs.map fun x => (x.1, if x.2.clear then { x.2 with strike := 0, clear := false } else x.2)
    history := (if B.count = 0 then B.history else (head, steps) :: B.history).take 48 }

/-- Everything but fuses, MRAM and what the lodge holds takes its reset value (R23, R24). Queues end with no
reply (R297), and sessions end without a seal (R415). -/
def packageReset (s0 : State) (cause : Nat) : State :=
  let s := endSessions s0 5
  let clr := s.boot.clearSlot
  { State.reset with
    pending := s.pending, mem := s.mem, freeCtr := s.freeCtr
    outbox := s.outbox ++ [.trigLevel 0 none, .trigLevel 1 none]
    ports := s.ports.map fun x => (x.1, x.2.afterReset)
    chans := s.chans.map fun x => (x.1, { Chan.reset with lastGood := x.2.lastGood })
    eps := s.eps.map fun x => (x.1, { Endpoint.reset with
      perst := x.2.perst, pmeRec := x.2.pmeRec, wakeLow := x.2.wakeLow })
    vach := s.vach.afterReset
    pwr := { Pwr.reset with
      cfg := s.pwr.cfg, energy := s.pwr.energy, excursions := s.pwr.excursions, parked := s.pwr.parked
      outOfRange := s.pwr.outOfRange, hostWake := s.pwr.hostWake }
    clk := { Clk.reset with refclkOk := s.clk.refclkOk }
    mon := { Mon.reset with cals := s.mon.cals.map fun x => (x.1, { x.2 with step0 := none }) }
    sec := { s.sec.afterReset with
      slots := clr.foldl (fun t n => t.mod Fw.reset n fun f => { f with bad := false }) s.sec.slots }
    boot := s.boot.afterReset (ledgerHead s) (stepRecords s) cause
    faults := { FaultSum.reset with
      log := s.faults.log, logSeq := s.faults.logSeq, logNew := s.faults.logNew }
    hub := { Hub.reset with pscOut := s.hub.pscOut } }

/-! ### Boot steps 1 to 4 (R421, R423, R425 to R428, R436, R439, R440) -/

/-- A firmware slot whose image verifies (R425): its trailer was checked when it was written, and its arc is
not below the fused count. -/
def slotLoads (s : State) (n : Nat) : Bool :=
  let f := s.sec.slots.get Fw.reset n
  f.valid && !f.bad && decide (popCount (fbv s.sec.sensed 16 128) ≤ f.arc.toNat)

def markBad (s : State) (n : Nat) : State :=
  s.modSec fun S =>
    if (S.slots.get Fw.reset n).image.isEmpty then S
    else { S with slots := S.slots.mod Fw.reset n fun f => { f with bad := true } }

/-- Step 4: the chosen slot, or the other, or the recovery service. A staged image is tried first, once. -/
def firmwareStep (s : State) (b : BootIn) : State :=
  let first := if s.sec.staged then 1 - s.sec.fwSlot else s.sec.fwSlot
  let other := 1 - first
  let s1 := s.modSec fun S => { S with staged := false }
  let t := bootTime b 4
  if slotLoads s first then
    stepRecord (s1.modSec fun S => { S with fwSlot := first }) 4 1 locPackage 0 t
  else if slotLoads s other then
    stepRecord ((markBad s1 first).modSec fun S => { S with fwSlot := other }) 4 2 locPackage first t
  else
    stepRecord ((markBad (markBad s1 first) other).modBoot fun B => { B with recovery := true }) 4 3 locPackage
      first t

/-- Step 3: the island's self-tests. A failure leads to the error state and the recovery service. -/
def selfTestStep (s : State) (b : BootIn) : State :=
  match b.selfFail with
  | none => stepRecord (s.modSec fun S => { S with kek := true }) 3 1 0xC005 0 (bootTime b 3)
  | some t => stepRecord ((enterError s t b.selfEntropy).modBoot fun B => { B with recovery := true })
      3 3 0xC005 t.toNat (bootTime b 3)

/-- What the island writes at the boot: an environmental failure, and the outcome of a recovery load (R428,
R440). -/
def bootAudit (s : State) : State :=
  let s1 := match s.sec.efp with
    | some c => evSec (audit (s.modSec fun S => { S with efp := none }) 10 0 0 0xC005 0 c 0) 7 0xF
    | none => s
  match s1.sec.recoveryLoad with
  | some st =>
    let f := s1.sec.slots.get Fw.reset (inactiveSlot s1)
    audit (s1.modSec fun S => { S with recoveryLoad := none }) 8 0 0 0xC005 st.toNat f.version.toNat
      (f.meas.toNat % 2 ^ 128)
  | none => s1

/-- Steps 1 or 2 to 4; step 5 then waits for the PLLs. -/
def bootEarly (s : State) (first : Nat) (b : BootIn) : State :=
  let s1 := if first = 1 then stepRecord s 1 1 locPackage 0 (bootTime b 1) else s
  let s2 := s1.modSec fun S => { S with sensed := S.fuses }
  let lc := fld s2.sec.sensed 0 4
  let therm := lc = 0 || lc = 1 || lc = 3 || lc = 7 || lc = 15
  let s3 := stepRecord s2 2 (if therm then 1 else 3) (loc 0xC 16) 0 (bootTime b 2)
  let s4 := bootAudit (selfTestStep s3 b)
  let s5 := if s4.sec.error then s4 else firmwareStep s4 b
  let s6 := s5.modBoot fun B => { B with step := 5 }
  stepRecord s6 5 5 (loc 0xC 15) 0 ((bootTime b 4).1 + (bootTime b 4).2, 0)

/-- POWER_ON: the 12 V input comes up, the lodge starts with its own values cleared, and the boot runs from
step 1 (R390, R436). -/
def execPowerOn (b : BootIn) (s : State) : Host.Outcome State Fault Refusal :=
  if s.boot.lodgeOn then .next s
  else
    let s1 := packageReset s 1
    let s2 := { s1 with
      ports := s1.ports.map fun x => (x.1, { x.2 with prsntLatch := false, attnLatch := false })
      pwr := { s1.pwr with energy := 0, excursions := 0, parked := 0, outOfRange := false, hostWake := false }
      vach := { s1.vach with ports := [] } }
    ok (bootEarly s2 1 b)

/-- PACKAGE_RESET: a reset that is due takes place (R23, R300, R324, R423, R428, R451), and the boot runs
from step 2. -/
def execPackageReset (cause : BitVec 4) (b : BootIn) (s : State) : Host.Outcome State Fault Refusal :=
  if s.hub.resetDue == some cause then ok (bootEarly (packageReset s cause.toNat) 2 b)
  else .next s

/-! ### Boot steps 5 to 11 -/

/-- TRIG_OUT drives its inactive level while the hub is powered, from boot step 5 on (R467). -/
def driveIdle (s : State) : State :=
  forEach [0, 1] (fun s n => s.out (.trigLevel n (some (s.hub.trigOut.get TrigOut.reset n).inv))) s

/-- HUB_PLL_LOCK: step 5 ends, and slot_count counts from 0 (R73, R378, R436). The step's duration is a free
value (log entry 3). -/
def execHubPllLock (s : State) : Host.Outcome State Fault Refusal :=
  if s.boot.step != 5 then .next s
  else
    let (v, s1) := s.fresh
    let start : BitVec 32 := fbv (s.boot.steps.get 0 5) 32 32
    let s2 := { s1 with
      clk := { s1.clk with dclkLock := true, refclkOk := true, hclkLock := true, monLock := true }
      time := { s1.time with counting := true, slotCount := 0 } }
    ok (driveIdle ((stepRecord s2 5 1 (loc 0xC 15) 0 (start, BitVec.ofNat 32 v)).modBoot fun B => { B with step := 6 }))

/-- Step 7: the lodge channels on their fixed delays; one that fails is left out. -/
def lodgeStep (s : State) (b : BootIn) : State :=
  let fails := (List.range 2).filter fun i => b.lodgeErrs.getD i 0 != 0
  let bad := fails.length
  let s1 := forEach [7, 15] (fun s c =>
    if fails.contains (c / 8) then s.modChan c fun C => { C with st := .retired }
    else (sweepFixed s c).modChan c fun C => { C with st := .inOrder }) s
  stepRecord (s1.modBoot fun B => { B with lodgeFail := fails })
    7 (if bad = 0 then 1 else if bad = 1 then 2 else 3) (if bad = 0 then locPackage else loc 4 7) bad (bootTime b 7)

/-- What the boot finds of one channel's sweep. -/
def bootSweep (b : BootIn) (c : Nat) : SweepIn :=
  ((b.sweeps.find? fun x => x.1 == c).map (·.2)).getD b.sweep

/-- Step 8: every capture die comes to fabric-only, and the stacks are swept. -/
def stackStep (s : State) (b : BootIn) : State :=
  let s1 := forEach (List.range 4) (fun s d => s.modDie d fun D => { D with pwr := 1 }) s
  let s2 := forEach captureChans warmStart s1
  let s3 := forEach (captureChans.filter fun c => (s2.chan c).st == .training)
    (fun s c => trainChan s c (bootSweep b c)) s2
  let n := (captureChans.filter fun c => (s3.chan c).st == .retired).length
  let fixed := captureChans.any fun c => (s3.chan c).st != .retired && (s3.chan c).delaysFixed
  stepRecord s3 8 (if n != 0 then 3 else if fixed then 2 else 1) locPackage n (bootTime b 8)

/-- Step 9: regions are powered by die policy; the ports of a die that fails are out of service. -/
def dieStep (s : State) (b : BootIn) : State :=
  let bad := (List.range 4).filter b.dieFail.contains
  let s1 := forEach bad (fun s d => s.modDie d fun D => { D with bootOk := false }) s
  let s2 := forEach ((List.range 4).filter fun d => (s1.die d).policy == 3 && (s1.die d).bootOk) (fun s d =>
    settleDie (forEach (dieRegions d) (fun s r => s.modRegion r fun R => { R with powered := true }) s) d) s1
  stepRecord s2 9 (if bad.isEmpty then 1 else 3) (match bad with
    | d :: _ => loc 9 d
    | [] => locPackage) bad.length (bootTime b 9)

/-- Step 10 begins: every channel in service is wiped (R269); its record holds its times from then on. -/
def wipeStep (s : State) (b : BootIn) : State :=
  let cs := allChans.filter fun c => chanServes s c
  let s1 := startWipe s .reset cs
  (stepRecord s1 10 5 locPackage 0 (bootTime b 10)).modBoot fun B => { B with step := 10 }

/-- Patrol takes back tokens until the holding fits a budget: warm-hold ports go cold first, then idle
clusters, regions and dies, each in descending index (R397). -/
def fitBudget (s : State) (b : Nat) : State :=
  let exceeds := fun (s : State) => decide (b < tokensHeld s)
  let down := fun (n : Nat) => (List.range n).reverse
  let s1 := forEach (down 128) (fun s p =>
    if exceeds s && (s.port p).state == .warm && !(s.port p).trig.armed then portDown s p else s) s
  let s2 := forEach (down 64) (fun s k =>
    if exceeds s && clusterOn (s.cluster k) && !clusterInUse s k then clusterOff s k else s) s1
  let s3 := forEach (down 16) (fun s r =>
    if exceeds s && regionOn (s.region r) && !regionInUse s r &&
        !(regionPorts r).any (fun p => portPowered (s.port p)) &&
        !(regionClusters r).any (fun k => clusterOn (s.cluster k)) then regionOff s r else s) s2
  forEach (down 4) (fun s d =>
    if exceeds s && dieOn (s.die d) && !dieInUse s d && !dieWorks s d &&
        !(dieRegions d).any (fun r => regionOn (s.region r)) then dieOff s d else s) s3

/-- Vacheod ports with their enable bit set begin to train once the hub runs, and a package with join = 1 is
joining (R364, R383, R384). -/
def startVacheod (s : State) : State :=
  let s1 := s.modVach fun V => if bit V.cfg 20 && V.role == 0 then { V with role := 1 } else V
  forEach (List.range 4) (fun s v =>
    if bit s.vach.cfg v && (s.vp v).st == .off then s.modVp v fun P => { P with st := .train } else s) s1

/-- Step 11: ports on demand (R436, R439). It starts where step 10 ends; its duration is a free value (log entry
3). A firmware image that took more than 10 s from its load marks its slot bad. -/
def bootDone (s0 : State) : State :=
  let (v, s) := s0.fresh
  let rec' := fun (k : Nat) => s.boot.steps.get 0 k
  let start11 := fld (rec' 10) 32 32 + fld (rec' 10) 64 32
  let late := decide (10000000 < start11 - fld (rec' 4) 32 32)
  let s1 := stepRecord s 10 1 locPackage 0 (fbv (rec' 10) 32 32, fbv (rec' 10) 64 32)
  let s2 := stepRecord s1 11 1 locPackage 0 (BitVec.ofNat 32 start11, BitVec.ofNat 32 v)
  let s3 := s2.modBoot fun B => { B with step := 11, bootMs := BitVec.ofNat 32 (start11 / 1000) }
  let s4 := if late then markBad s3 s3.sec.fwSlot
    else s3.modSec fun S => { S with slots := S.slots.mod Fw.reset S.fwSlot fun f => { f with booted := true } }
  let s5 := forEach allChans toService (s4.modPwr fun P => { P with state := 2 })
  fitBudget (evPower s5 1 0 2) (budget s5)

/-- HOST_ENDPOINTS_UP: step 6 ends once PERST# of endpoint A is de-asserted, and the boot goes on; in the
recovery service it ends there (R304, R323, R436, R440). -/
def execHostEndpointsUp (b : BootIn) (s : State) : Host.Outcome State Fault Refusal :=
  if s.boot.step != 6 || s.mbox.ready || b.perstA then .next s
  else
    let s0 := if (s.ep 0).wakeLow then s.out (.wake false) else s
    let s1 := s0.modEp 0 fun E => { E with perst := false, wakeLow := false, up := true }
    let s2 := s1.modEp 1 fun E => { E with up := !E.perst }
    let s3 := stepRecord { s2 with mbox := { s2.mbox with ready := true } } 6 1 locPackage 0 (bootTime b 6)
    if s.boot.recovery then ok s3
    else
      let s4 := wipeStep (dieStep (stackStep (lodgeStep (startVacheod s3) b) b) b) b
      ok (if s4.hub.wipes.isEmpty then bootDone s4 else s4)

/-! ### Wipes end (R269) -/

/-- What a wipe that has ended was for (R252, R297, R300, R326, R436). The detail of a MEM_TEST is a free value
(log entry 3). -/
def endWipe (s : State) (w : Wipe) : State :=
  match w.kind with
  | .scope _ => s
  | .reset =>
    if s.boot.step = 10 && !s.hub.wipes.any (·.kind == .reset) then bootDone s else s
  | .memCfg => finishJob (s.modHub fun H => { H with cfgWipe := false }) .memCfg 0 0 0
  | .memTest c =>
    let (v, s1) := s.fresh
    finishJob (s1.modChan c fun C => { C with testing := none }) (.memTest c) 0 (v % 2 ^ 32) 0
  | .part k => settlePartWipe (endPartWipe s k 1) k
  | .flr f => settlePartWipe ((endPartWipe s f 2).modFn f fun F => { F with flrWiped := true }) f

/-- WIPE_DONE: the wipes of a channel end; what waited for the last of them goes on (R269). -/
def execWipeDone (c : BitVec 7) (s : State) : Host.Outcome State Fault Refusal :=
  let k := c.toNat
  if !(s.chan k).wiping then .next s
  else
    let mine := fun (w : Wipe) => w.chans.contains k
    let s1 := if (s.hub.wipes.filter mine).any fun w => w.kind.whole then
        { s with mem := if isLodge k then s.mem else Memory.wipe s.mem fun a => addrChan a == k }.modChan k fun C => { C with
          plist := [], errs := [], priv := [], reserved := false }
      else s
    let ws := s.hub.wipes.map fun w => { w with chans := w.chans.filter (· != k) }
    let s2 := (s1.modChan k fun C => { C with wiping := false }).modHub fun H => { H with
      wipes := ws.filter fun w => !w.chans.isEmpty }
    ok (toService ((ws.filter fun w => w.chans.isEmpty).foldl endWipe s2) k)

/-! ### Resets by command or fault handling (R23, R25) -/

/-- UNIT_RESET. -/
def execUnitReset (l : BitVec 16) (s : State) : Host.Outcome State Fault Refusal :=
  if coveredReset s l.toNat then .next s else ok (unitReset s l.toNat)

/-- CLUSTER_RESET: the chains of the pair stop, and all cluster state goes (R23, R171). -/
def execClusterReset (k : BitVec 6) (s : State) : Host.Outcome State Fault Refusal :=
  let s1 := forEach (pairPorts k.toNat) (fun s p => stopChain s p 7 (portSlot s p)) s
  if coveredReset s (loc 7 k.toNat) then .next s else ok (Sys2Proof.Machine.clusterReset s1 k.toNat)

/-- REGION_RESET. -/
def execRegionReset (r : BitVec 4) (s : State) : Host.Outcome State Fault Refusal :=
  if coveredReset s (loc 8 r.toNat) then .next s else ok (regionReset s r.toNat)

/-- DIE_RESET. -/
def execDieReset (d : BitVec 2) (s : State) : Host.Outcome State Fault Refusal :=
  if coveredReset s (loc 9 d.toNat) then .next s else ok (dieReset s d.toNat)

/-! ### The resume from Parked, and the full boot from Off (R388, R389) -/

/-- slot_count after a park of `n` lodge clocks: 2,746,582,031,250 slots pass in 1,000,000 of them, and a beat
begins (R3, R388). -/
def parkedSlots (n : Nat) : Nat := n * 2746582031250 / 1000000 / 64 * 64

/-- The resume (R388): hub, PLLs, stacks; the endpoints train later (R327). The lodge channels leave self-refresh at
once, for the check of their delays; the stacks of a die warm-start with it, and the dies that their policy holds
powered are requested now (R260, R262, R398; log entry 1605). -/
def resume (s : State) (src : Nat) (parked : BitVec 64) : State :=
  let s1 := { s with
    time := { s.time with
      counting := true, coasted := true, hist := [], slotCount := s.pwr.parkSlot + BitVec.ofNat 64 (parkedSlots parked.toNat) }
    clk := { s.clk with dclkLock := true, refclkOk := true, hclkLock := true, monLock := true }
    pwr := { s.pwr with
      state := 2, lastWake := BitVec.ofNat 3 src, wakeTimer := none, parked := s.pwr.parked + parked } }
  let s2 := forEach [7, 15] (fun s c =>
    if (s.chan c).st == .selfRef then s.modChan c fun C => { C with st := .training } else s) s1
  let s3 := if grantCost s2 (policyGrant s2) = 0 then s2 else requestTokens s2 (policyGrant s2)
  evPower (evPower (startVacheod (driveIdle s3)) 1 0 2) 5 0 2 parked.toNat

/-- Bits of wake_en with their sources (R389). -/
def wakeEnabled (s : State) (src : Nat) : Bool := decide (src ≤ 4) && bit s.pwr.cfg (64 + src)

/-- A wake source has a latched edge (R318, R389). -/
def wakeLatched (s : State) (src : Nat) : Bool :=
  match src with
  | 0 => s.ports.any fun x => x.2.prsntLatch
  | 1 => s.ports.any fun x => x.2.attnLatch
  | 2 => s.vach.ports.any fun x => x.2.wake
  | 3 => s.pwr.hostWake
  | _ => false

/-- The latches of Vacheod wake and host wake are transferred to their sources (R318, R389). -/
def dropWakes (s : State) : State :=
  { s with
    vach := { s.vach with ports := s.vach.ports.map fun x => (x.1, { x.2 with wake := false }) }
    pwr := { s.pwr with hostWake := false } }

/-- The package wakes: by a resume from Parked, by a full boot from Off-but-watching (R386). last_wake reports the
lowest bit of the enabled sources that have latched (R389). -/
def wakeUp (s0 : State) (src0 : Nat) (parked : BitVec 64) (b : BootIn) : State :=
  let src := ((List.range 5).find? fun i => i == src0 || (wakeEnabled s0 i && wakeLatched s0 i)).getD src0
  let s := dropWakes s0
  if s.pwr.state = 1 then resume s src parked
  else
    let s1 := bootEarly (packageReset s s.boot.cause.toNat) 2 b
    s1.modPwr fun P => { P with lastWake := BitVec.ofNat 3 src, parked := P.parked + parked }

/-- The package sleeps. -/
def asleep (s : State) : Bool := s.boot.lodgeOn && s.boot.step == 11 && decide (s.pwr.state.toNat < 2)

/-- WAKE_EDGE: a latched edge wakes the package when its bit of wake_en is set, and is kept otherwise (R318,
R389). Edges of PRSNT_N and of buttons stand in their latches; the wake edge of Vacheod port `v`, and host
wake, are latched here. -/
def execWakeEdge (src : BitVec 3) (v : BitVec 2) (parked : BitVec 64) (b : BootIn) (s : State) :
    Host.Outcome State Fault Refusal :=
  let k := src.toNat
  let s1 := match k with
    | 2 => driveWake (s.modVp v.toNat fun P => { P with wake := true })
    | 3 => s.modPwr fun P => { P with hostWake := true }
    | _ => s
  let clear := fun (s : State) => match k with
    | 2 => { s with vach := { s.vach with
        ports := s.vach.ports.map fun x => (x.1, { x.2 with wake := false }) } }
    | 3 => s.modPwr fun P => { P with hostWake := false }
    | _ => s
  if !s.boot.lodgeOn || k = 4 || 4 < k then .next s
  else if asleep s then
    if wakeLatched s1 k && wakeEnabled s k then ok (wakeUp s1 k parked b) else ok s1
  else if s.boot.step = 11 then ok (clear s1)
  else ok s1

/-- WAKE_TIMER: the wake timer that PWR_STATE_SET armed has expired (R389). -/
def execWakeTimer (parked : BitVec 64) (b : BootIn) (s : State) : Host.Outcome State Fault Refusal :=
  if asleep s && s.pwr.wakeTimer.isSome then ok (wakeUp s 4 parked b) else .next s

/-- The 12 V input is inside or outside 10.8 V to 13.2 V: an excursion is counted when it leaves (R390). -/
def noteInput (s : State) (inside : Bool) : State :=
  s.modPwr fun P => { P with
    outOfRange := !inside
    excursions := if !inside && !P.outOfRange then satInc P.excursions else P.excursions }

/-- ENVIRONMENTAL_FAILURE: the input (1), the hub's temperature (2) or a rail (3) was outside its limits for
2 µs: the island zeroises, and the package stays in reset until the conditions are back, when it resets and
boots (R428). -/
def execEnvironmentalFailure (cause : BitVec 4) (b : BootIn) (s : State) : Host.Outcome State Fault Refusal :=
  if !s.boot.lodgeOn || cause = 0 || 3 < cause.toNat then .next s
  else
    let s1 := if cause = 1 then noteInput (noteInput s false) true else s
    let s2 := (zeroise s1).modSec fun S => { S with efp := some cause.toNat }
    ok (bootEarly (packageReset s2 5) 2 b)

end Sys2Proof.Machine
end

