-- ==== Sys2Proof/Machine/Inflate.lean ====
section
/-! DEFINITION. DEFLATE and gzip streams as the compression engines read them (R352, R353, R356; RFC 1951 and
RFC 1952, which R352 and R353 name). Bits of a byte come least significant first. -/
namespace Sys2Proof.Machine

/-- CRC-32 of bytes, finalised (R353). -/
def crc32 (bs : List Byte) : Nat := (bitsOf bs).foldl (crcBitR 0xEDB88320) 0xFFFFFFFF ^^^ 0xFFFFFFFF

/-- The next `n` bits as a number, first bit lowest. -/
def getBits : Nat → List Bool → Option (Nat × List Bool)
  | 0, bs => some (0, bs)
  | _ + 1, [] => none
  | n + 1, b :: bs => match getBits n bs with
    | some (v, r) => some (b2n b + 2 * v, r)
    | none => none

/-- Number of symbols of each code length. -/
def lenCount (lens : List Nat) (l : Nat) : Nat := (lens.filter (· == l)).length

/-- Symbols in order of code length, then of value. -/
def symOrder (lens : List Nat) : List Nat :=
  ((List.range 15).map (· + 1)).flatMap fun l => (List.range lens.length).filter fun i => lens.getD i 0 == l

/-- Decodes one symbol of a canonical code: remaining lengths, length, code so far, first code and first
index of the length. -/
def decodeSym (lens order : List Nat) : Nat → Nat → Nat → Nat → Nat → List Bool → Option (Nat × List Bool)
  | 0, _, _, _, _, _ => none
  | _ + 1, _, _, _, _, [] => none
  | n + 1, l, code, first, index, b :: bs =>
    let code := code + b2n b
    let count := lenCount lens l
    if code < first + count then (order[index + (code - first)]?).map (·, bs)
    else decodeSym lens order n (l + 1) (2 * code) (2 * (first + count)) (index + count) bs

/-- A code by its lengths. -/
structure Huff where
  lens : List Nat
  order : List Nat

def Huff.of (lens : List Nat) : Huff := ⟨lens, symOrder lens⟩
def Huff.sym (h : Huff) (bs : List Bool) : Option (Nat × List Bool) := decodeSym h.lens h.order 15 1 0 0 0 bs

/-- The lengths are no code: more codes than the lengths leave room for. -/
def overFull (lens : List Nat) : Bool :=
  decide (2 ^ 15 < (((List.range 15).map fun i => lenCount lens (i + 1) * 2 ^ (14 - i)).foldl (· + ·) 0))

def fixedLit : Huff := Huff.of (List.replicate 144 8 ++ List.replicate 112 9 ++ List.replicate 24 7 ++ List.replicate 8 8)
def fixedDist : Huff := Huff.of (List.replicate 30 5)

/-- Base length and extra bits of the length symbols 257 to 285. -/
def lenBase : List (Nat × Nat) :=
  [(3, 0), (4, 0), (5, 0), (6, 0), (7, 0), (8, 0), (9, 0), (10, 0), (11, 1), (13, 1), (15, 1), (17, 1), (19, 2),
   (23, 2), (27, 2), (31, 2), (35, 3), (43, 3), (51, 3), (59, 3), (67, 4), (83, 4), (99, 4), (115, 4), (131, 5),
   (163, 5), (195, 5), (227, 5), (258, 0)]
/-- Base distance and extra bits of the distance symbols. -/
def distBase : List (Nat × Nat) :=
  (List.range 30).map fun i => if i < 4 then (i + 1, 0) else
    (2 ^ (i / 2 - 1) * (2 + i % 2) + 1, i / 2 - 1)

/-- Copies `n` bytes from a distance back; the output stands newest byte first. -/
def copyBack (d : Nat) : Nat → List Byte → List Byte
  | 0, out => out
  | n + 1, out => copyBack d n (out.getD (d - 1) 0 :: out)

/-- Symbols of one block up to its end; the first argument bounds them. The output so far stands newest first; the
bits that follow the block are none where it is invalid or has no end. -/
def inflateCodes (lit dist : Huff) : Nat → List Byte → List Bool → List Byte × Option (List Bool)
  | 0, out, _ => (out, none)
  | n + 1, out, bs =>
    match lit.sym bs with
    | none => (out, none)
    | some (v, r) =>
      if v < 256 then inflateCodes lit dist n (BitVec.ofNat 8 v :: out) r
      else if v = 256 then (out, some r)
      else match lenBase[v - 257]? with
        | none => (out, none)
        | some (base, ex) =>
          match getBits ex r with
          | none => (out, none)
          | some (x, r1) =>
            match dist.sym r1 with
            | none => (out, none)
            | some (dv, r2) =>
              match distBase[dv]? with
              | none => (out, none)
              | some (dbase, dex) =>
                match getBits dex r2 with
                | none => (out, none)
                | some (y, r3) =>
                  if out.length < dbase + y then (out, none)
                  else inflateCodes lit dist n (copyBack (dbase + y) (base + x) out) r3

/-- Reads `n` code lengths of a dynamic block; the first argument bounds the symbols. -/
def readLens (h : Huff) : Nat → Nat → List Nat → List Bool → Option (List Nat × List Bool)
  | 0, _, _, _ => none
  | f + 1, n, acc, bs =>
    if acc.length = n then some (acc, bs)
    else if n < acc.length then none
    else match h.sym bs with
      | none => none
      | some (v, r) =>
        if v < 16 then readLens h f n (acc ++ [v]) r
        else
          let (ex, base, val) := if v = 16 then (2, 3, acc.getLast?) else if v = 17 then (3, 3, some 0) else (7, 11, some 0)
          match val, getBits ex r with
          | some x, some (k, r1) => readLens h f n (acc ++ List.replicate (base + k) x) r1
          | _, _ => none

/-- Order of the code-length codes in a dynamic block. -/
def clOrder : List Nat := [16, 17, 18, 0, 8, 7, 9, 6, 10, 5, 11, 4, 12, 3, 13, 2, 14, 1, 15]

/-- Three-bit code lengths. -/
def readCl : Nat → List Bool → Option (List Nat × List Bool)
  | 0, bs => some ([], bs)
  | n + 1, bs => match getBits 3 bs with
    | none => none
    | some (v, r) => match readCl n r with
      | none => none
      | some (vs, r1) => some (v :: vs, r1)

/-- The two codes of a dynamic block. -/
def dynCodes (bs : List Bool) : Option (Huff × Huff × List Bool) :=
  match getBits 14 bs with
  | none => none
  | some (h, r) =>
    let nlen := h % 32 + 257
    let ndist := h / 32 % 32 + 1
    let ncode := h / 1024 + 4
    match readCl ncode r with
    | none => none
    | some (cl, r1) =>
      let lens := (List.range 19).map fun i => cl.getD (clOrder.idxOf i) 0
      if overFull lens || 286 < nlen || 30 < ndist then none
      else match readLens (Huff.of lens) (nlen + ndist + 1) (nlen + ndist) [] r1 with
        | none => none
        | some (ls, r2) =>
          if ls.getD 256 0 = 0 || overFull (ls.take nlen) || overFull (ls.drop nlen) then none
          else some (Huff.of (ls.take nlen), Huff.of (ls.drop nlen), r2)

/-- The bytes of a stored block at a byte boundary, as `inflateCodes` gives a coded one: output newest first, and
the bits that follow. -/
def storedBytes : Nat → List Byte → List Bool → List Byte × Option (List Bool)
  | 0, out, bs => (out, some bs)
  | n + 1, out, bs => match getBits 8 bs with
    | none => (out, none)
    | some (v, r) => storedBytes n (BitVec.ofNat 8 v :: out) r

/-- Bytes from a bit string at a byte boundary. -/
def takeBytes : Nat → List Bool → Option (List Byte × List Bool)
  | 0, bs => some ([], bs)
  | n + 1, bs => match getBits 8 bs with
    | none => none
    | some (v, r) => match takeBytes n r with
      | none => none
      | some (vs, r1) => some (BitVec.ofNat 8 v :: vs, r1)

/-- Bits up to the next byte boundary are skipped: `r` is what remains of a stream of whole bytes. -/
def alignByte (r : List Bool) : List Bool := r.drop (r.length % 8)

/-- One inflated stream: the blocks (BTYPE and the bytes of each), the output so far newest byte first, and the
bits that follow, none where the stream is invalid or has no end. The first argument bounds the blocks. -/
def inflateBlocks : Nat → List (Nat × Nat) → List Byte → List Bool →
    List (Nat × Nat) × List Byte × Option (List Bool)
  | 0, blocks, out, _ => (blocks, out, none)
  | f + 1, blocks, out, bs =>
    match getBits 3 bs with
    | none => (blocks, out, none)
    | some (h, r) =>
      let res : List Byte × Option (List Bool) := match h / 2 with
        | 0 => match getBits 32 (alignByte r) with
          | none => (out, none)
          | some (v, r1) =>
            if v % 65536 + v / 65536 = 65535 then storedBytes (v % 65536) out r1 else (out, none)
        | 1 => inflateCodes fixedLit fixedDist (r.length + 1) out r
        | 2 => match dynCodes r with
          | none => (out, none)
          | some (l, d, r1) => inflateCodes l d (r1.length + 1) out r1
        | _ => (out, none)
      let bl := blocks ++ [(h / 2, res.1.length - out.length)]
      match res.2 with
      | none => (bl, res.1, none)
      | some r1 => if h % 2 = 1 then (bl, res.1, some r1) else inflateBlocks f bl res.1 r1

/-- How the reading of a gzip stream ends (R356, R357). -/
inductive GzEnd where
  /-- whole members -/
  | done
  /-- outcome 4: invalid data, or no end -/
  | invalid
  /-- outcome 5: a check value does not match -/
  | mismatch
  deriving DecidableEq, Repr

/-- What a gzip stream turns out to be: its end, the output so far, and the whole members (R356, R357). -/
structure Gunzip where
  kind : GzEnd
  out : List Byte
  members : Nat
  deriving DecidableEq, Repr

/-- Bytes up to and with a zero byte are skipped. -/
def skipName : List Byte → Option (List Byte)
  | [] => none
  | b :: bs => if b = 0 then some bs else skipName bs

/-- The gzip header: the bytes after it; none where it is invalid, a failing FHCRC apart (R353, R356). -/
def gzHeader (bs : List Byte) : Option (List Byte × Bool) :=
  let flg := (bs.getD 3 0).toNat
  if bs.length < 10 || bs.take 3 != [0x1F, 0x8B, 0x08] || 32 ≤ flg then none
  else
    let r0 := some (bs.drop 10)
    let r1 := if flg.testBit 2 then r0.bind fun r =>
        if r.length < 2 || r.length < 2 + le (r.take 2) then none else some (r.drop (2 + le (r.take 2)))
      else r0
    let r2 := if flg.testBit 3 then r1.bind skipName else r1
    let r3 := if flg.testBit 4 then r2.bind skipName else r2
    if flg.testBit 1 then r3.bind fun r =>
        if r.length < 2 then none
        else some (r.drop 2, le (r.take 2) == crc32 (bs.take (bs.length - r.length)) % 65536)
    else r3.map fun r => (r, true)

/-- Members of a gzip stream; the first argument bounds them. -/
def gunzipMembers : Nat → Nat → List Byte → List Byte → Gunzip
  | 0, m, out, _ => ⟨.invalid, out, m⟩
  | f + 1, m, out, bs =>
    if bs.isEmpty && m ≠ 0 then ⟨.done, out, m⟩
    else match gzHeader bs with
      | none => ⟨.invalid, out, m⟩
      | some (r, hcrc) =>
        if !hcrc then ⟨.mismatch, out, m⟩
        else match inflateBlocks (8 * r.length + 1) [] [] (bitsOf r) with
          | (_, rev, none) => ⟨.invalid, out ++ rev.reverse, m⟩
          | (_, rev, some rest) =>
            let data := rev.reverse
            match takeBytes 8 (alignByte rest) with
            | none => ⟨.invalid, out ++ data, m⟩
            | some (t, tail) =>
              if le (t.take 4) ≠ crc32 data || le (t.drop 4) ≠ data.length % 2 ^ 32 then
                ⟨.mismatch, out ++ data, m⟩
              else gunzipMembers f (m + 1) (out ++ data) (bs.drop (bs.length - tail.length / 8))

/-- Decompression of a whole input (R353, R356). -/
def gunzip (bs : List Byte) : Gunzip := gunzipMembers (bs.length + 1) 0 [] bs

/-- Blocks of at most 65,536 input bytes: a coded block ends after every 65,536 bytes, and a stored fallback
may take several blocks of at most 65,535 (R352). `left` counts what the block in progress may still take. -/
def blocksOk (btype : Nat) : Nat → List (Nat × Nat) → Bool
  | _, [] => true
  | left, (t, n) :: bs =>
    decide (n ≤ left) &&
      (if t = 0 then decide (n ≤ 65535) && blocksOk btype (if left = n then 65536 else left - n) bs
       else t == btype && decide (left = 65536) && (bs.isEmpty || decide (n = 65536)) && blocksOk btype 65536 bs)

/-- The header of a compression job's member (R353). -/
def gzipHead (effort : Nat) : List Byte :=
  [0x1F, 0x8B, 0x08, 0x00, 0, 0, 0, 0, if effort = 0 then 4 else if effort = 3 then 2 else 0, 0xFF]

/-- A compression job's output is a gzip member of its input by R352 and R353. -/
def gzipOf (effort : Nat) (dynamic : Bool) (input out : List Byte) : Bool :=
  out.take 10 == gzipHead effort &&
    match inflateBlocks (8 * out.length + 1) [] [] (bitsOf (out.drop 10)) with
    | (_, _, none) => false
    | (bl, rev, some rest) =>
      rev.reverse == input && blocksOk (if dynamic then 2 else 1) 65536 bl &&
        match takeBytes 8 (alignByte rest) with
        | some (t, tail) => tail.isEmpty && le (t.take 4) == crc32 input && le (t.drop 4) == input.length % 2 ^ 32
        | none => false

end Sys2Proof.Machine
end

