-- ==== Sys2Proof/Machine/Dma.lean ====
section
/-! DEFINITION. The commands of family 0x0B and the events of the DMA channels (R328 to R350). -/
namespace Sys2Proof.Machine

/-! ### Commands (R348 to R350) -/

/-- The channel is IDLE or HALTED. -/
def dmaStopped (s : State) (n : Nat) : Bool := (s.dmaCh n).st == .idle || (s.dmaCh n).st == .halted

/-- State code of a channel (R329). -/
def dmaCode : DmaSt → Nat
  | .idle => 0 | .running => 1 | .halting => 2 | .halted => 3 | .job => 4 | .hold => 5

def dmaState (s : State) (n : Nat) : Fail := stState (loc 6 n) (dmaCode (s.dmaCh n).st)

/-- The ranges and reserved fields of the channel block (R348). -/
def dmaCfgOk (c : BitVec 512) : Bool :=
  zeros c [(136, 8), (192, 320)] && fld c 0 12 == 0 && fld c 64 2 == 0 && decide (4 ≤ fld c 128 5) &&
    decide (fld c 128 5 ≤ 16) && decide (64 ≤ fld c 144 16) && decide (fld c 144 16 ≤ 1024)

def cmdDmaSet : Cmd := { opcode := 0x0B01, cls := some 6, data := 64 }

/-- DMA_SET on a channel: the block, with the record count, the phase and fpos back at their start. -/
def execDmaSet (p : Packet) (s : State) : Host.Outcome State Fault Refusal :=
  if p.target == locPackage then .next s
  else
    Cmd.run cmdDmaSet p s
      [need (dmaCfgOk (p.blk 512)) (badParam noLoc (p.dataOff false))]
      [need (dmaStopped s p.idx) (dmaState s p.idx)]
      fun s => (s.modDma p.idx fun D => { D with
        cfg := p.blk 512, recCount := 0, consumed := 0, fpos := 0, fKey := none }, .ok)

def cmdDmaSetTwinMask : Cmd := { opcode := 0x0B01, mgmt := true, cls := some 0xA }

/-- DMA_SET on the package: the twin mask (R330). -/
def execDmaSetTwinMask (p : Packet) (s : State) : Host.Outcome State Fault Refusal :=
  if p.target != locPackage then .next s
  else
    Cmd.run cmdDmaSetTwinMask p s [] []
      fun s => (s.modHub fun H => { H with twinMask := BitVec.ofNat 16 (p.inb 4 2) }, .ok)

def cmdDmaGetTwin : Cmd := { opcode := 0x0B02, mgmt := true, buffer := true, cls := some 0xA }

def cmdDmaGet : Cmd := { opcode := 0x0B02, buffer := true, cls := some 6 }

/-- DMA_GET: the block of a channel, or the twin mask. A channel that belongs to no partition is read from
the management function only (R328, R350). -/
def execDmaGet (p : Packet) (s : State) : Host.Outcome State Fault Refusal :=
  if p.target == locPackage then
    Cmd.run cmdDmaGetTwin p s [] []
      fun s => (s, .done 0 0 s.hub.twinMask.toNat [])
  else
    Cmd.run cmdDmaGet p s [] []
      fun s => (s, .bytes (bytesOf 64 (s.dmaCh p.idx).cfg.toNat))

def cmdDmaStart : Cmd := { opcode := 0x0B03, cls := some 6 }

/-- DMA_START: the counters clear, and the channel runs from the chain head (R341, R344, R349, R350). -/
def execDmaStart (p : Packet) (s : State) : Host.Outcome State Fault Refusal :=
  let head : BitVec 64 := BitVec.ofNat 64 (p.inb 4 8)
  Cmd.run cmdDmaStart p s
    [need (p.inb 4 8 % 64 == 0) (badParam noLoc 20)] [need (dmaStopped s p.idx) (dmaState s p.idx)]
    fun s => (s.modDma p.idx fun D => { D with
      st := .running, head := head, nextDesc := some head, recent := [], fetched := 0, cur := none, descs := 0
      bytes := 0, crc := 0xFFFFFFFF, busErrors := 0, winLocal := 0, recWait := none, haltPend := none
      tries := 0, dieWait := none, followW := 0 }, .ok)

def cmdDmaHalt : Cmd := { opcode := 0x0B04, cls := some 6 }

/-- DMA_HALT: halts a running channel with reason 1 and replies once it is HALTED (R346, R350). A channel in
HOLD halts as well. -/
def execDmaHalt (p : Packet) (s : State) : Host.Outcome State Fault Refusal :=
  let n := p.idx
  let D := s.dmaCh n
  Cmd.run cmdDmaHalt p s []
    [need (D.st == .running || D.st == .halting || (D.st == .hold && D.job.isNone)) (dmaState s n)]
    fun s => (dmaHalt (s.modDma n fun D => { D with haltWait := D.haltWait ++ [p] }) n 1, .wait)

/-- The DMA channel status block (R349). -/
def dmaStatus (D : Dma) : Nat :=
  pack [(3, dmaCode D.st), (5, 0), (8, D.haltReason.toNat), (16, 0), (64, D.descAddr.toNat), (48, D.descs.toNat),
    (64, D.bytes.toNat), (32, D.crc.toNat ^^^ 0xFFFFFFFF), (48, D.busErrors.toNat), (24, D.winLocal.toNat),
    (16, (D.bufBytes + 1023) / 1024), (24, 0), (64, D.fpos.toNat), (32, D.recCount.toNat), (64, 0)]

def cmdDmaStatus : Cmd := { opcode := 0x0B05, buffer := true, cls := some 6 }

/-- DMA_STATUS. -/
def execDmaStatus (p : Packet) (s : State) : Host.Outcome State Fault Refusal :=
  Cmd.run cmdDmaStatus p s [] []
    fun s => (s, .bytes (bytesOf 64 (dmaStatus (s.dmaCh p.idx))))

/-! ### Fetching a descriptor (R330 to R335, R344) -/

/-- The checks of R334 whose failure halts with reason 4. -/
def descOk (d : Desc) (job : Bool) : Bool :=
  let e := d.len / max 1 d.elem * max 1 d.elem
  zeros d.bits [(319, 1), (340, 44), (448, 64)]
  && decide (d.srcSpace ≤ 5) && decide (d.dstSpace ≤ 1)
  && decide (1 ≤ d.len) && decide (d.len ≤ 2 ^ 31)
  && (d.srcSpace != 2 || decide (d.src + d.len ≤ 1048572))
  && (d.srcSpace != 3 || decide (d.src + d.len ≤ 786600))
  && (if d.gather then decide (d.srcSpace ≤ 1) && decide (1 ≤ d.elem) && decide (d.elem ≤ 4096) && e == d.len
      else d.idxAddr == 0 && (d.follows || d.elem == 0))
  && (if d.follows then decide (1 ≤ d.elem) && d.len % (72 * max 1 d.elem) == 0 && decide (d.fSlot < d.ways) &&
        decide (d.ways ≤ 4)
      else fld d.bits 336 4 == 0)
  && (if d.srcSpace ≤ 1 then d.srcLoc == 0
      else locOk d.srcLoc && d.srcLoc / 0x1000 == if d.srcSpace = 2 then 7 else 0)
  && (!job || (!d.crcOut && d.dst == 0 && d.dstSpace == 0))

/-- The descriptor names a cluster or a port of the channel's partition, and a path that is granted (R330,
R334). -/
def descMine (s : State) (n : Nat) (d : Desc) : Bool :=
  let k := s.dmaOwner n
  (match d.srcSpace with
    | 0 | 1 => true
    | 2 => s.pairOwner (d.srcLoc % 512) == k
    | _ => s.portOwner d.srcPort == k)
  && (!d.path || bit s.hub.twinMask (dmaPart s n))

/-- A follow descriptor may begin: armed port without a trigger branch (R335). -/
def followOpen (s : State) (d : Desc) : Bool :=
  let P := s.port d.srcPort
  P.trig.armed && !(Slalom.branches P.trig.table).any fun b => b.valid && b.trigger

/-- Position of the first chunk of the share from a chunk on (R335). -/
def shareFrom (d : Desc) (chunk : Nat) : Nat :=
  chunk + (d.fSlot + d.ways - chunk % d.ways) % d.ways

/-- A follow descriptor begins: fpos goes on where the same port, area and share stood, or to the first chunk
of the share (R335). -/
def followBegin (s : State) (n : Nat) (d : Desc) : State :=
  let key := (d.srcPort, d.srcSpace, d.ways, d.fSlot)
  let D := s.dmaCh n
  let pos := if D.fKey == some key then D.fpos else BitVec.ofNat 64 (shareFrom d 0 * d.chunk)
  s.modDma n fun D => { D with
    fpos := pos, fKey := some key, followW := 0, cur := some { d with firstPos := pos } }

/-- Halts at a fetch: the record names the address, and a descriptor that was not fetched has a user that the
spec does not state (log entry 1402). -/
def haltUnfetched (s : State) (n reason : Nat) (a : BitVec 64) : State :=
  let (v, s1) := s.fresh
  dmaHalt (s1.modDma n fun D => { D with
    descAddr := a, cur := some { Desc.reset with addr := a, bits := put 0 384 64 v } }) n reason

/-- A read that fails: of data, of the consumed count, or of a descriptor or its index table, whose halt record
then names the descriptor's address (R343). -/
def dmaReadFail (s : State) (c : Nat) : State :=
  let D := s.dmaCh c
  match D.cur, D.nextDesc, D.recWait with
  | none, some a, none =>
    if D.tries < D.retry then dmaFail s c false
    else haltUnfetched (s.modDma c fun D => { D with busErrors := satInc D.busErrors }) c 2 a
  | _, _, _ => dmaFail s c false

/-- The read of the index table of a gather descriptor whose source is capture memory (R333). -/
def readIndex (s : State) (n : Nat) (d : Desc) (m : MemIn) : Access :=
  let len := 8 * (d.len / max 1 d.elem)
  if d.gather && d.srcSpace == 1 then dmaAccess n false m.age (len / 4608 + 2) s d.idxAddr len [] m.bursts
  else .done s []

/-- The entries of an index table, as its bytes give them; a table of another space is the host's. -/
def indexIs (d : Desc) (index : List Nat) (bs : List (Byte × Bool)) : Bool :=
  !d.gather || (index.length == d.len / max 1 d.elem &&
    (d.srcSpace != 1 || (List.range index.length).all fun i =>
      index.getD i 0 == le (slice (bs.map (·.1)) (8 * i) 8)))

/-- DESC_FETCH: the channel fetches the next descriptor; `bits` are the 64 bytes at its address, `index` the
entries of its index table, and `m` what the reads of that table meet (R331, R333, R334, R344). -/
def execDescFetch (n : BitVec 5) (bits : BitVec 512) (index : List (BitVec 64)) (m : MemIn) (s : State) :
    Host.Outcome State Fault Refusal :=
  let c := n.toNat
  let D := s.dmaCh c
  match D.nextDesc with
  | none => .next s
  | some a =>
    if D.cur.isSome || D.recWait.isSome || !(D.st == .running || D.st == .job) then .next s
    else if D.recent.contains a || (decide (0 < D.fetched) && a == D.head) then ok (haltUnfetched s c 5 a)
    else if D.budget ≤ D.fetched then ok (haltUnfetched s c 6 a)
    else
      let d : Desc := { Desc.reset with
        addr := a, bits := bits, seq := D.fetchSeq, retries := D.tries, index := index.map (·.toNat) }
      let d := { d with total := d.len }
      match if descOk d (D.st == .job) then readIndex s c d m else .done s [] with
      | .fails s1 => ok (dmaReadFail s1 c)
      | .waits none => .next s
      | .waits (some a) => ok (waitDie s c a)
      | .done s0 table =>
      if descOk d (D.st == .job) && !indexIs d d.index table then .next s
      else
        let s1 := s0.modDma c fun D => { D with
          fetched := D.fetched + 1, fetchSeq := D.fetchSeq + 1, recent := (D.recent ++ [a]).drop (D.recent.length - 7)
          descAddr := a, tries := 0, cur := some d, crc := if d.crcReset then 0xFFFFFFFF else D.crc }
        if !descOk d (D.st == .job) then ok (dmaHalt s1 c 4)
        else if !descMine s c d then ok (dmaHalt s1 c 7)
        else if d.follows then
          if !followOpen s d then ok (dmaHalt s1 c 11)
          else if (followArea s d).2 < (d.ways + 2) * d.chunk then ok (dmaHalt s1 c 4)
          else ok (followBegin (takeCtr s1 c d) c { d with ctr := ctrOf s c d })
        else
          ok ((takeCtr s1 c d).modDma c fun D => { D with cur := some { d with ctr := ctrOf s c d } })
where
  /-- The counter value of an encrypted descriptor (R416). -/
  ctrOf (s : State) (c : Nat) (d : Desc) : Option (BitVec 64) :=
    match (s.part (dmaPart s c)).session with
    | some x => if x.enc && d.dstSpace == 0 && d.srcSpace != 0 && (s.dmaCh c).job.isNone then some x.ctr else none
    | none => none
  /-- The session's counter after the descriptor has taken its value (R416). -/
  takeCtr (s : State) (c : Nat) (d : Desc) : State :=
    if (ctrOf s c d).isSome then modSession s (dmaPart s c) fun x => { x with ctr := x.ctr + 1 } else s

/-! ### Read data (R200, R207, R335 to R337, R345) -/

/-- Data arrive: into the buffer, or into the compression engine of a job (R351). -/
def takeData (s : State) (n : Nat) (bs : List (Byte × Bool)) : State :=
  let D := s.dmaCh n
  let s1 := s.modDma n fun D => { D with tries := 0, cur := D.cur.map fun d => { d with
    read := d.read + bs.length, issued := max d.issued (d.read + bs.length)
    held := if D.job.isSome then d.held else d.held ++ bs
    plain := d.plain ++ bs.map (·.1), poison := d.poison || bs.any (·.2) } }
  match D.job with
  | none => dmaSettle s1 n
  | some m =>
    if bs.any (·.2) then cmpEnd s1 m 6 0x50 (loc 6 n + 2 ^ 16 * 0x20) .halted
    else
      dmaSettle (s1.modCmp m fun C =>
        let input := C.input ++ bs.map (·.1)
        { C with
          input := input, inConsumed := BitVec.ofNat 64 input.length
          crc32 := if fld C.block 256 2 = 0 then BitVec.ofNat 32 (crc32 input) else C.crc32 }) n

/-- Bytes of a cluster's shared data memory from a byte offset on (R207). -/
def sharedBytes (s : State) (k o len : Nat) : List Byte :=
  let C := s.cluster k
  (List.range len).map fun i =>
    let b := o + i
    let unit := unitOf ((List.range 4).map fun j => C.shared.get 0 (4 * (b / 9) + j))
    BitVec.ofNat 8 (unit >>> (8 * (b % 9)))

/-- Bytes of a density image from a byte offset on (R200). -/
def imageBytes (D : Dens) (o len : Nat) : List Byte :=
  (List.range len).map fun i => BitVec.ofNat 8 (D.imageUnit ((o + i) / 9) >>> (8 * ((o + i) % 9)))

/-- The reads of a channel for `u` units of a ring from position `k` on (R335). -/
def ringRead (s : State) (n : Nat) (area : Nat × Nat) (k u : Nat) (m : MemIn) : Access :=
  let h := k % area.2
  let first := min u (area.2 - h)
  match dmaAccess n false m.age (first / 512 + 2) s (area.1 + 9 * h) (9 * first) [] m.bursts with
  | .done s1 bs =>
    match dmaAccess n false m.age (u / 512 + 2) s1 area.1 (9 * (u - first)) [] (m.bursts.drop (first / 8 + 1)) with
    | .done s2 rest => .done s2 (bs ++ rest)
    | r => r
  | r => r

/-- First chunk of the share that lies wholly within the last units of the area that R336 names. -/
def resumeAt (d : Desc) (size w : Nat) : Nat :=
  let low := w - (size - d.chunk)
  shareFrom d ((low + d.chunk - 1) / d.chunk) * d.chunk

/-- A chunk of a follow descriptor has been read: it is taken, or discarded where the port may have overwritten
it (R335, R336). A chunk that is taken must be the ring's own bytes. -/
def followChunk (s : State) (n : Nat) (d : Desc) (bytes : List Byte) (poison : Bool) (m : MemIn) : State :=
  let D := s.dmaCh n
  let area := followArea s d
  let first := D.fpos.toNat
  let w := writeCount s d.srcPort (if d.srcSpace = 4 then 1 else 2)
  if D.followW < first + d.chunk || !bufRoom s n (9 * d.chunk) then s
  else if area.2 < w - first then
    s.modDma n fun D => { D with
      fpos := BitVec.ofNat 64 (resumeAt d area.2 w)
      cur := some { d with
        skip := true, firstPos := if d.read = 0 then BitVec.ofNat 64 (resumeAt d area.2 w) else d.firstPos } }
  else match ringRead s n area first d.chunk m with
  | .fails s1 => dmaFail s1 n false
  | .waits none => s
  | .waits (some a) => waitDie s n a
  | .done s1 bs =>
    if bs.map (·.1) != bytes || bs.any (·.2) != poison then s
    else
      takeData (s1.modDma n fun D => { D with fpos := BitVec.ofNat 64 (first + d.chunk * d.ways) }) n bs

/-- DMA_READ_COMPLETION: read data return, `poison` with the mark (R200, R321, R337, R345). Data of the
package's own memories are what those hold. Without bytes it is the zero-length read of path 1 (R340). -/
def execDmaReadCompletion (n : BitVec 5) (bytes : List (BitVec 8)) (poison : Bool) (m : MemIn) (s : State) :
    Host.Outcome State Fault Refusal :=
  let c := n.toNat
  let D := s.dmaCh c
  match D.cur with
  | none => .next s
  | some d =>
    let len := bytes.length
    if D.recWait.isSome then .next s
    else if len = 0 then
      if d.path && d.dstSpace == 0 && decide (d.written < d.sent) && d.held.isEmpty && d.read == d.total then
        ok (dmaSettle ((dmaWell s c).modDma c fun D => { D with
          bytes := satInc D.bytes (min d.sent d.total - min d.written d.total)
          cur := some { d with written := d.sent } }) c)
      else .next s
    else if !(D.st == .running || (D.st == .job && (D.job.map fun m => (s.cmpEng m).st) == some 1)) ||
        d.total < d.read + len then .next s
    else match d.srcSpace with
      | 0 =>
        if bufRoom s c len then
          ok (takeData (if poison then aerNote s (dmaPart s c) else s) c (bytes.map (·, poison)))
        else .next s
      | 1 =>
        match d.resp.find? fun x => x.1 == d.read with
        | some x =>
          if x.2.map (·.1) == bytes && x.2.any (·.2) == poison then
            ok (takeData (s.modDma c fun D => { D with
              cur := some { d with resp := d.resp.filter (·.1 != d.read) } }) c x.2)
          else .next s
        | none => .next s
      | 2 =>
        if bufRoom s c len && !poison && sharedBytes s (d.srcLoc % 512) (d.src + d.read) len == bytes then
          ok (takeData s c (bytes.map (·, false)))
        else .next s
      | 3 =>
        let P := s.port d.srcPort
        if !P.dens.readable then ok (dmaFail s c false)
        else if bufRoom s c len && !poison && imageBytes P.dens (d.src + d.read) len == bytes then
          ok (takeData s c (bytes.map (·, false)))
        else .next s
      | _ => ok (dmaSettle (followChunk s c d bytes poison m) c)

/-- FOLLOW_WRITE_COUNT: the region router reports the port's write count (R335). -/
def execFollowWriteCount (n : BitVec 5) (w : BitVec 64) (s : State) : Host.Outcome State Fault Refusal :=
  let c := n.toNat
  match (s.dmaCh c).cur with
  | none => .next s
  | some d =>
    if d.follows && (s.dmaCh c).followW ≤ w.toNat &&
        w.toNat ≤ writeCount s d.srcPort (if d.srcSpace = 4 then 1 else 2) then
      ok (dmaSettle (s.modDma c fun D => { D with followW := w.toNat }) c)
    else .next s

/-! ### Writes (R340 to R342) -/

/-- Host writes leave for the destination (R340, R341, R345): on path 0 that is their response. -/
def sendHost (s : State) (n : Nat) (d : Desc) (len : Nat) : State :=
  let D := s.dmaCh n
  let piece := d.held.take len
  let bs := sentBytes s n d d.sent (piece.map (·.1))
  let mark := piece.any (·.2)
  let data := min (d.sent + len) d.total - min d.sent d.total
  let sent := d.sent + len
  let s1 := s.modDma n fun D => { D with
    tries := 0, crc := crcAfter D d d.sent bs
    bytes := if d.path then D.bytes else satInc D.bytes data
    cur := some { d with held := d.held.drop len, sent := sent, written := if d.path then d.written else sent } }
  let s2 := s1.out (.dmaWrite n (dmaEp s n d.path) (BitVec.ofNat 64 (d.dst + d.sent)) bs mark)
  if d.path && (d.held.drop len).isEmpty &&
      (D.st == .halting || sent == d.total + if d.tailed then d.tailLen else 0) then
    s2.out (.dmaRead n (BitVec.ofNat 64 (d.dst + sent)) 0)
  else s2

/-- DMA_WRITE_RESPONSE: the next `len` bytes have been written (R340). To capture memory that is what the
controllers report; to host memory it is the hand-over to the transmit order. The bytes of one TLP carry one
poison mark. -/
def execDmaWriteResponse (n : BitVec 5) (len : Nat) (s : State) : Host.Outcome State Fault Refusal :=
  let c := n.toNat
  let D := s.dmaCh c
  match D.cur with
  | none => .next s
  | some d =>
    if len = 0 || D.recWait.isSome || D.job.isSome || !(D.st == .running || D.st == .halting) then .next s
    else if d.dstSpace == 0 then
      let piece := d.held.take len
      if d.held.length < len || (piece.any (·.2) && piece.any (!·.2)) ||
          (decide (d.sent < d.total) && decide (d.total < d.sent + len)) then .next s
      else ok (dmaSettle (sendHost s c d len) c)
    else if d.acked < len then .next s
    else
      let out := (d.plain.drop d.written).take (min len (d.total - d.written))
      ok (dmaSettle ((dmaWell s c).modDma c fun D => { D with
        bytes := satInc D.bytes out.length, crc := crcAfter D d d.written out
        cur := some { d with acked := d.acked - len, written := d.written + len } }) c)

/-- CQ_HEAD_POLL: the consumed count is read again, and a record that waited is written once there is room
(R342). -/
def execCqHeadPoll (n : BitVec 5) (v : BitVec 32) (s : State) : Host.Outcome State Fault Refusal :=
  let c := n.toNat
  let D := s.dmaCh c
  match D.recWait with
  | none => .next s
  | some r =>
    let s1 := s.modDma c fun D => { D with consumed := v, tries := 0 }
    if !(s1.dmaCh c).cqRoom then ok s1
    else
      let s2 := writeRecord s1 c r
      if D.st == .halting then ok (dmaHalted s2 c (D.haltPend.getD 0)) else ok (dmaBetween s2 c)

/-! ### Bus errors (R343) -/

/-- A request of the channel is outstanding that can fail. -/
def dmaCanFail (D : Dma) (write : Bool) : Bool :=
  (D.st == .running || D.st == .job || D.st == .halting) &&
    if write then D.recWait.isSome || match D.cur with
      | some d => !d.held.isEmpty || decide (d.written < d.sent)
      | none => false
    else D.recWait.isSome || (D.cur.isNone && D.nextDesc.isSome) || match D.cur with
      | some d => decide (d.read < d.total) || (d.path && decide (d.written < d.sent))
      | none => false

/-- DMA_BUS_ERROR: Unsupported Request, Completer Abort or an error response (R343). -/
def execDmaBusError (n : BitVec 5) (write : Bool) (s : State) : Host.Outcome State Fault Refusal :=
  if !dmaCanFail (s.dmaCh n.toNat) write then .next s
  else ok (if write then dmaFail s n.toNat true else dmaReadFail s n.toNat)

/-- DMA_COMPLETION_TIMEOUT: the same for a request without a completion; while patrol brings a die up the
timeout does not run (R21, R343). -/
def execDmaCompletionTimeout (n : BitVec 5) (write : Bool) (s : State) : Host.Outcome State Fault Refusal :=
  if !dmaCanFail (s.dmaCh n.toNat) write || (s.dmaCh n.toNat).dieWait.isSome then .next s
  else ok (if write then dmaFail s n.toNat true else dmaReadFail s n.toNat)

end Sys2Proof.Machine
end

