-- ==== Sys2Proof/Machine/Cmp.lean ====
section
/-! DEFINITION. The commands of family 0x0C and the end of a compression job (R351 to R358). -/
namespace Sys2Proof.Machine

/-! ### The job block (R354) -/

def Cmp.outAddr (C : Cmp) : Nat := fld C.block 64 64
def Cmp.outLimit (C : Cmp) : Nat := if fld C.block 192 64 = 0 then 2 ^ 40 else fld C.block 192 64
def Cmp.op (C : Cmp) : Nat := fld C.block 256 2
def Cmp.dynamic (C : Cmp) : Bool := bit C.block 258
def Cmp.effort (C : Cmp) : Nat := fld C.block 259 2
def Cmp.compat (C : Cmp) : Bool := bit C.block 261
def Cmp.outPath (C : Cmp) : Bool := bit C.block 262
def Cmp.outSpace (C : Cmp) : Nat := fld C.block 264 4

def jobOk (b : BitVec 512) : Bool :=
  zeros b [(263, 1), (268, 244)] && fld b 0 6 == 0 && decide (1 ≤ fld b 128 64) &&
    decide (fld b 128 64 ≤ 2 ^ 40) && decide (fld b 256 2 ≤ 1) &&
    decide (fld b 264 4 ≤ 1)

/-- The lowest-numbered free engine (R354): FREE, or ENDED with its last block kept. -/
def freeCmp (s : State) : Option Nat :=
  (List.range 16).find? fun m => (s.cmpEng m).st == 0 || (s.cmpEng m).st == 3

/-- A job whose output path is not granted halts its channel with reason 7 (R330, R346). -/
def checkPath (s : State) (n m : Nat) : State :=
  let C := s.cmpEng m
  if C.outSpace == 0 && C.outPath && !bit s.hub.twinMask C.part then dmaHalt s n 7 else s

def cmdCmpJob : Cmd := { opcode := 0x0C01, accepts := true, cls := some 6, data := 64 }

/-- CMP_JOB (R354, R416). -/
def execCmpJob (p : Packet) (s : State) : Host.Outcome State Fault Refusal :=
  let b : BitVec 512 := p.blk 512
  let n := p.idx
  Cmd.run cmdCmpJob p s
    [need (jobOk b) (badParam noLoc (p.dataOff false))]
    [need (!(encrypts s p.part && fld b 264 4 == 0)) (denied 3),
     need (dmaStopped s n) (dmaState s n),
     need (freeCmp s).isSome (noResource 0x5000 6)]
    fun s =>
      let m := (freeCmp s).getD 0
      let chain := fbv b 0 64
      let s1 := s.modCmp m fun _ => { Cmp.reset with
        st := 1, channel := BitVec.ofNat 5 n, block := b, areaAddr := fbv b 64 64, areaLen := fld b 128 64
        part := p.part }
      let s2 := s1.modDma n fun D => { D with
        st := .job, job := some m, head := chain, nextDesc := some chain, recent := [], fetched := 0, cur := none
        recWait := none, haltPend := none, tries := 0, dieWait := none }
      (checkPath s2 n m, .accept (.cmp m) (loc 5 m))

def cmpState (s : State) (m : Nat) : Fail := stState (loc 5 m) (s.cmpEng m).st.toNat

def cmdCmpResume : Cmd := { opcode := 0x0C02, accepts := true, cls := some 5, data := 8 }

/-- CMP_RESUME: a new area of a HELD job, in the same space and path (R355, R358). -/
def execCmpResume (p : Packet) (s : State) : Host.Outcome State Fault Refusal :=
  let m := p.idx
  let len := p.dat 0 8
  Cmd.run cmdCmpResume p s
    [need (1 ≤ len && len ≤ 2 ^ 40) (badParam noLoc (p.dataOff false))]
    [need (!(encrypts s p.part && (s.cmpEng m).outSpace == 0)) (denied 3),
     need ((s.cmpEng m).st == 2) (cmpState s m)]
    fun s => (s.modCmp m fun C => { C with
      st := 1, areaAddr := BitVec.ofNat 64 (p.inb 4 8), areaLen := len, outArea := 0 }, .accept (.cmp m) (loc 5 m))

def cmdCmpCancel : Cmd := { opcode := 0x0C03, cls := some 5 }

/-- CMP_CANCEL: a running job ends with outcome 7, a held one without EV_DONE (R357, R358). -/
def execCmpCancel (p : Packet) (s : State) : Host.Outcome State Fault Refusal :=
  let m := p.idx
  let C := s.cmpEng m
  Cmd.run cmdCmpCancel p s [] [need (C.st == 1 || C.st == 2) (cmpState s m)]
    fun s =>
      if C.st == 1 then (cmpEnd s m 7 2 (min C.inConsumed.toNat (2 ^ 32 - 1)) .idle, .ok)
      else
        let s1 := s.modCmp m fun C => { C with st := 3, input := [], output := [] }
        (s1.modDma C.channel.toNat fun D => { D with
          st := .idle, cur := none, nextDesc := none, recWait := none, haltPend := none, job := none }, .ok)

/-- The job status block (R358). CRC-32 and members are those of the bytes so far. -/
def cmpStatus (C : Cmp) : Nat :=
  pack [(3, C.st.toNat), (5, 0), (4, C.outcome.toNat), (4, 0), (5, C.channel.toNat), (11, 0),
    (64, C.inConsumed.toNat), (64, C.outTotal.toNat), (64, C.outArea.toNat), (32, C.crc32.toNat),
    (32, C.members.toNat), (224, 0)]

def cmdCmpStatus : Cmd := { opcode := 0x0C04, buffer := true, cls := some 5 }

/-- CMP_STATUS. -/
def execCmpStatus (p : Packet) (s : State) : Host.Outcome State Fault Refusal :=
  Cmd.run cmdCmpStatus p s [] []
    fun s => (s, .bytes (bytesOf 64 (cmpStatus (s.cmpEng p.idx))))

/-! ### The end of a job (R355 to R357) -/

/-- The input chain has ended, and the engine has taken all of it. -/
def inputEnded (s : State) (m : Nat) : Bool :=
  let D := s.dmaCh (s.cmpEng m).channel.toNat
  D.cur.isNone && D.nextDesc.isNone && D.recWait.isNone

/-- The outcome and the output of the whole job so far are such as R352 to R356 allow. A compressor's output depends
on the input, dynamic and effort only (R352); a decompressor's is the start of what the input decodes to. -/
def outcomeOk (s : State) (m : Nat) (outcome : Nat) (out : List Byte) : Bool :=
  let C := s.cmpEng m
  let all := C.output ++ out
  let room := C.areaLen - C.outArea.toNat
  let ended := inputEnded s m
  let g := gunzip C.input
  let more := C.op == 0 || decide (all.length < g.out.length)
  decide (out.length ≤ room) && (C.op == 0 || (decide (all.length ≤ C.outLimit) && all.isPrefixOf g.out)) &&
    match outcome with
    | 0 => ended && if C.op = 0 then gzipOf C.effort C.dynamic C.input all &&
          all == Config.deflate C.effort C.dynamic C.input
        else g.kind == .done && g.out == all
    | 1 => !C.compat && out.length == room && more
    | 2 => C.compat && out.length == room && more
    | 3 => C.op == 1 && all.length == C.outLimit && more
    | 4 => ended && C.op == 1 && g.kind == .invalid && g.out == all
    | 5 => ended && C.op == 1 && g.kind == .mismatch && g.out == all
    | _ => false

/-- The channel writes the engine's output to the area in order: to host memory, or through the controllers
(R253, R351). -/
def writeOutput (s : State) (k : Nat) (bs : List Byte) (m : MemIn) : Access :=
  let C := s.cmpEng k
  let a := C.areaAddr.toNat + C.outArea.toNat
  let n := C.channel.toNat
  if bs.isEmpty then .done s []
  else if C.outSpace = 0 then .done (s.out (.dmaWrite n (dmaEp s n C.outPath) (BitVec.ofNat 64 a) bs false)) []
  else dmaAccess n true m.age (bs.length / 4608 + 2) s a bs.length bs m.bursts

/-- CMP_JOB_END: the job ends or is held; its output since the last report is written to the area (R355 to
R357). A write that fails is a bus error of the channel. -/
def execCmpJobEnd (e : BitVec 4) (r : CmpIn) (m : MemIn) (s : State) : Host.Outcome State Fault Refusal :=
  let k := e.toNat
  let C := s.cmpEng k
  let n := C.channel.toNat
  if C.st != 1 || (s.dmaCh n).st != .job || !outcomeOk s k r.outcome.toNat r.output then .next s
  else match writeOutput s k r.output m with
    | .fails s1 => ok (dmaFail s1 n true)
    | .waits none => .next s
    | .waits (some a) => ok (waitDie s n a)
    | .done s1 _ =>
      let all := C.output ++ r.output
      let mem := if C.op = 0 then b2n (r.outcome == 0) else (gunzip C.input).members
      let s2 := s1.modCmp k fun C => { C with
        output := all, outArea := C.outArea + BitVec.ofNat 64 r.output.length
        outTotal := BitVec.ofNat 64 all.length, inConsumed := BitVec.ofNat 64 C.input.length
        crc32 := BitVec.ofNat 32 (crc32 (if C.op = 0 then C.input else all)), members := BitVec.ofNat 32 mem }
      let area := (C.outArea + BitVec.ofNat 64 r.output.length).toNat
      match r.outcome.toNat with
      | 0 => ok (cmpEnd s2 k 0 0 0 .idle)
      | 1 => ok (finishJob (s2.modCmp k fun C => { C with st := 2, outcome := 1 }) (.cmp k) 2
          (min area (2 ^ 32 - 1)) 1)
      | o => ok (cmpEnd s2 k o 0x21 (loc 5 k + 2 ^ 16 * 0xFFFF) .idle)

end Sys2Proof.Machine
end

