-- ==== Sys2Proof/Machine/EngInstr.lean ====
section
/-! DEFINITION. The instructions of the measurement engines, one definition for each: the issue of a bundle that
holds the instruction in one slot (R211 to R227). -/
namespace Sys2Proof.Machine

/-- An opcode of the tables of R213, other than NOP. -/
def xNamed (o : Nat) : Bool := decide (1 ≤ o ∧ o ≤ 0x19) || decide (0x20 ≤ o ∧ o ≤ 0x27)
def yNamed (o : Nat) : Bool := decide (1 ≤ o ∧ o ≤ 0x1D)

/-- NOP (R211): a bundle with a NOP in one slot. A bundle in which neither slot names an instruction is of this row
too, and raises ILL. -/
def execINop (e : BitVec 9) (bundle : BitVec 72) (s : State) : Host.Outcome State Fault Refusal :=
  let x := opOf (xSlot bundle)
  let y := opOf (ySlot bundle)
  if x = 0 || y = 0 || !(xNamed x || yNamed y) then issue e.toNat bundle s else .next s

/-- ADD (R213). Engine 18-bit add. -/
def execIAdd (e : BitVec 9) (x : XOps) (o : BitVec 36) (s : State) : Host.Outcome State Fault Refusal :=
  issueX e 0x01 x o s

/-- SUB (R213). Engine 18-bit subtract. -/
def execISub (e : BitVec 9) (x : XOps) (o : BitVec 36) (s : State) : Host.Outcome State Fault Refusal :=
  issueX e 0x02 x o s

/-- ADDI (R213). Engine add immediate. -/
def execIAddi (e : BitVec 9) (x : XOps) (o : BitVec 36) (s : State) : Host.Outcome State Fault Refusal :=
  issueX e 0x03 x o s

/-- NEG (R213). Engine negate. -/
def execINeg (e : BitVec 9) (x : XOps) (o : BitVec 36) (s : State) : Host.Outcome State Fault Refusal :=
  issueX e 0x04 x o s

/-- ABS (R213). Engine absolute value. -/
def execIAbs (e : BitVec 9) (x : XOps) (o : BitVec 36) (s : State) : Host.Outcome State Fault Refusal :=
  issueX e 0x05 x o s

/-- AND (R213). Engine bitwise AND. -/
def execIAnd (e : BitVec 9) (x : XOps) (o : BitVec 36) (s : State) : Host.Outcome State Fault Refusal :=
  issueX e 0x06 x o s

/-- OR (R213). Engine bitwise OR. -/
def execIOr (e : BitVec 9) (x : XOps) (o : BitVec 36) (s : State) : Host.Outcome State Fault Refusal :=
  issueX e 0x07 x o s

/-- XOR (R213). Engine bitwise XOR. -/
def execIXor (e : BitVec 9) (x : XOps) (o : BitVec 36) (s : State) : Host.Outcome State Fault Refusal :=
  issueX e 0x08 x o s

/-- ANDI (R213). Engine AND immediate. -/
def execIAndi (e : BitVec 9) (x : XOps) (o : BitVec 36) (s : State) : Host.Outcome State Fault Refusal :=
  issueX e 0x09 x o s

/-- MOVI (R213). Engine move immediate. -/
def execIMovi (e : BitVec 9) (x : XOps) (o : BitVec 36) (s : State) : Host.Outcome State Fault Refusal :=
  issueX e 0x0A x o s

/-- MOV (R213). Engine register move. -/
def execIMov (e : BitVec 9) (x : XOps) (o : BitVec 36) (s : State) : Host.Outcome State Fault Refusal :=
  issueX e 0x0B x o s

/-- MIN (R213). Engine signed minimum. -/
def execIMin (e : BitVec 9) (x : XOps) (o : BitVec 36) (s : State) : Host.Outcome State Fault Refusal :=
  issueX e 0x0C x o s

/-- MAX (R213). Engine signed maximum. -/
def execIMax (e : BitVec 9) (x : XOps) (o : BitVec 36) (s : State) : Host.Outcome State Fault Refusal :=
  issueX e 0x0D x o s

/-- SHL (R213). Engine shift left. -/
def execIShl (e : BitVec 9) (x : XOps) (o : BitVec 36) (s : State) : Host.Outcome State Fault Refusal :=
  issueX e 0x0E x o s

/-- SAR (R213). Engine arithmetic shift right. -/
def execISar (e : BitVec 9) (x : XOps) (o : BitVec 36) (s : State) : Host.Outcome State Fault Refusal :=
  issueX e 0x0F x o s

/-- SHR (R213). Engine logical shift right. -/
def execIShr (e : BitVec 9) (x : XOps) (o : BitVec 36) (s : State) : Host.Outcome State Fault Refusal :=
  issueX e 0x10 x o s

/-- SHI (R213). Engine shift by immediate. -/
def execIShi (e : BitVec 9) (x : XOps) (o : BitVec 36) (s : State) : Host.Outcome State Fault Refusal :=
  issueX e 0x11 x o s

/-- CMP (R213). Engine compare setting Z, N, C and V. -/
def execICmp (e : BitVec 9) (x : XOps) (o : BitVec 36) (s : State) : Host.Outcome State Fault Refusal :=
  issueX e 0x12 x o s

/-- CMPI (R213). Engine compare against immediate. -/
def execICmpi (e : BitVec 9) (x : XOps) (o : BitVec 36) (s : State) : Host.Outcome State Fault Refusal :=
  issueX e 0x13 x o s

/-- MUL (R213). Engine scaled multiply. -/
def execIMul (e : BitVec 9) (x : XOps) (o : BitVec 36) (s : State) : Host.Outcome State Fault Refusal :=
  issueX e 0x14 x o s

/-- DIV (R213). Engine division truncated toward zero. -/
def execIDiv (e : BitVec 9) (x : XOps) (o : BitVec 36) (s : State) : Host.Outcome State Fault Refusal :=
  issueX e 0x15 x o s

/-- REM (R213). Engine remainder. -/
def execIRem (e : BitVec 9) (x : XOps) (o : BitVec 36) (s : State) : Host.Outcome State Fault Refusal :=
  issueX e 0x16 x o s

/-- POPC (R213). Engine population count. -/
def execIPopc (e : BitVec 9) (x : XOps) (o : BitVec 36) (s : State) : Host.Outcome State Fault Refusal :=
  issueX e 0x17 x o s

/-- NORM (R213). Engine count of redundant sign bits. -/
def execINorm (e : BitVec 9) (x : XOps) (o : BitVec 36) (s : State) : Host.Outcome State Fault Refusal :=
  issueX e 0x18 x o s

/-- FFS (R213). Engine index of lowest set bit. -/
def execIFfs (e : BitVec 9) (x : XOps) (o : BitVec 36) (s : State) : Host.Outcome State Fault Refusal :=
  issueX e 0x19 x o s

/-- MAC (R213). Engine multiply-accumulate. -/
def execIMac (e : BitVec 9) (x : XOps) (o : BitVec 36) (s : State) : Host.Outcome State Fault Refusal :=
  issueX e 0x20 x o s

/-- MSU (R213). Engine multiply-subtract. -/
def execIMsu (e : BitVec 9) (x : XOps) (o : BitVec 36) (s : State) : Host.Outcome State Fault Refusal :=
  issueX e 0x21 x o s

/-- MPA (R213). Engine product into accumulator. -/
def execIMpa (e : BitVec 9) (x : XOps) (o : BitVec 36) (s : State) : Host.Outcome State Fault Refusal :=
  issueX e 0x22 x o s

/-- ACLR (R213). Engine accumulator clear. -/
def execIAclr (e : BitVec 9) (x : XOps) (o : BitVec 36) (s : State) : Host.Outcome State Fault Refusal :=
  issueX e 0x23 x o s

/-- ALD (R213). Engine accumulator load with shift. -/
def execIAld (e : BitVec 9) (x : XOps) (o : BitVec 36) (s : State) : Host.Outcome State Fault Refusal :=
  issueX e 0x24 x o s

/-- AADD (R213). Engine accumulator add. -/
def execIAadd (e : BitVec 9) (x : XOps) (o : BitVec 36) (s : State) : Host.Outcome State Fault Refusal :=
  issueX e 0x25 x o s

/-- ASR (R213). Engine accumulator shift right. -/
def execIAsr (e : BitVec 9) (x : XOps) (o : BitVec 36) (s : State) : Host.Outcome State Fault Refusal :=
  issueX e 0x26 x o s

/-- EXT (R213). Engine extract scaled accumulator to a register. -/
def execIExt (e : BitVec 9) (x : XOps) (o : BitVec 36) (s : State) : Host.Outcome State Fault Refusal :=
  issueX e 0x27 x o s

/-- LD (R207). Engine load of one word. -/
def execILd (e : BitVec 9) (y : YOps) (o : BitVec 36) (s : State) : Host.Outcome State Fault Refusal :=
  issueY e 0x01 y o s

/-- ST (R207). Engine store of one word. -/
def execISt (e : BitVec 9) (y : YOps) (o : BitVec 36) (s : State) : Host.Outcome State Fault Refusal :=
  issueY e 0x02 y o s

/-- LDQ (R207). Engine load of four words. -/
def execILdq (e : BitVec 9) (y : YOps) (o : BitVec 36) (s : State) : Host.Outcome State Fault Refusal :=
  issueY e 0x03 y o s

/-- STQ (R207). Engine store of four words. -/
def execIStq (e : BitVec 9) (y : YOps) (o : BitVec 36) (s : State) : Host.Outcome State Fault Refusal :=
  issueY e 0x04 y o s

/-- AXA (R208). Engine atomic exchange-add on shared memory. -/
def execIAxa (e : BitVec 9) (y : YOps) (o : BitVec 36) (s : State) : Host.Outcome State Fault Refusal :=
  issueY e 0x05 y o s

/-- MOVP (R213). Engine set address register. -/
def execIMovp (e : BitVec 9) (y : YOps) (o : BitVec 36) (s : State) : Host.Outcome State Fault Refusal :=
  issueY e 0x06 y o s

/-- PADD (R213). Engine add to address register. -/
def execIPadd (e : BitVec 9) (y : YOps) (o : BitVec 36) (s : State) : Host.Outcome State Fault Refusal :=
  issueY e 0x07 y o s

/-- MTP (R213). Engine move register to address register. -/
def execIMtp (e : BitVec 9) (y : YOps) (o : BitVec 36) (s : State) : Host.Outcome State Fault Refusal :=
  issueY e 0x08 y o s

/-- MFP (R213). Engine move address register to register. -/
def execIMfp (e : BitVec 9) (y : YOps) (o : BitVec 36) (s : State) : Host.Outcome State Fault Refusal :=
  issueY e 0x09 y o s

/-- B (R215). Engine conditional branch after a delay bundle. -/
def execIB (e : BitVec 9) (y : YOps) (o : BitVec 36) (s : State) : Host.Outcome State Fault Refusal :=
  issueY e 0x0A y o s

/-- CALL (R215). Engine call setting p7. -/
def execICall (e : BitVec 9) (y : YOps) (o : BitVec 36) (s : State) : Host.Outcome State Fault Refusal :=
  issueY e 0x0B y o s

/-- JR (R215). Engine jump through an address register. -/
def execIJr (e : BitVec 9) (y : YOps) (o : BitVec 36) (s : State) : Host.Outcome State Fault Refusal :=
  issueY e 0x0C y o s

/-- LOOP (R217). Engine hardware loop with register count. -/
def execILoop (e : BitVec 9) (y : YOps) (o : BitVec 36) (s : State) : Host.Outcome State Fault Refusal :=
  issueY e 0x0D y o s

/-- LOOPI (R217). Engine hardware loop with immediate count. -/
def execILoopi (e : BitVec 9) (y : YOps) (o : BitVec 36) (s : State) : Host.Outcome State Fault Refusal :=
  issueY e 0x0E y o s

/-- SIN (R219). Engine read of one stream word, setting GP and EL. -/
def execISin (e : BitVec 9) (y : YOps) (o : BitVec 36) (s : State) : Host.Outcome State Fault Refusal :=
  issueY e 0x0F y o s

/-- SINQ (R219). Engine read of four stream words. -/
def execISinq (e : BitVec 9) (y : YOps) (o : BitVec 36) (s : State) : Host.Outcome State Fault Refusal :=
  issueY e 0x10 y o s

/-- OUT (R221). Engine write of one word to the result ring. -/
def execIOut (e : BitVec 9) (y : YOps) (o : BitVec 36) (s : State) : Host.Outcome State Fault Refusal :=
  issueY e 0x11 y o s

/-- OUTQ (R221). Engine write of four words to the result ring. -/
def execIOutq (e : BitVec 9) (y : YOps) (o : BitVec 36) (s : State) : Host.Outcome State Fault Refusal :=
  issueY e 0x12 y o s

/-- EVT (R222). Engine event timed by a stream cursor. -/
def execIEvt (e : BitVec 9) (y : YOps) (o : BitVec 36) (s : State) : Host.Outcome State Fault Refusal :=
  issueY e 0x13 y o s

/-- EVTR (R222). Engine event at a given position of the beat. -/
def execIEvtr (e : BitVec 9) (y : YOps) (o : BitVec 36) (s : State) : Host.Outcome State Fault Refusal :=
  issueY e 0x14 y o s

/-- TUNE (R224). Engine tune of a gate or the slalom through the tune port. -/
def execITune (e : BitVec 9) (y : YOps) (o : BitVec 36) (s : State) : Host.Outcome State Fault Refusal :=
  issueY e 0x15 y o s

/-- SPOST (R209). Engine increment of a synchronisation counter. -/
def execISpost (e : BitVec 9) (y : YOps) (o : BitVec 36) (s : State) : Host.Outcome State Fault Refusal :=
  issueY e 0x16 y o s

/-- SWAIT (R209). Engine wait on a synchronisation counter. -/
def execISwait (e : BitVec 9) (y : YOps) (o : BitVec 36) (s : State) : Host.Outcome State Fault Refusal :=
  issueY e 0x17 y o s

/-- FENCE (R209). Engine wait for its shared-memory writes. -/
def execIFence (e : BitVec 9) (y : YOps) (o : BitVec 36) (s : State) : Host.Outcome State Fault Refusal :=
  issueY e 0x18 y o s

/-- MTC (R216). Engine write of a control register, with the MODE shadow. -/
def execIMtc (e : BitVec 9) (y : YOps) (o : BitVec 36) (s : State) : Host.Outcome State Fault Refusal :=
  issueY e 0x19 y o s

/-- MFC (R210). Engine read of a control register. -/
def execIMfc (e : BitVec 9) (y : YOps) (o : BitVec 36) (s : State) : Host.Outcome State Fault Refusal :=
  issueY e 0x1A y o s

/-- TRAP (R225). Engine trap into the handler. -/
def execITrap (e : BitVec 9) (y : YOps) (o : BitVec 36) (s : State) : Host.Outcome State Fault Refusal :=
  issueY e 0x1B y o s

/-- RETE (R227). Engine return from the exception handler. -/
def execIRete (e : BitVec 9) (y : YOps) (o : BitVec 36) (s : State) : Host.Outcome State Fault Refusal :=
  issueY e 0x1C y o s

/-- HALT (R229). Engine goes to HALTED. -/
def execIHalt (e : BitVec 9) (y : YOps) (o : BitVec 36) (s : State) : Host.Outcome State Fault Refusal :=
  issueY e 0x1D y o s

end Sys2Proof.Machine
end

