-- ==== Sys2Proof/Machine/Power.lean ====
section
/-! DEFINITION. Patrol: the commands of family 0x0E, power tokens, containers, sleep, telemetry and the monitor
converter (R20 to R22, R386 to R407). -/
namespace Sys2Proof.Machine

/-! ### The power configuration (R397) -/

def pwrCfgOk (c : BitVec 256) : Bool :=
  decide (120 ≤ fld c 0 11) && decide (fld c 0 11 ≤ 1550) && decide (fld c 80 11 ≤ 1550) &&
    zeros c [(11, 5), (69, 11), (91, 165)]

def cmdPwrCapSet : Cmd := { opcode := 0x0E01, mgmt := true, data := 32 }

/-- PWR_CAP_SET: the block takes effect, and patrol takes tokens back until the holding fits. -/
def execPwrCapSet (p : Packet) (s : State) : Host.Outcome State Fault Refusal :=
  let c : BitVec 256 := p.blk 256
  let new := fld c 0 11 * 2600 / 1550
  Cmd.run cmdPwrCapSet p s
    [need (pwrCfgOk c) (badParam noLoc (p.dataOff false))]
    [need (tokensInUse s ≤ new) (stState 0xC004 0)]
    fun s => (fitBudget (s.modPwr fun P => { P with cfg := c }) new, .ok)

/-! ### PWR_STATE_SET (R387, R398) -/

/-- What stands against Parked and Off-but-watching (R387). -/
def mayPark (s : State) : Bool :=
  !s.ports.any (fun x => x.2.trig.armed || chainBusy s x.1) &&
  !s.engines.any (fun x => engBusy s x.1) &&
  !s.dma.any (fun x => x.2.st == .running || x.2.st == .halting || x.2.st == .job) &&
  !s.cmp.any (fun x => x.2.st == 1 || x.2.st == 2) && s.hub.accepted.isEmpty

def cmdState : Cmd := { opcode := 0x0E02, mgmt := true, accepts := true, freeTarget := true, sub := true }

/-- The checks and the effect of the two states of sleep. -/
def setSleep (p : Packet) (s : State) (target : BitVec 2) : Host.Outcome State Fault Refusal :=
  Cmd.run cmdState p s [need (p.inb 0 4 = 0) (badParam noLoc 16)] [need (mayPark s) (stState locPackage 0)]
    fun s => (s.modPwr fun P => { P with target := some (target, BitVec.ofNat 32 (p.inb 8 4)) }, .ok)

/-- PWR_STATE_SET with state 0. -/
def execPwrStateSetOff (p : Packet) (s : State) : Host.Outcome State Fault Refusal :=
  if p.inb 4 1 ≠ 0 then .next s else setSleep p s 0

/-- PWR_STATE_SET with state 1. -/
def execPwrStateSetParked (p : Packet) (s : State) : Host.Outcome State Fault Refusal :=
  if p.inb 4 1 ≠ 1 then .next s else setSleep p s 1

/-- Policy of die `n` in the command. -/
def newPolicy (p : Packet) (n : Nat) : Nat := p.inb 6 2 / 4 ^ n % 4

/-- A die whose policy became off: its ports and clusters are closed, and it is switched off. -/
def dieDown (s : State) (d : Nat) : State :=
  let s1 := forEach ((dieRegions d).flatMap regionPorts) (fun s p =>
    if portTokens (s.port p) != 0 then portDown s p else s) s
  let s2 := forEach ((dieRegions d).flatMap regionClusters) (fun s k =>
    if clusterOn (s.cluster k) then clusterOff s k else s) s1
  let s3 := patrolRegions s2
  if dieOn (s3.die d) && !dieWorks s3 d && !(dieRegions d).any (fun r => regionOn (s3.region r)) then dieOff s3 d
  else s3

/-- The policies of the dies are met. -/
def policiesMet (s : State) : Bool :=
  (List.range 4).all fun d =>
    let D := s.die d
    match D.policy.toNat with
    | 2 => D.pwr != 0 && !D.powering
    | 3 => D.pwr != 0 && !D.powering && (dieRegions d).all fun r => (s.region r).powered && !(s.region r).powering
    | _ => true

/-- The EV_DONE of a policy change follows the switching. -/
def settlePower (s : State) : State := if policiesMet s then finishJob s .power 0 0 0 else s

/-- PWR_STATE_SET with state 2: the die policies (R398). A state of no row takes this row. -/
def execPwrStateSetReady (p : Packet) (s : State) : Host.Outcome State Fault Refusal :=
  if p.inb 4 1 < 2 then .next s else
  Cmd.run cmdState p s
    [need (p.inb 0 4 = 0) (badParam noLoc 16), need (p.inb 4 1 = 2) (badParam noLoc 20)]
    ((List.range 4).map fun d => need (newPolicy p d != 1 || !dieInUse s d) (stState (loc 9 d) 0))
    fun s =>
      let s1 := forEach (List.range 4) (fun s d => s.modDie d fun D => { D with
        policy := BitVec.ofNat 2 (newPolicy p d) }) s
      let s2 := forEach ((List.range 4).filter fun d => newPolicy p d == 1) dieDown s1
      if grantCost s2 (policyGrant s2) = 0 then (s2, .ok) else (requestTokens s2 (policyGrant s2), .accept .power 0)

/-! ### Status (R401, R402) -/

/-- The alarms of PWR_STATUS by their order in the block. -/
def alarms (s : State) : List Bool := [tWarn s, tCrit s, s.pwr.pOver, s.pwr.vinWarn, s.pwr.meterEst]

/-- EV_POWER for every alarm bit that changed (R401). -/
def noteAlarms (old : List Bool) (s : State) : State :=
  forEach (List.range 5) (fun s i =>
    let a := old.getD i false
    let b := (alarms s).getD i false
    if a == b then s else evPower s (if b then 2 else 3) i s.pwr.state.toNat) s

/-- The power status block (R401). -/
def powerStatus (s : State) (mgmt : Bool) : Nat :=
  let a := alarms s
  let waiting := (s.pwr.queue.map (grantCost s)).foldl (· + ·) 0
  pack ([(2, s.pwr.state.toNat), (3, s.pwr.lastWake.toNat), (3, 0)]
    ++ (List.range 4).map (fun d => (2, (s.die d).pwr.toNat))
    ++ [(12, budget s), (12, tokensHeld s), (12, waiting), (12, 0), (64, if mgmt then s.pwr.energy.toNat else 0),
      (16, if mgmt then s.pwr.pIn.toNat else 0), (16, s.pwr.vIn.toNat)]
    ++ (List.range 4).map (fun d => (16, (s.die d).temp.toNat)) ++ [(16, s.pwr.hubTemp.toNat)]
    ++ a.map (fun b => (1, b2n b)) ++ [(11, 0), (32, s.pwr.excursions.toNat), (224, 0)])

def cmdPwrStatus : Cmd := { opcode := 0x0E03, buffer := true }

/-- PWR_STATUS: meter_est tells of the time since the last one (R401). -/
def execPwrStatus (p : Packet) (s : State) : Host.Outcome State Fault Refusal :=
  Cmd.run cmdPwrStatus p s [] []
    fun s => (noteAlarms (alarms s) (s.modPwr fun P => { P with meterEst := false }),
      .bytes (bytesOf 64 (powerStatus s (p.fn == 0))))

/-- The clock status block (R402). -/
def clockStatus (s : State) : Nat :=
  let c := s.clk
  pack [(1, b2n c.dclkLock), (1, b2n s.time.coast), (1, b2n c.refclkOk), (1, b2n c.hclkLock), (1, b2n c.monLock),
    (11, 0), (16, c.coastCount.toNat), (48, c.coastBeats.toNat), (16, c.lkfMv.toNat), (160, 0)]

def cmdClkStatus : Cmd := { opcode := 0x0E04, buffer := true }

/-- CLK_STATUS. -/
def execClkStatus (p : Packet) (s : State) : Host.Outcome State Fault Refusal :=
  Cmd.run cmdClkStatus p s [] []
    fun s => (s, .bytes (bytesOf 32 (clockStatus s)))

/-! ### Tokens and containers (R20 to R22, R394 to R396) -/

/-- A request needs more than the fabric of a die that is held at fabric-only (R400). -/
def heldHot (s : State) (g : Grant) : Bool :=
  g.holders.any fun h => match h with
    | .region r => !regionOn (s.region r) && (s.die (r / 4)).tCrit
    | .cluster k => !clusterOn (s.cluster k) && (s.die (k / 16)).tCrit
    | .port p => (s.die (portDie p)).tCrit
    | _ => false

def regionUsable (s : State) (r : Nat) : Bool := (s.region r).powered && !(s.region r).powering

/-- Cold trainings whose tokens and region have come start (R47, R393). -/
def startTrainings (s : State) (ps : List Nat) : State :=
  forEach ps (fun s p =>
    let P := s.port p
    if P.liveGrant && P.state != .warm && regionUsable s (portRegion p) then startTraining s p else s) s

/-- One request is granted. -/
def grant (s : State) (g : Grant) (cost : Nat) : State :=
  let s1 := s.modPwr fun P => { P with
    queue := P.queue.drop 1
    granted := min 64 (P.granted + cost)
    overdraw := if cost > 64 then (cost + 63) / 64 - 1 else P.overdraw }
  startTrainings (g.holders.foldl powerUp s1) (g.holders.filterMap fun h => match h with
    | .port p => some p
    | _ => none)

/-- The requests of the window, in their order, as far as they fit (R394). `start` says that the window
begins. -/
def grantLoop : Nat → State → Bool → State
  | 0, s, _ => s
  | n + 1, s, start =>
    match s.pwr.queue with
    | [] => s
    | g :: _ =>
      let c := grantCost s g
      if budget s < tokensHeld s + c || heldHot s g || s.pwr.overdraw != 0 then s
      else if c ≤ 64 then
        if s.pwr.granted + c ≤ 64 then grantLoop n (grant s g c) (start && c = 0) else s
      else if start then grant s g c
      else s

/-- TOKEN_GRANT: grants in the current window, or in the next one where `newWindow` says so (R394). Patrol
first switches off the regions that nothing needs (R396). -/
def execTokenGrant (newWindow : Bool) (s : State) : Host.Outcome State Fault Refusal :=
  if s.pwr.state.toNat < 2 then .next s
  else
    let s1 := patrolRegions s
    let start := newWindow && s1.pwr.overdraw == 0
    let s2 := if newWindow then s1.modPwr fun P => { P with
        granted := if P.overdraw = 0 then 0 else 64, overdraw := P.overdraw - 1 }
      else s1
    ok (grantLoop s2.pwr.queue.length s2 start)

/-- TOKEN_WAIT_TIMEOUT: the command whose request waits at position `i` completes with ST_BUSY, and the
request is withdrawn (R395). -/
def execTokenWaitTimeout (i : Nat) (s : State) : Host.Outcome State Fault Refusal :=
  match s.pwr.queue[i]? with
  | none => .next s
  | some g =>
    match g.packet with
    | none => .next s
    | some p =>
      let s1 := s.modPwr fun P => { P with queue := P.queue.eraseIdx i }
      if p.mbox then
        ok (replyTo { s1 with mbox := { s1.mbox with begun := true } } false p 0x10 0xC004 0 [])
      else
        let s2 := s1.modFn p.fn.toNat fun F => { F with
          fetched := F.fetched.filter fun q => q.pkt != p.core, reserved := F.reserved + 1 }
        ok (drainBad 16 (replyQueue s2 p.fn.toNat (replyEntry p.tag p.seq 0x10 0xC004 0)) p.fn.toNat)

/-- DIE_FABRIC_READY: a capture die reports fabric-only, and the DMA channels that waited for it go on (R20,
R21). -/
def execDieFabricReady (d : BitVec 2) (s : State) : Host.Outcome State Fault Refusal :=
  let k := d.toNat
  if !(s.die k).powering then .next s
  else
    let s1 := s.modDie k fun D => { D with pwr := 1, powering := false }
    ok (settlePower { s1 with dma := s1.dma.map fun x => (x.1, { x.2 with
      dieWait := if x.2.dieWait == some k then none else x.2.dieWait }) })

/-- CONTAINER_POWER_UP_DONE: a cluster or a region becomes usable, its memories zero; what waited for the region
starts (R20). -/
def execContainerPowerUpDone (l : BitVec 16) (s : State) : Host.Outcome State Fault Refusal :=
  let i := l.toNat % 512
  if !locOk l.toNat then .next s
  else match l.toNat / 0x1000 with
    | 7 =>
      if (s.cluster i).powering && regionUsable s (i / 4) then
        ok (s.modCluster i fun C => { Cluster.reset with powered := true, failed := C.failed })
      else .next s
    | 8 =>
      let D := s.die (i / 4)
      if (s.region i).powering && D.pwr != 0 && !D.powering then
        let s1 := settleDie (s.modRegion i fun R => { R with powered := true, powering := false }) (i / 4)
        ok (settlePower (startTrainings s1 (regionPorts i)))
      else .next s
    | _ => .next s

/-- A density field of the cluster is held (R204, R396). -/
def densHeld (s : State) (k : Nat) : Bool :=
  (pairPorts k).any fun p => (s.port p).dens.hold != .none || (s.port p).dens.snapReq.isSome

/-- CLUSTER_IDLE_OFF: a cluster out of use for cluster_idle ms is switched off (R396). -/
def execClusterIdleOff (k : BitVec 6) (s : State) : Host.Outcome State Fault Refusal :=
  let n := k.toNat
  if fld s.pwr.cfg 32 16 = 0 || !clusterUsable s n || clusterInUse s n || densHeld s n then .next s
  else ok (clusterOff s n)

/-- DIE_IDLE_OFF: a die with no powered region and no DMA read pending is switched off after die_idle ms,
subject to its policy, and one whose policy is off as soon as its channels are in SERVICE (R260, R396, R398). -/
def execDieIdleOff (d : BitVec 2) (s : State) : Host.Outcome State Fault Refusal :=
  let n := d.toNat
  let s1 := patrolRegions s
  let D := s1.die n
  if (fld s.pwr.cfg 48 16 = 0 && D.policy != 1) || D.pwr = 0 || D.powering || 2 ≤ D.policy.toNat || dieWorks s1 n || dieWanted s1 n ||
      (dieRegions n).any (fun r => regionOn (s1.region r)) then .next s
  else ok (dieOff s1 n)

/-! ### Sleep (R256, R260, R387) -/

/-- Ports have stores to write, or channels requests to serve; self-refresh is entered from SERVICE (R260). -/
def stillStoring (s : State) : Bool :=
  s.ports.any (fun x => x.2.trig.armed || !x.2.run.fifo.isEmpty || !x.2.run.closing.isEmpty) ||
  s.chans.any fun x => !x.2.queue.isEmpty || !x.2.held.isEmpty || x.2.wiping || x.2.st == .fenced ||
    x.2.st == .inOrder || x.2.st == .training

/-- The stacks enter self-refresh, or lose power with their data (R260, R387). -/
def sleepStacks (s : State) (off : Bool) : State :=
  let s1 := { s with chans := s.chans.map fun x =>
    let C := x.2
    (x.1, if C.st == .retired then C
      else { C with
        st := if off then .off else if C.st == .off then .off else .selfRef
        openRow := [], postponed := 0, rankDown := [false, false], acts := [], hammerDue := [], throttled := []
        plist := if off then [] else C.plist, errs := if off then [] else C.errs
        priv := if off then [] else C.priv, reserved := C.reserved && !off, laneCe := [] }) }
  if off then { s1 with mem := [] } else s1

/-- PARK_TRANSITION: ports beyond POWERED are closed, and once their stores are in memory the clusters, the
dies, the stacks and the hub power down, with both endpoint links (R387). -/
def execParkTransition (s : State) : Host.Outcome State Fault Refusal :=
  match s.pwr.target with
  | none => .next s
  | some (st, timer) =>
    let s1 := forEach allPorts (fun s p =>
      let P := s.port p
      if P.state == .down || P.state == .powered || P.state == .quarantined then s else closePort s p) s
    if stillStoring s1 then ok s1
    else
      let s2 := evPower s1 1 0 st.toNat
      let s3 := forEach (List.range 4) dieOff s2
      let s4 := sleepStacks s3 (st == 0)
      let s5 := ((linkDown (linkDown s4 false) true).out (.trigLevel 0 none)).out (.trigLevel 1 none)
      ok { s5 with
        time := { s5.time with counting := false }
        clk := { s5.clk with dclkLock := false, hclkLock := false, monLock := false }
        vach := { s5.vach with
          ports := s5.vach.ports.map fun x => (x.1, { Vp.reset with wake := x.2.wake })
          role := 0, upstream := 0xF, depth := 0, reformFrom := none, stepsDue := 0 }
        pwr := { s5.pwr with
          state := st, target := none, queue := [], granted := 0, overdraw := 0, parkSlot := s5.time.slotCount
          wakeTimer := if timer = 0 then none else some timer } }

/-! ### Telemetry and alarms (R399, R400) -/

/-- TELEMETRY_SAMPLE: input voltage in mV, current in mA, and the 10 ms average of the power in 0.1 W; patrol
samples every 100 µs, the lodge at 1 kHz while the package sleeps. -/
def execTelemetrySample (mv : BitVec 16) (ma : BitVec 32) (p10 : BitVec 16) (s : State) :
    Host.Outcome State Fault Refusal :=
  if !s.boot.lodgeOn then .next s
  else
    let awake := decide (2 ≤ s.pwr.state.toNat)
    let uj := mv.toNat * ma.toNat / (if awake then 10000 else 1000)
    let inside := decide (10800 ≤ mv.toNat) && decide (mv.toNat ≤ 13200)
    let s1 := (noteInput s inside).modPwr fun P => { P with
      energy := P.energy + BitVec.ofNat 64 uj
      vIn := mv, pIn := p10
      pOver := decide (10 * fld P.cfg 80 11 < p10.toNat)
      vinWarn := decide (mv.toNat < 11000) || decide (13000 < mv.toNat)
      meterEst := P.meterEst || !awake }
    ok (noteAlarms (alarms s) s1)

/-- A temperature of one capture die (R400), in 1/16 °C. -/
def dieTemp (s : State) (d : Nat) (t : BitVec 16) : State :=
  let D := s.die d
  let hot := decide (1760 ≤ t.toInt)
  let count := if hot then min 3 (D.hotCount + 1) else 0
  let crit := if count = 3 then true else if t.toInt < 1520 then false else D.tCrit
  let s1 := s.modDie d fun D => { D with
    temp := t, hotCount := count, tCrit := crit
    tWarn := if 1600 ≤ t.toInt then true else if t.toInt < 1520 then false else D.tWarn }
  if crit && !D.tCrit && D.pwr != 0 then
    let s2 := forEach ((dieRegions d).flatMap regionPorts) (fun s p =>
      if portTokens (s.port p) != 0 then portDown s p else s) s1
    let s3 := forEach ((dieRegions d).flatMap regionClusters) (fun s k =>
      if clusterOn (s.cluster k) then clusterOff s k else s) s2
    patrolRegions (evPower s3 4 d s3.pwr.state.toNat)
  else s1

/-- TEMPERATURE_READ: patrol reads every die each ms. -/
def execTemperatureRead (t0 t1 t2 t3 hub : BitVec 16) (s : State) : Host.Outcome State Fault Refusal :=
  if s.pwr.state.toNat < 2 then .next s
  else
    let s1 := dieTemp (dieTemp (dieTemp (dieTemp s 0 t0) 1 t1) 2 t2) 3 t3
    let s2 := s1.modPwr fun P => { P with
      hubTemp := hub
      hubWarn := if 1600 ≤ hub.toInt then true else if hub.toInt < 1520 then false else P.hubWarn }
    ok (noteAlarms (alarms s) s2)

/-! ### The monitor converter (R403 to R406) -/

/-- The checks of a sequencer (R404). -/
def monSeqOk (h : Nat) (es : List (BitVec 32)) : Bool :=
  decide (1 ≤ h % 64) && decide (h % 64 ≤ 32) && h / 128 == 0 &&
    es.all fun e => zeros e [(10, 6), (24, 8)] && decide (fld e 0 5 ≤ 23) &&
      (decide (fld e 0 5 < 16) || fld e 5 2 == 0)

/-- A sequence takes effect: every valid bit clears, and entry 0 is next (R404). -/
def Mon.load (M : Mon) (h : BitVec 32) (es : List (BitVec 32)) : Mon :=
  { M with
    header := h, entries := M.entries.setList 0 es, cur := 0, pass := 0, running := true, next := none
    results := M.results.map fun x => (x.1, put x.2 16 1 0) }

def cmdMonSeqSet : Cmd := { opcode := 0x0E05, mgmt := true, data := 4 }

/-- MON_SEQ_SET: the new sequence starts at the end of the entry in progress, or at once where none is. -/
def execMonSeqSet (p : Packet) (s : State) : Host.Outcome State Fault Refusal :=
  let h := p.dat 0 4
  let n := h % 64
  let es := (List.range n).map fun i => BitVec.ofNat 32 (p.dat (4 + 4 * i) 4)
  Cmd.run cmdMonSeqSet p s
    [need (monSeqOk h es) (badParam noLoc (p.dataOff false)),
     need (4 + 4 * n ≤ p.data.length) (badParam noLoc (p.dataOff false + p.data.length))] []
    fun s =>
      let M := s.mon
      ({ s with mon := if M.running then { M with next := some (BitVec.ofNat 32 h, es) }
        else M.load (BitVec.ofNat 32 h) es }, .ok)

def cmdMonRead : Cmd := { opcode := 0x0E06, buffer := true }

/-- MON_READ. -/
def execMonRead (p : Packet) (s : State) : Host.Outcome State Fault Refusal :=
  Cmd.run cmdMonRead p s [] []
    fun s => (s, .bytes ((s.mon.results.toList 0 32).flatMap fun r => bytesOf 4 r.toNat))

/-- A quotient rounded to the nearest whole number, halves as the package rounds them. -/
def nearest (a b : Nat) : Nat :=
  if 2 * (a % b) < b then a / b
  else if 2 * (a % b) = b && !Config.roundsUp a b then a / b
  else a / b + 1

/-- The calibrated code of an input (R406); internal inputs carry their factory calibration. -/
def calibrated (s : State) (input raw : Nat) : Nat :=
  let c := s.mon.cals.get Cal.reset input
  if 16 ≤ input || !c.done then raw
  else min 65535 (nearest ((raw - c.rawZero.toNat) * c.gain.toNat) (2 ^ 30))

/-- MON_ENTRY_DONE: the entry in progress has its mean, or in mode 3 its two means, and the next entry begins
(R404). A sequence that waits for the end of the entry starts then. -/
def execMonEntryDone (mean mean2 : BitVec 16) (s : State) : Host.Outcome State Fault Refusal :=
  let M := s.mon
  if !M.running then .next s
  else
    let e := M.entries.get 0 M.cur
    let two := fld e 5 2 == 3
    let raw := if two then nearest (mean.toNat + mean2.toNat) 2 else mean.toNat
    let diff := max mean.toNat mean2.toNat - min mean.toNat mean2.toNat
    let r : BitVec 32 := BitVec.ofNat 32 (pack
      [(16, calibrated s (fld e 0 5) raw), (1, 1), (1, b2n (two && decide (4096 < diff))),
       (1, b2n (mean == 0xFFFF || two && mean2 == 0xFFFF)), (1, b2n (mean == 0 || two && mean2 == 0)),
       (12, M.pass.toNat)])
    let last := decide (fld M.header 0 6 ≤ M.cur + 1)
    let M1 := { M with results := M.results.set M.cur r }
    ok { s with mon := match M.next with
      | some x => M1.load x.1 x.2
      | none => { M1 with
        cur := if last then 0 else M.cur + 1
        pass := if last then M.pass + 1 else M.pass
        running := !last || bit M.header 6 } }

/-- URGENT_CONVERSION: patrol's conversion takes the converter; the entry in progress starts again from its first
settle clock, and its result register keeps its value (R405). -/
def execUrgentConversion (s : State) : Host.Outcome State Fault Refusal :=
  ok { s with mon := { s.mon with urgent := s.mon.urgent + 1 } }

def cmdMonCal : Cmd := { opcode := 0x0E07, mgmt := true, accepts := true }

/-- One step of MON_CAL: the measurement begins (R406). -/
def monCal (p : Packet) (s : State) (full : Bool) : Host.Outcome State Fault Refusal :=
  let i := p.inb 4 1
  Cmd.run cmdMonCal p s
    [need (i ≤ 23) (badParam noLoc 20), need (p.inb 5 1 ≤ 1) (badParam noLoc 21)]
    [need s.mon.calBusy.isNone (stBusy 0xC00E)]
    fun s => ({ s with mon := { s.mon with
      calBusy := some (i, full, BitVec.ofNat 16 (p.inb 6 2), originOf p) } }, .accept (.monCal i) 0)

/-- MON_CAL with step 0. A step of no row takes this row. -/
def execMonCalZero (p : Packet) (s : State) : Host.Outcome State Fault Refusal :=
  if p.inb 5 1 = 1 then .next s else monCal p s false

/-- MON_CAL with step 1. -/
def execMonCalFullScale (p : Packet) (s : State) : Host.Outcome State Fault Refusal :=
  if p.inb 5 1 ≠ 1 then .next s else monCal p s true

def modCal (s : State) (i : Nat) (f : Cal → Cal) : State :=
  { s with mon := { s.mon with cals := s.mon.cals.mod Cal.reset i f } }

/-- MON_CAL_MEASUREMENT_DONE: the mean of the measurement is raw_zero, or raw_fs and with it the gain
(R406). A gain that Q2.30 does not hold leaves a free value (log entry 3). -/
def execMonCalMeasurementDone (raw : BitVec 16) (s : State) : Host.Outcome State Fault Refusal :=
  match s.mon.calBusy with
  | none => .next s
  | some (i, full, target, _) =>
    let s1 := { s with mon := { s.mon with calBusy := none } }
    let c := s.mon.cals.get Cal.reset i
    let job : Job := .monCal i
    let refused := fun (s : State) => ok (finishJob s job 0x21 (noLoc + 2 ^ 16 * noLoc) 0)
    if 16 ≤ i then refused s1
    else if !full then ok (finishJob (modCal s1 i fun c => { c with step0 := some raw }) job 0 0 0)
    else
      let s2 := modCal s1 i fun c => { c with step0 := none }
      match c.step0 with
      | none => ok (finishJob s2 job 0x40 0xC00E 0)
      | some z =>
        if target = 0 || raw.toNat < z.toNat + 1024 then refused s2
        else
          let gain := nearest (target.toNat * 2 ^ 30) (raw.toNat - z.toNat)
          let (v, s3) := s2.fresh
          let fits := decide (gain < 2 ^ 32)
          ok (finishJob (modCal (if fits then s2 else s3) i fun c => { c with
            rawZero := z, gain := BitVec.ofNat 32 (if fits then gain else v), done := true }) job 0 0 0)

end Sys2Proof.Machine
end

