-- ==== Sys2Proof/Machine/HostOps.lean ====
section
/-! DEFINITION. What the host does to a function: its queue registers, the BAR0 block, the mailbox, the Chute
and the resumption from D3hot (R289 to R293, R298, R299, R305 to R313, R317, R321, R322). -/
namespace Sys2Proof.Machine

/-- A memory request reaches the registers of a function (R304, R322, R326). -/
def reach (s : State) (f : Nat) : Bool :=
  let F := s.fn f
  (s.ep (f / 8)).up && F.pm == .d0 && F.memEn && !F.flr

/-! ### Queue registers (R289 to R292) -/

/-- The queue enters ERROR (R292). -/
def Fn.queueError (F : Fn) (code : Nat) : Fn :=
  if F.qState == .active then { F with qState := .error, qErr := BitVec.ofNat 4 code } else F

/-- Packets and records that waited go on. -/
def queueMoves (s : State) (f : Nat) : State := drainBad 16 (flush s f) f

/-- A write of SQ_TAIL, the doorbell (R290, R292). While the queue is DISABLED it reads 0. -/
def sqTailWrite (s : State) (f : Nat) (v : BitVec 32) : State :=
  let F := s.fn f
  if F.qState == .disabled then s
  else
    let F1 := { F with sqTail := v }
    s.setFn f (if 2 ^ F.sqLog2.toNat < (v - F.sqHead).toNat then F1.queueError 1 else F1)

/-- A write of RQ_HEAD returns entries (R291, R292). -/
def rqHeadWrite (s : State) (f : Nat) (v : BitVec 32) : State :=
  let F := s.fn f
  if F.qState == .disabled then s
  else
    let F1 := { F with rqHead := v }
    if 2 ^ F.rqLog2.toNat < (F.rqTail - v).toNat then s.setFn f (F1.queueError 2)
    else queueMoves (s.setFn f F1) f

/-- A ring of `n` = 6 to 16 at a multiple of 4 KiB (R289). -/
def ringOk (base : BitVec 64) (n : BitVec 5) : Bool :=
  base.toNat % 4096 == 0 && decide (6 ≤ n.toNat) && decide (n.toNat ≤ 16)

/-- A write of Q_CTRL (R292). -/
def qCtrlWrite (s : State) (f : Nat) (en : Bool) : State :=
  let F := s.fn f
  let F1 := { F with en := en }
  if en then
    if F.qState != .disabled then s.setFn f F1
    else if ringOk F.sqBase F.sqLog2 && ringOk F.rqBase F.rqLog2 then
      queueMoves (s.setFn f { F1 with qState := .active, qErr := 0 }) f
    else s.setFn f { F1 with qState := .error, qErr := 3 }
  else if F.qState == .active || F.qState == .error then
    (dropGrants s f).setFn f { F1 with qState := .draining, fetched := [] }
  else s.setFn f F1

/-- A draining queue has no reply left to write: it is DISABLED, its indices read 0, and what waited in the
backlog is lost (R291, R292, R327). -/
def queueDisabled (F : Fn) : Fn :=
  { F with
    qState := .disabled, qErr := 0, sqHead := 0, sqTail := 0, rqHead := 0, rqTail := 0, backlog := []
    evtLost := satInc F.evtLost F.backlog.length, lostRun := satInc F.lostRun F.backlog.length }

/-! ### The fetch (R287 steps 1 and 2, R290, R293) -/

/-- What the fetch finds wrong with a packet after its seq: an opcode of no table, after the checks that come
first (R287 steps 3 and 4, R427, R440). -/
def strangeOpcode (s : State) (p : Packet) : Option (BitVec 16 × BitVec 32) :=
  if knownOpcode p.opcode.toNat then none
  else
    let f := (firstFail [
      need (p.reserved == 0 && !(p.fence && p.unordered && !p.mbox)) (badParam noLoc noLoc),
      need (!s.boot.recovery && !s.sec.error) (stFault 0xC005 1)]).getD ⟨0x20, p.opcode.toNat⟩
    some (BitVec.ofNat 16 f.status, BitVec.ofNat 32 f.detail)

/-- The DMA channels of the partition with a descriptor in progress (R294). -/
def dmaMarks (s : State) (k : Nat) : List (Nat × Nat) :=
  (s.partDma k).filterMap fun n => (s.dmaCh n).cur.map fun d => (n, d.seq)

/-- A packet is copied: its cells, its seq, and its place among the fetched ones. -/
def fetchPacket (s : State) (f : Nat) (p : Packet) : State :=
  let F := s.fn f
  let q : Queued := { pkt := p.core, bad := none, mark := dmaMarks s f }
  let fail := fun (off : Nat) =>
    let b := badParam noLoc off
    some (BitVec.ofNat 16 b.status, BitVec.ofNat 32 b.detail)
  if p.cells = 0 || 64 < p.cells.toNat then
    s.setFn f ({ F with fetched := F.fetched ++ [{ q with bad := fail 4 }] }.queueError 5)
  else
    let F1 := { F with sqHead := F.sqHead + BitVec.ofNat 32 p.cells.toNat }
    if p.seq != F.qSeq then s.setFn f { F1 with fetched := F.fetched ++ [{ q with bad := fail 8 }] }
    else s.setFn f { F1 with
      qSeq := F.qSeq + 1, fetched := F.fetched ++ [{ q with bad := strangeOpcode s p }] }

/-! ### The mailbox (R298, R299) -/

/-- What the mailbox finds wrong with its packet at once (R287 steps 1 to 4). -/
def mboxFail (s : State) (p : Packet) : Option (BitVec 16 × BitVec 32) :=
  let bad := fun (off : Nat) =>
    let b := badParam noLoc off
    some (BitVec.ofNat 16 b.status, BitVec.ofNat 32 b.detail)
  if p.cells = 0 || 64 < p.cells.toNat then bad 4
  else if p.seq != s.mbox.seq then bad 8
  else strangeOpcode s p

/-- MBOX_CTRL.go: a packet that fails at once is answered at once, any other is in progress. -/
def mboxGo (s : State) : State :=
  if !s.mbox.ready || s.mbox.busy then s
  else
    let p := mailboxPacket false (s.mbox.cmd.toList 0 4096)
    let seqOk := p.cells != 0 && p.cells.toNat ≤ 64 && p.seq == s.mbox.seq
    let M := if seqOk then { s.mbox with seq := s.mbox.seq + 1 } else s.mbox
    match mboxFail s p with
    | some b => { s with mbox := { M with
        reply := replyEntry p.tag p.seq b.1.toNat b.2.toNat 0, done := true } }
    | none => { s with mbox := { M with busy := true, begun := false } }

/-- A write of MBOX_CTRL: done is W1C, and go starts the command (R298). -/
def mboxCtrlWrite (s : State) (v : Nat) : State :=
  let s1 := if v.testBit 2 then { s with mbox := { s.mbox with done := false } } else s
  if v.testBit 0 then mboxGo s1 else s1

/-! ### BAR0 (R305 to R307, R310, R317, R63) -/

/-- The bytes of `new` whose enable is set, over `old`; `n` bytes. -/
def mergeBytes (n be old new : Nat) : Nat :=
  le ((List.range n).map fun i => BitVec.ofNat 8 ((if be.testBit i then new else old) >>> (8 * i)))

/-- The same, where a byte that is not enabled counts as zero: for W1C bits. -/
def maskBytes (n be new : Nat) : Nat := mergeBytes n be 0 new

/-- The routed groups of a function as a mask (R314). -/
def routedMask (f : Nat) : BitVec 64 :=
  (routed f).foldl (fun (m : BitVec 64) g => m ||| (1#64 <<< g)) 0

/-- A write of CHUTE_PTR: reserved bits read zero, and prefetched data go (R5, R310, R313). -/
def chutePtrWrite (s : State) (f : Nat) (v : BitVec 64) : State :=
  s.modFn f fun F => { F with
    chutePtr := BitVec.ofNat 64 (fld v 0 39 + 2 ^ 40 * fld v 40 2), prefetch := none }

/-- The registers of 64 bits (R307, R310, R317). -/
def wideRegs : List Nat := [0x00, 0x18, 0x30, 0x40, 0x100, 0x108, 0x110, 0x300]

/-- The groups of a function that are effective, as a mask (R315, R317). -/
def activeMask (s : State) (f : Nat) : BitVec 64 :=
  (routed f).foldl (fun (m : BitVec 64) g => if effective s f g then m ||| (1#64 <<< g) else m) 0

/-- A wide register's value in effect (R306, R307, R310, R317). -/
def wideGet (s : State) (f off : Nat) : Nat :=
  let F := s.fn f
  match off with
  | 0x00 => F.sqBase.toNat
  | 0x18 => F.rqBase.toNat
  | 0x30 => F.rqWb.toNat
  | 0x40 => F.qSeq.toNat
  | 0x100 => (pendingMask s f).toNat
  | 0x110 => (activeMask s f).toNat
  | 0x108 => (routedMask f &&& ~~~F.intMask).toNat
  | 0x300 => F.chutePtr.toNat
  | _ => 0

/-- A wide register takes a value (R289, R306, R310, R317). -/
def wideSet (s : State) (f off v : Nat) : State :=
  let F := s.fn f
  let x := BitVec.ofNat 64 v
  let idle := F.qState == .disabled
  match off with
  | 0x00 => if idle then s.setFn f { F with sqBase := x } else s
  | 0x18 => if idle then s.setFn f { F with rqBase := x } else s
  | 0x30 => if idle then s.setFn f { F with rqWb := x } else s
  | 0x108 => s.setFn f { F with intMask := routedMask f &&& ~~~x }
  | 0x300 => chutePtrWrite s f x
  | _ => s

/-- A write of SLOT_CTRL of port `p`: the bytes enabled, reserved bits zero (R5, R63). -/
def slotCtrlWrite (s : State) (p be v : Nat) : State :=
  retrainLane (s.modPort p fun P => { P with
    slotCtrl := BitVec.ofNat 32 (mergeBytes 4 be P.slotCtrl.toNat v % 2 ^ 14) }) p

/-- A write of SLOT_STATUS of port `p`: bits 3 to 7 are W1C (R63). -/
def slotStatusWrite (s : State) (p be v : Nat) : State :=
  s.modPort p fun P => { P with
    slotStatus := P.slotStatus &&& ~~~ (BitVec.ofNat 32 (maskBytes 4 be v) &&& 0xF8#32) }

/-- A write of one DW to a register of 32 bits (R305). Offsets of no register, and read-only ones, take no
effect. -/
def narrowSet (s : State) (f off be v : Nat) : State :=
  let F := s.fn f
  let idle := F.qState == .disabled
  if off = 0x08 then
    if idle then s.setFn f { F with sqLog2 := BitVec.ofNat 5 (mergeBytes 4 be F.sqLog2.toNat v) } else s
  else if off = 0x0C then sqTailWrite s f (BitVec.ofNat 32 (mergeBytes 4 be F.sqTail.toNat v))
  else if off = 0x20 then
    if idle then s.setFn f { F with rqLog2 := BitVec.ofNat 5 (mergeBytes 4 be F.rqLog2.toNat v) } else s
  else if off = 0x28 then rqHeadWrite s f (BitVec.ofNat 32 (mergeBytes 4 be F.rqHead.toNat v))
  else if off = 0x38 then if be.testBit 0 then qCtrlWrite s f (v.testBit 0) else s
  else if 0x200 ≤ off && off < 0x300 then
    let g := (off - 0x200) / 4
    let x := BitVec.ofNat 16 (mergeBytes 4 be (F.holdoff.get 0 g).toNat v)
    s.setFn f { F with holdoff := F.holdoff.set g x }
  else if off = 0x308 then
    s.setFn f { F with chuteStatus := F.chuteStatus &&& ~~~ (BitVec.ofNat 4 (maskBytes 4 be v)) }
  else if f != 0 then s
  else if off = 0x1000 then mboxCtrlWrite s (maskBytes 4 be v)
  else if 0x8000 ≤ off && off < 0xA000 then
    let p := (off - 0x8000) / 0x40
    if off % 0x40 = 0 then slotCtrlWrite s p be v
    else if off % 0x40 = 4 then slotStatusWrite s p be v
    else s
  else s

def heldLow (F : Fn) (off : Nat) : Option (BitVec 32) := (F.heldLow.find? (·.1 == off)).map (·.2)

/-- One DW: the low half of a wide register is held, and its high half brings the whole value (R306). -/
def dwWrite (s : State) (f off be v : Nat) : State :=
  if be % 16 = 0 then s
  else if wideRegs.contains off then
    let F := s.fn f
    let old := ((heldLow F off).map (·.toNat)).getD (wideGet s f off % 2 ^ 32)
    s.setFn f { F with heldLow := F.heldLow.filter (·.1 != off) ++
      [(off, BitVec.ofNat 32 (mergeBytes 4 be old v))] }
  else if 4 ≤ off && wideRegs.contains (off - 4) then
    let r := off - 4
    let now := wideGet s f r
    let low := ((heldLow (s.fn f) r).map (·.toNat)).getD (now % 2 ^ 32)
    wideSet (s.modFn f fun F => { F with heldLow := F.heldLow.filter (·.1 != r) }) f r
      (low + 2 ^ 32 * mergeBytes 4 be (now / 2 ^ 32) v)
  else narrowSet s f off be v

/-- DWs one after another, in ascending address order. -/
def dwWrites (f : Nat) : State → Nat → List (BitVec 32 × BitVec 4) → State
  | s, _, [] => s
  | s, off, x :: xs => dwWrites f (dwWrite s f off x.2.toNat x.1.toNat) (off + 4) xs

/-- A write of 1 to 16 DW, each with its byte enables: a wide register takes one write of 8 bytes at once, and a
longer request goes DW by DW (R306). -/
def bar0Write (s : State) (f off : Nat) (dws : List (BitVec 32 × BitVec 4)) : State :=
  match dws with
  | [lo, hi] =>
    if wideRegs.contains off then
      wideSet (s.modFn f fun F => { F with heldLow := F.heldLow.filter (·.1 != off) }) f off
        (mergeBytes 8 (lo.2.toNat + 16 * hi.2.toNat) (wideGet s f off) (lo.1.toNat + 2 ^ 32 * hi.1.toNat))
    else dwWrites f s off dws
  | _ => dwWrites f s off dws

/-! ### Reads of BAR0 and of configuration space (R6, R303 to R308) -/

/-- Q_STATUS (R289, R292). -/
def qStatus (s : State) (f : Nat) : Nat :=
  let F := s.fn f
  pack [(2, match F.qState with | .disabled => 0 | .active => 1 | .error => 2 | .draining => 3), (2, 0),
    (4, F.qErr.toNat), (8, owedBy s f)]

/-- FN_INFO (R308). -/
def fnInfo (f : Nat) : Nat := pack [(4, f), (3, f % 8), (1, f / 8), (1, b2n (f == 0))]

/-- MBOX_CTRL as it reads: go is write-only (R298). -/
def mboxCtrl (M : Mbox) : Nat := pack [(1, 0), (1, b2n M.busy), (1, b2n M.done), (1, b2n M.ready)]

/-- One DW of a block of bytes. -/
def dwOf (bs : List Byte) (off : Nat) : Nat := le (slice bs off 4)

/-- A register of 32 bits as it reads (R305 to R308, R310, R317, R63). A reserved offset reads as zero (R5). -/
def narrowGet (s : State) (f off : Nat) : Nat :=
  let F := s.fn f
  if off = 0x08 then F.sqLog2.toNat
  else if off = 0x0C then F.sqTail.toNat
  else if off = 0x10 then F.sqHead.toNat
  else if off = 0x20 then F.rqLog2.toNat
  else if off = 0x24 then F.rqTail.toNat
  else if off = 0x28 then F.rqHead.toNat
  else if off = 0x38 then b2n F.en
  else if off = 0x3C then qStatus s f
  else if off = 0x48 then F.evtLost.toNat
  else if 0x200 ≤ off && off < 0x300 then
    let g := (off - 0x200) / 4
    (F.holdoff.get 0 g).toNat + 2 ^ 16 * b2n (F.holdRun.getLsbD g)
  else if off = 0x308 then F.chuteStatus.toNat + 16 * b2n F.prefetch.isSome
  else if off = 0x380 then fnInfo f
  else if f != 0 then 0
  else if off = 0x1000 then mboxCtrl s.mbox
  else if 0x2000 ≤ off && off < 0x2040 then dwOf (bytesOf 64 (faultSummary s)) (off - 0x2000)
  else if 0x4000 ≤ off && off < 0x8000 then dwOf (ledgerView s) (off - 0x4000)
  else if 0x8000 ≤ off && off < 0xA000 then
    let P := s.port ((off - 0x8000) / 0x40)
    ([P.slotCtrl.toNat, P.slotStatus.toNat] ++ P.slotRegs).getD (off % 0x40 / 4) 0
  else 0

/-- A read of one DW of BAR0 (R6, R306); none where the request completes as Unsupported Request (R304). A read
has no effect on the state. -/
def bar0Read (s : State) (f off : Nat) : Option Nat :=
  if !reach s f then none
  else if wideRegs.contains off then some (wideGet s f off % 2 ^ 32)
  else if 4 ≤ off && wideRegs.contains (off - 4) then some (wideGet s f (off - 4) / 2 ^ 32)
  else some (narrowGet s f off)

/-- One DW of a function's configuration space at its offset in the type 0 header, as far as the spec gives it
(R303, R304, R315; log entry 1309). None: the request completes with Configuration Request Retry Status (R304,
R326). -/
def cfgRead (s : State) (f off : Nat) : Option Nat :=
  let F := s.fn f
  if !(s.ep (f / 8)).up || F.flr then none
  else some (match off with
    | 0x00 => Config.vendorId.toNat + 2 ^ 16 * 0x7128
    | 0x04 => pack [(1, 0), (1, b2n F.memEn), (8, 0), (1, b2n F.intDisable), (8, 0), (1, b2n F.inta)]
    | 0x08 => Config.revision.toNat + 2 ^ 8 * 0x118000
    | 0x0C => 2 ^ 23
    | 0x10 => (F.bar0.toNat / 2 ^ 16 * 2 ^ 16 + 4) % 2 ^ 32
    | 0x14 => F.bar0.toNat / 2 ^ 32
    | 0x18 => (F.bar2.toNat / 2 ^ 20 * 2 ^ 20 + 4) % 2 ^ 32
    | 0x1C => F.bar2.toNat / 2 ^ 32
    | 0x3C => 2 ^ 8
    | _ => 0)

/-! ### The Chute (R309 to R313, R321) -/

/-- Cuts a stretch at the bursts of its region (R250). The first argument bounds the pieces. -/
def cutBursts : Nat → Nat → Nat → List (Nat × Nat)
  | 0, _, _ => []
  | n + 1, a, len =>
    if len = 0 then []
    else
      let k := min len (min (72 - addrOff a % 72) (2 ^ 35 - addrOff a))
      (a, k) :: cutBursts n (a + k) (len - k)

def chutePieces (a len : Nat) : List (Nat × Nat) := cutBursts (len / 72 + 4) a len

/-- What becomes of a piece of a Chute access. -/
inductive Fate where
  | done | past | unbacked | refused | waits
  deriving DecidableEq, Repr

/-- The fate of a piece (R250, R273, R310, R311): refused, or on its way to the controller. -/
def fateOf (s : State) (f : Nat) (write : Bool) (x : Nat × Nat) : Fate :=
  if 2 ^ 39 ≤ x.1 then .past
  else if !backed x.1 then .unbacked
  else if !(s.die (addrRegion x.1 / 4)).linkUp then .waits
  else if (allowing s.hub.windows f write x.1 x.2).isNone then .refused
  else .done

/-- The bits of CHUTE_STATUS that fates set (R310). -/
def fateBits (fs : List Fate) : BitVec 4 :=
  (if fs.any (fun x => x == .unbacked || x == .refused) then 1 else 0) |||
  (if fs.any (· == .past) then 2 else 0)

/-- Sets bits of CHUTE_STATUS. -/
def chuteFlags (s : State) (f : Nat) (bits : BitVec 4) : State :=
  s.modFn f fun F => { F with chuteStatus := F.chuteStatus ||| bits }

/-- The pointer advances within its 39 bits (R309, log entry 1301). -/
def chuteAdvance (s : State) (f n : Nat) : State :=
  s.modFn f fun F => { F with chutePtr := put F.chutePtr 0 39 (fld F.chutePtr 0 39 + n) }

/-- A refused access counts at the controller and raises one window-fault record (R275). -/
def chuteRefused (s : State) (f : Nat) (xs : List ((Nat × Nat) × Fate)) : State :=
  match xs.find? (·.2 == .refused) with
  | some x => refuse (s.modChan (addrChan x.1.1) fun C => { C with winRefused := satInc C.winRefused })
      (locEndpoint f) f x.1.1
  | none => s

/-- The request of a piece: the control class, with the function's partition (R253, R311). -/
def chuteReq (f : Nat) (write : Bool) (x : Nat × Nat) (bs : List Byte) (mark : Bool) (age : Nat) : MemReq :=
  { MemReq.reset with
    cls := .control, part := BitVec.ofNat 4 f, write := write, addr := x.1, data := bs, len := x.2, poison := mark
    age := age }

/-- One piece of a read: its bytes, and whether they carry the mark (R265, R268, R272, R311). None: it waits. -/
def chuteGet (s : State) (f : Nat) (x : Nat × Nat) (fate : Fate) (m : MemIn) : Option (State × List Byte × Bool) :=
  if fate != .done then some (s, List.replicate x.2 0xFF, false)
  else (direct s (chuteReq f false x [] false m.age) none (m.bursts.take 1)).map fun r =>
    (r.1, r.2.1.map (·.1), r.2.1.any (·.2))

def chuteGets (f : Nat) : State → List ((Nat × Nat) × Fate) → MemIn → Option (State × List Byte × Bool)
  | s, [], _ => some (s, [], false)
  | s, x :: xs, m =>
    match chuteGet s f x.1 x.2 m with
    | none => none
    | some (s1, bs, bad) =>
      (chuteGets f s1 xs { m with bursts := if x.2 == .done then m.bursts.drop 1 else m.bursts }).map fun r =>
        (r.1, bs ++ r.2.1, bad || r.2.2)

/-- One piece of a write: merged into its burst, or discarded (R264, R272, R311, R321). The partition becomes
dirty (R430). The flag says that the channel answered with an error. -/
def chutePut (s : State) (f : Nat) (mark : Bool) (x : Nat × Nat) (fate : Fate) (bs : List Byte) (m : MemIn) :
    Option (State × Bool) :=
  if fate != .done then some (s, false)
  else (direct s (chuteReq f true x bs mark m.age) (some f) (m.bursts.take 1)).map fun r => (r.1, !r.2.2)

def chutePuts (f : Nat) (mark : Bool) :
    State → List ((Nat × Nat) × Fate) → List Byte → MemIn → Option (State × Bool)
  | s, [], _, _ => some (s, false)
  | s, x :: xs, bs, m =>
    match chutePut s f mark x.1 x.2 (bs.take x.1.2) m with
    | none => none
    | some (s1, e) =>
      (chutePuts f mark s1 xs (bs.drop x.1.2)
        { m with bursts := if x.2 == .done then m.bursts.drop 1 else m.bursts }).map fun r => (r.1, e || r.2)

/-- What the package prefetches after a read (R313): up to the first burst that is marked, in error, or not to be
had at once. -/
def prefetchGets (f : Nat) : State → List (Nat × Nat) → State × List Byte
  | s, [] => (s, [])
  | s, x :: xs =>
    let C := s.chan (addrChan x.1)
    let b := addrBurst x.1
    if fateOf s f false x == .done && C.st != .retired && !C.plist.contains b && (C.errs.get [] b).isEmpty then
      match chuteGet s f x .done {} with
      | some (s1, bs, _) =>
        let r := prefetchGets f s1 xs
        (r.1, bs ++ r.2)
      | none => (s, [])
    else (s, [])

/-- After a read the package may fetch the next 4,096 bytes from the new pointer (R313): whether it does is a
free value (log entry 3). -/
def chutePrefetch (s : State) (f : Nat) : State :=
  let (v, s1) := s.fresh
  let a := fld (s1.fn f).chutePtr 0 39
  if v % 2 = 1 then
    let r := prefetchGets f s1 (chutePieces a (min 4096 (2 ^ 39 - a)))
    r.1.modFn f fun F => { F with prefetch := some (a, r.2) }
  else s1

/-- Puts the bytes of a read into its enabled lanes; a lane that is not enabled reads zero (R309). -/
def laneBytes : List Bool → List Byte → List Byte
  | [], _ => []
  | false :: ls, bs => 0 :: laneBytes ls bs
  | true :: ls, bs => bs.headD 0xFF :: laneBytes ls (bs.drop 1)

/-- A read from the capture-memory space (R309 to R313, R416, R427); none: it waits for a controller. -/
def chuteReadMem (s : State) (f a n : Nat) (m : MemIn) : Option (State × List Byte × Bool) :=
  if s.sec.error || encrypts s f then some (chuteFlags s f 1, List.replicate n 0xFF, false)
  else
    let hit := match (s.fn f).prefetch with
      | some x => if x.1 ≤ a && a + n ≤ x.1 + x.2.length then some (slice x.2 (a - x.1) n) else none
      | none => none
    match hit with
    | some bs => some (s, bs, false)
    | none =>
      let xs := (chutePieces a n).map fun x => (x, fateOf s f false x)
      if xs.any (·.2 == .waits) then none
      else (chuteGets f s xs m).map fun r =>
        (chuteFlags (chuteRefused r.1 f xs) f (fateBits (xs.map (·.2)) ||| if r.2.2 then 4 else 0), r.2)

/-- The bytes of the mailbox space, from device address 0x00F0_0000 on (R298). -/
def mboxByte (M : Mbox) (i : Nat) : Byte :=
  if i < 0x1000 then M.cmd.get 0 i
  else if i < 0x1020 then fbv M.reply (8 * (i - 0x1000)) 8
  else M.ret.getD (i - 0x1020) 0

def mboxBase : Nat := 0xF00000
/-- A device address of the mailbox space (R310). -/
def inMbox (a : Nat) : Bool := decide (mboxBase ≤ a) && decide (a < mboxBase + 0x2000)

/-- A write of one byte of the mailbox space; the command area is closed while a command is in progress
(R299). -/
def mboxPut (M : Mbox) (i : Nat) (b : Byte) : Mbox :=
  if i < 0x1000 then if M.busy then M else { M with cmd := M.cmd.set i b }
  else if i < 0x1020 then { M with reply := put M.reply (8 * (i - 0x1000)) 8 b.toNat }
  else
    let j := i - 0x1020
    { M with ret := (M.ret ++ List.replicate (j + 1 - M.ret.length) 0).set j b }

/-- Writes bytes of the mailbox space from address `a` on; those outside it are discarded. -/
def mboxPuts : Mbox → Nat → List Byte → Mbox
  | M, _, [] => M
  | M, a, b :: bs => mboxPuts (if inMbox a then mboxPut M (a - mboxBase) b else M) (a + 1) bs

/-- The bits that an access of the mailbox space sets. -/
def mboxBits (a n : Nat) : BitVec 4 := if n = 0 || (inMbox a && inMbox (a + n - 1)) then 0 else 2

/-- The space of a function's pointer (R310). -/
def chuteSpace (s : State) (f : Nat) : Nat := fld (s.fn f).chutePtr 40 2

/-- A Chute read of so many bytes at the pointer, which then advances (R309, R311). -/
def chuteRead (s : State) (f n : Nat) (m : MemIn) : Option (State × List Byte × Bool) :=
  let a := fld (s.fn f).chutePtr 0 39
  let res :=
    if chuteSpace s f = 0 then chuteReadMem s f a n m
    else if chuteSpace s f = 1 && f = 0 then
      some (chuteFlags s f (mboxBits a n), (List.range n).map fun i =>
        if inMbox (a + i) then mboxByte s.mbox (a + i - mboxBase) else 0xFF, false)
    else some (if n = 0 then s else chuteFlags s f 8, List.replicate n 0xFF, false)
  res.map fun x => (chuteAdvance x.1 f n, x.2)

/-- A Chute write of bytes at the pointer, which then advances; prefetched data go (R309, R311, R313, R321).
None: it waits for a controller. -/
def chuteWrite (s : State) (f : Nat) (bs : List Byte) (ep : Bool) (m : MemIn) : Option State :=
  let a := fld (s.fn f).chutePtr 0 39
  let n := bs.length
  let s0 := chuteFlags (s.modFn f fun F => { F with prefetch := none }) f (if ep then 4 else 0)
  let res :=
    if chuteSpace s f = 0 then
      let xs := (chutePieces a n).map fun x => (x, fateOf s f true x)
      if xs.any (·.2 == .waits) then none
      else (chutePuts f ep s0 xs bs m).map fun r =>
        chuteFlags (chuteRefused r.1 f xs) f (fateBits (xs.map (·.2)) ||| if r.2 then 1 else 0)
    else if chuteSpace s f = 1 && f = 0 then
      some (chuteFlags { s0 with mbox := mboxPuts s0.mbox a bs } f (mboxBits a n))
    else some (if n = 0 then s0 else chuteFlags s0 f 8)
  res.map fun x => chuteAdvance x f n

/-! ### Back to D0 (R322) -/

/-- Replies that waited are written while the queue still takes them; what an EV_DONE needs is an ACTIVE queue
(R292, R322). -/
def drainReplies (s : State) (f : Nat) : State :=
  let F := s.fn f
  if F.qState == .active || F.qState == .disabled then s
  else
    let out := F.doneWait.filter fun e => !bit e.bits 31
    out.foldl (fun s e => putEntry (s.modFn f fun F => { F with reserved := F.reserved - 1 }) f e.bits)
      (s.setFn f { F with doneWait := F.doneWait.filter fun e => bit e.bits 31 })

/-- The partition's DMA channels go on from where they held. -/
def dmaGoOn (s : State) (k : Nat) : State :=
  forEach (s.partDma k) (fun s n => s.modDma n fun D =>
    if D.st == .hold then { D with st := D.prior, prior := .idle } else D) s

end Sys2Proof.Machine
end

