-- ==== Sys2Proof/Machine/TimeOps.lean ====
section
/-! DEFINITION. The package's own time: epoch loads, timebase records and fine phase steps (R70 to R76, R80,
R368, R369, R381). -/
namespace Sys2Proof.Machine

/-! ### Epoch loads (R73, R74, R76) -/

def moved (d : Slot) (o : Option Slot) : Option Slot := o.map (· + d)

/-- A gap in progress, by the new count. -/
def GapRun.moved (g : GapRun) (d : Slot) : GapRun := { g with start := g.start + d }

/-- A port's positions by the new count: an epoch load names the same beats by other numbers. -/
def Port.moved (P : Port) (d : Slot) : Port :=
  let C := P.chain
  { P with
    nextBeat := P.nextBeat + d
    deskew := P.deskew.map fun b => { b with slot := b.slot + d }
    trig := { P.trig with
      ring := P.trig.ring.map fun b => { b with slot := b.slot + d }
      mismatches := P.trig.mismatches.map (· + d), fenced := Machine.moved d P.trig.fenced }
    chain := { C with
      maskNew := C.maskNew.map fun x => (x.1 + d, x.2)
      resetSlot := C.resetSlot + d, phiSlot := C.phiSlot + d, passed := C.passed + d
      settleTo := Machine.moved d C.settleTo, retuneSlot := Machine.moved d C.retuneSlot
      lostAt := Machine.moved d C.lostAt, tunes := C.tunes.map fun t => { t with beat := t.beat + d }
      sched := C.sched.map fun e => { e with beat := e.beat + d }
      gaps := C.gaps.map fun g => (g.1, { g.2 with run := g.2.run.moved d })
      wait := C.wait.map fun w => { w with
        slot := w.slot + d, openAt := w.openAt + d, gap := w.gap.map (·.moved d) } }
    dens := { P.dens with ivLast := P.dens.ivLast + d } }

/-- An engine's times by the new count. -/
def Engine.moved (E : Engine) (d : Slot) : Engine :=
  { E with
    stallFrom := E.stallFrom + d, startAt := Machine.moved d E.startAt, effSlot := E.effSlot + d
    warmEnd := Machine.moved d E.warmEnd, lastIssue := Machine.moved d E.lastIssue, busyTo := E.busyTo + d
    ready := E.ready.map fun x => (x.1, x.2 + d) }

/-- Every running position of the package by the new count. Timemarks already reported stay as they are. -/
def rebase (s : State) (d : Slot) : State :=
  { s with
    time := { s.time with
      slotCount := s.time.slotCount + d, coastFrom := s.time.coastFrom + d
      hist := s.time.hist.map fun m => { m with before := m.before + d, shift := m.shift + d } }
    ports := s.ports.map fun x => (x.1, x.2.moved d)
    engines := s.engines.map fun x => (x.1, x.2.moved d)
    clusters := s.clusters.map fun x => (x.1, { x.2 with
      writeBeat := x.2.writeBeat + d, tuneBeat := moved d x.2.tuneBeat })
    pcs := s.pcs.map fun x => (x.1, { x.2 with
      beat := x.2.beat + d, inputs := x.2.inputs.map fun i => (i.1, i.2 + d) })
    regions := s.regions.map fun x => (x.1, { x.2 with recoverFrom := x.2.recoverFrom + d })
    chans := s.chans.map fun x => (x.1, { x.2 with
      passStart := moved d x.2.passStart, ueTimes := x.2.ueTimes.map (· + d)
      throttled := x.2.throttled.map fun t => (t.1, t.2.1, t.2.2 + d)
      hammerDue := x.2.hammerDue.map fun t => (t.1, t.2.1, t.2.2 + d)
      laneCe := x.2.laneCe.map fun t => (t.1 + d, t.2) })
    parts := s.parts.map fun x => (x.1, { x.2 with evT0 := x.2.evT0 + d })
    vach := { s.vach with
      ppsSlot := moved d s.vach.ppsSlot, divSet := moved d s.vach.divSet
      reformFrom := moved d s.vach.reformFrom, stepAt := moved d s.vach.stepAt
      ports := s.vach.ports.map fun x => (x.1, { x.2 with
        ttArr := x.2.ttArr + (d ++ 0#8), ttSent := x.2.ttSent.map fun t => (t.1, t.2 + (d ++ 0#8))
        elastic := x.2.elastic.map fun r => { r with entry := r.entry + d } }) }
    hub := { s.hub with
      edgeBeat := s.hub.edgeBeat.map fun x => (x.1, moved d x.2)
      trigOut := s.hub.trigOut.map fun x => (x.1, { x.2 with
        busyTo := moved d x.2.busyTo, lead := x.2.lead + d }) } }

/-- An epoch load at the beat that would begin at slot `at'`: that beat begins now, with the loaded count and
fraction (R73, R74, R76): coasted clears, and a coasting that starts in that beat sets it again. The leader counts a load of its own (R369). -/
def loadEpoch (s : State) (at' load : Slot) (frac : BitVec 8) (vacheod : Bool) : State :=
  let s0 := if notAfter s.time.slotCount at' then { s with time := { s.time with slotCount := at' } } else s
  let s1 := rebase { s0 with time := s0.time.note at' } (load - at')
  let s2 := { s1 with time := { s1.time with
    fraction := frac, epochGen := s1.time.epochGen + 1, src := vacheod, epochSet := true
    coasted := s1.time.coast && s1.time.coastFrom == load } }
  if !vacheod && s2.vach.role == 3 then
    s2.modVach fun V => { V with sysEpoch := V.sysEpoch + 1, epochOk := true }
  else s2

/-- The package follows a Vacheod timebase (R73, R369, R380). -/
def follows (s : State) : Bool :=
  (s.vach.role == 2 || s.vach.role == 4) && s.vach.upstream != 0xF && fld s.vach.cfg 21 2 == 0

/-- Any port of the package is armed. -/
def anyArmed (s : State) : Bool := s.ports.any fun x => x.2.trig.armed

/-- The load that waits for an edge takes place at the first beat after it, and its EV_DONE follows (R73). -/
def edgeLoad (s : State) (onSync : Bool) (slot : Slot) : State :=
  match s.time.wait with
  | none => s
  | some w =>
    if w.onSync != onSync then s
    else
      let s1 := { s with time := { s.time with wait := none } }
      finish (loadEpoch s1 (beatSlot slot + 64) w.load w.frac false) w.origin 0 0 0

/-! ### Timebase records and steps (R80, R381) -/

/-- A timebase record into the stream of each armed port. -/
def timebaseRec (s : State) (slot : Slot) (step : Bool) : State :=
  forEach (s.ports.map (·.1)) (fun s p =>
    emitRec s p slot 6 (pack [(1, b2n s.time.coast), (1, b2n step), (8, s.time.fraction.toNat)])) s

/-- A phase step may be taken: one per beat, and one per 64 beats while a port is armed (R368, R381). -/
def stepFree (s : State) : Bool :=
  match s.vach.stepAt with
  | some a => decide ((if anyArmed s then 64 else 1) ≤ (s.time.slotCount - a).toNat / 64)
  | none => true

/-- One step of the grid, later or earlier (R70, R368, R381, R382). A step of SYS_PHASE_STEP moves the fraction
by 16 once an epoch is set; any other leaves it at the grid offset, which stays in 0 to 15. -/
def oneStep (s : State) (later : Bool) : State :=
  let V := s.vach
  let host := V.stepOrigin.isSome
  let d : Int := if later then 16 else -16
  let off := V.gridOffset + d
  let frac : BitVec 8 :=
    if host then if s.time.epochSet then s.time.fraction + BitVec.ofInt 8 d else s.time.fraction
    else BitVec.ofInt 8 (max 0 (min 15 off))
  let s1 := { s with
    time := { s.time.note (s.time.slotCount + 64) with fraction := frac }
    vach := { V with
      steps := satInc V.steps, stepAt := some s.time.slotCount, gridOffset := if host then V.gridOffset else off
      stepsDue := if later then V.stepsDue - 1 else V.stepsDue + 1 } }
  timebaseRec s1 (s.time.slotCount + 64) true

/-- A quotient rounded as the package rounds (log entry 3). -/
def roundDiv (a : Int) (b : Nat) : Int :=
  if a % (b : Int) = 0 then a / (b : Int)
  else if Config.roundsUp a.natAbs b then a / (b : Int) + 1 else a / (b : Int)

end Sys2Proof.Machine
end

