-- ==== Sys2Proof/Machine/VachOps.lean ====
section
/-! DEFINITION. Vacheod ports: their states, side frames, messages and the tree (R360 to R377, R384, R385). -/
namespace Sys2Proof.Machine

/-! ### Fields of the configuration block (R383) -/

def Vach.devId (V : Vach) : Nat := fld V.cfg 8 12
def Vach.prio (V : Vach) : Nat := fld V.cfg 4 4
def Vach.join (V : Vach) : Bool := bit V.cfg 20
def Vach.phaseMode (V : Vach) : Nat := fld V.cfg 21 2
def Vach.ppsLock (V : Vach) : Bool := bit V.cfg 23
def Vach.divArm (V : Vach) : Bool := bit V.cfg 24
/-- asym_n in ps (R383). -/
def Vach.asym (V : Vach) (v : Nat) : Int := (fbv V.cfg (32 + 16 * v) 16).toInt

/-! ### Event records (R385) -/

/-- The location of a Vacheod port, or of the package. -/
def locVp (port : Nat) : Nat := if port < 4 then loc 0xC (9 + port) else locPackage

/-- EV_LINK to M, with its log entry: kind, port or 0xF, device ID, and what follows the timemark in the
result. -/
def evLink (s : State) (kind port dev : Nat) (extra : Nat := 0) : State :=
  let d := kind + 2 ^ 4 * port + 2 ^ 8 * dev
  let r := s.nowTm.toNat + 2 ^ 72 * extra
  logEv (evM s 0x800A d r) 0x800A (locVp port) d r

/-- The partitions that hold a system line (R385). -/
def linePartitions (s : State) : List Nat :=
  (List.range 16).filter fun k => (List.range 144).any fun l => s.lineOwner l == some (BitVec.ofNat 4 k)

/-! ### Port states (R364, R373, R376) -/

def vpCode : VpSt → Nat
  | .off => 0 | .train => 1 | .notReady => 2 | .tree => 3 | .standby => 4 | .refused => 5 | .down => 6

/-- A trained port. -/
def Vp.trained (P : Vp) : Bool :=
  P.st == .notReady || P.st == .tree || P.st == .standby || P.st == .refused

/-- A port takes a state; a change is reported. -/
def setVp (s : State) (v : Nat) (st : VpSt) : State :=
  let P := s.vp v
  if P.st == st then s
  else evLink (s.modVp v fun P => { P with st := st }) 1 v P.peer.toNat (vpCode st)

/-- What a port forgets when its link is lost: what it learnt of the peer, its frames and its records. -/
def Vp.forget (P : Vp) : Vp :=
  { Vp.reset with st := P.st, cl := P.cl, delay := P.delay, xtErr := P.xtErr, xtLate := P.xtLate, wake := P.wake }

/-- A tree link no longer carries: the interruption begins (R376). -/
def breakTree (s : State) (v : Nat) : State :=
  if (s.vp v).st == .tree then
    s.modVach fun V => { V with reformFrom := some (V.reformFrom.getD s.time.slotCount) }
  else s

/-- A port loses its link. -/
def loseVp (s : State) (v : Nat) (st : VpSt) : State := (setVp (breakTree s v) v st).modVp v Vp.forget

/-- C_l of a one-way delay in 4 ps (R373): 0.7111 ns are 6,400 / 9 ps. -/
def clOf (delay : Nat) : Nat := ((4 * delay + 250) * 9 + 6399) / 6400

/-! ### Side frames (R363, R367, R375) -/

/-- CRC-16 of bits 175 to 0 of a side frame, bit 175 first. -/
def sideCrc (f : BitVec 192) : Nat :=
  crcBits 16 0x1021 0xFFFF ((List.range 176).map fun i => f.getLsbD (175 - i))
def sideOk (f : BitVec 192) : Bool := sideCrc f == fld f 176 16
/-- A side frame of a body. -/
def sideFrame (body : Nat) : BitVec 192 :=
  let f := BitVec.ofNat 192 (body % 2 ^ 176)
  put f 176 16 (sideCrc f)

/-- The system epoch number that a package passes on. -/
def epochKnown (s : State) : BitVec 16 :=
  if s.vach.upstream == 0xF then s.vach.sysEpoch else (s.vp s.vach.upstream.toNat).peerEpoch

/-- Any port of the package or of its subtree is armed (R363). -/
def subtreeArmed (s : State) : Bool :=
  anyArmed s || (List.range 4).any fun v =>
    let P := s.vp v
    P.st == .tree && s.vach.upstream.toNat != v && P.peerArmed


/-- A link control frame. -/
def controlFrame (s : State) (k : Nat) : BitVec 192 :=
  let V := s.vach
  sideFrame (pack [(4, 4), (12, V.devId), (12, V.leaderId.toNat), (4, V.leaderPrio.toNat), (4, V.depth.toNat),
    (1, b2n (subtreeArmed s)), (2, V.phaseMode), (1, 0), (16, (epochKnown s).toNat), (4, k), (8, carriageLine s k)])

/-- A time transfer frame: echo, index, t_tx and hold. -/
def timeFrame (P : Vp) (now : Timemark) : BitVec 192 :=
  sideFrame (pack [(4, 1), (4, P.ttPeer.toNat), (4, P.ttIdx.toNat), (72, now.toNat), (48, (now - P.ttArr).toNat)])

/-- A message frame. -/
def messageFrame (kind dst src part seq : Nat) (payload : BitVec 128) : BitVec 192 :=
  sideFrame (pack [(4, kind), (12, dst), (12, src), (4, part), (16, seq), (128, payload.toNat)])

/-- A trained port sends its next side frame (R363). The model sends one for each that it receives (log
entry 1502). -/
def sendSide (s : State) (v : Nat) : State :=
  let P := s.vp v
  let now := s.nowTm
  let carries := P.st == .tree || P.st == .standby
  let n := P.sideIdx
  let next := (n + 1) % 32
  if n = 0 && carries then
    (s.modVp v fun P => { P with
      sideIdx := next, ttSent := P.ttSent.set P.ttIdx.toNat now, ttIdx := P.ttIdx + 1 }).out
      (.side v (timeFrame P now))
  else if n != 0 && n % 4 = 0 then
    (s.modVp v fun P => { P with sideIdx := next, mapIdx := if P.mapIdx = 11 then 0 else P.mapIdx + 1 }).out
      (.side v (controlFrame s P.mapIdx.toNat))
  else match P.st, P.queue with
    | .tree, f :: fs => (s.modVp v fun P => { P with sideIdx := next, queue := fs }).out (.side v f)
    | _, _ => (s.modVp v fun P => { P with sideIdx := next }).out (.side v (sideFrame 0))

/-- A message joins the queue of a port, or is dropped (R375). -/
def queueSide (s : State) (v : Nat) (f : BitVec 192) : State :=
  if (s.vp v).queue.length < 256 then s.modVp v fun P => { P with queue := P.queue ++ [f] }
  else s.modVach fun V => { V with msgDrop := satInc V.msgDrop }

/-- A message floods the tree, on every TREE link but the one it came in on (R375). -/
def flood (s : State) (from' : Option Nat) (f : BitVec 192) : State :=
  forEach ((List.range 4).filter fun v => (s.vp v).st == .tree && from' != some v)
    (fun s v => queueSide s v f) s

/-- A message for this package (R375, R385). -/
def deliverMsg (s : State) (f : BitVec 192) (broadcast : Bool) : State :=
  let src := fld f 16 12
  let part := fld f 28 4
  let m : BitVec 16 := fbv f 32 16
  let last := if broadcast then s.vach.rxBcast.get 0 src else s.vach.rxSeq.get 0 src
  let step := (m - last).toNat
  if step = 0 || 1024 < step then s
  else
    let s1 := s.modVach fun V =>
      if broadcast then { V with rxBcast := V.rxBcast.set src m } else { V with rxSeq := V.rxSeq.set src m }
    let s2 := if step = 1 then s1 else
      let d := 7 + 2 ^ 4 * src + 2 ^ 16 * (last + 1).toNat
      logEv (evM (s1.modVach fun V => { V with msgGap := satInc V.msgGap (step - 1) }) 0x800A d (step - 1))
        0x800A locPackage d (step - 1)
    let d := 6 + 2 ^ 4 * src + 2 ^ 16 * m.toNat
    let payload := fld f 48 128
    if (s2.part part).evMask.getLsbD (0x800A % 32) then
      logEv (evPart s2 part 0x800A d payload) 0x800A locPackage d payload
    else s2.modVach fun V => { V with msgDrop := satInc V.msgDrop }

/-! ### Members, leader and tree (R365, R366, R377) -/

/-- A port that may join the tree: trained, with both ends ready, and no cause to refuse its peer (R364,
R366). -/
def mayTree (s : State) (v : Nat) : Bool :=
  let P := s.vp v
  P.trained && P.peerReady && s.vach.join && s.boot.step == 11

/-- A cause of R366 that this package sees on a link: the same device ID, another phase_mode, a depth beyond
15, or a SYNC_IN system of more than 64. -/
def refusesPeer (s : State) (v : Nat) : Bool :=
  let P := s.vp v
  P.peer.toNat == s.vach.devId || P.peerMode.toNat != s.vach.phaseMode ||
    (s.vach.phaseMode == 1 && decide (64 < s.vach.members.toNat))

/-- Leaders compared: the higher priority, then the lower device ID (R365). -/
def leads (a b : Nat × Nat) : Bool := decide (b.1 < a.1) || (a.1 == b.1 && decide (a.2 < b.2))

/-- The best candidate of priority 1 or more, as priority and device ID. -/
def bestLeader (s : State) (vs : List Nat) : Option (Nat × Nat) :=
  let own := (s.vach.prio, s.vach.devId)
  let cs := (own :: vs.map fun v => ((s.vp v).peerPrio.toNat, (s.vp v).peerLeader.toNat)).filter (·.1 != 0)
  cs.foldl (fun b c => match b with
    | some x => if leads c x then some c else b
    | none => some c) none

/-- The upstream port: the least depth, then the lower peer ID, then the lower port (R365). -/
def bestUpstream (s : State) (vs : List Nat) (leader : Nat × Nat) : Option Nat :=
  let cs := vs.filter fun v =>
    let P := s.vp v
    P.peerLeader.toNat == leader.2 && P.peerPrio.toNat == leader.1 && P.peerDepth != 15
  cs.foldl (fun b v => match b with
    | some u => if leads (15 - (s.vp v).peerDepth.toNat, (s.vp v).peer.toNat)
        (15 - (s.vp u).peerDepth.toNat, (s.vp u).peer.toNat) then some v else b
    | none => some v) none

/-- The state of a link of the tree: the upstream one and those to packages further down are TREE, any other
STANDBY (R365). -/
def linkState (s : State) (v : Nat) (leader : Nat × Nat) (up : Option Nat) (depth : Nat) : VpSt :=
  let P := s.vp v
  if up == some v then .tree
  else if P.peerLeader.toNat != leader.2 || depth < P.peerDepth.toNat then .tree
  else .standby

end Sys2Proof.Machine
end

