-- ==== Sys2Proof/Machine/SysTime.lean ====
section
/-! DEFINITION. The time commands of family 0x0D, and the events of 1PPS, SYNC_IN, REFCLK and the grid (R73 to
R76, R172, R243, R378 to R382, R402). The layouts of parameters that the spec does not give are in log
entry 1501. -/
namespace Sys2Proof.Machine

/-! ### Epoch and time -/

def cmdSysEpochSet : Cmd := { opcode := 0x0D01, mgmt := true, accepts := true, data := 10 }

/-- SYS_EPOCH_SET (R73, R369): data bytes 0 to 8 hold the timemark, byte 9 apply: 0 at the next beat, 1 after
the next 1PPS edge, 2 after the next SYNC_IN edge. -/
def execSysEpochSet (p : Packet) (s : State) : Host.Outcome State Fault Refusal :=
  let off := p.dataOff false
  let load : Slot := BitVec.ofNat 64 (p.dat 1 8)
  let frac : BitVec 8 := BitVec.ofNat 8 (p.dat 0 1)
  let apply := p.dat 9 1
  let peersArmed := s.vach.role == 3 && (List.range 4).any fun v => (s.vp v).peerArmed
  Cmd.run cmdSysEpochSet p s
    [need (load.toNat % 64 == 0) (badParam noLoc (off + 1)), need (decide (apply ≤ 2)) (badParam noLoc (off + 9))]
    [need (!anyArmed s) (stState locPackage 0), need (!follows s) (stState locPackage 0),
     need (!peersArmed) (stState locPackage 0), need s.time.wait.isNone (stBusy locPackage)]
    fun s =>
      if apply = 0 then (loadEpoch s (s.time.slotCount + 64) load frac false, .ok)
      else
        let w : EpochWait := { onSync := apply == 2, load := load, frac := frac, origin := originOf p }
        ({ s with time := { s.time with wait := some w } }, .accept .epoch 0)

def cmdSysTimeGet : Cmd := { opcode := 0x0D02 }

/-- SYS_TIME_GET (R300). -/
def execSysTimeGet (p : Packet) (s : State) : Host.Outcome State Fault Refusal :=
  Cmd.run cmdSysTimeGet p s [] []
    fun s => (s, .result (s.nowTm.toNat + 2 ^ 72 * s.tmStOf s.time.slotCount))

/-- EPOCH_LOAD_TIMEOUT (R73): no edge came. -/
def execEpochLoadTimeout (s : State) : Host.Outcome State Fault Refusal :=
  match s.time.wait with
  | none => .next s
  | some w => ok (abandonEpoch s (if w.onSync then 2 else 1))

/-! ### TRIG_OUT (R243) -/

/-- The result of both commands: route, fires and overruns. -/
def trigOutResult (t : TrigOut) : Nat := pack [(32, t.route.toNat), (32, t.fires.toNat), (32, t.overruns.toNat)]

def cmdSysTrigOutSet : Cmd := { opcode := 0x0D03, mgmt := true, sub := true, data := 4 }

/-- SYS_TRIG_OUT_SET: sub names the output, the data hold its route block. -/
def execSysTrigOutSet (p : Packet) (s : State) : Host.Outcome State Fault Refusal :=
  let r : BitVec 32 := p.blk 32
  Cmd.run cmdSysTrigOutSet p s
    [need (decide (p.subv ≤ 1)) (badParam noLoc 18),
     need (fld r 16 8 != 0 && selOk (fld r 0 12) 5 && zeros r [(13, 3), (24, 8)]) (badParam noLoc (p.dataOff false))]
    [] fun s =>
      let t := s.hub.trigOut.get TrigOut.reset p.subv
      let t1 := { t with route := r, fires := 0, overruns := 0 }
      ((s.modHub fun H => { H with trigOut := H.trigOut.set p.subv t1 }).out
        (.trigLevel p.subv (some (t1.level s.time.slotCount))), .result (trigOutResult t1))

def cmdSysTrigOutGet : Cmd := { opcode := 0x0D04, mgmt := true, sub := true }

/-- SYS_TRIG_OUT_GET. -/
def execSysTrigOutGet (p : Packet) (s : State) : Host.Outcome State Fault Refusal :=
  Cmd.run cmdSysTrigOutGet p s [need (decide (p.subv ≤ 1)) (badParam noLoc 18)] []
    fun s => (s, .result (trigOutResult (s.hub.trigOut.get TrigOut.reset p.subv)))

/-! ### SYNC_IN (R73, R172, R380) -/

/-- The spectral chains whose sync_in_en is set reset at the first beat after the edge. -/
def syncChains (s : State) (slot : Slot) : State :=
  let at' := beatSlot slot + 64
  { s with ports := s.ports.map fun x =>
    let C := x.2.chain
    if C.active && bit C.cfg 11 then
      (x.1, { x.2 with chain := { C with sched := C.sched ++ [⟨at', 3⟩] } })
    else x }

def phaseError (s : State) : State :=
  if s.vach.syncPhaseErr then s else evLink (s.modVach fun V => { V with syncPhaseErr := true }) 9 0xF 0

/-- The dividers: an armed edge restarts them while no port is beyond POWERED; a later edge is held against the
pattern of 2,880 slots (32 ns). -/
def syncDividers (s : State) (slot : Slot) : State :=
  if s.vach.divArm then
    if s.ports.any fun x => !(x.2.state == .down || x.2.state == .powered) then phaseError s
    else s.modVach fun V => { V with divSet := some slot, cfg := put V.cfg 24 1 0 }
  else match s.vach.divSet with
    | some a => if slotsTo a slot % 2880 = 0 then s else phaseError s
    | none => s

/-- SYNC_IN_EDGE: a rising edge, at a slot of the grid of rising REFCLK edges. -/
def execSyncInEdge (slot : BitVec 64) (s : State) : Host.Outcome State Fault Refusal :=
  ok (edgeLoad (syncChains (syncDividers s slot) slot) true slot)

/-! ### 1PPS (R73, R244, R382) -/

/-- Slots of one second, and 0.9 of them. -/
def secondSlots : Nat := 90000000000

/-- How far an edge lies before the nearest whole second of slot_count, in 1/256 slot. -/
def ppsLead (tm : Timemark) : Int :=
  let r := tm.toNat % (256 * secondSlots)
  if 2 * r ≤ 256 * secondSlots then -(r : Int) else (256 * secondSlots : Int) - r

/-- 1PPS discipline of the leader: steps towards a lead of 0 to 15/256 slot, at most 1,023, or pps_far. The fraction
then holds the lead (R382). -/
def disciplinePps (s : State) (tm : Timemark) : State :=
  let V := s.vach
  if V.role != 3 || !V.ppsLock || V.stepOrigin.isSome then s
  else
    let lead := ppsLead tm
    if 32 * 256 < lead.natAbs then
      if V.ppsFar then s else evLink (s.modVach fun V => { V with ppsFar := true }) 10 0xF 0
    else
      let s1 := s.modVach fun V => { V with
        ppsFar := false, gridOffset := lead, stepsDue := max (-1023) (min 1023 (-(lead / 16))) }
      if lead / 16 = 0 then
        { s1 with time := { s1.time.note (s.time.slotCount + 64) with fraction := BitVec.ofInt 8 lead } }
      else s1

/-- PPS_EDGE: a rising edge with its timemark and measured fraction. It fires the cross-trigger input; less
than 0.9 s after the last accepted edge, the clock ignores it. -/
def execPpsEdge (tm : BitVec 72) (s : State) : Host.Outcome State Fault Refusal :=
  let slot : Slot := fbv tm 8 64
  let s1 := edgeFires s 2 true slot
  let early := match s.vach.ppsSlot with
    | some a => decide (10 * slotsTo a slot < 9 * secondSlots)
    | none => false
  if early then ok s1
  else
    let s2 := s1.modVach fun V => { V with ppsOk := true, ppsTm := tm, ppsSlot := some slot }
    ok (edgeLoad (disciplinePps s2 tm) false slot)

/-- PPS_MISSING: no edge for 1.1 s. -/
def execPpsMissing (s : State) : Host.Outcome State Fault Refusal :=
  if s.vach.ppsOk then ok (evLink (s.modVach fun V => { V with ppsOk := false }) 10 0xF 0) else .next s

/-! ### The DCLK loop (R76, R378, R379, R402) -/

/-- REFCLK_LOSS_COAST: the loop coasts from the next beat on; `refclk` says whether REFCLK still has edges. -/
def execRefclkLossCoast (refclk : Bool) (s : State) : Host.Outcome State Fault Refusal :=
  if s.time.coast || !s.clk.dclkLock then .next s
  else
    let s1 := { s with
      time := { s.time.note (s.time.slotCount + 64) with
        coast := true, coasted := true, coastFrom := s.time.slotCount + 64 }
      clk := { s.clk with dclkLock := false, refclkOk := refclk, coastCount := satInc s.clk.coastCount } }
    ok (timebaseRec s1 (s.time.slotCount + 64) false)

/-- PLL_LOCK: the PLL_LKF voltage in mV; lock is declared at 0.80 V and withdrawn below 0.60 V. -/
def execPllLock (mv : BitVec 16) (s : State) : Host.Outcome State Fault Refusal :=
  let s1 := { s with clk := { s.clk with lkfMv := mv } }
  if mv.toNat < 600 then ok { s1 with clk := { s1.clk with dclkLock := false } }
  else if mv.toNat < 800 || s.boot.step < 6 then ok s1
  else
    let s2 := { s1 with clk := { s1.clk with dclkLock := true, refclkOk := true } }
    if s.time.coast then
      ok (timebaseRec { s2 with time := { s2.time.note (s.time.slotCount + 64) with coast := false } } (s.time.slotCount + 64) false)
    else ok s2

/-! ### Fine phase steps (R381) -/

def cmdSysPhaseStep : Cmd := { opcode := 0x0D08, mgmt := true }

/-- SYS_PHASE_STEP: inline bytes 4 and 5 hold n, signed. The reply follows the last step. -/
def execSysPhaseStep (p : Packet) (s : State) : Host.Outcome State Fault Refusal :=
  let n : Int := (BitVec.ofNat 16 (p.inb 4 2)).toInt
  let frac : Int := s.time.fraction.toNat + 16 * n
  let toPps := s.vach.role == 3 && s.vach.ppsLock
  Cmd.run cmdSysPhaseStep p s
    [need (decide (n.natAbs ≤ 1023)) (badParam noLoc 20),
     need (!s.time.epochSet || (decide (0 ≤ frac) && decide (frac ≤ 255))) (badParam noLoc 20)]
    [need (!follows s && !toPps) (stState locPackage 0),
     need s.vach.stepOrigin.isNone (stBusy locPackage)]
    fun s =>
      if n = 0 then (s, .result (s.tmOf (s.time.slotCount + 64)).toNat)
      else (s.modVach fun V => { V with stepsDue := n, stepOrigin := some p }, .wait)

/-- PHASE_STEP: one of the steps due is taken, once its beat has come; the last one of SYS_PHASE_STEP is followed by its reply. -/
def execPhaseStep (s : State) : Host.Outcome State Fault Refusal :=
  if s.vach.stepsDue = 0 || !stepFree s then .next s
  else
    let s1 := oneStep s (decide (0 < s.vach.stepsDue))
    match s1.vach.stepOrigin with
    | some p =>
      if s1.vach.stepsDue = 0 then
        ok (replyTo (s1.modVach fun V => { V with stepOrigin := none }) false p 0 0
          (s1.tmOf (s1.time.slotCount + 64)).toNat [])
      else ok s1
    | none => ok s1

end Sys2Proof.Machine
end

