-- ==== Sys2Proof/Machine/Vacheod.lean ====
section
/-! DEFINITION. The Vacheod commands of family 0x0D, and the events of the Vacheod ports and of the tree (R360 to
R377, R383 to R385). What the spec leaves to the model is in log entries 1501 to 1507. -/
namespace Sys2Proof.Machine

/-! ### Commands (R383, R384) -/

/-- Routes, phase_mode and reserved fields of a configuration block. -/
def vachCfgOk (c : BitVec 512) : Bool :=
  zeros c [(25, 3), (480, 32)] && fld c 21 2 != 3 &&
    (List.range 12).all fun k =>
      let line := fld c (96 + 24 * k) 8
      (decide (line ≤ 143) || line == 255) && selOk (fld c (104 + 24 * k) 16) 4

/-- The source of a route lies in the partition that holds its line: a port by its pair, a sequencer by its
owner. TRIG_IN and 1PPS belong to no partition. -/
def routeOwned (s : State) (c : BitVec 512) (k : Nat) : Bool :=
  let line := fld c (96 + 24 * k) 8
  let x := fld c (104 + 24 * k) 16
  line == 255 || match selCls x with
    | 1 => s.portOwner (selIdx x) == s.lineOwner line
    | 2 => s.pcsOwner (selIdx x) == s.lineOwner line
    | _ => true

/-- What the enables, the retrain bits and join do to a port once a block is written. -/
def applyEnable (s : State) (v : Nat) : State :=
  let P := s.vp v
  let c := s.vach.cfg
  if !bit c v then if P.st == .off then s else loseVp s v .off
  else if P.st == .off then if 6 ≤ s.boot.step then setVp s v .train else s
  else if bit c (28 + v) && P.st != .down then
    (loseVp s v .train).modVach fun V => { V with cfg := put V.cfg (28 + v) 1 0 }
  else if !bit c 20 && P.trained then setVp (breakTree s v) v .notReady
  else s

/-- A package that takes part is joining until it has a place in the tree; one that does not is standalone. -/
def applyJoin (s : State) : State :=
  if s.vach.join then s.modVach fun V => if V.role == 0 then { V with role := 1 } else V
  else s.modVach fun V => { V with
    role := 0, upstream := 0xF, depth := 0, members := 0, reformFrom := none, epochOk := false }

def cmdSysLinkSet : Cmd := { opcode := 0x0D05, mgmt := true, data := 64 }

/-- SYS_LINK_SET (R383). -/
def execSysLinkSet (p : Packet) (s : State) : Host.Outcome State Fault Refusal :=
  let c : BitVec 512 := p.blk 512
  let old := s.vach.cfg
  let lineMap := fld c 384 96 == fld old 384 96
  let same := fld c 8 15 == fld old 8 15 && lineMap
  let peersArmed := s.vach.role == 3 && (List.range 4).any fun v => (s.vp v).peerArmed
  Cmd.run cmdSysLinkSet p s
    [need (vachCfgOk c) (badParam noLoc (p.dataOff false)),
     need ((List.range 12).all (routeOwned s c)) (denied 2)]
    [need (same || !anyArmed s) (stState locPackage 0), need (lineMap || !peersArmed) (stState locPackage 0)]
    fun s => (applyJoin (forEach (List.range 4) applyEnable (s.modVach fun V => { V with cfg := c })), .ok)

/-- The status of one port (R384). -/
def vpStatus (P : Vp) : Nat :=
  pack [(3, vpCode P.st), (1, b2n P.laneLost.isSome), (12, P.peer.toNat), (8, P.cl.toNat), (16, P.delay.toNat),
    (8, P.xtErr.toNat), (16, P.xtLate.toNat)]

/-- The Vacheod status block (R384). -/
def vachStatus (V : Vach) : Nat :=
  pack ([(3, V.role.toNat), (1, b2n V.epochOk), (1, b2n V.syncPhaseErr), (1, b2n V.ppsOk), (1, b2n V.ppsFar),
    (1, b2n V.padAlarm), (12, V.leaderId.toNat), (4, V.depth.toNat), (4, V.upstream.toNat), (4, 0),
    (16, V.sysEpoch.toNat), (13, V.members.toNat), (3, 0), (72, V.ppsTm.toNat), (24, V.offset.toNat),
    (32, V.steps.toNat)] ++ (List.range 4).map (fun v => (64, vpStatus (V.ports.get Vp.reset v))) ++
    [(32, V.msgGap.toNat), (32, V.msgDrop.toNat)])

def cmdSysLinkStatus : Cmd := { opcode := 0x0D06, sub := true, buffer := true }

/-- SYS_LINK_STATUS (R383, R384). -/
def execSysLinkStatus (p : Packet) (s : State) : Host.Outcome State Fault Refusal :=
  Cmd.run cmdSysLinkStatus p s [need (decide (p.subv ≤ 1)) (badParam noLoc 18)] []
    fun s => (s, .bytes (bytesOf 64 (if p.subv = 0 then s.vach.cfg.toNat else vachStatus s.vach)))

def cmdSysMsgSend : Cmd := { opcode := 0x0D07, data := 16 }

/-- SYS_MSG_SEND (R375, R384). -/
def execSysMsgSend (p : Packet) (s : State) : Host.Outcome State Fault Refusal :=
  let w := p.inb 4 2
  let dst := w % 4096
  let broadcast := w.testBit 15
  let part := p.inb 6 1
  Cmd.run cmdSysMsgSend p s
    [need (w / 4096 % 8 == 0) (badParam noLoc 20), need (decide (part < 16)) (badParam noLoc 22)]
    [need (2 ≤ s.vach.role.toNat) (stState locPackage 0)]
    fun s =>
      let V := s.vach
      let seq := (if broadcast then V.txBcast else V.txSeq.get 0 dst) + 1
      let s1 := s.modVach fun V =>
        if broadcast then { V with txBcast := seq } else { V with txSeq := V.txSeq.set dst seq }
      let f := messageFrame (if broadcast then 3 else 2) dst V.devId part seq.toNat (BitVec.ofNat 128 (p.dat 0 16))
      (if !broadcast && dst == V.devId then deliverMsg s1 f false else flood s1 none f, .result seq.toNat)

/-! ### The link (R361 to R364, R373) -/

/-- The entry beat of a record that arrives now (R245, R373): 27 + C_l beats after the sender's beat, of which the
record has the index modulo 16; of the beats with that index it is the one from 7 before to 8 after now. -/
def entryBeat (s : State) (v : Nat) (r : BitVec 88) : Slot × Bool :=
  let now := s.time.slotCount.toNat / 64
  let k := (fld r 0 4 + 27 + (s.vp v).cl.toNat + 7 + 16 - now % 16) % 16
  (beatSlot s.time.slotCount + beats k - beats 7, decide (k < 7))

/-- The records of a flit of a TREE link enter the elastic buffer; one that fires nothing is ignored. -/
def takeRecords (s : State) (v : Nat) (flit : BitVec 192) : State :=
  let a : BitVec 88 := fbv flit 4 88
  let b : BitVec 88 := fbv flit 92 88
  let rs := [a, b].filter fun r => fld r 4 12 != 0
  if (s.vp v).st == .tree then
    s.modVp v fun P => { P with elastic := P.elastic ++ rs.map fun r =>
      let (entry, late) := entryBeat s v r
      { entry := entry, bits := r, late := late } }
  else s

/-- A side frame failed: 16 in a row take the port DOWN (R363, R364). -/
def sideFailed (s : State) (v : Nat) : State :=
  if 15 ≤ (s.vp v).sfail then loseVp s v .down else s.modVp v fun P => { P with sfail := P.sfail + 1 }

/-- A piece of a side frame; the sixteenth completes it, and its CRC decides (R363). -/
def takePiece (s : State) (v : Nat) (start : Bool) (x : BitVec 12) : State :=
  let P := s.vp v
  let s0 := if start && !P.pieces.isEmpty then sideFailed s v else s
  let ps := if start then [x] else if P.pieces.isEmpty then [] else P.pieces ++ [x]
  if ps.length = 16 then
    let f := BitVec.ofNat 192 (pack (ps.map fun y => (12, y.toNat)))
    let s1 := s0.modVp v fun P => { P with pieces := [] }
    sendSide (if sideOk f then s1.modVp v fun P => { P with sfail := 0 } else sideFailed s1 v) v
  else s0.modVp v fun P => { P with pieces := ps }

/-- The peer's lstate: a peer that leaves takes the link out of the tree (R361, R364, R376). -/
def takeReady (s : State) (v : Nat) (lstate : Nat) : State :=
  if lstate = 2 then s.modVp v fun P => { P with peerReady := true }
  else if lstate = 1 then
    (setVp (breakTree s v) v .notReady).modVp v fun P => { P with peerReady := false }
  else s

/-- FLIT_RECEIVE: one flit of a trained port; `xorOk` says that the four payloads agree (R361 to R363). -/
def execFlitReceive (v : BitVec 2) (flit : BitVec 192) (xorOk : Bool) (s : State) :
    Host.Outcome State Fault Refusal :=
  let n := v.toNat
  let P := s.vp n
  if !P.trained then .next s
  else if P.laneLost.isNone && !xorOk then
    let s1 := s.modVp n fun P => { P with xtErr := satInc P.xtErr, pieces := [] }
    ok (if P.pieces.isEmpty then s1 else sideFailed s1 n)
  else ok (takePiece (takeRecords (takeReady s n (fld flit 0 2)) n flit) n (bit flit 2) (fbv flit 180 12))

/-- VP_LANE_LOST: the first lost lane is rebuilt from the others, a second takes the port DOWN (R362). -/
def execVpLaneLost (v : BitVec 2) (lane : BitVec 2) (s : State) : Host.Outcome State Fault Refusal :=
  let n := v.toNat
  let P := s.vp n
  if !P.trained || P.laneLost == some lane.toNat then .next s
  else if P.laneLost.isSome then ok (loseVp s n .down)
  else ok (s.modVp n fun P => { P with laneLost := some lane.toNat })

/-- VP_TRAIN_TIMEOUT: not trained within 10 ms (R364). -/
def execVpTrainTimeout (v : BitVec 2) (s : State) : Host.Outcome State Fault Refusal :=
  if (s.vp v.toNat).st == .train then ok (setVp s v.toNat .down) else .next s

/-- VP_DOWN_RETRAIN: 1 ms after it went DOWN the port trains again (R364). -/
def execVpDownRetrain (v : BitVec 2) (s : State) : Host.Outcome State Fault Refusal :=
  let n := v.toNat
  if (s.vp n).st == .down then
    ok ((setVp s n .train).modVach fun V => { V with cfg := put V.cfg (28 + n) 1 0 })
  else .next s

/-- VP_TRAIN_DONE: the measured one-way delay, in 4 ps, sets C_l (R364, R373). -/
def execVpTrainDone (v : BitVec 2) (delay : BitVec 16) (s : State) : Host.Outcome State Fault Refusal :=
  let n := v.toNat
  if (s.vp n).st == .train then
    ok ((setVp s n .notReady).modVp n fun P => { P with
      delay := delay, cl := BitVec.ofNat 8 (min 255 (clOf delay.toNat)), laneLost := none, sfail := 0
      pieces := [], sideIdx := 0 })
  else .next s

/-! ### Side frames (R363, R367, R375) -/

/-- TIME_TRANSFER: a time-transfer frame arrives, and where it answers one of this end's, the exchange gives the
delay and the peer's offset (R367). -/
def execTimeTransfer (v : BitVec 2) (frame : BitVec 192) (arrival : BitVec 72) (s : State) :
    Host.Outcome State Fault Refusal :=
  let n := v.toNat
  let P := s.vp n
  if !(P.st == .tree || P.st == .standby) || !sideOk frame || fld frame 0 4 != 1 then .next s
  else
    let t3 : BitVec 72 := fbv frame 12 72
    let hold : BitVec 72 := BitVec.ofNat 72 (fld frame 84 48)
    let s1 := s.modVp n fun P => { P with ttPeer := fbv frame 8 4, ttArr := arrival }
    match P.ttSent.find? (·.1 == fld frame 4 4) with
    | none => ok s1
    | some x =>
      let t1 : BitVec 72 := x.2
      let theta := roundDiv (25 * ((t3 - hold - t1).toInt - (arrival - t3).toInt) - 576 * s.vach.asym n) 50
      let delay := roundDiv (25 * (((arrival - t1).toNat : Int) - hold.toNat)) 4608
      let s2 := s1.modVp n fun P => { P with
        theta := (P.theta ++ [theta]).drop (P.theta.length - 15)
        delay := BitVec.ofInt 16 (max 0 (min 65535 delay)) }
      ok (if s.vach.upstream.toNat == n then
          s2.modVach fun V => { V with exchanges := min 64 (V.exchanges + 1) }
        else s2)

/-- MESSAGE: for this package it is delivered, any other goes on (R375). -/
def execMessage (v : BitVec 2) (frame : BitVec 192) (s : State) : Host.Outcome State Fault Refusal :=
  let n := v.toNat
  if (s.vp n).st != .tree || !sideOk frame || fld frame 0 4 != 2 then .next s
  else if fld frame 4 12 == s.vach.devId then ok (deliverMsg s frame false)
  else ok (flood s (some n) frame)

/-- MESSAGE_BROADCAST: it is delivered and goes on (R375). -/
def execMessageBroadcast (v : BitVec 2) (frame : BitVec 192) (s : State) : Host.Outcome State Fault Refusal :=
  let n := v.toNat
  if (s.vp n).st != .tree || !sideOk frame || fld frame 0 4 != 3 then .next s
  else ok (deliverMsg (flood s (some n) frame) frame true)

/-- LINK_CONTROL: what the peer says of itself, of its leader and of the line map (R363, R369). -/
def execLinkControl (v : BitVec 2) (frame : BitVec 192) (s : State) : Host.Outcome State Fault Refusal :=
  let n := v.toNat
  if !(s.vp n).trained || !sideOk frame || fld frame 0 4 != 4 then .next s
  else
    let k := fld frame 56 4
    let s1 := s.modVp n fun P => { P with
      peer := fbv frame 4 12, peerLeader := fbv frame 16 12, peerPrio := fbv frame 28 4
      peerDepth := fbv frame 32 4, peerArmed := bit frame 36, peerMode := fbv frame 37 2
      peerEpoch := fbv frame 40 16
      lineMap := if k < 12 then P.lineMap.set k (BitVec.ofNat 8 (255 - fld frame 60 8)) else P.lineMap }
    ok (if s.vach.upstream.toNat == n then
        s1.modVach fun V => { V with epochOk := V.epochOk && fbv frame 40 16 == V.sysEpoch }
      else s1)

/-- XTRIG_RECORD_ENTRY: the oldest record of a port's elastic buffer enters the bridge at its entry beat and fires
its lines, or came too late and is discarded (R373, R374). -/
def execXtrigRecordEntry (v : BitVec 2) (s : State) : Host.Outcome State Fault Refusal :=
  let n := v.toNat
  match (s.vp n).elastic with
  | [] => .next s
  | r :: rest =>
    let s1 := s.modVp n fun P => { P with elastic := rest }
    if r.late then
      ok (evLink ((s1.modVp n fun P => { P with xtLate := satInc P.xtLate }).modVach fun V => { V with
        padAlarm := true }) 8 n (s.vp n).peer.toNat)
    else if !notAfter r.entry s.time.slotCount then .next s
    else
      ok (forEach ((List.range 12).filter fun k => bit r.bits (4 + k) && carriageLine s k ≤ 143) (fun s k =>
        lineFire s (carriageLine s k) (r.entry + BitVec.ofNat 64 (fld r.bits (16 + 6 * k) 6)) (some n)) s1)

/-! ### Steering (R368, R369) -/

/-- The average of the latest 16 offsets of a port. -/
def meanTheta (P : Vp) : Int := roundDiv (P.theta.foldl (· + ·) 0) (max 1 P.theta.length)

/-- STEER_UPDATE: the offset of the upstream grid is averaged, and the steps follow that bring the grid offset
into 0 to 15: at most 4, or, before a load, all that align the beats. -/
def execSteerUpdate (s : State) : Host.Outcome State Fault Refusal :=
  let V := s.vach
  let P := s.vp V.upstream.toNat
  if !follows s || P.theta.isEmpty then .next s
  else
    let mean := meanTheta P
    let s1 := s.modVach fun V => { V with offset := BitVec.ofInt 24 mean }
    let g := (s.time.fraction.toNat : Int) + mean
    if V.stepsDue != 0 || V.stepOrigin.isSome then ok s1
    else if V.epochOk then
      ok (s1.modVach fun V => { V with gridOffset := g, stepsDue := max (-4) (min 4 (-(g / 16))) })
    else if V.exchanges = 64 && !anyArmed s then
      ok (s1.modVach fun V => { V with gridOffset := g % 16384, stepsDue := -(g % 16384 / 16) })
    else ok s1

/-- FOLLOWER_EPOCH_LOAD: the system slot count of the next beat and the measured fraction (R369). -/
def execFollowerEpochLoad (slot : BitVec 64) (frac : BitVec 8) (s : State) : Host.Outcome State Fault Refusal :=
  let V := s.vach
  if follows s && !V.epochOk && !anyArmed s && V.exchanges == 64 && V.stepsDue == 0 && V.stepOrigin.isNone &&
      slot.toNat % 64 == 0 && decide (frac.toNat ≤ 15) then
    let e := epochKnown s
    ok ((loadEpoch s (s.time.slotCount + 64) slot frac true).modVach fun V => { V with
      sysEpoch := e, epochOk := true, gridOffset := frac.toNat })
  else .next s

/-! ### The tree (R365, R366, R376, R377) -/

/-- The role that the election gives (R365, R377, R384): `lead` says that this package wins, `leader` is the
winner. A follower that has lost its leader is cut off, or the leader itself has left: the frames do not say
which, so `left` does (log entries 3 and 1504). -/
def newRole (V : Vach) (lead left : Bool) (leader : Nat × Nat) : BitVec 3 :=
  let old := (V.leaderPrio.toNat, V.leaderId.toNat)
  let plain : BitVec 3 := if lead then 3 else 2
  if V.role == 2 then if leads old leader && !left then 4 else plain
  else if V.role == 4 then if leads leader old then plain else 4
  else plain

/-- What the change of role, leader and upstream is reported with (R385). -/
def reportTree (s : State) (V : Vach) : State :=
  let W := s.vach
  let s1 := if V.leaderId != W.leaderId then evLink s 3 0xF W.leaderId.toNat else s
  let s2 := if W.role == 4 && V.role != 4 then evLink s1 4 0xF W.leaderId.toNat else s1
  let s3 := if V.role == 4 && W.role != 4 then evLink s2 5 0xF W.leaderId.toNat else s2
  if V.reformFrom.isNone && V.role == W.role && V.upstream == W.upstream then s3
  else
    let len := match V.reformFrom with
      | some a => slotsTo a s.time.slotCount / 64
      | none => 0
    let d := 2 + 2 ^ 4 * 0xF + 2 ^ 8 * V.devId
    forEach (linePartitions s3) (fun s k => evPart s k 0x800A d (s.nowTm.toNat + 2 ^ 72 * len))
      (evLink s3 2 0xF V.devId len)

/-- TREE_REFORM: the election, the upstream port and the state of every link. -/
def execTreeReform (s : State) : Host.Outcome State Fault Refusal :=
  let V := s.vach
  if !V.join || s.boot.step != 11 then .next s
  else
    let able := (List.range 4).filter (mayTree s)
    let vs := able.filter fun v => !refusesPeer s v
    let s1 := forEach (able.filter (refusesPeer s)) (fun s v => setVp (breakTree s v) v .refused) s
    let alone := fun (s : State) =>
      (forEach vs (fun s v => setVp s v .notReady) s).modVach fun V => { V with
        role := 1, upstream := 0xF, depth := 0, members := 0, reformFrom := none }
    match bestLeader s1 vs with
    | none => ok (reportTree (alone s1) V)
    | some leader =>
      let lead := leader == (V.prio, V.devId)
      let up := if lead then none else bestUpstream s1 vs leader
      if !lead && up.isNone then
        ok (reportTree (alone (forEach (vs.filter fun v => (s1.vp v).peerDepth == 15)
          (fun s v => setVp s v .refused) s1)) V)
      else
        let (r, s2) := s1.fresh
        let role := newRole V lead (r % 2 == 1) leader
        let depth := match up with
          | some u => (s2.vp u).peerDepth.toNat + 1
          | none => 0
        let s3 := forEach vs (fun s v => setVp s v (linkState s v leader up depth)) s2
        let moved := V.upstream.toNat != up.getD 0xF
        let current := match up with
          | some u => s.time.src && (s2.vp u).peerEpoch == V.sysEpoch &&
              (V.role != 4 || decide ((meanTheta (s2.vp u)).natAbs < 256))
          | none => true
        let s4 := s3.modVach fun V => { V with
          role := role, leaderId := BitVec.ofNat 12 leader.2, leaderPrio := BitVec.ofNat 4 leader.1
          depth := BitVec.ofNat 4 depth, upstream := BitVec.ofNat 4 (up.getD 0xF)
          members := BitVec.ofNat 13 (1 + r / 2 % 4096), reformFrom := none
          exchanges := if moved then 0 else V.exchanges
          epochOk := if moved || V.role != role then current else V.epochOk }
        let s5 := reportTree s4 V
        ok (if follows s5 && !follows s then abandonEpoch s5 3 else s5)

end Sys2Proof.Machine
end

