-- ==== Sys2Proof/Machine/Faults.lean ====
section
/-! DEFINITION. Single faults: the lockstep of the front ends, the spares, the cores of the control processor, the
die-to-die links, the watchdogs, and the commands that inject faults (R443 to R453, R456, R457). -/
namespace Sys2Proof.Machine

/-! ### Lockstep, replay and takeover (R444 to R449) -/

/-- The region's spare serves a port, or is about to. -/
def spareTaken (s : State) (r : Nat) : Bool :=
  (s.region r).spareOf.isSome || (regionPorts r).any fun p => (s.port p).trig.fenced.isSome

/-- A persistent fault of a port's front end (R446, R447): it is fenced, and the spare is to take over. Where
the spare serves a port already, the port is disarmed and held in reset (R449). -/
def persistentFault (s : State) (p : Nat) (injected : Bool) : State :=
  let P := s.port p
  if P.trig.heldOut || P.trig.fenced.isSome then s
  else if spareTaken s (portRegion p) then
    (frontReset s p).modPort p fun P => { P with trig := { P.trig with heldOut := true } }
  else
    evFault (s.modPort p fun P => { P with trig := { P.trig with fenced := some P.pos, replaying := none } })
      (s.portOwner p) (locPort p) 1 injected

/-- The mismatches of the last 1 ms before a beat (R446). -/
def recentMismatches (P : Port) : List Slot :=
  P.trig.mismatches.filter fun m => decide (slotsTo m P.pos ≤ nsSlots 1000000)

/-- A mismatch on the port's next beat (R445, R446): a replay, or a persistent fault when a replay has not caught
up or it is the fourth mismatch within 1 ms. -/
def mismatch (s : State) (p : Nat) (injected : Bool) : State :=
  let P := s.port p
  if P.trig.sl.phase == .idle || P.trig.heldOut || P.trig.fenced.isSome then s
  else
    let ms := recentMismatches P
    let s1 := s.modPort p fun P => { P with trig := { P.trig with mismatches := ms ++ [P.pos] } }
    if P.trig.replaying.isSome || 3 ≤ ms.length then persistentFault s1 p injected
    else
      let s2 := s1.modPort p fun P => { P with trig := { P.trig with replaying := some P.pos } }
      evFault (s2.modFaults fun F => { F with replays := satInc F.replays }) (s.portOwner p) (locPort p) 5 injected

/-- LOCKSTEP_MISMATCH on the beat that the port decides next. -/
def execLockstepMismatch (port : BitVec 7) (beat : BitVec 64) (s : State) : Host.Outcome State Fault Refusal :=
  let P := s.port port.toNat
  if P.deskew.isEmpty || P.pos != beat || P.trig.sl.phase == .idle then .next s
  else ok (mismatch s port.toNat false)

/-- REPLAY_CATCH_UP: the port decides live beats again (R445, R447). -/
def execReplayCatchUp (port : BitVec 7) (s : State) : Host.Outcome State Fault Refusal :=
  let P := s.port port.toNat
  if P.trig.replaying.isSome && P.trig.fenced.isNone then
    ok (s.modPort port.toNat fun P => { P with trig := { P.trig with replaying := none } })
  else .next s

/-- Oldest beat that the replay ring holds when the lane switch moves the port at `tr` (R447). -/
def oldestHeld (tr : Slot) : Slot := tr - beats 2841

/-- A slot at which a block period of the port starts (R38, R53); any beat while none run. -/
def Port.blockEdge (P : Port) (tr : Slot) : Bool :=
  !P.inPeriods || (if notAfter P.nextBeat tr then slotsTo P.nextBeat tr else slotsTo tr P.nextBeat) % 960 == 0

/-- SPARE_TAKEOVER: the lane switch moves the port to the spare at `tr` (R447, R448). Beats that the ring no
longer holds are lost with cause 0x5. -/
def execSpareTakeover (port : BitVec 7) (tr : BitVec 64) (s : State) : Host.Outcome State Fault Refusal :=
  let p := port.toNat
  let P := s.port p
  match P.trig.fenced with
  | none => .next s
  | some f =>
    if !notAfter f tr || tr.toNat % 64 != 0 || !P.blockEdge tr then .next s
    else
      let old := oldestHeld tr
      let gone := fun (b : Beat) => !b.lost && notAfter f b.slot && !notAfter old b.slot
      let s1 := s.modPort p fun P => { P with
        onSpare := true
        deskew := P.deskew.map fun b => if gone b then { b with lost := true, cause := 5, words := [] } else b
        run := if P.deskew.any gone then { P.run with maskHist := [] } else P.run
        trig := { P.trig with fenced := none, replaying := some f, mismatches := [] } }
      let s2 := s1.modRegion (portRegion p) fun R => { R with spareOf := some p }
      ok (portRecord (s2.modFaults fun F => { F with takeovers := satInc F.takeovers }) p tr)

/-! ### Cores of the control processor (R450, R451) -/

/-- The commands in progress that ran on the retired core complete with ST_FAULT. Which ones did is a free value
(log entry 3). -/
def failOnCore (core : Nat) (s : State) (p : Packet) : State :=
  let (v, s1) := s.fresh
  if v % 2 = 1 then replyTo s1 false p 0x50 (0xC000 + core + 2 ^ 16 * 3) 0 [] else s1

/-- HEARTBEAT_MISS: a core is retired; without any the hub resets the package, with cause 6. -/
def execHeartbeatMiss (core : BitVec 2) (b : BootIn) (s : State) : Host.Outcome State Fault Refusal :=
  if !s.faults.cores.getLsbD core.toNat then .next s
  else
    let left := put s.faults.cores core.toNat 1 0
    let s1 := s.modFaults fun F => { F with cores := left }
    if left = 0 then ok (bootEarly (packageReset s1 6) 2 b)
    else
      let inMbox := if s.mbox.begun then [mailboxPacket false (s.mbox.cmd.toList 0 4096)] else []
      ok ((inMbox ++ s.fns.flatMap fun x => x.2.begun).foldl (failOnCore core.toNat) s1)

/-! ### Die-to-die links (R450) -/

/-- D2D_LINK_FAILURE: commands and offload for the die wait; its ports go on. -/
def execD2dLinkFailure (d : BitVec 2) (s : State) : Host.Outcome State Fault Refusal :=
  if (s.die d.toNat).linkUp && (s.die d.toNat).pwr != 0 then
    ok (s.modDie d.toNat fun D => { D with linkUp := false })
  else .next s

/-- D2D_LINK_RETRAINED. -/
def execD2dLinkRetrained (d : BitVec 2) (s : State) : Host.Outcome State Fault Refusal :=
  if (s.die d.toNat).linkUp then .next s else ok (s.modDie d.toNat fun D => { D with linkUp := true })

/-- D2D_RETRAIN_TIMEOUT: the link was down for 100 ms, and the die is reset. -/
def execD2dRetrainTimeout (d : BitVec 2) (s : State) : Host.Outcome State Fault Refusal :=
  if (s.die d.toNat).linkUp || coveredReset s (loc 9 d.toNat) then .next s else ok (dieReset s d.toNat)

/-! ### Watchdogs (R453) -/

/-- A break is counted and logged. -/
def broken (s : State) (l : Nat) : State :=
  logEv (s.modFaults fun F => { F with wdBreaks := satInc F.wdBreaks }) 0x0200 l 0 0

/-- The requests in flight over a die's link end with error responses. -/
def failLink (s : State) (d : Nat) : State :=
  forEach ((dieRegions d).flatMap regionChans) (fun s c =>
    let C := s.chan c
    let far := fun (q : MemReq) => q.cls == .dma || q.cls == .control
    ((C.queue ++ C.held).filter far).foldl reqError (s.modChan c fun C => { C with
      queue := C.queue.filter fun q => !far q, held := C.held.filter fun q => !far q })) s

/-- The bundle of an engine that waits at the tune port of a fenced front end completes, its tune refused
(R224). -/
def breakTune (s : State) (e : Nat) (bundle : BitVec 72) : State :=
  let y := ySlot bundle
  let p := (tuneTarget (s.eng e) e y).2
  let s1 := completeBundle (endStall s e) e (xSlot bundle) y
  (s1.modPort p fun P => { P with trig := { P.trig with tunes := (s.port p).trig.tunes } }).modEng e
    fun E => { E with flags := put E.flags 9 1 1 }

/-- Beats of 1 ms. -/
def msBeats : Nat := nsSlots 1000000 / 64

/-- WATCHDOG_BREAK: a wait of 1 ms without progress ends. A wait that is not there leaves the state unchanged. -/
def execWatchdogBreak (w : WaitKind) (s : State) : Host.Outcome State Fault Refusal :=
  match w with
  | .firmware p l =>
    let waits := if p.mbox then s.mbox.begun else (s.fn p.fn.toNat).begun.contains p.core
    if waits then ok (broken (replyTo s false p 0x50 (l.toNat + 2 ^ 16 * 2) 0 []) l.toNat) else .next s
  | .linkCredit d =>
    if (s.die d.toNat).pwr = 0 || !(s.die d.toNat).linkUp then .next s
    else ok (broken (failLink (s.modDie d.toNat fun D => { D with linkUp := false }) d.toNat) (loc 0xD d.toNat))
  | .chute f lanes =>
    let k := f.toNat
    let n := lanes.count true
    if reach s k && (chuteRead s k n ⟨msBeats, []⟩).isNone then
      let s1 := chuteAdvance (chuteFlags s k 1) k n
      ok (broken (s1.out (.chute k (laneBytes lanes (List.replicate n 0xFF)) false)) (locEndpoint k))
    else .next s
  | .tune e =>
    let n := e.toNat
    match (s.eng n).stall with
    | some bundle =>
      if opOf (ySlot bundle) = 0x15 && (s.port (tuneTarget (s.eng n) n (ySlot bundle)).2).trig.fenced.isSome then
        ok (broken (breakTune s n bundle) (loc 2 n))
      else .next s
    | none => .next s

/-! ### DIAG_INJECT (R456, R457) -/

/-- The row of a kind. A kind of no row takes that of kind 1. -/
def injectRow (p : Packet) (kind : Nat) : Bool :=
  let k := p.inb 4 1
  k == kind || (kind == 1 && (k == 0 || decide (5 < k)))

def cmdInject : Cmd :=
  { opcode := 0x1004, mgmt := true, freeTarget := true, sub := true, nonApproved := true }

/-- DIAG_INJECT of a kind on a target of a class: what it injects takes the path of a natural fault. -/
def inject (p : Packet) (s : State) (kind cls : Nat) (eff : State → State) : Host.Outcome State Fault Refusal :=
  if !injectRow p kind then .next s
  else
    Cmd.run cmdInject p s
      [need (p.inb 4 1 == kind) (badParam noLoc 20),
       need (locOk p.target && p.target / 0x1000 == cls) (badParam noLoc 16),
       need (if kind = 5 then decide (p.subv ≤ 8) else p.subv == 0) (badParam noLoc 18)] []
      fun s => (eff s, .result s.nowTm.toNat)

/-- DIAG_INJECT kind 1: one mismatch on a port. -/
def execDiagInjectMismatch (p : Packet) (s : State) : Host.Outcome State Fault Refusal :=
  inject p s 1 0 fun s => mismatch s p.idx true

/-- DIAG_INJECT kind 2: a persistent front-end fault on a port. -/
def execDiagInjectPersistent (p : Packet) (s : State) : Host.Outcome State Fault Refusal :=
  inject p s 2 0 fun s => persistentFault s p.idx true

/-- DIAG_INJECT kind 3: an engine fault. -/
def execDiagInjectEngine (p : Packet) (s : State) : Host.Outcome State Fault Refusal :=
  inject p s 3 2 fun s => if (s.eng p.idx).runs then engFault s p.idx true else s

/-- DIAG_INJECT kind 4: a channel without response, which is retired (R270, R271). -/
def execDiagInjectChannel (p : Packet) (s : State) : Host.Outcome State Fault Refusal :=
  inject p s 4 4 fun s => if chanServes s p.idx && !isLodge p.idx then fence s p.idx 1 true else s

/-- DIAG_INJECT kind 5: the loss of a lane by its physical position in sub. No event record names a lane loss, so
the injection has a log entry of its own (log entry 1802). -/
def execDiagInjectLaneLoss (p : Packet) (s : State) : Host.Outcome State Fault Refusal :=
  inject p s 5 0 fun s =>
    let s1 := logAt s none true 0x8003 (locPort p.idx) (p.target + 2 ^ 16 * p.subv) 0
    if ((s.port p.idx).lane p.subv).usable then happen s1 p.idx (.laneLost p.subv) else s1

end Sys2Proof.Machine
end

