-- ==== Sys2Proof/Machine/HostBus.lean ====
section
/-! DEFINITION. Events of the host side: doorbells and packets, the mailbox, register writes, the Chute, power
states, resets of functions and the links of the endpoints (R289 to R299, R303 to R327). A request that cannot
reach its function, and an event that cannot happen, leave the state unchanged (R304, log entry 4). -/
namespace Sys2Proof.Machine

/-- SQ_TAIL_DOORBELL (R290, R292). -/
def execSqTailDoorbell (f : BitVec 4) (v : BitVec 32) (s : State) : Host.Outcome State Fault Refusal :=
  if reach s f.toNat then ok (sqTailWrite s f.toNat v) else .next s

/-- PACKET_FETCH: the next announced packet, or a bus error while it is read (R287, R290, R292, R293). -/
def execPacketFetch (p : Packet) (busErr : Bool) (s : State) : Host.Outcome State Fault Refusal :=
  let f := p.fn.toNat
  let F := s.fn f
  let told := (F.sqTail - F.sqHead).toNat
  let cells := p.cells.toNat
  let all := if busErr || cells = 0 || 64 < cells then 1 ≤ told else cells ≤ told
  if p.mbox || !F.active || !(s.ep (f / 8)).up || 16 ≤ F.fetched.length || !all then .next s
  else if busErr then ok (s.setFn f (F.queueError 4))
  else ok (drainBad 16 (fetchPacket s f p) f)

/-- RQ_HEAD_DOORBELL (R291, R292). -/
def execRqHeadDoorbell (f : BitVec 4) (v : BitVec 32) (s : State) : Host.Outcome State Fault Refusal :=
  if reach s f.toNat then ok (rqHeadWrite s f.toNat v) else .next s

/-- Q_ENABLE (R292). -/
def execQEnable (f : BitVec 4) (s : State) : Host.Outcome State Fault Refusal :=
  if reach s f.toNat then ok (qCtrlWrite s f.toNat true) else .next s

/-- Q_DISABLE (R292). -/
def execQDisable (f : BitVec 4) (s : State) : Host.Outcome State Fault Refusal :=
  if reach s f.toNat then ok (qCtrlWrite s f.toNat false) else .next s

/-- QUEUE_DRAINED (R292). -/
def execQueueDrained (f : BitVec 4) (s : State) : Host.Outcome State Fault Refusal :=
  let F := s.fn f.toNat
  if F.qState == .draining && F.begun.isEmpty && !F.doneWait.any (fun e => !bit e.bits 31) then
    ok (s.setFn f.toNat (queueDisabled F))
  else .next s

/-- MBOX_GO (R298, R299). -/
def execMboxGo (s : State) : Host.Outcome State Fault Refusal :=
  if reach s 0 then ok (mboxGo s) else .next s

/-- CHUTE_PTR_WRITE, by one 8-byte write (R306, R310, R313). -/
def execChutePtrWrite (f : BitVec 4) (v : BitVec 64) (s : State) : Host.Outcome State Fault Refusal :=
  if reach s f.toNat then ok (bar0Write s f.toNat 0x300 [(fbv v 0 32, 0xF), (fbv v 32 32, 0xF)]) else .next s

/-- CHUTE_READ of so many byte lanes, each enabled or not (R309 to R313, R321). -/
def execChuteRead (f : BitVec 4) (lanes : List Bool) (m : MemIn) (s : State) : Host.Outcome State Fault Refusal :=
  let n := lanes.count true
  if !reach s f.toNat then .next s
  else match chuteRead s f.toNat n m with
    | none => .next s
    | some x =>
      let s1 := x.1.out (.chute f.toNat (laneBytes lanes x.2.1) x.2.2)
      ok (if n = 0 || chuteSpace s f.toNat != 0 then s1 else chutePrefetch s1 f.toNat)

/-- CHUTE_WRITE of byte lanes, each with its byte where it is enabled (R309 to R313, R321). -/
def execChuteWrite (f : BitVec 4) (bytes : List (Option (BitVec 8))) (ep : Bool) (m : MemIn) (s : State) :
    Host.Outcome State Fault Refusal :=
  if !reach s f.toNat then .next s
  else match chuteWrite s f.toNat (bytes.filterMap id) ep m with
    | none => .next s
    | some x => ok (if ep then aerNote x f.toNat else x)

/-- SLOT_CTRL_WRITE (R63). -/
def execSlotCtrlWrite (port : BitVec 7) (v : BitVec 32) (be : BitVec 4) (s : State) :
    Host.Outcome State Fault Refusal :=
  if reach s 0 then ok (slotCtrlWrite s port.toNat be.toNat v.toNat) else .next s

/-- REGISTER_WRITE of 1 to 16 DW (R305, R306). -/
def execRegisterWrite (f : BitVec 4) (off : BitVec 16) (dws : List (BitVec 32 × BitVec 4)) (s : State) :
    Host.Outcome State Fault Refusal :=
  if reach s f.toNat then ok (bar0Write s f.toNat (off.toNat / 4 * 4) dws) else .next s

/-- FLR, in D0 or D3hot (R297, R326). -/
def execFlr (f : BitVec 4) (s : State) : Host.Outcome State Fault Refusal :=
  let F := s.fn f.toNat
  if (s.ep (f.toNat / 8)).up && !F.flr && F.pm != .d3cold then ok (startFlr s f.toNat) else .next s

/-- FLR_COMPLETE: the function is in D0uninitialised (R326). -/
def execFlrComplete (f : BitVec 4) (s : State) : Host.Outcome State Fault Refusal :=
  let F := s.fn f.toNat
  if F.flr && F.flrWiped then
    let s1 := s.setFn f.toNat { F with flr := false, flrWiped := false, pm := if F.pm == .d3hot then .d0 else F.pm }
    ok (if f = 0 then { s1 with mbox := { s1.mbox with ready := true } } else s1)
  else .next s

/-- D3HOT_ENTRY: the write of PowerState, which carries PME_En (R322). -/
def execD3hotEntry (f : BitVec 4) (pmeEn : Bool) (s : State) : Host.Outcome State Fault Refusal :=
  let k := f.toNat
  let F := s.fn k
  if (s.ep (k / 8)).up && F.pm == .d0 && !F.flr then
    ok (forEach (s.partDma k) dmaBetween (s.setFn k { F with pm := .d3hot, pmeEn := pmeEn, pmeSent := false }))
  else .next s

/-- D0_RETURN: the function goes on where it stopped (R322). -/
def execD0Return (f : BitVec 4) (s : State) : Host.Outcome State Fault Refusal :=
  let k := f.toNat
  let F := s.fn k
  if (s.ep (k / 8)).up && F.pm == .d3hot && !F.flr then
    ok (queueMoves (drainReplies (dmaGoOn (s.setFn k { F with pm := .d0, pmeSent := false }) k) k) k)
  else .next s

/-- HOLDOFF_EXPIRE: the hold-off timer of a group ends (R316). -/
def execHoldoffExpire (g : BitVec 6) (s : State) : Host.Outcome State Fault Refusal :=
  if s.fns.any fun x => x.2.holdRun.getLsbD g.toNat then
    ok { s with fns := s.fns.map fun x => (x.1, { x.2 with holdRun := x.2.holdRun &&& ~~~ (1#64 <<< g.toNat) }) }
  else .next s

/-- An edge that the lodge holds latched (R318). -/
def edgeLatched (s : State) : Bool :=
  s.ports.any (fun x => x.2.prsntLatch || x.2.attnLatch) || s.vach.ports.any fun x => x.2.wake

/-- PERST_A_ASSERT: the lodge records PME_En, and a package reset with cause 2 is due (R23, R323, R324). -/
def execPerstAAssert (s : State) : Host.Outcome State Fault Refusal :=
  if (s.ep 0).perst then .next s
  else
    let s1 := s.modEp 0 fun E => { E with perst := true, up := false, pmeRec := (s.fn 0).pmeEn }
    let s2 := s1.modHub fun H => { H with resetDue := some 2 }
    ok (if edgeLatched s2 then driveWake s2 else s2)

/-- PERST_B_ASSERT: a function reset of its eight functions, which are then in D3cold (R322, R324). -/
def execPerstBAssert (s : State) : Host.Outcome State Fault Refusal :=
  if (s.ep 1).perst then .next s
  else
    let s1 := forEach (epFns true) functionReset (s.modEp 1 fun E => { E with perst := true, up := false })
    ok (forEach (epFns true) (fun s f => s.modFn f fun F => { F with pm := .d3cold }) s1)

/-- HOT_RESET (R325). -/
def execHotReset (ep : Bool) (s : State) : Host.Outcome State Fault Refusal :=
  if (s.ep (b2n ep)).up then ok (forEach (epFns ep) functionReset s) else .next s

/-- LINK_DOWN (R327). -/
def execLinkDown (ep : Bool) (s : State) : Host.Outcome State Fault Refusal :=
  if (s.ep (b2n ep)).up then ok (linkDown s ep) else .next s

/-- ENDPOINT_LINK_UP: after a loss of the link, PERST# or a resume (R304, R327, R388). -/
def execEndpointLinkUp (ep : Bool) (s : State) : Host.Outcome State Fault Refusal :=
  let E := s.ep (b2n ep)
  let booted := decide (7 ≤ s.boot.step) || (s.boot.step == 6 && s.mbox.ready)
  if !E.up && !E.perst && booted && !asleep s then
    ok (s.modEp (b2n ep) fun E => { E with up := true })
  else .next s

/-- PERST_B_DEASSERT: the functions are in D0uninitialised (R322). -/
def execPerstBDeassert (s : State) : Host.Outcome State Fault Refusal :=
  if (s.ep 1).perst then
    let s1 := s.modEp 1 fun E => { E with perst := false }
    ok (forEach (epFns true) (fun s f => s.modFn f fun F => { F with pm := .d0 }) s1)
  else .next s

end Sys2Proof.Machine
end

