-- ==== Sys2Proof/Machine/Port.lean ====
section
/-! DEFINITION. The commands of family 0x03: PORT_OPEN to PORT_GET (R300). -/
namespace Sys2Proof.Machine

/-- The port is in one of the states that a command asks for; otherwise ST_STATE with its state code. -/
def needPort (s : State) (p : Packet) (t : Port → Bool) : Option Fail :=
  let P := s.port p.idx
  need (t P) (stState p.target (portCode P.state))

/-- ST_STATE while the port is armed (R300). -/
def needUnarmed (s : State) (p : Packet) : Option Fail := needPort s p fun P => !P.trig.armed

/-- The die that a command needs is not switched off by policy (R398). -/
def needDie (s : State) (d : Nat) : Option Fail := need (!dieForbidden s d) (stState (loc 9 d) 0)

def cmdPortOpen : Cmd := { opcode := 0x0301, cls := some 0, accepts := true }

/-- PORT_OPEN: a cold training of a POWERED port, once its tokens are granted (R47, R51, R300, R395). A port
whose front end is held in reset, or whose die failed at boot, is out of service (R436, R449). -/
def execPortOpen (p : Packet) (s : State) : Host.Outcome State Fault Refusal :=
  Cmd.run cmdPortOpen p s []
    [need (portServes s p.idx) (stFault p.target 3), needPort s p fun P => P.state == .powered,
     needDie s (portDie p.idx)]
    fun s => (wantTraining s p.idx, .accept (.portTrain p.idx) 0)

def cmdPortClose : Cmd := { opcode := 0x0302, cls := some 0 }

/-- PORT_CLOSE: SHUTDOWN is sent and the port goes DOWN (R51, R300). -/
def execPortClose (p : Packet) (s : State) : Host.Outcome State Fault Refusal :=
  Cmd.run cmdPortClose p s [] [needUnarmed s p]
    fun s => (closePort s p.idx, .ok)

def cmdPortRetrain : Cmd := { opcode := 0x0303, cls := some 0, accepts := true }

/-- PORT_RETRAIN: a cold training of a streaming port (R43, R51, R300). -/
def execPortRetrain (p : Packet) (s : State) : Host.Outcome State Fault Refusal :=
  Cmd.run cmdPortRetrain p s []
    [needPort s p Port.retrainable, needDie s (portDie p.idx)]
    fun s => (wantTraining s p.idx, .accept (.portTrain p.idx) 0)

def cmdPortFmt : Cmd := { opcode := 0x0304, cls := some 0 }

/-- PORT_FMT: STREAM_CTRL (R46, R57, R300). -/
def execPortFmt (p : Packet) (s : State) : Host.Outcome State Fault Refusal :=
  let fmt := p.inb 4 1 % 16
  let valid := p.inb 4 1 / 16 % 2 == 1
  Cmd.run cmdPortFmt p s
    [need (bit (s.port p.idx).desc (48 + fmt)) (badParam noLoc 20)]
    [needUnarmed s p, needPort s p Port.streams]
    fun s => (s.modPort p.idx fun P =>
      P.send 8 [fmt + 16 * b2n valid] (some (.streamCtrl valid (BitVec.ofNat 4 fmt))), .ok)

def cmdPortHold : Cmd := { opcode := 0x0305, cls := some 0 }

/-- PORT_HOLD: WARM_HOLD (R46, R51, R391). -/
def execPortHold (p : Packet) (s : State) : Host.Outcome State Fault Refusal :=
  Cmd.run cmdPortHold p s []
    [needUnarmed s p, needPort s p fun P => P.state == .live]
    fun s => (s.modPort p.idx fun P => P.send 9 [] (some .warmHold), .ok)

def cmdPortPass : Cmd := { opcode := 0x0306, cls := some 0 }

/-- PORT_PASS: words from host software to the probe head (R46, R300). -/
def execPortPass (p : Packet) (s : State) : Host.Outcome State Fault Refusal :=
  let n := p.inb 4 1
  let ws := (List.range n).map fun k => p.dat (4 * k) 4
  Cmd.run cmdPortPass p s
    [need (1 ≤ n && n ≤ 11) (badParam noLoc 20),
     need (4 * n ≤ p.data.length) (badParam noLoc (p.dataOff false + p.data.length)),
     need (ws.all fun w => decide (w < 2 ^ 18)) (badParam noLoc (p.dataOff false))]
    [needPort s p fun P => P.streams || (P.state == .training &&
      match P.training with
      | some t => decide (2 ≤ t.phase)
      | none => false)]
    fun s => (s.modPort p.idx fun P => P.send 0x10 ws, .ok)

def cmdPortGet : Cmd := { opcode := 0x0307, cls := some 0, buffer := true }

/-- PORT_GET: the slot registers 0x08 to 0x24 and the head descriptor (R63, R300). -/
def execPortGet (p : Packet) (s : State) : Host.Outcome State Fault Refusal :=
  Cmd.run cmdPortGet p s [] []
    fun s =>
      let P := s.port p.idx
      (s, .bytes (P.slotRegs.flatMap (bytesOf 4) ++ bytesOf 32 P.desc.toNat))

end Sys2Proof.Machine
end

