-- ==== Sys2Proof/Machine/LineCode.lean ====
section
/-! DEFINITION. The line code of lanes and return lane (R32 to R40, R43, R44): scrambler, CRC, polarity, bad
lanes, rebuild and placement into slots. -/
namespace Sys2Proof.Machine

/-- SYNC0, SYNC1 and RSYNC (R33, R44), and the pattern of an inverted pair (R32). -/
def sync0 : BitVec 18 := 0o572064
def sync1 : BitVec 18 := 0o205713
def rsync : BitVec 18 := 0o416235
def invertMask : BitVec 18 := 0o525252

/-- One step of the scrambler: the next state and the output bit (R36). -/
def scramStep (s : BitVec 31) : BitVec 31 × Bool :=
  let b := s.getLsbD 30 != s.getLsbD 27
  ((s <<< 1) ||| (if b then 1 else 0), b)

/-- `n` successive output bits as a word, the first on top, and the state after them. -/
def scramBits : Nat → BitVec 31 → Nat → BitVec 31 × Nat
  | 0, s, w => (s, w)
  | n + 1, s, w =>
    let (s1, b) := scramStep s
    scramBits n s1 (2 * w + b2n b)

/-- Scrambles or descrambles words from a state (R36). -/
def scramble : List (BitVec 18) → BitVec 31 → List (BitVec 18)
  | [], _ => []
  | w :: ws, s =>
    let (s1, m) := scramBits 18 s 0
    (w ^^^ BitVec.ofNat 18 m) :: scramble ws s1

/-- The scrambler's load at word 4 of a block (R36). -/
def scramLoad (laneId : BitVec 4) (seq : BitVec 18) : BitVec 31 := laneId ++ seq ++ 0b101000101#9

/-- CRC-36 over words, bit 17 of each first (R37). -/
def crc36 (ws : List (BitVec 18)) : Nat :=
  crcBits 36 0x9E8B5D271 (2 ^ 36 - 1) (ws.flatMap fun w => (List.range 18).map fun i => w.getLsbD (17 - i))

/-- The bits of a PAM4 level by Gray code, level 0 the most negative (R32). -/
def grayBits (level : BitVec 2) : BitVec 2 := level ^^^ (level >>> 1)

/-- The level that carries a pair of bits (R32). -/
def grayLevel (bits : BitVec 2) : BitVec 2 := bits ^^^ (bits >>> 1)

/-- A word from its nine symbols, bits [17:16] in the first (R32). -/
def pamWord (levels : List (BitVec 2)) : BitVec 18 :=
  BitVec.ofNat 18 ((levels.take 9).foldl (fun w l => 4 * w + (grayBits l).toNat) 0)

/-- The nine symbols of a word, in the order sent (R32). -/
def pamLevels (w : BitVec 18) : List (BitVec 2) := (List.range 9).map fun k => grayLevel (fbv w (16 - 2 * k) 2)

/-- The words that a lane's symbols carry (R32). -/
def pamWords (levels : List (BitVec 2)) : List (BitVec 18) :=
  (List.range (levels.length / 9)).map fun k => pamWord (levels.drop (9 * k))

/-- Words as received on a lane, its polarity corrected (R32). -/
def Lane.words (l : Lane) (levels : List (BitVec 2)) : List (BitVec 18) :=
  if l.inverted then (pamWords levels).map (· ^^^ invertMask) else pamWords levels

/-- Block lock of a position (R32, R47): three consecutive SYNC pairs of one polarity. Its polarity, and the
SEQ and lane_id of the last block. -/
def blockLock (heads : List (List (BitVec 18))) : Option (Bool × BitVec 18 × BitVec 4) :=
  let inv := (heads.headD []).getD 0 0 == sync0 ^^^ invertMask
  let ws := heads.map fun h => if inv then h.map (· ^^^ invertMask) else h
  let last := ws.getLast?.getD []
  if 3 ≤ ws.length && ws.all (fun b => b.getD 0 0 == sync0 && b.getD 1 0 == sync1) then
    some (inv, last.getD 2 0, fbv (last.getD 3 0) 0 4)
  else none

/-- Depth of a lane's deskew FIFO, the largest spread at training and the largest drift after it, in words
(R48). The FIFO covers the trained spread and a drift of both lanes. -/
def deskewDepth : Nat := 96
def maxSpread : Nat := 64
def maxDrift : Int := 16

/-- A received block, descrambled (R33). -/
structure Block where
  good : Bool
  seq : BitVec 18
  lstate : BitVec 18
  payload : List (BitVec 18)
  mk0 : BitVec 18
  mk1 : BitVec 18
  deriving DecidableEq, Repr

/-- No block received. -/
def noBlock : Block := ⟨false, 0, 0, [], 0, 0⟩

/-- Reads one lane's block and decides whether it is bad (R32, R34, R36, R37, R40, R48). It lies within the
lane's deskew window while its arrival drifted by at most 16 words. -/
def readBlock (l : Lane) (seqExp : BitVec 18) (drift : Int) (raw : List (BitVec 2)) : Block :=
  let ws := l.words raw
  let at' := fun i => ws.getD i 0
  let body := scramble ((ws.drop 4).take 124) (scramLoad l.laneId (at' 2))
  let crc := crc36 (at' 2 :: at' 3 :: body.take 122)
  { good := ws.length == 128 && at' 0 == sync0 && at' 1 == sync1 && at' 2 == seqExp
      && fbv (at' 3) 0 4 == l.laneId
      && crc == (body.getD 122 0).toNat * 2 ^ 18 + (body.getD 123 0).toNat
      && decide (drift ≤ maxDrift) && decide (-maxDrift ≤ drift)
    seq := at' 2
    lstate := at' 3
    payload := body.take 120
    mk0 := body.getD 120 0
    mk1 := body.getD 121 0 }

/-- Word-wise XOR of payloads (R39). -/
def xorWords (a b : List (BitVec 18)) : List (BitVec 18) := List.zipWith (· ^^^ ·) a b

/-- Takes a lane's payload in, where it is known. -/
def xorKnown (acc : List (BitVec 18)) : Option (List (BitVec 18)) → List (BitVec 18)
  | some w => xorWords acc w
  | none => acc

/-- The payload of a set of data lanes, the bad one rebuilt from the others and the sweep lane (R40). -/
def rebuildLanes (data : List (Option (List (BitVec 18)))) (sweep : List (BitVec 18)) :
    List (List (BitVec 18)) :=
  let fixed := data.foldl xorKnown sweep
  data.map fun d => d.getD fixed

/-- Port words in order: word w on data lane w mod n, position w div n (R38, R43). -/
def interleave (n : Nat) (lanes : List (List (BitVec 18))) : List (BitVec 18) :=
  (List.range (120 * n)).map fun w => (lanes.getD (w % n) []).getD (w / n) 0

/-- Each word in two slots (R43). -/
def twice (ws : List (BitVec 18)) : List (BitVec 18) := ws.flatMap fun w => [w, w]

/-- What a block period of the port gives: bad positions, the received words of its 960 slots where they
are not lost, and the flow words of a good lane. -/
structure Period where
  bad : List Nat
  words : Option (List (BitVec 18))
  flow : Option (BitVec 18 × BitVec 18)
  deriving DecidableEq, Repr

/-- Decides one block period (R35, R40, R43): the lanes of `ids` are the data lanes in order, `sweep` the
sweep lane. -/
def decidePeriod (P : Port) (bs : List Block) (ids : List Nat) (sweep : Nat) : Period :=
  let rd := fun id => match P.posOf id with
    | some q => if (P.lane q).usable && (bs.getD q noBlock).good then some (bs.getD q noBlock) else none
    | none => none
  let all := ids ++ [sweep]
  let badIds := all.filter fun id => (rd id).isNone
  let data := ids.map fun id => (rd id).map (·.payload)
  let sw := ((rd sweep).map (·.payload)).getD []
  let lanes := rebuildLanes data sw
  let ws := interleave ids.length lanes
  { bad := badIds
    words := if badIds.length ≥ 2 then none else some (if P.rxHalf then twice ws else ws)
    flow := (all.filterMap rd).head?.map fun b => (b.mk0, b.mk1) }

/-- The fifteen beats of a block period (R38). -/
def periodBeats (slot : Slot) (words : List (BitVec 18)) (lost : Bool) (cause : Nat) (half : Bool) :
    List Beat :=
  (List.range 15).map fun b =>
    ⟨slot + BitVec.ofNat 64 (64 * b), if lost then [] else (words.drop (64 * b)).take 64, lost,
      BitVec.ofNat 4 cause, half⟩

/-- A return-lane frame (R44): header and body of a message, scrambled, with its CRC. -/
def returnFrame (rseq : BitVec 18) (ty : BitVec 5) (seq : BitVec 8) (body : List (BitVec 18)) :
    List (BitVec 18) :=
  let hdr := BitVec.ofNat 18 (pack [(8, seq.toNat), (5, ty.toNat), (4, body.length)])
  let ws := [hdr] ++ body ++ List.replicate (11 - body.length) 0
  let c := crc36 (rseq :: ws)
  let all := ws ++ [BitVec.ofNat 18 (c / 2 ^ 18), BitVec.ofNat 18 c]
  [rsync, rseq] ++ scramble all (scramLoad 0xF rseq)

end Sys2Proof.Machine
end

