-- ==== Sys2Proof/Machine/PortEvents.lean ====
section
/-! DEFINITION. Events of the probe ports: block periods, lanes, training, the return lane, the I3C sideband,
presence and the port service chains (R40 to R63). -/
namespace Sys2Proof.Machine

/-! ### Block periods -/

/-- The lanes after a block period's checks (R50): a bad block makes a lane SUSPECT, its fourth in a row is
a loss (R41). -/
def laneChecks (P : Port) (bs : List Block) : Port × List Happening :=
  positions.foldl (fun (x : Port × List Happening) q =>
    let l := P.lane q
    if !l.usable then x
    else if (bs.getD q noBlock).good then
      (x.1.modLane q fun l => { l with
        badRun := 0
        st := if l.st == .suspect then (if P.state == .warm then .hold else .live) else l.st }, x.2)
    else if l.badRun ≥ 3 then (x.1.modLane q fun l => { l with badRun := 4 }, x.2 ++ [.laneLost q])
    else (x.1.modLane q fun l => { l with st := .suspect, badRun := l.badRun + 1 }, x.2)) (P, [])

/-- The lanes in block lock that are not in use yet, after a block period (R41, R50): the fourth bad block in a
row makes one LOST. -/
def lockedChecks (P : Port) (bs : List Block) : Port × List Nat :=
  positions.foldl (fun (x : Port × List Nat) q =>
    let l := P.lane q
    if l.st != .block then x
    else if (bs.getD q noBlock).good then (x.1.modLane q fun l => { l with badRun := 0 }, x.2)
    else if l.badRun ≥ 3 then (x.1.modLane q fun l => { l with badRun := 4 }, x.2 ++ [q])
    else (x.1.modLane q fun l => { l with badRun := l.badRun + 1 }, x.2)) (P, [])

/-- ret_ack acknowledges every message up to the one it names (R45); the loop delay is measured (R48), a
value of the outside world (log entry 3). -/
def takeAck (s : State) (p : Nat) (ack : BitVec 8) : State :=
  let P := s.port p
  let out := P.unacked ++ P.txQueue.filter fun m => m.sends != 0
  if out.any fun m => m.seq == ack then
    let idx := out.findIdx fun m => m.seq == ack
    let gone := (out.take (idx + 1)).map (·.seq)
    let (v, s1) := s.fresh
    s1.modPort p fun P => { P with
      unacked := P.unacked.filter fun m => !gone.contains m.seq
      txQueue := P.txQueue.filter fun m => m.sends == 0 || !gone.contains m.seq
      loopDelay := BitVec.ofNat 12 v }
  else s

/-- The acknowledgement that the lanes show: that of the first good lane, data or training. -/
def shownAck (P : Port) (bs : List Block) : Option (BitVec 8) :=
  (positions.find? fun q => (bs.getD q noBlock).good &&
    ((P.lane q).usable || (P.lane q).st == .block)).map fun q => fbv (bs.getD q noBlock).lstate 8 8

/-- SEQ of the next block of a training port: one more than that of a good lane in block lock. -/
def nextSeq (P : Port) (bs : List Block) : BitVec 18 :=
  match positions.find? fun q => (bs.getD q noBlock).good && (P.lane q).st == .block with
  | some q => (bs.getD q noBlock).seq + 1
  | none => P.seqExp + 1

/-- Head mark and head status records of a block (R80), and the count of calibration marks (R420). -/
def headRecords (s : State) (p : Nat) (slot : Slot) (seq : BitVec 18) (half : Bool)
    (flow : Option (BitVec 18 × BitVec 18)) : State :=
  match flow with
  | none => s
  | some (mk0, mk1) =>
    let pos := fld mk1 0 10 * if half then 2 else 1
    let s1 := if bit mk0 7 then
        emitRec s p (slot + BitVec.ofNat 64 pos) 3 (pack [(8, fld mk1 10 8), (18, seq.toNat)])
      else s
    let s2 := if bit mk0 6 || bit mk0 5 then
        emitRec s1 p slot 4 (pack [(1, b2n (bit mk0 6)), (1, b2n (bit mk0 5)), (18, seq.toNat)])
      else s1
    if bit mk0 5 then
      s2.modPort p fun P => { P with calBlocks := satInc P.calBlocks, calSess := satInc P.calSess }
    else s2

/-- The gap cause of a block period: 0 where its slots are used (R35, R40, R66). -/
def periodCause (P : Port) (d : Period) : Nat :=
  if d.words.isNone then 1
  else match d.flow with
    | some (mk0, _) =>
      if bit mk0 4 && fbv mk0 0 4 == P.fmt && (fmtWords P.fmt.toNat).isSome && P.state != .warm then 0 else 2
    | none => 1

/-- fail_code of a phase in which lanes fail (R63): phase 2 with no lane locked is the return lock. The list of
codes names none for phase 1 (power) and phase 6 (start): the model gives 1 and 7 (log entry 210). -/
def phaseFail (phase : Nat) (all : Bool) : Nat :=
  match phase with
  | 0 | 1 => 1
  | 2 => if all then 1 else 2
  | 3 => 3 | 4 => 4 | 5 => 6 | _ => 7

/-- Marks lanes LOST in a training (R47, R63). -/
def Port.failLanes (P : Port) (qs : List Nat) : Port :=
  match P.training with
  | none => P
  | some t =>
    let new := (qs.filter fun q => decide (q < 9) && !t.failed.contains q).eraseDups
    { new.foldl Port.loseLane P with training := some { t with failed := t.failed ++ new } }

/-- Lanes LOST in a training; three of them fail it (R47). -/
def loseTraining (s : State) (p : Nat) (qs : List Nat) : State :=
  let s1 := s.modPort p fun P => P.failLanes qs
  match (s1.port p).training with
  | some t =>
    if t.failed.length ≥ 3 then quarantine s1 p (phaseFail t.phase (decide (t.failed.length = 9))) else s1
  | none => s1

/-- The blocks of a period as the lanes read them: against the port's SEQ, or, while the port trains, each
with its own (R40, R47), and with its drift from the trained position (R48). -/
def readBlocks (P : Port) (blocks : List (List (BitVec 2))) (arrivals : List (Nat × Int)) : List Block :=
  positions.map fun q =>
    let l := P.lane q
    let raw := blocks.getD q []
    let drift := match arrivals.find? (fun x => x.1 == q) with
      | some x => if P.streams && l.st != .block then x.2 - l.trained.toNat else 0
      | none => 0
    readBlock l (if P.streams then P.seqExp else (l.words raw).getD 2 0) drift raw

/-- BLOCK_PERIOD: a block period of all lanes ends (R32 to R52). -/
def execBlockPeriod (port : BitVec 7) (blocks : List (List (BitVec 2))) (arrivals : List (Nat × Int))
    (s : State) : Host.Outcome State Fault Refusal :=
  let p := port.toNat
  let P := s.port p
  let bs := readBlocks P blocks arrivals
  let s0 := match shownAck P bs with
    | some a => takeAck s p a
    | none => s
  let slot := P.nextBeat
  if P.streams then
    let d := if P.rxHalf then decidePeriod P bs P.named P.namedSweep
      else decidePeriod P bs (List.range 8) 8
    let cause := periodCause P d
    let beats := periodBeats slot (d.words.getD []) (cause != 0) cause P.rxHalf
    let s1 := headRecords s0 p slot P.seqExp P.rxHalf d.flow
    let (P1, hs) := laneChecks (s1.port p) bs
    let (P2, again) := lockedChecks P1 bs
    let s3 := s1.setPort p { P2 with
      seqExp := P.seqExp + 1, nextBeat := slot + 960, deskew := P2.deskew ++ beats
      badBlocks := if d.bad.isEmpty then P2.badBlocks else satInc P2.badBlocks
      gapBlocks := if d.words.isNone then satInc P2.gapBlocks else P2.gapBlocks }
    ok (again.foldl (fun s q => loseInPlace s p q) (applyHappenings s3 p (P.pending ++ hs) P.seqExp))
  else if P.state == .training then
    let (P1, lost) := lockedChecks (s0.port p) bs
    ok (loseTraining (s0.setPort p { P1 with
      seqExp := nextSeq P1 bs, nextBeat := slot + 960
      deskew := if P1.trig.armed then P1.deskew ++ periodBeats slot [] true 1 false else P1.deskew }) p lost)
  else .next s

/-- LANE_LOST: a lane is declared LOST. A lane in use counts in the current block period (R41, R52); a lane of
a training, or of a retrain in place, that had its clock is LOST at once. -/
def execLaneLost (port : BitVec 7) (lane : BitVec 4) (_cause : LossCause) (s : State) :
    Host.Outcome State Fault Refusal :=
  let p := port.toNat
  let P := s.port p
  let q := lane.toNat
  let locked := (P.lane q).st == .hunt || (P.lane q).st == .block
  if P.streams && decide (q < 9) && (P.lane q).usable then ok (happen s p (.laneLost q))
  else if P.state == .training && decide (q < 9) && locked then ok (loseTraining s p [q])
  else if P.streams && locked && (P.inPlace.any fun x => x.1 == q) then ok (loseInPlace s p q)
  else .next s

/-! ### Cold training and retrain in place (R47 to R49) -/

/-- The end of training at the first data block (R47): LIVE, REBUILD or DEGRADED. A second lane LOST after
RATE_SET could go before DATA_START enters degraded mode by R42. -/
def endTraining (s : State) (p : Nat) : State :=
  let P := s.port p
  match P.training with
  | none => s
  | some t =>
    let good := positions.filter fun q => !t.failed.contains q
    let P1 := P.setLanes good fun l => { l with st := .live, badRun := 0 }
    let half := !P.named.isEmpty
    let (ds, sw) := (P.named, P.namedSweep)
    let P2 := (P1.setLanes good fun l => { l with
        standby := half && !(ds ++ [sw]).contains l.laneId.toNat })
    let P3 := { P2 with
      training := none, halfRate := half, rxHalf := half }
    let st : PortSt := if half then .degraded else if t.failed.isEmpty then .live else .rebuild
    let s0 := if half then stopChain (s.setPort p P3) p 7 P.nextBeat else s.setPort p P3
    let s1 := setPortState s0 p st
    let s2 := if !half && t.failed.length = 2 then degrade s1 p (P.seqExp + 320) else s1
    retrainLane (leaveTraining s2 p) p

/-- Arrival spread of the lanes at training, earliest to latest (R48). -/
def spread (xs : List Nat) : Nat := xs.foldl max 0 - xs.foldl min (xs.headD 0)

/-- Arrivals of the given positions. -/
def arrivalsOf (m : TrainIn) (qs : List Nat) : List (Nat × Nat) := m.arrivals.filter fun x => qs.contains x.1

/-- Start of the next block period after the lanes are aligned: on a beat boundary (R38). The block periods of
an armed port move by less than one period, over lost beats. -/
def Port.alignTo (P : Port) (slot : Slot) : Port :=
  if P.trig.armed then
    let k := (slot - P.nextBeat).toNat % 960 / 64
    { P with
      nextBeat := P.nextBeat + BitVec.ofNat 64 (64 * k)
      deskew := P.deskew ++ (periodBeats P.nextBeat [] true 1 false).take k }
  else { P with nextBeat := slot - BitVec.ofNat 64 (slot.toNat % 64) }

/-- Checks of phase 5 (R47, R48): every lane_id 0 to 8 once, skew at most 64 words, loop delay at most
4,095 words. -/
def phase5Fail (P : Port) (m : TrainIn) : Option Nat :=
  let qs := positions.filter fun q => (P.lane q).st == .block
  let ids := qs.map fun q => (P.lane q).laneId.toNat
  if ids.any (fun x => decide (8 < x)) || ids.eraseDups.length != ids.length then some 5
  else if maxSpread < spread ((arrivalsOf m qs).map fun x => x.2) || 4095 < m.loopDelay then some 6
  else none

/-- A lane in block lock (R32, R50, R63). -/
def Lane.lock (l : Lane) (inv : Bool) (id : BitVec 4) : Lane :=
  { l with st := .block, badRun := 0, laneId := id, inverted := inv }

/-- The trained positions of lanes (R48). -/
def Port.setTrained (P : Port) (xs : List (Nat × Nat)) : Port :=
  xs.foldl (fun P x => P.modLane x.1 fun l => { l with trained := BitVec.ofNat 7 x.2 }) P

/-- Block lock of positions by their received block heads; none while one of them has no lock. -/
def locksOf (m : TrainIn) (qs : List Nat) : Option (List (Nat × Bool × BitVec 18 × BitVec 4)) :=
  qs.mapM fun q => (blockLock (((m.heads.find? fun x => x.1 == q).map (·.2)).getD [])).map fun l => (q, l)

/-- The exit of a cold training phase: the next phase starts (R47). Lanes fail their eye threshold only after 48
iterations, and block lock is left only with every lane locked or LOST. -/
def nextPhase (s : State) (p : Nat) (m : TrainIn) : State :=
  let s0 := s.modPort p fun P => P.failLanes m.failed
  let P := s0.port p
  match P.training with
  | none => s
  | some t =>
    let step := fun (P : Port) => { P with training := some { t with phase := t.phase + 1 } }
    let good := positions.filter fun q => !t.failed.contains q
    if t.phase = 4 && !m.failed.isEmpty && P.eqIter < 48 then s
    else if t.failed.length ≥ 3 then
      quarantine s0 p (phaseFail t.phase (decide (t.failed.length = 9)))
    else match t.phase with
      | 1 => s0.setPort p (step (P.setLanes positions fun l => { l with st := .acquire }))
      | 2 => s0.setPort p (step (P.setLanes good fun l => { l with st := .hunt }))
      | 3 => match locksOf m good with
        | none => s0
        | some ls =>
          let P1 := ls.foldl (fun (P : Port) x => P.modLane x.1 fun l => l.lock x.2.1 x.2.2.2) P
          let seq := match ls with
            | x :: _ => x.2.2.1 + 1
            | [] => P.seqExp
          s0.setPort p { step P1 with seqExp := seq, eqIter := 0, eqWait := 0 }
      | 4 => s0.setPort p (step (P.send 3 []))
      | 5 => match phase5Fail P m with
        | some f => quarantine s0 p f
        | none =>
          let xs : List (Nat × Nat) := arrivalsOf m good
          let P1 := { (P.setTrained xs).alignTo m.slot with
            skew := BitVec.ofNat 7 (spread (xs.map Prod.snd)), loopDelay := BitVec.ofNat 12 m.loopDelay }
          let ids := good.map fun q => (P1.lane q).laneId.toNat
          let P2 := if t.failed.length = 2 then match nameLanes ids with
              | some (ds, sw) => { P1.send 7 ([1] ++ ds ++ [sw]) (some (.rateSet true ds sw)) with
                  named := ds, namedSweep := sw }
              | none => P1
            else P1
          s0.setPort p (step (P2.send 4 [] (some .dataStart)))
      | _ => if P.effects.any fun e => e.atSeq == P.seqExp && e.kind == .dataStart then
          endTraining (s0.modPort p fun P => { P with effects := P.effects.filter fun e =>
            !(e.atSeq == P.seqExp && e.kind == .dataStart) }) p
        else s0

/-- A retrain in place fails: the lane stays LOST and is not retrained in place again (R49). -/
def failInPlace (s : State) (p q : Nat) : State :=
  s.modPort p fun P => { P.modLane q fun l => { l with st := .lost, noRetrain := true } with inPlace := none }

/-- The exit of a phase of a retrain in place (R49). -/
def nextInPlace (s : State) (p q phase : Nat) (m : TrainIn) : State :=
  let P := s.port p
  if m.failed.contains q && (phase != 4 || 48 ≤ P.eqIter) then failInPlace s p q
  else match phase with
    | 3 =>
      if (P.lane q).st == .acquire then s.modPort p fun P => P.modLane q fun l => { l with st := .hunt }
      else match locksOf m [q] with
        | some [x] => s.modPort p fun P => { P.modLane q fun l => l.lock x.2.1 x.2.2.2 with
            inPlace := some (q, 4), eqIter := 0, eqWait := 0 }
        | _ => s
    | 4 => if m.failed.contains q then s else s.modPort p fun P => { P.send 3 [] with inPlace := some (q, 5) }
    | _ =>
      let xs := arrivalsOf m [q]
      let others := (positions.filter fun r => (P.lane r).usable).map fun r => (P.lane r).trained.toNat
      let ids := positions.map fun r => (P.lane r).laneId
      if 8 < (P.lane q).laneId.toNat || 1 < ids.count (P.lane q).laneId ||
          maxSpread < spread ((xs.map fun x => x.2) ++ others) || 4095 < m.loopDelay then failInPlace s p q
      else s.modPort p fun P => { (P.setTrained xs).send 6 [P.laneMask q]
        (some (.rejoin (BitVec.ofNat 9 (P.laneMask q)))) with inPlace := some (q, 6) }

/-- TRAINING_PHASE_EXIT: a training phase meets its exit condition (R47, R49). -/
def execTrainingPhaseExit (port : BitVec 7) (m : TrainIn) (s : State) : Host.Outcome State Fault Refusal :=
  let p := port.toNat
  let P := s.port p
  match P.training, P.inPlace with
  | some _, _ => ok (nextPhase s p m)
  | none, some (q, ph) => if ph ≤ 5 then ok (nextInPlace s p q ph m) else .next s
  | none, none => .next s

/-- TRAINING_PHASE_TIMEOUT: lanes miss a phase limit: they are LOST, or the training or the retrain in place
fails (R47, R49). -/
def execTrainingPhaseTimeout (port : BitVec 7) (lanes : List (BitVec 4)) (s : State) :
    Host.Outcome State Fault Refusal :=
  let p := port.toNat
  let P := s.port p
  match P.training, P.inPlace with
  | some t, _ =>
    if t.phase = 1 then ok (quarantine (s.modPort p fun P => P.failLanes (lanes.map (·.toNat))) p (phaseFail 1 false))
    else ok (loseTraining s p (lanes.map (·.toNat)))
  | none, some (q, _) => if lanes.contains (BitVec.ofNat 4 q) then ok (failInPlace s p q) else .next s
  | none, none => .next s

/-! ### The return lane (R44 to R46) -/

/-- The effect_seq of a message at its first sending: at least 64 blocks after the frame (R46). Which block is
open (log entry 3). DATA_START takes that of the RATE_SET that precedes it. -/
def chooseEff (s : State) (p : Nat) (m : Msg) : Option (BitVec 18) × State :=
  let P := s.port p
  match m.eff, m.effAt with
  | none, _ => (none, s)
  | some _, some e => (some e, s)
  | some .dataStart, none =>
    match (P.unacked.find? fun x => x.mtype == 7).bind (·.effAt) with
    | some e => (some e, s)
    | none =>
      let (v, s1) := s.fresh
      (some (P.seqExp + BitVec.ofNat 18 (65 + v % (2 ^ 18 - 65))), s1)
  | some _, none =>
    let (v, s1) := s.fresh
    (some (P.seqExp + BitVec.ofNat 18 (65 + v % (2 ^ 18 - 65))), s1)

/-- Words of a timemark, low word first (R46, R70). -/
def tmWords (tm : Timemark) : List (BitVec 18) := (List.range 4).map fun k => fbv tm (18 * k) 18

/-- The return transmitter is powered: the port streams, trains past phase 1, or still sends SHUTDOWN. -/
def Port.transmits (P : Port) : Bool :=
  P.streams || (match P.training with
    | some t => decide (2 ≤ t.phase)
    | none => false) || (P.txQueue ++ P.unacked).any fun m => m.mtype == 0x0A

/-- Positions being equalised: those of a training in phase 4 that are not LOST, or the lane retrained in place
(R47, R49). -/
def Port.equalising (P : Port) : List Nat :=
  match P.training, P.inPlace with
  | some t, _ => if t.phase = 4 then positions.filter fun q => !t.failed.contains q else []
  | none, some (q, 4) => [q]
  | none, _ => []

/-- Frame times of one equalisation iteration: 300 µs of 10.667 ns (R47). -/
def eqFrames : Nat := 28125

/-- Body of EQ_REQ: word k for lane_id k (R46); action 0 for lanes that are not equalised (R49). Which action and
preset the eye measurement asks for (log entry 215). -/
def eqBody (P : Port) (v : Nat) : List Nat :=
  (List.range 9).map fun k =>
    if P.equalising.any fun q => (P.idOf q).toNat == k then
      let x := v / 96 ^ k
      pack [(4, x % 16), (3, x / 16 % 6)]
    else 0

/-- One frame time of the equalisation: EQ_REQ at the start of each of at most 48 iterations (R47, R49). -/
def eqTick (s : State) (p : Nat) : State :=
  let P := s.port p
  if P.equalising.isEmpty then s
  else if P.eqWait = 0 && P.eqIter < 48 then
    let (v, s1) := s.fresh
    s1.modPort p fun P => { P.send 2 (eqBody P v) with eqIter := P.eqIter + 1, eqWait := eqFrames - 1 }
  else s.modPort p fun P => { P with eqWait := P.eqWait - 1 }

/-- RETURN_FRAME: one frame per block period carries the next message, or IDLE (R44 to R46). -/
def execReturnFrame (port : BitVec 7) (s : State) : Host.Outcome State Fault Refusal :=
  let p := port.toNat
  if !(s.port p).transmits then .next s
  else
    let s' := eqTick s p
    let P0 := s'.port p
    let P := if P0.frames ≥ 1023 then { P0.send 1 [] with frames := 0 } else { P0 with frames := P0.frames + 1 }
    let s0 := s'.setPort p P
    match P.txQueue with
    | m :: ms =>
      if P.unacked.length < 8 then
        let (e, s1) := chooseEff s0 p m
        let body := if m.mtype == 1 then tmWords s.nowTm else m.body ++ e.toList
        let m1 := { m with effAt := e, sends := m.sends + 1 }
        let newEff : List Effect := match m.eff, e with
          | some k, some v => if m.sends = 0 then [⟨v, k⟩] else []
          | _, _ => []
        let s2 := s1.modPort p fun P => { P with
          rseq := P.rseq + 1, txQueue := ms
          unacked := P.unacked ++ [m1]
          effects := P.effects ++ newEff }
        ok (s2.out (.frame p (returnFrame P.rseq m.mtype m.seq body)))
      else
        ok ((s0.modPort p fun P => { P with rseq := P.rseq + 1 }).out (.frame p (returnFrame P.rseq 0 0 [])))
    | [] =>
      ok ((s0.modPort p fun P => { P with rseq := P.rseq + 1 }).out (.frame p (returnFrame P.rseq 0 0 [])))

/-- MESSAGE_RESEND: 64 frame times passed with no acknowledgement; everything from the oldest
unacknowledged message onward is sent again (R45). -/
def execMessageResend (port : BitVec 7) (s : State) : Host.Outcome State Fault Refusal :=
  let p := port.toNat
  match (s.port p).unacked with
  | m :: ms =>
    if m.sends < 8 then
      ok (s.modPort p fun P => { P with txQueue := m :: ms ++ P.txQueue, unacked := [] })
    else .next s
  | [] => .next s

/-- MESSAGE_FAILURE: 64 frame times passed after the eighth sending (R45, R51, R52). -/
def execMessageFailure (port : BitVec 7) (s : State) : Host.Outcome State Fault Refusal :=
  let p := port.toNat
  match (s.port p).unacked with
  | m :: _ =>
    if 8 ≤ m.sends then ok (happen (s.modPort p fun P => { P with unacked := [] }) p .messageFail)
    else .next s
  | [] => .next s

/-- What a message's effect does at its block (R46, R50, R51). -/
def applyEffect (s : State) (p : Nat) (k : EffectKind) : State :=
  let P := s.port p
  match k with
  | .dataStart => endTraining s p
  | .rejoin m => happen s p (.rejoin m)
  | .rateSet half ds sw =>
    if !P.streams then s
    else s.modPort p fun P =>
      { P.setLanes positions fun l => { l with standby := !(ds ++ [sw]).contains l.laneId.toNat } with
        rxHalf := half, named := ds, namedSweep := sw }
  | .streamCtrl valid fmt =>
    if !P.streams then s
    else
      let s0 := if fmt != P.fmt then stopChain s p 7 P.nextBeat else s
      let leave := P.state == .warm && valid
      let s1 := s0.modPort p fun P =>
        { (if leave then P.setLanes positions fun l => if l.st == .hold then { l with st := .live } else l else P)
          with fmt := fmt, validEn := valid, liveGrant := if leave then false else P.liveGrant }
      if leave then
        setPortState s1 p (if P.halfRate then .degraded else if P.outOfUse.isEmpty then .live else .rebuild)
      else s1
  | .warmHold =>
    if P.state == .live then
      setPortState (s.modPort p fun P =>
        P.setLanes positions fun l => if l.st == .live then { l with st := .hold } else l) p .warm
    else s

/-- EFFECT_SEQ_REACHED: the block named by effect_seq arrives (R46). -/
def execEffectSeqReached (port : BitVec 7) (s : State) : Host.Outcome State Fault Refusal :=
  let p := port.toNat
  let P := s.port p
  match P.effects.filter fun e => e.atSeq == P.seqExp with
  | [] => .next s
  | es =>
    let s1 := s.modPort p fun P => { P with effects := P.effects.filter fun e => e.atSeq != P.seqExp }
    ok (es.foldl (fun s e => applyEffect s p e.kind) s1)

/-- AUTO_WARM_HOLD: patrol moves a LIVE, unarmed port to warm hold after auto_warm ms (R391, R397). -/
def execAutoWarmHold (port : BitVec 7) (s : State) : Host.Outcome State Fault Refusal :=
  let p := port.toNat
  let P := s.port p
  if P.state == .live && !P.trig.armed && fld s.pwr.cfg 16 16 != 0 then
    ok (s.modPort p fun P => P.send 9 [] (some .warmHold))
  else .next s

/-! ### Presence, sideband and the port service chains (R54 to R62) -/

/-- PRSNT_EDGE: the lodge latches an edge of PRSNT_N (R59, R318). -/
def execPrsntEdge (port : BitVec 7) (s : State) : Host.Outcome State Fault Refusal :=
  ok (driveWake (s.modPort port.toNat fun P => { P with prsntLatch := true }))

/-- PRESENCE_REPORT: the level has been stable for 10 ms (R51, R59, R63, R439). -/
def execPresenceReport (port : BitVec 7) (level : Bool) (s : State) : Host.Outcome State Fault Refusal :=
  let p := port.toNat
  let P := s.port p
  let s0 := s.modPort p fun P => { P with prsntLatch := false }
  if P.prsnt == level then
    if level || !P.ledQuar then ok s0
    else ok (happen (s0.modPort p fun P => { P with ledQuar := false }) p .presenceOff)
  else
    let s1 := s0.modPort p fun P => { P with
      prsnt := level
      slotStatus := put (put P.slotStatus 0 1 (b2n level)) 3 1 1
      slotCtrl := if !level then put P.slotCtrl 0 1 0
        else if bit P.slotCtrl 1 then put P.slotCtrl 0 1 1 else P.slotCtrl
      descRead := level && P.descRead
      dynAddr := level && P.dynAddr
      ledQuar := level && P.ledQuar }
    if level then ok (startDescRead s1 p) else ok (happen s1 p .presenceOff)

/-- An indicator's output bit: off, on, blink, off (R62, R63). -/
def indicator (code : Nat) (blink : Bool) : Bool := code == 1 || (code == 2 && blink)

/-- One port's part of a scan (R60 to R63): the bits of the previous scan reach the board, the inputs are
taken, and the new output bits are shifted out. -/
def scanPort (s : State) (p : Nat) (fault button : Bool) : State :=
  let P := s.port p
  let wasOut := P.powerOut
  let out := s.hub.pscOut.get false (3 * p)
  let edge := fault && !P.pfaultPrev
  let sleeps := decide (s.pwr.state.toNat < 2)
  let count := if button then min 3 (P.attnCount + 1) else 0
  let st0 := put (put P.slotStatus 1 1 (b2n out)) 2 1 (b2n fault)
  let st1 := if edge then put st0 5 1 1 else st0
  let pressed := count == 2 || P.attnLatch
  let st2 := if pressed && !sleeps then put st1 4 1 1 else st1
  let ctrl := if fault then put P.slotCtrl 0 1 0 else P.slotCtrl
  let s1 := s.setPort p { P with
    slotStatus := st2, slotCtrl := ctrl, pfaultPrev := fault, attnCount := count, attnLatch := pressed && sleeps
    descRead := P.descRead && out, dynAddr := P.dynAddr && out }
  let pins := ((s.hub.pscOut.set (3 * p) (bit ctrl 0)).set (3 * p + 1) (indicator (fld ctrl 2 2) s.hub.blink)).set
    (3 * p + 2) (indicator (fld ctrl 4 2) s.hub.blink)
  let s2 := s1.modHub fun H => { H with pscOut := pins }
  let s2' := if count == 2 then driveWake s2 else s2
  let s3 := if fault && P.state != .down then happen s2' p .powerFault else s2'
  let s4 := if wasOut && !out && (s3.port p).state != .down then happen s3 p .powerRemoved else s3
  if !wasOut && out then startDescRead s4 p else s4

/-- PSC_SCAN: a scan of port service chain `n` (R60 to R62). -/
def execPscScan (n : BitVec 2) (inputs : BitVec 64) (s : State) : Host.Outcome State Fault Refusal :=
  let base := 32 * n.toNat
  let s1 := forEach (List.range 32) (fun s j =>
    scanPort s (base + j) (inputs.getLsbD (2 * j)) (inputs.getLsbD (2 * j + 1))) s
  ok (s1.out (.psc n.toNat ((List.range 96).map fun i => s1.hub.pscOut.get false (3 * base + i))))

/-- INDICATOR_BLINK: blinking indicators toggle, all ports in phase (R62). -/
def execIndicatorBlink (s : State) : Host.Outcome State Fault Refusal :=
  ok (s.modHub fun H => { H with blink := !H.blink })

/-- IBIs and Hot-Joins are accepted once the boot serves ports on demand and sb_en is 1 (R56). -/
def sidebandOpen (s : State) (p : Nat) : Bool := decide (11 ≤ s.boot.step) && bit (s.port p).slotCtrl 13

/-- The answer to a request of the head that won the arbitration; a transfer of the 7128 that lost it follows
after a repeated START, unchanged (R55). -/
def answerHead (s : State) (p : Nat) (addr : BitVec 7) (joint ack : Bool) (more : Nat) : State :=
  let s1 := s.out (.sideband p ack more)
  if joint && headWins addr && (s.port p).descRead then
    (descXfers .restart).foldl (fun s x => s.out (.i3c p x)) s1
  else s1

/-- IBI_RECEIVE: an in-band interrupt is recorded and acted on by its code, or NACKed (R54 to R56, R58). -/
def execIbiReceive (port : BitVec 7) (mdb : BitVec 8) (more : List (BitVec 8)) (joint : Bool) (s : State) :
    Host.Outcome State Fault Refusal :=
  let p := port.toNat
  if !sidebandOpen s p then ok (answerHead s p headAddr joint false 0)
  else
    let s1 := answerHead (s.modPort p fun P => { P with
      ibiCount := P.ibiCount + 1, lastMdb := mdb, slotStatus := put P.slotStatus 7 1 1 }) p headAddr joint true
      (min 8 more.length)
    if mdb = 0x02 then ok (happen s1 p .headFault)
    else if mdb = 0x03 && bit (s.port p).slotCtrl 12 && (s.port p).retrainable then ok (wantTraining s1 p)
    else ok s1

/-- HOT_JOIN: the probe head lost its dynamic address; it is assigned again and the descriptor read again
(R56, R57). -/
def execHotJoin (port : BitVec 7) (joint : Bool) (s : State) : Host.Outcome State Fault Refusal :=
  let p := port.toNat
  if !sidebandOpen s p then ok (answerHead s p hotJoinAddr joint false 0)
  else
    let s1 := answerHead s p hotJoinAddr joint true 0
    if (s.port p).streams || (s.port p).state == .training then ok (happen s1 p .hotJoin)
    else ok (readHead s1 p false)

/-- A descriptor that lets a port leave DOWN (R57). -/
def descGood (d : BitVec 256) : Bool := fld d 32 8 == 1 && fld d 40 4 == 9

/-- DESCRIPTOR_READ_DONE: the head descriptor has been read, or the read failed (R51, R57). -/
def execDescriptorReadDone (port : BitVec 7) (desc : Option (BitVec 256)) (s : State) :
    Host.Outcome State Fault Refusal :=
  let p := port.toNat
  let P := s.port p
  if !P.descRead then .next s
  else
    let good := match desc with
      | some d => descGood d
      | none => false
    let s1 := s.modPort p fun P => { P with
      descRead := false, desc := if good then desc.getD 0 else P.desc }
    match P.state with
    | .down =>
      if !good then ok (s1.modPort p fun P => { P with failCode := 8, selfTrain := false })
      else if P.powerOut then
        let s2 := setPortState s1 p .powered
        ok (if P.selfTrain then wantTraining (s2.modPort p fun P => { P with selfTrain := false }) p else s2)
      else ok s1
    | .powered =>
      if good then ok s1
      else
        let s2 := portDown (s1.modPort p fun P => { P with failCode := 8 }) p
        ok (s2.modPort p fun P => { P with descRead := false })
    | _ => ok s1

end Sys2Proof.Machine
end

