-- ==== Sys2Proof/Machine/Dispatch.lean ====
section
/-! DEFINITION. The dispatch of the commands: one arm per constructor of Instr. -/
namespace Sys2Proof.Machine

def exec (i : Instr) (s : State) : Host.Outcome State Fault Refusal :=
  match i with
  | .devInfo p => Sys2Proof.Machine.execDevInfo p s
  | .devStatus p => Sys2Proof.Machine.execDevStatus p s
  | .devReset p => Sys2Proof.Machine.execDevReset p s
  | .devEcho p => Sys2Proof.Machine.execDevEcho p s
  | .partAssign p => Sys2Proof.Machine.execPartAssign p s
  | .partRelease p => Sys2Proof.Machine.execPartRelease p s
  | .partWipe p => Sys2Proof.Machine.execPartWipe p s
  | .partWindowSet p => Sys2Proof.Machine.execPartWindowSet p s
  | .partWindowInval p => Sys2Proof.Machine.execPartWindowInval p s
  | .partGet p => Sys2Proof.Machine.execPartGet p s
  | .partEvents p => Sys2Proof.Machine.execPartEvents p s
  | .portOpen p => Sys2Proof.Machine.execPortOpen p s
  | .portClose p => Sys2Proof.Machine.execPortClose p s
  | .portRetrain p => Sys2Proof.Machine.execPortRetrain p s
  | .portFmt p => Sys2Proof.Machine.execPortFmt p s
  | .portHold p => Sys2Proof.Machine.execPortHold p s
  | .portPass p => Sys2Proof.Machine.execPortPass p s
  | .portGet p => Sys2Proof.Machine.execPortGet p s
  | .gateSet p => Sys2Proof.Machine.execGateSet p s
  | .gateGet p => Sys2Proof.Machine.execGateGet p s
  | .gateTune p => Sys2Proof.Machine.execGateTune p s
  | .slalomSet p => Sys2Proof.Machine.execSlalomSet p s
  | .slalomGet p => Sys2Proof.Machine.execSlalomGet p s
  | .slalomTune p => Sys2Proof.Machine.execSlalomTune p s
  | .slalomPcsSet p => Sys2Proof.Machine.execSlalomPcsSet p s
  | .slalomPcsGet p => Sys2Proof.Machine.execSlalomPcsGet p s
  | .runSet p => Sys2Proof.Machine.execRunSet p s
  | .runGet p => Sys2Proof.Machine.execRunGet p s
  | .runArm p => Sys2Proof.Machine.execRunArm p s
  | .runDisarm p => Sys2Proof.Machine.execRunDisarm p s
  | .runRelease p => Sys2Proof.Machine.execRunRelease p s
  | .runStatus p => Sys2Proof.Machine.execRunStatus p s
  | .runMaskSet p => Sys2Proof.Machine.execRunMaskSet p s
  | .specSet p => Sys2Proof.Machine.execSpecSet p s
  | .specGet p => Sys2Proof.Machine.execSpecGet p s
  | .specStart p => Sys2Proof.Machine.execSpecStart p s
  | .specStop p => Sys2Proof.Machine.execSpecStop p s
  | .specSync p => Sys2Proof.Machine.execSpecSync p s
  | .specTune p => Sys2Proof.Machine.execSpecTune p s
  | .specCoefSet p => Sys2Proof.Machine.execSpecCoefSet p s
  | .specWindowSet p => Sys2Proof.Machine.execSpecWindowSet p s
  | .specTrigSet p => Sys2Proof.Machine.execSpecTrigSet p s
  | .specTrigTune p => Sys2Proof.Machine.execSpecTrigTune p s
  | .specMaskSet p => Sys2Proof.Machine.execSpecMaskSet p s
  | .densSet p => Sys2Proof.Machine.execDensSet p s
  | .densGet p => Sys2Proof.Machine.execDensGet p s
  | .densSnap p => Sys2Proof.Machine.execDensSnap p s
  | .densReleaseClear p => Sys2Proof.Machine.execDensReleaseClear p s
  | .densReleaseMerge p => Sys2Proof.Machine.execDensReleaseMerge p s
  | .densClear p => Sys2Proof.Machine.execDensClear p s
  | .engLoad p => Sys2Proof.Machine.execEngLoad p s
  | .engSet p => Sys2Proof.Machine.execEngSet p s
  | .engGet p => Sys2Proof.Machine.execEngGet p s
  | .engStartFresh p => Sys2Proof.Machine.execEngStartFresh p s
  | .engStartResume p => Sys2Proof.Machine.execEngStartResume p s
  | .engStop p => Sys2Proof.Machine.execEngStop p s
  | .engRingAck p => Sys2Proof.Machine.execEngRingAck p s
  | .memCfgSet p => Sys2Proof.Machine.execMemCfgSet p s
  | .memCfgGet p => Sys2Proof.Machine.execMemCfgGet p s
  | .memStatus p => Sys2Proof.Machine.execMemStatus p s
  | .memDelayGet p => Sys2Proof.Machine.execMemDelayGet p s
  | .memTest p => Sys2Proof.Machine.execMemTest p s
  | .memRetire p => Sys2Proof.Machine.execMemRetire p s
  | .dmaSet p => Sys2Proof.Machine.execDmaSet p s
  | .dmaSetTwinMask p => Sys2Proof.Machine.execDmaSetTwinMask p s
  | .dmaGet p => Sys2Proof.Machine.execDmaGet p s
  | .dmaStart p => Sys2Proof.Machine.execDmaStart p s
  | .dmaHalt p => Sys2Proof.Machine.execDmaHalt p s
  | .dmaStatus p => Sys2Proof.Machine.execDmaStatus p s
  | .cmpJob p => Sys2Proof.Machine.execCmpJob p s
  | .cmpResume p => Sys2Proof.Machine.execCmpResume p s
  | .cmpCancel p => Sys2Proof.Machine.execCmpCancel p s
  | .cmpStatus p => Sys2Proof.Machine.execCmpStatus p s
  | .sysEpochSet p => Sys2Proof.Machine.execSysEpochSet p s
  | .sysTimeGet p => Sys2Proof.Machine.execSysTimeGet p s
  | .sysTrigOutSet p => Sys2Proof.Machine.execSysTrigOutSet p s
  | .sysTrigOutGet p => Sys2Proof.Machine.execSysTrigOutGet p s
  | .sysLinkSet p => Sys2Proof.Machine.execSysLinkSet p s
  | .sysLinkStatus p => Sys2Proof.Machine.execSysLinkStatus p s
  | .sysMsgSend p => Sys2Proof.Machine.execSysMsgSend p s
  | .sysPhaseStep p => Sys2Proof.Machine.execSysPhaseStep p s
  | .pwrCapSet p => Sys2Proof.Machine.execPwrCapSet p s
  | .pwrStateSetOff p => Sys2Proof.Machine.execPwrStateSetOff p s
  | .pwrStateSetParked p => Sys2Proof.Machine.execPwrStateSetParked p s
  | .pwrStateSetReady p => Sys2Proof.Machine.execPwrStateSetReady p s
  | .pwrStatus p => Sys2Proof.Machine.execPwrStatus p s
  | .clkStatus p => Sys2Proof.Machine.execClkStatus p s
  | .monSeqSet p => Sys2Proof.Machine.execMonSeqSet p s
  | .monRead p => Sys2Proof.Machine.execMonRead p s
  | .monCalZero p => Sys2Proof.Machine.execMonCalZero p s
  | .monCalFullScale p => Sys2Proof.Machine.execMonCalFullScale p s
  | .secAttestReport p => Sys2Proof.Machine.execSecAttestReport p s
  | .secAttestCerts p => Sys2Proof.Machine.execSecAttestCerts p s
  | .secAttestCal p => Sys2Proof.Machine.execSecAttestCal p s
  | .secSessionOpen p => Sys2Proof.Machine.execSecSessionOpen p s
  | .secSessionClose p => Sys2Proof.Machine.execSecSessionClose p s
  | .secApprovedEnter p => Sys2Proof.Machine.execSecApprovedEnter p s
  | .secApprovedLeave p => Sys2Proof.Machine.execSecApprovedLeave p s
  | .secLifecycleFactory p => Sys2Proof.Machine.execSecLifecycleFactory p s
  | .secLifecycleCerts p => Sys2Proof.Machine.execSecLifecycleCerts p s
  | .secLifecycleField p => Sys2Proof.Machine.execSecLifecycleField p s
  | .secLifecycleReturn p => Sys2Proof.Machine.execSecLifecycleReturn p s
  | .secLifecycleVoid p => Sys2Proof.Machine.execSecLifecycleVoid p s
  | .secLifecycleDebugUnlock p => Sys2Proof.Machine.execSecLifecycleDebugUnlock p s
  | .secFwUpdateWrite p => Sys2Proof.Machine.execSecFwUpdateWrite p s
  | .secFwUpdateCommit p => Sys2Proof.Machine.execSecFwUpdateCommit p s
  | .secZeroise p => Sys2Proof.Machine.execSecZeroise p s
  | .secZeroiseVoid p => Sys2Proof.Machine.execSecZeroiseVoid p s
  | .secSelftest p => Sys2Proof.Machine.execSecSelftest p s
  | .secSelftestFaultInsert p => Sys2Proof.Machine.execSecSelftestFaultInsert p s
  | .secAuditRead p => Sys2Proof.Machine.execSecAuditRead p s
  | .logRead p => Sys2Proof.Machine.execLogRead p s
  | .logInfo p => Sys2Proof.Machine.execLogInfo p s
  | .diagLedgerRead p => Sys2Proof.Machine.execDiagLedgerRead p s
  | .diagLedgerClearStrike p => Sys2Proof.Machine.execDiagLedgerClearStrike p s
  | .diagLedgerClearSlot p => Sys2Proof.Machine.execDiagLedgerClearSlot p s
  | .diagInjectMismatch p => Sys2Proof.Machine.execDiagInjectMismatch p s
  | .diagInjectPersistent p => Sys2Proof.Machine.execDiagInjectPersistent p s
  | .diagInjectEngine p => Sys2Proof.Machine.execDiagInjectEngine p s
  | .diagInjectChannel p => Sys2Proof.Machine.execDiagInjectChannel p s
  | .diagInjectLaneLoss p => Sys2Proof.Machine.execDiagInjectLaneLoss p s
  | .sqTailDoorbell f v => Sys2Proof.Machine.execSqTailDoorbell f v s
  | .packetFetch p busErr => Sys2Proof.Machine.execPacketFetch p busErr s
  | .rqHeadDoorbell f v => Sys2Proof.Machine.execRqHeadDoorbell f v s
  | .qEnable f => Sys2Proof.Machine.execQEnable f s
  | .qDisable f => Sys2Proof.Machine.execQDisable f s
  | .queueDrained f => Sys2Proof.Machine.execQueueDrained f s
  | .mboxGo => Sys2Proof.Machine.execMboxGo s
  | .chutePtrWrite f v => Sys2Proof.Machine.execChutePtrWrite f v s
  | .chuteRead f lanes m => Sys2Proof.Machine.execChuteRead f lanes m s
  | .chuteWrite f bytes ep m => Sys2Proof.Machine.execChuteWrite f bytes ep m s
  | .slotCtrlWrite port v be => Sys2Proof.Machine.execSlotCtrlWrite port v be s
  | .registerWrite f off dws => Sys2Proof.Machine.execRegisterWrite f off dws s
  | .flr f => Sys2Proof.Machine.execFlr f s
  | .flrComplete f => Sys2Proof.Machine.execFlrComplete f s
  | .d3hotEntry f pmeEn => Sys2Proof.Machine.execD3hotEntry f pmeEn s
  | .d0Return f => Sys2Proof.Machine.execD0Return f s
  | .holdoffExpire g => Sys2Proof.Machine.execHoldoffExpire g s
  | .perstAAssert => Sys2Proof.Machine.execPerstAAssert s
  | .perstBAssert => Sys2Proof.Machine.execPerstBAssert s
  | .hotReset ep => Sys2Proof.Machine.execHotReset ep s
  | .linkDown ep => Sys2Proof.Machine.execLinkDown ep s
  | .powerOn b => Sys2Proof.Machine.execPowerOn b s
  | .hubPllLock => Sys2Proof.Machine.execHubPllLock s
  | .hostEndpointsUp b => Sys2Proof.Machine.execHostEndpointsUp b s
  | .packageReset cause b => Sys2Proof.Machine.execPackageReset cause b s
  | .unitReset loc => Sys2Proof.Machine.execUnitReset loc s
  | .clusterReset k => Sys2Proof.Machine.execClusterReset k s
  | .regionReset r => Sys2Proof.Machine.execRegionReset r s
  | .dieReset d => Sys2Proof.Machine.execDieReset d s
  | .wipeDone c => Sys2Proof.Machine.execWipeDone c s
  | .prsntEdge port => Sys2Proof.Machine.execPrsntEdge port s
  | .presenceReport port level => Sys2Proof.Machine.execPresenceReport port level s
  | .pscScan n inputs => Sys2Proof.Machine.execPscScan n inputs s
  | .indicatorBlink => Sys2Proof.Machine.execIndicatorBlink s
  | .ibiReceive port mdb more joint => Sys2Proof.Machine.execIbiReceive port mdb more joint s
  | .hotJoin port joint => Sys2Proof.Machine.execHotJoin port joint s
  | .blockPeriod port blocks arrivals => Sys2Proof.Machine.execBlockPeriod port blocks arrivals s
  | .laneLost port lane cause => Sys2Proof.Machine.execLaneLost port lane cause s
  | .trainingPhaseExit port m => Sys2Proof.Machine.execTrainingPhaseExit port m s
  | .trainingPhaseTimeout port lanes => Sys2Proof.Machine.execTrainingPhaseTimeout port lanes s
  | .effectSeqReached port => Sys2Proof.Machine.execEffectSeqReached port s
  | .returnFrame port => Sys2Proof.Machine.execReturnFrame port s
  | .messageResend port => Sys2Proof.Machine.execMessageResend port s
  | .messageFailure port => Sys2Proof.Machine.execMessageFailure port s
  | .autoWarmHold port => Sys2Proof.Machine.execAutoWarmHold port s
  | .armBeat port => Sys2Proof.Machine.execArmBeat port s
  | .beatDecide port => Sys2Proof.Machine.execBeatDecide port s
  | .tuneApply port => Sys2Proof.Machine.execTuneApply port s
  | .runoutEnd port => Sys2Proof.Machine.execRunoutEnd port s
  | .reArm port => Sys2Proof.Machine.execReArm port s
  | .disarmEffect port => Sys2Proof.Machine.execDisarmEffect port s
  | .directoryEntryWrite port => Sys2Proof.Machine.execDirectoryEntryWrite port s
  | .runPoisonMark port n => Sys2Proof.Machine.execRunPoisonMark port n s
  | .pcsStep n beat => Sys2Proof.Machine.execPcsStep n beat s
  | .trigInEdge input rising tm => Sys2Proof.Machine.execTrigInEdge input rising tm s
  | .evTrigInterval part => Sys2Proof.Machine.execEvTrigInterval part s
  | .frameComplete port seq => Sys2Proof.Machine.execFrameComplete port seq s
  | .densDecayStep port => Sys2Proof.Machine.execDensDecayStep port s
  | .densFreeze port => Sys2Proof.Machine.execDensFreeze port s
  | .densMergeDone port => Sys2Proof.Machine.execDensMergeDone port s
  | .syncInEdge slot => Sys2Proof.Machine.execSyncInEdge slot s
  | .epochLoadTimeout => Sys2Proof.Machine.execEpochLoadTimeout s
  | .ppsEdge tm => Sys2Proof.Machine.execPpsEdge tm s
  | .ppsMissing => Sys2Proof.Machine.execPpsMissing s
  | .iNop e bundle => Sys2Proof.Machine.execINop e bundle s
  | .iAdd e x o => Sys2Proof.Machine.execIAdd e x o s
  | .iSub e x o => Sys2Proof.Machine.execISub e x o s
  | .iAddi e x o => Sys2Proof.Machine.execIAddi e x o s
  | .iNeg e x o => Sys2Proof.Machine.execINeg e x o s
  | .iAbs e x o => Sys2Proof.Machine.execIAbs e x o s
  | .iAnd e x o => Sys2Proof.Machine.execIAnd e x o s
  | .iOr e x o => Sys2Proof.Machine.execIOr e x o s
  | .iXor e x o => Sys2Proof.Machine.execIXor e x o s
  | .iAndi e x o => Sys2Proof.Machine.execIAndi e x o s
  | .iMovi e x o => Sys2Proof.Machine.execIMovi e x o s
  | .iMov e x o => Sys2Proof.Machine.execIMov e x o s
  | .iMin e x o => Sys2Proof.Machine.execIMin e x o s
  | .iMax e x o => Sys2Proof.Machine.execIMax e x o s
  | .iShl e x o => Sys2Proof.Machine.execIShl e x o s
  | .iSar e x o => Sys2Proof.Machine.execISar e x o s
  | .iShr e x o => Sys2Proof.Machine.execIShr e x o s
  | .iShi e x o => Sys2Proof.Machine.execIShi e x o s
  | .iCmp e x o => Sys2Proof.Machine.execICmp e x o s
  | .iCmpi e x o => Sys2Proof.Machine.execICmpi e x o s
  | .iMul e x o => Sys2Proof.Machine.execIMul e x o s
  | .iDiv e x o => Sys2Proof.Machine.execIDiv e x o s
  | .iRem e x o => Sys2Proof.Machine.execIRem e x o s
  | .iPopc e x o => Sys2Proof.Machine.execIPopc e x o s
  | .iNorm e x o => Sys2Proof.Machine.execINorm e x o s
  | .iFfs e x o => Sys2Proof.Machine.execIFfs e x o s
  | .iMac e x o => Sys2Proof.Machine.execIMac e x o s
  | .iMsu e x o => Sys2Proof.Machine.execIMsu e x o s
  | .iMpa e x o => Sys2Proof.Machine.execIMpa e x o s
  | .iAclr e x o => Sys2Proof.Machine.execIAclr e x o s
  | .iAld e x o => Sys2Proof.Machine.execIAld e x o s
  | .iAadd e x o => Sys2Proof.Machine.execIAadd e x o s
  | .iAsr e x o => Sys2Proof.Machine.execIAsr e x o s
  | .iExt e x o => Sys2Proof.Machine.execIExt e x o s
  | .iLd e y o => Sys2Proof.Machine.execILd e y o s
  | .iSt e y o => Sys2Proof.Machine.execISt e y o s
  | .iLdq e y o => Sys2Proof.Machine.execILdq e y o s
  | .iStq e y o => Sys2Proof.Machine.execIStq e y o s
  | .iAxa e y o => Sys2Proof.Machine.execIAxa e y o s
  | .iMovp e y o => Sys2Proof.Machine.execIMovp e y o s
  | .iPadd e y o => Sys2Proof.Machine.execIPadd e y o s
  | .iMtp e y o => Sys2Proof.Machine.execIMtp e y o s
  | .iMfp e y o => Sys2Proof.Machine.execIMfp e y o s
  | .iB e y o => Sys2Proof.Machine.execIB e y o s
  | .iCall e y o => Sys2Proof.Machine.execICall e y o s
  | .iJr e y o => Sys2Proof.Machine.execIJr e y o s
  | .iLoop e y o => Sys2Proof.Machine.execILoop e y o s
  | .iLoopi e y o => Sys2Proof.Machine.execILoopi e y o s
  | .iSin e y o => Sys2Proof.Machine.execISin e y o s
  | .iSinq e y o => Sys2Proof.Machine.execISinq e y o s
  | .iOut e y o => Sys2Proof.Machine.execIOut e y o s
  | .iOutq e y o => Sys2Proof.Machine.execIOutq e y o s
  | .iEvt e y o => Sys2Proof.Machine.execIEvt e y o s
  | .iEvtr e y o => Sys2Proof.Machine.execIEvtr e y o s
  | .iTune e y o => Sys2Proof.Machine.execITune e y o s
  | .iSpost e y o => Sys2Proof.Machine.execISpost e y o s
  | .iSwait e y o => Sys2Proof.Machine.execISwait e y o s
  | .iFence e y o => Sys2Proof.Machine.execIFence e y o s
  | .iMtc e y o => Sys2Proof.Machine.execIMtc e y o s
  | .iMfc e y o => Sys2Proof.Machine.execIMfc e y o s
  | .iTrap e y o => Sys2Proof.Machine.execITrap e y o s
  | .iRete e y o => Sys2Proof.Machine.execIRete e y o s
  | .iHalt e y o => Sys2Proof.Machine.execIHalt e y o s
  | .engStallEnd e => Sys2Proof.Machine.execEngStallEnd e s
  | .streamElementArrive e n => Sys2Proof.Machine.execStreamElementArrive e n s
  | .engineFault e => Sys2Proof.Machine.execEngineFault e s
  | .engineRestart e => Sys2Proof.Machine.execEngineRestart e s
  | .warmSlotsEnd e => Sys2Proof.Machine.execWarmSlotsEnd e s
  | .memRequest r => Sys2Proof.Machine.execMemRequest r s
  | .memAccessComplete c idx bursts => Sys2Proof.Machine.execMemAccessComplete c idx bursts s
  | .refresh c postpone windowEnd => Sys2Proof.Machine.execRefresh c postpone windowEnd s
  | .groomerRead c age first again => Sys2Proof.Machine.execGroomerRead c age first again s
  | .scrubOverdue c => Sys2Proof.Machine.execScrubOverdue c s
  | .hammerThreshold c who => Sys2Proof.Machine.execHammerThreshold c who s
  | .throttleEnd c who => Sys2Proof.Machine.execThrottleEnd c who s
  | .rankPowerDown c rank => Sys2Proof.Machine.execRankPowerDown c rank s
  | .laneResweep c lane => Sys2Proof.Machine.execLaneResweep c lane s
  | .channelRetire c cause => Sys2Proof.Machine.execChannelRetire c cause s
  | .retirementResume c => Sys2Proof.Machine.execRetirementResume c s
  | .descFetch n bits index m => Sys2Proof.Machine.execDescFetch n bits index m s
  | .dmaReadCompletion n bytes poison m => Sys2Proof.Machine.execDmaReadCompletion n bytes poison m s
  | .followWriteCount n w => Sys2Proof.Machine.execFollowWriteCount n w s
  | .dmaWriteResponse n len => Sys2Proof.Machine.execDmaWriteResponse n len s
  | .cqHeadPoll n v => Sys2Proof.Machine.execCqHeadPoll n v s
  | .dmaBusError n write => Sys2Proof.Machine.execDmaBusError n write s
  | .dmaCompletionTimeout n write => Sys2Proof.Machine.execDmaCompletionTimeout n write s
  | .dieFabricReady d => Sys2Proof.Machine.execDieFabricReady d s
  | .cmpJobEnd k r m => Sys2Proof.Machine.execCmpJobEnd k r m s
  | .tokenGrant newWindow => Sys2Proof.Machine.execTokenGrant newWindow s
  | .tokenWaitTimeout idx => Sys2Proof.Machine.execTokenWaitTimeout idx s
  | .clusterIdleOff k => Sys2Proof.Machine.execClusterIdleOff k s
  | .dieIdleOff d => Sys2Proof.Machine.execDieIdleOff d s
  | .parkTransition => Sys2Proof.Machine.execParkTransition s
  | .wakeEdge src v parked b => Sys2Proof.Machine.execWakeEdge src v parked b s
  | .wakeTimer parked b => Sys2Proof.Machine.execWakeTimer parked b s
  | .telemetrySample mv ma p10 => Sys2Proof.Machine.execTelemetrySample mv ma p10 s
  | .temperatureRead t0 t1 t2 t3 hub => Sys2Proof.Machine.execTemperatureRead t0 t1 t2 t3 hub s
  | .monEntryDone mean mean2 => Sys2Proof.Machine.execMonEntryDone mean mean2 s
  | .urgentConversion => Sys2Proof.Machine.execUrgentConversion s
  | .environmentalFailure cause b => Sys2Proof.Machine.execEnvironmentalFailure cause b s
  | .flitReceive v flit xorOk => Sys2Proof.Machine.execFlitReceive v flit xorOk s
  | .timeTransfer v frame arrival => Sys2Proof.Machine.execTimeTransfer v frame arrival s
  | .message v frame => Sys2Proof.Machine.execMessage v frame s
  | .messageBroadcast v frame => Sys2Proof.Machine.execMessageBroadcast v frame s
  | .linkControl v frame => Sys2Proof.Machine.execLinkControl v frame s
  | .xtrigRecordEntry v => Sys2Proof.Machine.execXtrigRecordEntry v s
  | .vpLaneLost v lane => Sys2Proof.Machine.execVpLaneLost v lane s
  | .vpTrainTimeout v => Sys2Proof.Machine.execVpTrainTimeout v s
  | .vpDownRetrain v => Sys2Proof.Machine.execVpDownRetrain v s
  | .steerUpdate => Sys2Proof.Machine.execSteerUpdate s
  | .treeReform => Sys2Proof.Machine.execTreeReform s
  | .followerEpochLoad slot frac => Sys2Proof.Machine.execFollowerEpochLoad slot frac s
  | .phaseStep => Sys2Proof.Machine.execPhaseStep s
  | .refclkLossCoast refclk => Sys2Proof.Machine.execRefclkLossCoast refclk s
  | .pllLock mv => Sys2Proof.Machine.execPllLock mv s
  | .lockstepMismatch port beat => Sys2Proof.Machine.execLockstepMismatch port beat s
  | .replayCatchUp port => Sys2Proof.Machine.execReplayCatchUp port s
  | .spareTakeover port tr => Sys2Proof.Machine.execSpareTakeover port tr s
  | .heartbeatMiss core b => Sys2Proof.Machine.execHeartbeatMiss core b s
  | .watchdogBreak w => Sys2Proof.Machine.execWatchdogBreak w s
  | .d2dLinkFailure d => Sys2Proof.Machine.execD2dLinkFailure d s
  | .d2dRetrainTimeout d => Sys2Proof.Machine.execD2dRetrainTimeout d s
  | .drbgReseed ok => Sys2Proof.Machine.execDrbgReseed ok s
  | .evLog => Sys2Proof.Machine.execEvLog s
  | .vpTrainDone v delay => Sys2Proof.Machine.execVpTrainDone v delay s
  | .endpointLinkUp ep => Sys2Proof.Machine.execEndpointLinkUp ep s
  | .perstBDeassert => Sys2Proof.Machine.execPerstBDeassert s
  | .d2dLinkRetrained d => Sys2Proof.Machine.execD2dLinkRetrained d s
  | .synchronisingResetBeat port => Sys2Proof.Machine.execSynchronisingResetBeat port s
  | .engineStartBeat e => Sys2Proof.Machine.execEngineStartBeat e s
  | .descriptorReadDone port desc => Sys2Proof.Machine.execDescriptorReadDone port desc s
  | .sweepDone c r => Sys2Proof.Machine.execSweepDone c r s
  | .inOrderRecoveryEnd r => Sys2Proof.Machine.execInOrderRecoveryEnd r s
  | .containerPowerUpDone loc => Sys2Proof.Machine.execContainerPowerUpDone loc s
  | .islandOperationDone r => Sys2Proof.Machine.execIslandOperationDone r s
  | .monCalMeasurementDone raw => Sys2Proof.Machine.execMonCalMeasurementDone raw s

end Sys2Proof.Machine
end

