-- ==== Sys2Proof/WellFormed.lean ====
section
/-! DEFINITION. Which commands are well formed: the operands that the spec admits. A packet of a host
command has the lengths of R278; the data of an event have the sizes that their source gives them. -/
namespace Sys2Proof
open Sys2Proof.Machine

/-- A packet holds the bytes that R278 lays out: 1 to 64 cells, a return reference only where the
command's row gives one, the data area up to the tag, and nothing where a part is absent. The mailbox
belongs to function 0 (R298), and a referenced buffer has the length of its reference (R280). -/
def Packet.wf (p : Packet) (buffer : Bool) : Bool :=
  let start := if buffer then 48 else 32
  let tagLen := if p.auth then 48 else 0
  decide (1 ≤ p.cells.toNat) && decide (p.cells.toNat ≤ 64) &&
  decide (start + p.area.length + tagLen = 64 * p.cells.toNat) &&
  (buffer || p.ret == 0) && (p.auth || p.authTag == 0) &&
  (p.dataRef || (p.refData.isEmpty && !p.refFail)) &&
  (!p.dataRef || p.refFail || p.refData.length == le (slice p.area 8 4)) && (!p.mbox || p.fn == 0)

/-- The length of a Chute access: one TLP, of at most 4,096 byte lanes. -/
def lanesOk (n : Nat) : Bool := decide (1 ≤ n) && decide (n ≤ 4096)

/-- A sweep has a map for each of 5 lanes in each phase, and 4,096 pattern bursts in phase 3 (R261). -/
def SweepIn.wf (r : SweepIn) : Bool :=
  r.rd.length == 5 && r.wr.length == 5 && decide (r.errs ≤ 4096) && decide (r.fixedErrs ≤ 4096)

/-- The two lodge channels each have a count, channels are named 0 to 127, capture dies 0 to 3, and the steps 1
to 11 each have a time (R262, R436, R438). -/
def BootIn.wf (b : BootIn) : Bool :=
  b.lodgeErrs.length == 2 && b.sweep.wf && b.sweeps.all (fun x => decide (x.1 < 128) && x.2.wf) &&
  b.dieFail.all (fun x => decide (x < 4)) && b.times.length == 10

/-- A burst has 40 symbols (R263). -/
def BurstIn.wf (x : BurstIn) : Bool := (x.hard ++ x.soft).all fun e => decide (e.1 < 40)
def MemIn.wf (m : MemIn) : Bool := m.bursts.all BurstIn.wf

/-- A request stays within the package's byte addresses (R244). -/
def ReqIn.wf : ReqIn → Bool
  | .store _ => true
  | .dma _ _ addr len => decide (1 ≤ len) && decide (addr + len ≤ 2 ^ 39)
  | .firmware write addr data len =>
    decide (1 ≤ len) && decide (addr + len ≤ 2 ^ 39) && (if write then data.length == len else data.isEmpty)
  | .lodge write _ addr data len =>
    decide (1 ≤ len) && decide (addr + len ≤ 0x100000800) && (if write then data.length == len else data.isEmpty)

/-- A command is well formed. One arm for each constructor. -/
def Instr.wf : Instr → Bool
  | .devInfo p => p.wf false && p.opcode == 0x0101#16
  | .devStatus p => p.wf true && p.opcode == 0x0102#16
  | .devReset p => p.wf false && p.opcode == 0x0103#16
  | .devEcho p => p.wf true && p.opcode == 0x0104#16
  | .partAssign p => p.wf false && p.opcode == 0x0201#16
  | .partRelease p => p.wf false && p.opcode == 0x0202#16
  | .partWipe p => p.wf false && p.opcode == 0x0203#16
  | .partWindowSet p => p.wf false && p.opcode == 0x0204#16
  | .partWindowInval p => p.wf false && p.opcode == 0x0205#16
  | .partGet p => p.wf true && p.opcode == 0x0206#16
  | .partEvents p => p.wf false && p.opcode == 0x0207#16
  | .portOpen p => p.wf false && p.opcode == 0x0301#16
  | .portClose p => p.wf false && p.opcode == 0x0302#16
  | .portRetrain p => p.wf false && p.opcode == 0x0303#16
  | .portFmt p => p.wf false && p.opcode == 0x0304#16
  | .portHold p => p.wf false && p.opcode == 0x0305#16
  | .portPass p => p.wf false && p.opcode == 0x0306#16
  | .portGet p => p.wf true && p.opcode == 0x0307#16
  | .gateSet p => p.wf false && p.opcode == 0x0401#16
  | .gateGet p => p.wf true && p.opcode == 0x0402#16
  | .gateTune p => p.wf false && p.opcode == 0x0403#16
  | .slalomSet p => p.wf false && p.opcode == 0x0501#16
  | .slalomGet p => p.wf true && p.opcode == 0x0502#16
  | .slalomTune p => p.wf false && p.opcode == 0x0503#16
  | .slalomPcsSet p => p.wf false && p.opcode == 0x0504#16
  | .slalomPcsGet p => p.wf true && p.opcode == 0x0505#16
  | .runSet p => p.wf false && p.opcode == 0x0601#16
  | .runGet p => p.wf true && p.opcode == 0x0602#16
  | .runArm p => p.wf false && p.opcode == 0x0603#16
  | .runDisarm p => p.wf false && p.opcode == 0x0604#16
  | .runRelease p => p.wf false && p.opcode == 0x0605#16
  | .runStatus p => p.wf true && p.opcode == 0x0606#16
  | .runMaskSet p => p.wf false && p.opcode == 0x0607#16
  | .specSet p => p.wf false && p.opcode == 0x0701#16
  | .specGet p => p.wf true && p.opcode == 0x0702#16
  | .specStart p => p.wf false && p.opcode == 0x0703#16
  | .specStop p => p.wf false && p.opcode == 0x0704#16
  | .specSync p => p.wf false && p.opcode == 0x0705#16
  | .specTune p => p.wf false && p.opcode == 0x0706#16
  | .specCoefSet p => p.wf false && p.opcode == 0x0707#16
  | .specWindowSet p => p.wf false && p.opcode == 0x0708#16
  | .specTrigSet p => p.wf false && p.opcode == 0x0709#16
  | .specTrigTune p => p.wf false && p.opcode == 0x070A#16
  | .specMaskSet p => p.wf false && p.opcode == 0x070B#16
  | .densSet p => p.wf false && p.opcode == 0x0801#16
  | .densGet p => p.wf true && p.opcode == 0x0802#16
  | .densSnap p => p.wf false && p.opcode == 0x0803#16
  | .densReleaseClear p => p.wf false && p.opcode == 0x0804#16
  | .densReleaseMerge p => p.wf false && p.opcode == 0x0804#16
  | .densClear p => p.wf false && p.opcode == 0x0805#16
  | .engLoad p => p.wf false && p.opcode == 0x0901#16
  | .engSet p => p.wf false && p.opcode == 0x0902#16
  | .engGet p => p.wf true && p.opcode == 0x0903#16
  | .engStartFresh p => p.wf false && p.opcode == 0x0904#16
  | .engStartResume p => p.wf false && p.opcode == 0x0904#16
  | .engStop p => p.wf false && p.opcode == 0x0905#16
  | .engRingAck p => p.wf false && p.opcode == 0x0906#16
  | .memCfgSet p => p.wf false && p.opcode == 0x0A01#16
  | .memCfgGet p => p.wf true && p.opcode == 0x0A02#16
  | .memStatus p => p.wf true && p.opcode == 0x0A03#16
  | .memDelayGet p => p.wf true && p.opcode == 0x0A04#16
  | .memTest p => p.wf false && p.opcode == 0x0A05#16
  | .memRetire p => p.wf false && p.opcode == 0x0A06#16
  | .dmaSet p => p.wf false && p.opcode == 0x0B01#16
  | .dmaSetTwinMask p => p.wf false && p.opcode == 0x0B01#16
  | .dmaGet p => p.wf true && p.opcode == 0x0B02#16
  | .dmaStart p => p.wf false && p.opcode == 0x0B03#16
  | .dmaHalt p => p.wf false && p.opcode == 0x0B04#16
  | .dmaStatus p => p.wf true && p.opcode == 0x0B05#16
  | .cmpJob p => p.wf false && p.opcode == 0x0C01#16
  | .cmpResume p => p.wf false && p.opcode == 0x0C02#16
  | .cmpCancel p => p.wf false && p.opcode == 0x0C03#16
  | .cmpStatus p => p.wf true && p.opcode == 0x0C04#16
  | .sysEpochSet p => p.wf false && p.opcode == 0x0D01#16
  | .sysTimeGet p => p.wf false && p.opcode == 0x0D02#16
  | .sysTrigOutSet p => p.wf false && p.opcode == 0x0D03#16
  | .sysTrigOutGet p => p.wf false && p.opcode == 0x0D04#16
  | .sysLinkSet p => p.wf false && p.opcode == 0x0D05#16
  | .sysLinkStatus p => p.wf true && p.opcode == 0x0D06#16
  | .sysMsgSend p => p.wf false && p.opcode == 0x0D07#16
  | .sysPhaseStep p => p.wf false && p.opcode == 0x0D08#16
  | .pwrCapSet p => p.wf false && p.opcode == 0x0E01#16
  | .pwrStateSetOff p => p.wf false && p.opcode == 0x0E02#16
  | .pwrStateSetParked p => p.wf false && p.opcode == 0x0E02#16
  | .pwrStateSetReady p => p.wf false && p.opcode == 0x0E02#16
  | .pwrStatus p => p.wf true && p.opcode == 0x0E03#16
  | .clkStatus p => p.wf true && p.opcode == 0x0E04#16
  | .monSeqSet p => p.wf false && p.opcode == 0x0E05#16
  | .monRead p => p.wf true && p.opcode == 0x0E06#16
  | .monCalZero p => p.wf false && p.opcode == 0x0E07#16
  | .monCalFullScale p => p.wf false && p.opcode == 0x0E07#16
  | .secAttestReport p => p.wf true && p.opcode == 0x0F01#16
  | .secAttestCerts p => p.wf true && p.opcode == 0x0F01#16
  | .secAttestCal p => p.wf true && p.opcode == 0x0F01#16
  | .secSessionOpen p => p.wf true && p.opcode == 0x0F02#16
  | .secSessionClose p => p.wf true && p.opcode == 0x0F03#16
  | .secApprovedEnter p => p.wf false && p.opcode == 0x0F04#16
  | .secApprovedLeave p => p.wf false && p.opcode == 0x0F04#16
  | .secLifecycleFactory p => p.wf false && p.opcode == 0x0F05#16
  | .secLifecycleCerts p => p.wf false && p.opcode == 0x0F05#16
  | .secLifecycleField p => p.wf false && p.opcode == 0x0F05#16
  | .secLifecycleReturn p => p.wf false && p.opcode == 0x0F05#16
  | .secLifecycleVoid p => p.wf false && p.opcode == 0x0F05#16
  | .secLifecycleDebugUnlock p => p.wf false && p.opcode == 0x0F05#16
  | .secFwUpdateWrite p => p.wf false && p.opcode == 0x0F06#16
  | .secFwUpdateCommit p => p.wf false && p.opcode == 0x0F06#16
  | .secZeroise p => p.wf false && p.opcode == 0x0F07#16
  | .secZeroiseVoid p => p.wf false && p.opcode == 0x0F07#16
  | .secSelftest p => p.wf false && p.opcode == 0x0F08#16
  | .secSelftestFaultInsert p => p.wf false && p.opcode == 0x0F08#16
  | .secAuditRead p => p.wf true && p.opcode == 0x0F09#16
  | .logRead p => p.wf true && p.opcode == 0x1001#16
  | .logInfo p => p.wf false && p.opcode == 0x1002#16
  | .diagLedgerRead p => p.wf true && p.opcode == 0x1003#16
  | .diagLedgerClearStrike p => p.wf true && p.opcode == 0x1003#16
  | .diagLedgerClearSlot p => p.wf true && p.opcode == 0x1003#16
  | .diagInjectMismatch p => p.wf false && p.opcode == 0x1004#16
  | .diagInjectPersistent p => p.wf false && p.opcode == 0x1004#16
  | .diagInjectEngine p => p.wf false && p.opcode == 0x1004#16
  | .diagInjectChannel p => p.wf false && p.opcode == 0x1004#16
  | .diagInjectLaneLoss p => p.wf false && p.opcode == 0x1004#16
  | .sqTailDoorbell _ _ => true
  | .packetFetch p _ => !p.mbox && p.refData.isEmpty
  | .rqHeadDoorbell _ _ => true
  | .qEnable _ => true
  | .qDisable _ => true
  | .queueDrained _ => true
  | .mboxGo => true
  | .chutePtrWrite _ _ => true
  | .chuteRead _ lanes m => lanesOk lanes.length && m.wf
  | .chuteWrite _ bytes _ m => lanesOk bytes.length && m.wf
  | .slotCtrlWrite _ _ _ => true
  | .registerWrite _ off dws => off.toNat % 4 == 0 && decide (1 ≤ dws.length) && decide (dws.length ≤ 16)
  | .flr _ => true
  | .flrComplete _ => true
  | .d3hotEntry _ _ => true
  | .d0Return _ => true
  | .holdoffExpire _ => true
  | .perstAAssert => true
  | .perstBAssert => true
  | .hotReset _ => true
  | .linkDown _ => true
  | .powerOn b => b.wf
  | .hubPllLock => true
  | .hostEndpointsUp b => b.wf
  | .packageReset _ b => b.wf
  | .unitReset _ => true
  | .clusterReset _ => true
  | .regionReset _ => true
  | .dieReset _ => true
  | .wipeDone _ => true
  | .prsntEdge _ => true
  | .presenceReport _ _ => true
  | .pscScan _ _ => true
  | .indicatorBlink => true
  | .ibiReceive _ _ more _ => decide (more.length ≤ 8)
  | .hotJoin _ _ => true
  | .blockPeriod _ blocks _ => blocks.length == 9 && blocks.all (fun x => x.isEmpty || x.length == 1152)
  | .laneLost _ lane _ => decide (lane.toNat < 9)
  | .trainingPhaseExit _ m => m.heads.all fun x => decide (x.1 < 9)
  | .trainingPhaseTimeout _ _ => true
  | .effectSeqReached _ => true
  | .returnFrame _ => true
  | .messageResend _ => true
  | .messageFailure _ => true
  | .autoWarmHold _ => true
  | .armBeat _ => true
  | .beatDecide _ => true
  | .tuneApply _ => true
  | .runoutEnd _ => true
  | .reArm _ => true
  | .disarmEffect _ => true
  | .directoryEntryWrite _ => true
  | .runPoisonMark _ _ => true
  | .pcsStep _ _ => true
  | .trigInEdge _ _ _ => true
  | .evTrigInterval _ => true
  | .frameComplete _ _ => true
  | .densDecayStep _ => true
  | .densFreeze _ => true
  | .densMergeDone _ => true
  | .syncInEdge _ => true
  | .epochLoadTimeout => true
  | .ppsEdge _ => true
  | .ppsMissing => true
  | .iNop _ _ => true
  | .iAdd _ _ _ => true
  | .iSub _ _ _ => true
  | .iAddi _ _ _ => true
  | .iNeg _ _ _ => true
  | .iAbs _ _ _ => true
  | .iAnd _ _ _ => true
  | .iOr _ _ _ => true
  | .iXor _ _ _ => true
  | .iAndi _ _ _ => true
  | .iMovi _ _ _ => true
  | .iMov _ _ _ => true
  | .iMin _ _ _ => true
  | .iMax _ _ _ => true
  | .iShl _ _ _ => true
  | .iSar _ _ _ => true
  | .iShr _ _ _ => true
  | .iShi _ _ _ => true
  | .iCmp _ _ _ => true
  | .iCmpi _ _ _ => true
  | .iMul _ _ _ => true
  | .iDiv _ _ _ => true
  | .iRem _ _ _ => true
  | .iPopc _ _ _ => true
  | .iNorm _ _ _ => true
  | .iFfs _ _ _ => true
  | .iMac _ _ _ => true
  | .iMsu _ _ _ => true
  | .iMpa _ _ _ => true
  | .iAclr _ _ _ => true
  | .iAld _ _ _ => true
  | .iAadd _ _ _ => true
  | .iAsr _ _ _ => true
  | .iExt _ _ _ => true
  | .iLd _ _ _ => true
  | .iSt _ _ _ => true
  | .iLdq _ _ _ => true
  | .iStq _ _ _ => true
  | .iAxa _ _ _ => true
  | .iMovp _ _ _ => true
  | .iPadd _ _ _ => true
  | .iMtp _ _ _ => true
  | .iMfp _ _ _ => true
  | .iB _ _ _ => true
  | .iCall _ _ _ => true
  | .iJr _ _ _ => true
  | .iLoop _ _ _ => true
  | .iLoopi _ _ _ => true
  | .iSin _ _ _ => true
  | .iSinq _ _ _ => true
  | .iOut _ _ _ => true
  | .iOutq _ _ _ => true
  | .iEvt _ _ _ => true
  | .iEvtr _ _ _ => true
  | .iTune _ _ _ => true
  | .iSpost _ _ _ => true
  | .iSwait _ _ _ => true
  | .iFence _ _ _ => true
  | .iMtc _ _ _ => true
  | .iMfc _ _ _ => true
  | .iTrap _ _ _ => true
  | .iRete _ _ _ => true
  | .iHalt _ _ _ => true
  | .engStallEnd _ => true
  | .streamElementArrive _ _ => true
  | .engineFault _ => true
  | .engineRestart _ => true
  | .warmSlotsEnd _ => true
  | .memRequest r => r.wf
  | .memAccessComplete _ _ bursts => bursts.all BurstIn.wf
  | .refresh _ _ _ => true
  | .groomerRead _ _ first again => first.wf && again.wf
  | .scrubOverdue _ => true
  | .hammerThreshold _ _ => true
  | .throttleEnd _ _ => true
  | .rankPowerDown _ _ => true
  | .laneResweep _ lane => decide (lane.toNat < 5)
  | .channelRetire _ _ => true
  | .retirementResume _ => true
  | .descFetch _ _ _ m => m.wf
  | .dmaReadCompletion _ _ _ m => m.wf
  | .followWriteCount _ _ => true
  | .dmaWriteResponse _ len => decide (1 ≤ len)
  | .cqHeadPoll _ _ => true
  | .dmaBusError _ _ => true
  | .dmaCompletionTimeout _ _ => true
  | .dieFabricReady _ => true
  | .cmpJobEnd _ _ m => m.wf
  | .tokenGrant _ => true
  | .tokenWaitTimeout _ => true
  | .clusterIdleOff _ => true
  | .dieIdleOff _ => true
  | .parkTransition => true
  | .wakeEdge src _ _ b => decide (src.toNat < 5) && b.wf
  | .wakeTimer _ b => b.wf
  | .telemetrySample _ _ _ => true
  | .temperatureRead _ _ _ _ _ => true
  | .monEntryDone _ _ => true
  | .urgentConversion => true
  | .environmentalFailure cause b => decide (1 ≤ cause.toNat) && b.wf
  | .flitReceive _ _ _ => true
  | .timeTransfer _ _ _ => true
  | .message _ _ => true
  | .messageBroadcast _ _ => true
  | .linkControl _ _ => true
  | .xtrigRecordEntry _ => true
  | .vpLaneLost _ _ => true
  | .vpTrainTimeout _ => true
  | .vpDownRetrain _ => true
  | .steerUpdate => true
  | .treeReform => true
  | .followerEpochLoad _ _ => true
  | .phaseStep => true
  | .refclkLossCoast _ => true
  | .pllLock _ => true
  | .lockstepMismatch _ _ => true
  | .replayCatchUp _ => true
  | .spareTakeover _ _ => true
  | .heartbeatMiss _ b => b.wf
  | .watchdogBreak _ => true
  | .d2dLinkFailure _ => true
  | .d2dRetrainTimeout _ => true
  | .drbgReseed _ => true
  | .evLog => true
  | .vpTrainDone _ _ => true
  | .endpointLinkUp _ => true
  | .perstBDeassert => true
  | .d2dLinkRetrained _ => true
  | .synchronisingResetBeat _ => true
  | .engineStartBeat _ => true
  | .descriptorReadDone _ _ => true
  | .sweepDone _ r => r.wf
  | .inOrderRecoveryEnd _ => true
  | .containerPowerUpDone _ => true
  | .islandOperationDone _ => true
  | .monCalMeasurementDone _ => true

end Sys2Proof
end

