-- ==== Sys2Proof/Safety.lean ====
section
/-! DEFINITION. What the statements speak of: when a host command is ready, what a state is once a command
has been answered, which parts of the state only carry replies, and the invariant of the machine. -/
namespace Sys2Proof.Machine

/-- The command may begin, and none of the checks that every command shares fails (R287, R291, R294). -/
def Ready (c : Cmd) (p : Packet) (s : State) : Prop := begins c p s = true ∧ allChecks c p s [] [] = none

/-- Every check of a list holds. -/
def Passes (fs : List (Option Fail)) : Prop := ∀ f ∈ fs, f = none

/-- The state after the reply ST_OK with a result and return data, from a state that holds the command's
effect (R284, R287, R290). -/
def answered (c : Cmd) (p : Packet) (a : State) (result : Nat := 0) (data : List Byte := []) : State :=
  settle (drainBad 16 (conclude c p (a, .done 0 0 result data)) p.fn.toNat)

/-- The state after the reply ST_ACCEPTED: the work stands among the accepted commands (R286). -/
def acceptedAs (c : Cmd) (p : Packet) (a : State) (job : Job) (result : Nat := 0) : State :=
  settle (drainBad 16 (conclude c p (a, .accept job result)) p.fn.toNat)

/-- The state after a command that has begun and whose reply comes later. -/
def begunOnly (c : Cmd) (p : Packet) (a : State) : State :=
  settle (drainBad 16 (conclude c p (a, .wait)) p.fn.toNat)

/-- Command `i` is taken from its queue, has the effect `eff`, and is answered ST_OK with a result and return
data, in one step. -/
def Does (i : Instr) (c : Cmd) (p : Packet) (s : State) (eff : State → State) (result : Nat := 0)
    (data : List Byte := []) : Prop :=
  exec i s = .next (answered c p (eff (takePacket c p s)) result data)

/-- Command `i` is taken from its queue, has the effect `eff`, and is answered ST_ACCEPTED: its work `job`
goes on, in one step. -/
def Accepts (i : Instr) (c : Cmd) (p : Packet) (s : State) (eff : State → State) (job : Job)
    (result : Nat := 0) : Prop :=
  exec i s = .next (acceptedAs c p (eff (takePacket c p s)) job result)

/-- Command `i` is taken from its queue and has the effect `eff`; its reply is written by a later step. -/
def Starts (i : Instr) (c : Cmd) (p : Packet) (s : State) (eff : State → State) : Prop :=
  exec i s = .next (begunOnly c p (eff (takePacket c p s)))

/-- Command `i` is taken from its queue, has the effect `eff`, and is answered ST_ACCEPTED with no EV_DONE to
follow (R423), or ST_OK in the mailbox (R299), in one step. -/
def Departs (i : Instr) (c : Cmd) (p : Packet) (s : State) (eff : State → State) : Prop :=
  exec i s = .next (settle (drainBad 16 (conclude c p (eff (takePacket c p s), lifecycleReply p)) p.fn.toNat))

/-- Event `i` has the effect that leaves `a`, in one step; the interrupt controller then evaluates (R316). -/
def Becomes (i : Instr) (s a : State) : Prop := exec i s = .next (settle a)

/-- Command `i` completes in one step, in a state that has the property `good`. -/
def GivesNext (i : Instr) (s : State) (good : State → Prop) : Prop := ∃ t, exec i s = .next t ∧ good t

/-- A bundle issues and completes: the engine runs, its program holds the bundle at the pc, the bundle raises
no cause and has nothing to wait for (R205, R211, R225). -/
def MayIssue (s : State) (e : Nat) (x y : BitVec 36) : Prop :=
  (s.eng e).runs = true ∧ Tab.get 0 (s.eng e).imem (s.eng e).pc.toNat = bundleOf x y ∧
  bundleCauses (s.eng e) e x y = [] ∧ bundleWaits s e x y = false

/-- `i` is the instruction of the X slot with opcode `op` (R213), NOP apart. -/
def XInstr (op : Nat) (i : BitVec 9 → XOps → BitVec 36 → Instr) : Prop :=
  (op, i) ∈ (
  [(0x01, .iAdd), (0x02, .iSub), (0x03, .iAddi), (0x04, .iNeg), (0x05, .iAbs), (0x06, .iAnd), (0x07, .iOr),
   (0x08, .iXor), (0x09, .iAndi), (0x0A, .iMovi), (0x0B, .iMov), (0x0C, .iMin), (0x0D, .iMax),
   (0x0E, .iShl), (0x0F, .iSar), (0x10, .iShr), (0x11, .iShi), (0x12, .iCmp), (0x13, .iCmpi),
   (0x14, .iMul), (0x15, .iDiv), (0x16, .iRem), (0x17, .iPopc), (0x18, .iNorm), (0x19, .iFfs),
   (0x20, .iMac), (0x21, .iMsu), (0x22, .iMpa), (0x23, .iAclr), (0x24, .iAld), (0x25, .iAadd),
   (0x26, .iAsr), (0x27, .iExt)] : List (Nat × (BitVec 9 → XOps → BitVec 36 → Instr)))

/-- `i` is the instruction of the Y slot with opcode `op` (R213), NOP and TRAP apart. -/
def YInstr (op : Nat) (i : BitVec 9 → YOps → BitVec 36 → Instr) : Prop :=
  (op, i) ∈ (
  [(0x01, .iLd), (0x02, .iSt), (0x03, .iLdq), (0x04, .iStq), (0x05, .iAxa), (0x06, .iMovp), (0x07, .iPadd),
   (0x08, .iMtp), (0x09, .iMfp), (0x0A, .iB), (0x0B, .iCall), (0x0C, .iJr), (0x0D, .iLoop),
   (0x0E, .iLoopi), (0x0F, .iSin), (0x10, .iSinq), (0x11, .iOut), (0x12, .iOutq), (0x13, .iEvt),
   (0x14, .iEvtr), (0x15, .iTune), (0x16, .iSpost), (0x17, .iSwait), (0x18, .iFence), (0x19, .iMtc),
   (0x1A, .iMfc), (0x1C, .iRete), (0x1D, .iHalt)] : List (Nat × (BitVec 9 → YOps → BitVec 36 → Instr)))

/-- `t` differs from `s` at most where replies travel: the queues of the functions, the mailbox, the outputs
and the list of accepted commands. -/
def SameButReplies (s t : State) : Prop :=
  t = { s with
    fns := t.fns, mbox := t.mbox, outbox := t.outbox, hub := { s.hub with accepted := t.hub.accepted } }

/-- `t` differs from `s` at most in the interrupt lines of the functions and in the outputs. -/
def SameButLines (s t : State) : Prop := t = { s with fns := t.fns, outbox := t.outbox }

/-- A function but for its interrupt bookkeeping (R315, R316, R322). -/
def Fn.quiet (F : Fn) : Fn := { F with wasPending := 0, holdRun := 0, inta := false, pmeSent := false }

/-- The commands and events in whose course bytes of capture memory may change: a completed write, a Chute write,
a wipe, the output of a compression job, the loss of memory on the way to Off, and the rows that send the marks
of poisoned runs. -/
def writesMemory : Instr → Bool
  | .memAccessComplete _ _ _ | .chuteWrite _ _ _ _ | .wipeDone _ | .partWipe _ | .flr _ | .cmpJobEnd _ _ _
  | .parkTransition | .runPoisonMark _ _ | .memRetire _ | .channelRetire _ _ | .diagInjectChannel _
  | .sweepDone _ _ => true
  | _ => false

/-- The configuration rows of families 0x03 to 0x08 whose scope is one port. -/
def portRows : List (Packet → Instr) :=
  [.portFmt, .portHold, .portPass, .portGet, .gateSet, .gateGet, .gateTune, .slalomSet, .slalomGet, .slalomTune,
   .runSet, .runGet, .runRelease, .runStatus, .runMaskSet, .specSet, .specGet, .specCoefSet, .specWindowSet,
   .specTrigSet, .specTrigTune, .specMaskSet, .densSet, .densGet, .densSnap, .densReleaseClear,
   .densReleaseMerge, .densClear]

/-- The invariant: capture memory stands in its canonical form. -/
def CaptureCanonical (s : State) : Prop := Memory.wf s.mem = true

/-- The machine does not stop at a state. -/
def GoesOn (s : State) : Prop := ∃ t, step s = .next t

end Sys2Proof.Machine
end

