-- ==== Sys2Proof/Certificates/Slice0/Obligations.lean ====
section
/-! DEFINITION. The statements about the model. A statement that a row completes concludes with the state that the
row leaves: `Does`, `Accepts`, `Starts` and `Departs` for a host command, `Becomes` and `GivesNext` for an event
(Sys2Proof/Safety.lean). -/
open Sys2Proof Sys2Proof.Machine

/-- A step takes the command at the front of the queue and runs exactly it, with the rest of the queue. -/
def Obligations.StepRunsTheFrontCommand : Prop :=
  ∀ c cs s, s.pending = c :: cs → step s = exec c { s with pending := cs }

/-- R73: once the hub PLL has locked, slot_count goes on by the 64 slots of a beat on every step without a
command, and nothing a host can read moves but the counts of waiting beats: one beat for each such step is the
model's choice (log entry 5). -/
def Obligations.IdleStepIsOneBeat : Prop :=
  ∀ s, s.pending = [] → ∃ t, step s = .next t ∧
    t.time.slotCount = s.time.slotCount + (if s.time.counting then 64 else 0) ∧ t.ports = s.ports ∧
    t.engines = s.engines ∧ t.mem = s.mem ∧ t.fns = s.fns ∧ t.parts = s.parts ∧ t.hub = s.hub ∧
    t.outbox = s.outbox ∧ t.sec = s.sec ∧ t.pwr = s.pwr ∧ t.pending = []

/-- The state at reset is the package before POWER_ON: no beat counted, every port DOWN and disarmed with no lane on,
every queue DISABLED, every engine stopped, no session, no window, no waiting command, and capture memory in
canonical form. That reset stands before POWER_ON is the model's choice (log entry 1). -/
def Obligations.ResetState : Prop :=
  (let s := State.reset
   s.pending = [] ∧ s.time.slotCount = 0 ∧ s.time.fraction = 0 ∧ s.time.counting = false ∧
   (∀ p, (s.port p).state = .down ∧ (s.port p).trig.armed = false ∧ (s.port p).slotCtrl = 0x2800 ∧
     (s.port p).lostA = 0xF ∧ (s.port p).lostB = 0xF ∧ (s.port p).badBlocks = 0 ∧ (s.port p).txSeq = 1 ∧
     ∀ q, ((s.port p).lane q).st = .off) ∧
   (∀ f, (s.fn f).qState = .disabled ∧ (s.fn f).fetched = [] ∧ (s.fn f).inta = false) ∧
   (∀ e, (s.eng e).runs = false) ∧ (∀ k, (s.part k).session = none) ∧ s.sec.coSession = none ∧
   s.hub.windows = [] ∧ s.hub.accepted = [] ∧ s.mbox.ready = false) ∧
  (CaptureCanonical State.reset)

/-- Every step from a state whose capture memory is in canonical form, reachable or not, leaves it so. -/
def Obligations.EveryStepKeepsMemoryCanonical : Prop :=
  ∀ s t, CaptureCanonical s → step s = .next t → CaptureCanonical t

/-- Capture memory changes in the course of the twelve rows of `writesMemory` alone: every other command and event
leaves every byte of it as it was. -/
def Obligations.OnlyTwelveRowsChangeMemory : Prop :=
  ∀ i s t, exec i s = .next t → writesMemory i = false → t.mem = s.mem

/-- No step stops: every state has a next state, and so has every command in every state. A step takes the command at
the front of the queue and leaves the others in their order; no command adds one. -/
def Obligations.StepNeverStops : Prop :=
  ((∀ s, GoesOn s) ∧ ∀ i s, ∃ t, exec i s = .next t) ∧
  (∀ s t, step s = .next t → t.pending = s.pending.tail)

/-- R287: "A command that fails has no effect": a failing check, the first in the order of R287, ends a begun
command with its status, and the state keeps everything but the places where replies travel. An authentication
failure, which also enters the audit ring (R435), is left to the second clause: it keeps every port, every
engine, every partition and capture memory. -/
def Obligations.FailingCommandHasNoEffect : Prop :=
  (∀ c p s params state eff f, begins c p s = true → allChecks c p s params state = some f → f.status ≠ 0x31 →
    ∃ t, Cmd.run c p s params state eff = .next t ∧ SameButReplies s t) ∧
  (∀ c p s params state eff f, begins c p s = true → allChecks c p s params state = some f → f.status = 0x31 →
    ∃ t, Cmd.run c p s params state eff = .next t ∧ t.ports = s.ports ∧ t.engines = s.engines ∧
      t.parts = s.parts ∧ t.mem = s.mem ∧ t.time = s.time ∧ t.hub.windows = s.hub.windows ∧ t.pwr = s.pwr) ∧
  (∀ c p s params state eff, begins c p s = false → Cmd.run c p s params state eff = .next s) ∧
  (∀ c p s params state, (s.part p.part).wiping = true → allChecks c p s params state = some ⟨0x60, 0⟩) ∧
  (∀ c p s params state, (s.part p.part).wiping = false → s.boot.recovery = false → s.sec.error = false →
    p.reserved = 0 → p.fence = false → c.mgmt = true → p.fn ≠ 0 →
    allChecks c p s params state = some (denied 1)) ∧
  (∀ c p s params state, (s.part p.part).wiping = false → s.boot.recovery = false → s.sec.error = false →
    p.reserved = 0 → p.fence = false → c.mgmt = false → c.partField = false → p.partition ≠ p.fn →
    allChecks c p s params state = some (denied 2))

/-- An answer changes nothing but the places where replies travel, and so does ST_ACCEPTED; the reply of a
mailbox command stands in the mailbox, done, with the fields of R284. -/
def Obligations.AnAnswerOnlyReplies : Prop :=
  (∀ c p s result data, SameButReplies s (answered c p s result data)) ∧
  (∀ c p s job result, SameButReplies s (acceptedAs c p s job result)) ∧
  (∀ c p s result, p.mbox = true → s.mbox.begun = true → c.buffer = false →
    (answered c p s result []).mbox =
      { s.mbox with reply := replyEntry p.tag p.seq 0 0 result, done := true, busy := false, begun := false }) ∧
  (∀ c p s job result, (acceptedAs c p s job result).hub.accepted =
    s.hub.accepted ++ [⟨originOf p, job, false, BitVec.ofNat 128 result⟩])

/-- A configuration command of one port leaves every other port, every engine, cluster, memory channel, DMA channel
and compression engine, capture memory, time, power, the windows and the owners of the blocks as they were,
whether it completes or fails. -/
def Obligations.PortCommandFrame : Prop :=
  ∀ row ∈ portRows, ∀ p s t, exec (row p) s = .next t →
    (∀ q, q ≠ p.idx → t.port q = s.port q) ∧ t.engines = s.engines ∧ t.clusters = s.clusters ∧
    t.regions = s.regions ∧ t.dies = s.dies ∧ t.chans = s.chans ∧ t.mem = s.mem ∧ t.dma = s.dma ∧ t.cmp = s.cmp ∧
    t.pcs = s.pcs ∧ t.time = s.time ∧ t.pwr = s.pwr ∧ t.clk = s.clk ∧ t.boot = s.boot ∧ t.vach = s.vach ∧
    t.hub.windows = s.hub.windows ∧ (∀ k, t.pairOwner k = s.pairOwner k)

/-- Families 0x01 and 0x10 (R300, R301, R439, R455 to R457): DEV_INFO, DEV_STATUS, DEV_RESET, DEV_ECHO,
LOG_READ, LOG_INFO, the EV_LOG report and the three rows of DIAG_LEDGER complete, with these effects and
these answers. -/
def Obligations.DeviceAndLogCommandsComplete : Prop :=
  (∀ p s, Ready cmdDevInfo p s → Does (.devInfo p) cmdDevInfo p s id (deviceInfo s p.part)) ∧
  (∀ p s, Ready cmdDevStatus p s → s.boot.recovery = false → Does (.devStatus p) cmdDevStatus p s
    (fun a => a.modFaults fun F => { F with seen := F.faultSeq }) 0
    (bytesOf 64 (faultSummary ((takePacket cmdDevStatus p s).modFaults fun F => { F with seen := F.faultSeq })))) ∧
  (∀ p s, Ready cmdDevStatus p s → s.boot.recovery = true → Does (.devStatus p) cmdDevStatus p s id 0
    (bytesOf 64 (faultSummary (takePacket cmdDevStatus p s)))) ∧
  (∀ p s, Ready cmdDevReset p s → Does (.devReset p) cmdDevReset p s
    fun a => a.modHub fun H => { H with resetDue := some 4 }) ∧
  (∀ p s, Ready cmdDevEcho p s → p.inb 4 2 ≤ 4032 → p.inb 4 2 ≤ p.data.length →
    Does (.devEcho p) cmdDevEcho p s id 0 (p.data.take (p.inb 4 2))) ∧
  (∀ p s, Ready cmdLogRead p s → 1 ≤ p.inb 12 4 → p.inb 12 4 ≤ 1024 →
    let es := (s.faults.log.filter fun e => p.inb 4 8 ≤ fld e.bits 0 64).take (p.inb 12 4)
    Does (.logRead p) cmdLogRead p s
      (fun a => if s.boot.recovery then a else a.modFaults fun F => { F with
        log := F.log.map fun e => { e with read := e.read || es.any (·.bits == e.bits) } })
      (oldestLogged s)
      (es.flatMap fun e => bytesOf 64 e.bits.toNat)) ∧
  (∀ p s, Ready cmdLogInfo p s → Does (.logInfo p) cmdLogInfo p s id
    (pack [(64, s.faults.logSeq.toNat), (32, s.faults.log.length), (32, s.faults.logOver.toNat)])) ∧
  (∀ s, s.faults.logNew ≠ 0 → exec .evLog s = .next (settle
    (evM (s.modFaults fun F => { F with logNew := 0 }) 0x800C s.faults.logNew 0))) ∧
  (∀ p s, Ready cmdLedger p s → p.target = 0 → p.subv = 0 →
    Does (.diagLedgerRead p) cmdLedger p s id 0 (ledgerView s)) ∧
  (∀ p s, Ready cmdLedger p s → locOk p.target = true → p.target / 0x1000 = 0xB → p.subv = 1 →
    Does (.diagLedgerClearStrike p) cmdLedger p s fun a => a.modBoot fun B => { B with
      stackRecs := B.stackRecs.mod StackRec.reset p.idx fun r => { r with clear := true } }) ∧
  (∀ p s, Ready cmdLedger p s → p.target = 0 → p.subv = 2 → p.inb 4 1 ≤ 1 →
    Does (.diagLedgerClearSlot p) cmdLedger p s fun a => a.modBoot fun B => { B with
      clearSlot := B.clearSlot ++ [p.inb 4 1] })

/-- Family 0x02 (R288, R300, R429 to R432): PART_ASSIGN, PART_RELEASE, PART_WIPE, PART_WINDOW_SET,
PART_WINDOW_INVAL, PART_GET and PART_EVENTS complete, with these effects; EV_TRIG_INTERVAL ends an interval
whose last slot has passed. -/
def Obligations.PartitionCommandsComplete : Prop :=
  (∀ p s, Ready cmdPartAssign p s → Passes (spanChecks p) →
    (∀ i ∈ spanOf p, blockOwner s (p.inb 4 1) i = none ∨ blockOwner s (p.inb 4 1) i = some p.partition) →
    Does (.partAssign p) cmdPartAssign p s fun a =>
      auditSpan (forEach (spanOf p) (giveBlock (p.inb 4 1) (some p.partition)) a) p) ∧
  (∀ p s, Ready cmdPartRelease p s → Passes (spanChecks p) →
    (∀ i ∈ spanOf p, blockOwner s (p.inb 4 1) i = none ∨
      (blockOwner s (p.inb 4 1) i = some p.partition ∧ blockBusy s (p.inb 4 1) i = false)) →
    Does (.partRelease p) cmdPartRelease p s fun a =>
      auditSpan (forEach (spanOf p) (giveBlock (p.inb 4 1) none) a) p) ∧
  (∀ p s, Ready cmdPartWipe p s → partChans s p.partition.toNat = [] → wipesLeft s p.partition.toNat = false →
    exec (.partWipe p) s = .next (settle (settlePartWipe (endPartWipe
      (acceptedAs cmdPartWipe p (startPartWipe (takePacket cmdPartWipe p s) p.partition.toNat)
        (.partWipe p.partition.toNat)) p.partition.toNat 1) p.partition.toNat))) ∧
  (∀ p s, Ready cmdPartWipe p s → partChans s p.partition.toNat ≠ [] →
    Accepts (.partWipe p) cmdPartWipe p s (fun a => startPartWipe a p.partition.toNat)
      (.partWipe p.partition.toNat)) ∧
  (∀ p s, Ready cmdPartWindowSet p s → 1 ≤ p.inb 8 4 → p.inb 4 4 + p.inb 8 4 ≤ 1024 →
    16 * p.inb 8 4 ≤ p.data.length →
    (∀ e ∈ newEntries p, zeros e [(47, 17), (103, 25)] = true ∧ (winValid e = true → winShape e = true) ∧
      overlapsOther (newWindows p s) e = false) →
    (∀ i < p.inb 8 4, winValid ((newEntries p).getD i 0) = true → winValid (s.window (p.inb 4 4 + i)) = true →
      winPart (s.window (p.inb 4 4 + i)) = winPart ((newEntries p).getD i 0)) →
    takesDirty s (newWindows p s) = false →
    Does (.partWindowSet p) cmdPartWindowSet p s fun a =>
      audit (dropPrefetch (a.modHub fun H => { H with windows := newWindows p a }))
        12 p.partition.toNat 2 locPackage 0 (p.inb 4 4 + 2 ^ 32 * p.inb 8 4) 0) ∧
  (∀ p s, Ready cmdPartWindowInval p s → p.inb 4 4 + p.inb 8 4 ≤ 1024 →
    Does (.partWindowInval p) cmdPartWindowInval p s fun a =>
      let is := (List.range (p.inb 8 4)).map (p.inb 4 4 + ·)
      dropPrefetch { a with
        regions := a.regions.map fun x => (x.1, { x.2 with cache := dropCached x.2.cache is })
        dma := a.dma.map fun x => (x.1, { x.2 with cache := dropCached x.2.cache is }) }) ∧
  (∀ p s, Ready cmdPartGet p s →
    let mask := fun (n : Nat) (o : Nat → Option (BitVec 4)) =>
      (List.range n).foldl (fun m k => m + b2n (o k == some p.partition) * 2 ^ k) 0
    Does (.partGet p) cmdPartGet p s id 0 (bytesOf 32 (pack [(64, mask 64 s.pairOwner),
      (32, mask 32 s.dmaOwner), (16, mask 16 s.pcsOwner), (144, mask 144 s.lineOwner)]))) ∧
  (∀ p s, Ready cmdPartEvents p s → p.inb 8 4 ≤ 1000000 →
    Does (.partEvents p) cmdPartEvents p s fun a => a.modPart p.partition.toNat fun P => { P with
      evMask := BitVec.ofNat 32 (p.inb 4 4), evInterval := BitVec.ofNat 32 (p.inb 8 4)
      evT0 := a.time.slotCount, evIdx := 0, trigIvs := [] }) ∧
  (∀ (k : BitVec 4) (s : State), (s.part k.toNat).evInterval ≠ 0 →
    notAfter (s.part k.toNat).evT0 s.time.slotCount = true →
    ((s.part k.toNat).evIdx + 1) * trigInterval (s.part k.toNat).evInterval.toNat ≤
      slotsTo (s.part k.toNat).evT0 s.time.slotCount →
    ∃ t, exec (.evTrigInterval k) s = .next t ∧ t.part k.toNat = { s.part k.toNat with
      evIdx := (s.part k.toNat).evIdx + 1
      trigIvs := (s.part k.toNat).trigIvs.filter fun x => x.1 != (s.part k.toNat).evIdx } ∧
      t.mem = s.mem ∧ t.ports = s.ports)

/-- Family 0x03 (R43, R46, R47, R51, R57, R300): PORT_OPEN, PORT_CLOSE, PORT_RETRAIN, PORT_FMT, PORT_HOLD,
PORT_PASS and PORT_GET complete, with these effects. -/
def Obligations.PortCommandsComplete : Prop :=
  (∀ p s, Ready cmdPortOpen p s → (s.port p.idx).state = .powered → dieForbidden s (portDie p.idx) = false →
    (s.port p.idx).trig.heldOut = false → (s.die (portDie p.idx)).bootOk = true →
    Accepts (.portOpen p) cmdPortOpen p s (fun a => wantTraining a p.idx) (.portTrain p.idx)) ∧
  (∀ p s, Ready cmdPortClose p s → (s.port p.idx).trig.armed = false →
    Does (.portClose p) cmdPortClose p s fun a =>
      if (s.port p.idx).streams = true ∨ (s.port p.idx).state = .training then
        (portDown a p.idx).modPort p.idx fun Q =>
          { Q with txQueue := (s.port p.idx).txQueue, unacked := (s.port p.idx).unacked
                   txSeq := (s.port p.idx).txSeq }.send 0x0A []
      else portDown a p.idx) ∧
  (∀ p s, Ready cmdPortRetrain p s → (s.port p.idx).streams = true →
    dieForbidden s (portDie p.idx) = false →
    Accepts (.portRetrain p) cmdPortRetrain p s (fun a => wantTraining a p.idx) (.portTrain p.idx)) ∧
  (∀ p s, Ready cmdPortFmt p s → bit (s.port p.idx).desc (48 + p.inb 4 1 % 16) = true →
    (s.port p.idx).trig.armed = false → (s.port p.idx).streams = true →
    Does (.portFmt p) cmdPortFmt p s fun a => a.modPort p.idx fun P =>
      P.send 8 [p.inb 4 1 % 16 + 16 * (p.inb 4 1 / 16 % 2)]
        (some (.streamCtrl (p.inb 4 1 / 16 % 2 == 1) (BitVec.ofNat 4 (p.inb 4 1 % 16))))) ∧
  (∀ p s, Ready cmdPortHold p s → (s.port p.idx).trig.armed = false → (s.port p.idx).state = .live →
    Does (.portHold p) cmdPortHold p s fun a => a.modPort p.idx fun P => P.send 9 [] (some .warmHold)) ∧
  (∀ p s, Ready cmdPortPass p s → 1 ≤ p.inb 4 1 → p.inb 4 1 ≤ 11 → 4 * p.inb 4 1 ≤ p.data.length →
    (∀ k < p.inb 4 1, p.dat (4 * k) 4 < 2 ^ 18) → (s.port p.idx).streams = true →
    Does (.portPass p) cmdPortPass p s fun a => a.modPort p.idx fun P =>
      P.send 0x10 ((List.range (p.inb 4 1)).map fun k => p.dat (4 * k) 4)) ∧
  (∀ p s, Ready cmdPortGet p s →
    Does (.portGet p) cmdPortGet p s id 0
      ((s.port p.idx).slotRegs.flatMap (bytesOf 4) ++ bytesOf 32 (s.port p.idx).desc.toNat))

/-- The happenings of a port (R52, R56, R58, R59, R391): a lost lane, a failed message, an accepted IBI or
Hot-Join of a port that streams are kept for the end of its block period; patrol's warm hold, a resend and an
edge of PRSNT_N act at once. -/
def Obligations.PortHappeningsAreKept : Prop :=
  (∀ (p : BitVec 7) (q : BitVec 4) c s, (s.port p.toNat).streams = true → q.toNat < 9 →
    ((s.port p.toNat).lane q.toNat).usable = true →
    Becomes (.laneLost p q c) s (s.modPort p.toNat fun P => { P with
      pending := P.pending ++ [.laneLost q.toNat] })) ∧
  (∀ (p : BitVec 7) s m ms, (s.port p.toNat).unacked = m :: ms → 8 ≤ m.sends → (s.port p.toNat).streams = true →
    Becomes (.messageFailure p) s (s.modPort p.toNat fun P => { P with
      unacked := [], pending := P.pending ++ [.messageFail] })) ∧
  (∀ (p : BitVec 7) s m ms, (s.port p.toNat).unacked = m :: ms → m.sends < 8 →
    Becomes (.messageResend p) s (s.modPort p.toNat fun P => { P with
      txQueue := m :: ms ++ P.txQueue, unacked := [] })) ∧
  (∀ (p : BitVec 7) s, (s.port p.toNat).state = .live → (s.port p.toNat).trig.armed = false →
    fld s.pwr.cfg 16 16 ≠ 0 →
    Becomes (.autoWarmHold p) s (s.modPort p.toNat fun P => P.send 9 [] (some .warmHold))) ∧
  (∀ (p : BitVec 7) s, Becomes (.prsntEdge p) s
    (driveWake (s.modPort p.toNat fun P => { P with prsntLatch := true }))) ∧
  (∀ (p : BitVec 7) s, (s.port p.toNat).prsnt = true → (s.port p.toNat).streams = true →
    GivesNext (.presenceReport p false) s fun t =>
      (t.port p.toNat).prsnt = false ∧ bit (t.port p.toNat).slotCtrl 0 = false ∧
      bit (t.port p.toNat).slotStatus 3 = true ∧
      (t.port p.toNat).pending = (s.port p.toNat).pending ++ [.presenceOff]) ∧
  (∀ (p : BitVec 7) more joint s, sidebandOpen s p.toNat = true → (s.port p.toNat).streams = true →
    GivesNext (.ibiReceive p 2 more joint) s fun t =>
      (t.port p.toNat).lastMdb = 2 ∧ (t.port p.toNat).ibiCount = (s.port p.toNat).ibiCount + 1 ∧
      bit (t.port p.toNat).slotStatus 7 = true ∧
      (t.port p.toNat).pending = (s.port p.toNat).pending ++ [.headFault]) ∧
  (∀ (p : BitVec 7) joint s, sidebandOpen s p.toNat = true → (s.port p.toNat).streams = true →
    GivesNext (.hotJoin p joint) s fun t =>
      (t.port p.toNat).pending = (s.port p.toNat).pending ++ [.hotJoin])

/-- BLOCK_PERIOD, RETURN_FRAME and EFFECT_SEQ_REACHED (R38, R44, R45, R46, R50, R51): a block period whose
lanes are all good gives fifteen beats and changes no state; a frame carries the oldest message, or IDLE; the
warm hold and its end take place at their block.
TRAINING_PHASE_EXIT and TRAINING_PHASE_TIMEOUT (R47, R50): phases 1 to 4 follow one another, phase 3
once its lanes have block lock, with their lanes in ACQUIRE and HUNT; a training in which three or more lanes are LOST makes the port QUARANTINED, with
the fail_code of its phase and a failure in the ledger; with fewer, the lanes that missed the limit are LOST
and the training goes on.
DESCRIPTOR_READ_DONE, PRESENCE_REPORT, PSC_SCAN and INDICATOR_BLINK (R51, R57, R59, R60, R61, R63): a
good descriptor takes a DOWN port to POWERED, and a failing read leaves it DOWN with fail_code 8; presence and
power faults enter SLOT_STATUS. -/
def Obligations.PortEventsComplete : Prop :=
  ((∀ (p : BitVec 7) (bs : List (List (BitVec 2))) (as : List (Nat × Int)) s, (s.port p.toNat).streams = true →
     (s.port p.toNat).pending = [] →
     (∀ q < 9, ((s.port p.toNat).lane q).usable = true ∨ ((s.port p.toNat).lane q).st = .block →
       ((readBlocks (s.port p.toNat) bs as).getD q noBlock).good = true) →
     GivesNext (.blockPeriod p bs as) s fun t =>
       let P := s.port p.toNat
       let rd := readBlocks P bs as
       let d := if P.rxHalf then decidePeriod P rd P.named P.namedSweep else decidePeriod P rd (List.range 8) 8
       (t.port p.toNat).state = P.state ∧ (t.port p.toNat).seqExp = P.seqExp + 1 ∧
       (t.port p.toNat).nextBeat = P.nextBeat + 960 ∧
       (t.port p.toNat).deskew = P.deskew ++
         periodBeats P.nextBeat (d.words.getD []) (periodCause P d != 0) (periodCause P d) P.rxHalf) ∧
   (∀ (p : BitVec 7) s, (s.port p.toNat).transmits = true → (s.port p.toNat).equalising = [] →
     (s.port p.toNat).frames < 1023 → (s.port p.toNat).txQueue = [] →
     Becomes (.returnFrame p) s ((s.modPort p.toNat fun P => { P with frames := P.frames + 1, rseq := P.rseq + 1 }).out
       (.frame p.toNat (returnFrame (s.port p.toNat).rseq 0 0 [])))) ∧
   (∀ (p : BitVec 7) s m ms, (s.port p.toNat).transmits = true → (s.port p.toNat).equalising = [] →
     (s.port p.toNat).frames < 1023 → (s.port p.toNat).txQueue = m :: ms → (s.port p.toNat).unacked.length < 8 → m.eff = none → m.mtype ≠ 1 →
     (s.port p.toNat).streams = true →
     GivesNext (.returnFrame p) s fun t =>
       (t.port p.toNat).txQueue = ms ∧
       (t.port p.toNat).unacked = (s.port p.toNat).unacked ++ [{ m with effAt := none, sends := m.sends + 1 }] ∧
       (t.port p.toNat).rseq = (s.port p.toNat).rseq + 1) ∧
   (∀ (p : BitVec 7) s, (s.port p.toNat).effects = [⟨(s.port p.toNat).seqExp, .warmHold⟩] →
     (s.port p.toNat).state = .live →
     GivesNext (.effectSeqReached p) s fun t =>
       (t.port p.toNat).state = .warm ∧ bit (t.port p.toNat).slotStatus 6 = true ∧
       (t.port p.toNat).effects = [] ∧
       ∀ q < 9, ((s.port p.toNat).lane q).st = .live → ((t.port p.toNat).lane q).st = .hold) ∧
   (∀ (p : BitVec 7) s f, (s.port p.toNat).effects = [⟨(s.port p.toNat).seqExp, .streamCtrl true f⟩] →
     (s.port p.toNat).state = .warm → (s.port p.toNat).fmt = f →
     GivesNext (.effectSeqReached p) s fun t =>
       (t.port p.toNat).validEn = true ∧
       (t.port p.toNat).halfRate = (s.port p.toNat).halfRate ∧
       ((s.port p.toNat).halfRate = true → (t.port p.toNat).state = .degraded) ∧
       (((s.port p.toNat).halfRate = false ∧ ∀ q < 9, ((s.port p.toNat).lane q).usable = true) →
         (t.port p.toNat).state = .live))) ∧
  ((∀ (p : BitVec 7) (m : TrainIn) s t, (s.port p.toNat).training = some t → m.failed = [] →
     t.failed.length ≤ 2 → 1 ≤ t.phase → t.phase ≤ 4 →
     (t.phase = 3 → locksOf m (positions.filter fun q => !t.failed.contains q) ≠ none) →
     GivesNext (.trainingPhaseExit p m) s fun u =>
       (u.port p.toNat).training = some { t with phase := t.phase + 1 } ∧
       (t.phase = 1 → ∀ q < 9, ((u.port p.toNat).lane q).st = .acquire) ∧
       (t.phase = 2 → ∀ q < 9, q ∉ t.failed → ((u.port p.toNat).lane q).st = .hunt)) ∧
   (∀ (p : BitVec 7) (ls : List (BitVec 4)) s t, (s.port p.toNat).training = some t →
     GivesNext (.trainingPhaseTimeout p ls) s fun u =>
       let new := ((ls.map (·.toNat)).filter fun q => decide (q < 9) && !t.failed.contains q).eraseDups
       let n := t.failed.length + new.length
       if 3 ≤ n ∨ t.phase = 1 then
         (u.port p.toNat).state = .quarantined ∧ (u.port p.toNat).training = none ∧
         (u.port p.toNat).failCode = BitVec.ofNat 4 (phaseFail t.phase (decide (n = 9))) ∧
         (u.port p.toNat).ledFails = satInc (s.port p.toNat).ledFails
       else
         (u.port p.toNat).state = (s.port p.toNat).state ∧
         (u.port p.toNat).training = some { t with failed := t.failed ++ new } ∧
         ∀ q ∈ new, ((u.port p.toNat).lane q).st = .lost)) ∧
  ((∀ (p : BitVec 7) d s, (s.port p.toNat).descRead = true → (s.port p.toNat).state = .down →
     (s.port p.toNat).powerOut = true → (s.port p.toNat).selfTrain = false → descGood d = true →
     GivesNext (.descriptorReadDone p (some d)) s fun t =>
       (t.port p.toNat).state = .powered ∧ (t.port p.toNat).desc = d ∧ (t.port p.toNat).descRead = false ∧
       (t.port p.toNat).badBlocks = 0 ∧ (t.port p.toNat).gapBlocks = 0 ∧
       bit (t.port p.toNat).slotStatus 6 = true) ∧
   (∀ (p : BitVec 7) s, (s.port p.toNat).descRead = true → (s.port p.toNat).state = .down →
     Becomes (.descriptorReadDone p none) s
       (s.modPort p.toNat fun P => { P with descRead := false, failCode := 8, selfTrain := false })) ∧
   (∀ (p : BitVec 7) s, (s.port p.toNat).prsnt = false →
     GivesNext (.presenceReport p true) s fun t =>
       (t.port p.toNat).prsnt = true ∧ bit (t.port p.toNat).slotStatus 0 = true ∧
       bit (t.port p.toNat).slotStatus 3 = true ∧
       (bit (s.port p.toNat).slotCtrl 1 = true → bit (t.port p.toNat).slotCtrl 0 = true)) ∧
   (∀ (n : BitVec 2) (inputs : BitVec 64) s,
     (∀ j < 32, (s.port (32 * n.toNat + j)).streams = true) →
     GivesNext (.pscScan n inputs) s fun t => ∀ j < 32,
       (t.port (32 * n.toNat + j)).pfaultPrev = inputs.getLsbD (2 * j) ∧
       bit (t.port (32 * n.toNat + j)).slotStatus 2 = inputs.getLsbD (2 * j) ∧
       (inputs.getLsbD (2 * j) = true → bit (t.port (32 * n.toNat + j)).slotCtrl 0 = false) ∧
       (inputs.getLsbD (2 * j) = true → (s.port (32 * n.toNat + j)).pfaultPrev = false →
         bit (t.port (32 * n.toNat + j)).slotStatus 5 = true)) ∧
   (∀ s, Becomes .indicatorBlink s (s.modHub fun H => { H with blink := !H.blink })))

/-- R39 and R40: with exactly one data lane bad and the sweep lane good, the payload of the bad lane is rebuilt
as the XOR of the sweep lane and the other data lanes: it is the payload that was sent. -/
def Obligations.SweepLaneRebuildsAnyLane : Prop :=
  ∀ (sent : List (List (BitVec 18))) (n k : Nat), (∀ w ∈ sent, w.length = n) → k < sent.length →
    let sweep := sent.foldl xorWords (List.replicate n 0)
    rebuildLanes (sent.mapIdx fun i w => if i = k then none else some w) sweep = sent

/-- R36 and R44: descrambling what has been scrambled gives the words back, and every return-lane frame has
sixteen words. -/
def Obligations.LineCodeTurnsBack : Prop :=
  (∀ (ws : List (BitVec 18)) (st : BitVec 31), scramble (scramble ws st) st = ws) ∧
  (∀ (rseq : BitVec 18) (ty : BitVec 5) (seq : BitVec 8) (body : List (BitVec 18)), body.length ≤ 11 →
    (returnFrame rseq ty seq body).length = 16)

/-- Families 0x04 and 0x05 (R86, R87, R103, R106, R110, R125, R126, R128, R129): GATE_SET, GATE_GET, GATE_TUNE,
SLALOM_SET, SLALOM_GET, SLALOM_TUNE, SLALOM_PCS_SET and SLALOM_PCS_GET complete, with these effects. A tune
joins the port's queue for slot 0 of a later beat, and its reply names the beat. -/
def Obligations.GateAndSlalomCommandsComplete : Prop :=
  (∀ p s, Ready cmdGateSet p s → p.subv < 32 → gateOk (p.blk 512) = true →
    gateLinks (s.port p.idx) (p.blk 512) = true → gateOwned s p.fn (p.blk 512) = true →
    (s.port p.idx).trig.armed = false →
    Does (.gateSet p) cmdGateSet p s fun a => a.modPort p.idx fun P => { P with
      trig := { P.trig with gates := P.trig.gates.set p.subv (p.blk 512) } }) ∧
  (∀ p s, Ready cmdGateGet p s → p.subv < 32 →
    Does (.gateGet p) cmdGateGet p s id 0 (bytesOf 64 ((s.port p.idx).gate p.subv).toNat ++
      bytesOf 8 (((s.port p.idx).gateSt p.subv).hits.toNat + 2 ^ 48 * b2n ((s.port p.idx).gateSt p.subv).sat))) ∧
  (∀ p s, Ready cmdGateTune p s → p.subv < 32 →
    gateOk (tunedGate (s.port p.idx) p.subv (p.dat 0 48)) = true → (s.port p.idx).trig.armed = true →
    Does (.gateTune p) cmdGateTune p s (fun a => a.modPort p.idx fun P => { P with
      trig := { P.trig with tunes := P.trig.tunes ++ [⟨some p.subv, p.dat 0 48, nextBeatOf s p.idx⟩] } })
      (s.tmOf (nextBeatOf s p.idx)).toNat) ∧
  (∀ p s, Ready cmdSlalomSet p s → slalomOk (p.blk 10752) = true → (s.port p.idx).trig.armed = false →
    Does (.slalomSet p) cmdSlalomSet p s fun a => a.modPort p.idx fun P => { P with
      trig := { P.trig with table := p.blk 10752 } }) ∧
  (∀ p s, Ready cmdSlalomGet p s → p.subv = 0 →
    Does (.slalomGet p) cmdSlalomGet p s id 0 (bytesOf 1344 (s.port p.idx).trig.table.toNat)) ∧
  (∀ p s, Ready cmdSlalomGet p s → p.subv = 1 →
    Does (.slalomGet p) cmdSlalomGet p s id (s.tmOf (slalomBeatOf s p.idx)).toNat (bytesOf 64 (slalomStatus (s.port p.idx)))) ∧
  (∀ p s, Ready cmdSlalomTune p s → (s.port p.idx).trig.armed = true →
    Does (.slalomTune p) cmdSlalomTune p s (fun a => a.modPort p.idx fun P => { P with
      trig := { P.trig with tunes := P.trig.tunes ++ [⟨none, p.dat 0 36, nextBeatOf s p.idx⟩] } })
      (s.tmOf (nextBeatOf s p.idx)).toNat) ∧
  (∀ p s, Ready cmdSlalomPcsSet p s → p.subv < 16 → pcsOk (p.blk 3072) = true →
    s.pcsOwner p.subv = some p.fn → pcsOwned s p.fn (p.blk 3072) = true →
    ((s.seqr p.subv).en = false ∨ bit (p.blk 3072) 359 = false) →
    Does (.slalomPcsSet p) cmdSlalomPcsSet p s fun a => a.modSeqr p.subv fun _ => { Pcs.reset with
      table := p.blk 3072, st := fbv (p.blk 3072) 352 3, beat := a.time.slotCount + 64 }) ∧
  (∀ p s, Ready cmdSlalomPcsGet p s → p.subv < 16 → s.pcsOwner p.subv = some p.fn →
    Does (.slalomPcsGet p) cmdSlalomPcsGet p s id 0 (bytesOf 384 (s.seqr p.subv).table.toNat))

/-- R115: "When several branches are true in one slot, the lowest-numbered true branch is taken and no other branch
has any effect": the taken branch alone decides the next state, the counters and timers, the store qualification
and whether the slot triggers; with no true branch the state is kept. br_true and gate_hits of the slot's event
word hold every true branch and every hit. -/
def Obligations.LowestTrueBranchIsTaken : Prop :=
  (∀ (T : Slalom) (c : SlalomCore) (slot : Slot) (row b : Nat), b < 4 →
    let c0 := if c.gapSeen && T.gapPolicy then slalomRestart T c else c
    branchTrue T c0 row (T.branch c0.st.toNat b) = true →
    (∀ a < b, branchTrue T c0 row (T.branch c0.st.toNat a) = false) →
    let br : Branch := T.branch c0.st.toNat b
    let h := huntSlot T c slot row
    h.taken = some (b, br) ∧ h.core.st = BitVec.ofNat 4 br.next ∧
    h.core.store = ((c0.store || br.storeOn) && !br.storeOff) ∧
    h.core.phase = (if br.trigger then .runout else c.phase) ∧ (br.trigger = true → h.core.trig = slot) ∧
    (∀ k < 4, h.core.ctr.getD k 0 = counterStep
      (bit (T.control c0.st.toNat) (8 * k + 7) && row.testBit (fld (T.control c0.st.toNat) (8 * k) 5))
      (br.cntOp k) (c0.ctr.getD k 0)) ∧
    (∀ n < 2, (h.core.tmr.getD n 0, h.core.run.getD n false) =
      timerStep (br.tmrOp n) (c0.tmr.getD n 0) (c0.run.getD n false)) ∧
    ∀ k < 4, h.brTrue.testBit k = branchTrue T c0 row (T.branch c0.st.toNat k)) ∧
  (∀ (T : Slalom) (c : SlalomCore) (slot : Slot) (row : Nat),
    let c0 := if c.gapSeen && T.gapPolicy then slalomRestart T c else c
    (∀ a < 4, branchTrue T c0 row (T.branch c0.st.toNat a) = false) →
    let h := huntSlot T c slot row
    h.taken = none ∧ h.brTrue = 0 ∧ h.core.st = c0.st ∧ h.core.store = c0.store ∧ h.core.phase = c.phase) ∧
  (∀ from' to' brTrue taken row, from' < 16 → to' < 16 → brTrue < 16 → row < 2 ^ 32 →
    (∀ x, taken = some x → x.1 < 4) →
    eventBody from' to' brTrue taken row / 2 ^ 8 % 16 = brTrue ∧
    eventBody from' to' brTrue taken row / 2 ^ 22 % 2 ^ 32 = row)

/-- R116: "A count-source hit and the branch's counter operation in the same slot both apply, the hit first": an
increment then adds 2, a decrement leaves the value, a clear leaves 0. The count source is that of the state the
slot began in; the counter-reached operand of a slot reads the count at the slot's start; a counter stops at
2^48 − 1 and sets its ctr_sat bit. -/
def Obligations.CounterRules : Prop :=
  (∀ v, v + 2 < 2 ^ 48 → counterStep true 2 v = v + 2) ∧ (∀ v, v + 1 < 2 ^ 48 → counterStep true 3 v = v) ∧
  (∀ v, counterStep true 1 v = 0) ∧
  (∀ (T : Slalom) (c : SlalomCore) (slot : Slot) (row k : Nat), k < 4 →
    let c0 := if c.gapSeen && T.gapPolicy then slalomRestart T c else c
    let h := huntSlot T c slot row
    let op := match h.taken with
      | some t => t.2.cntOp k
      | none => 0
    h.core.ctr.getD k 0 = counterStep
      (bit (T.control c0.st.toNat) (8 * k + 7) && row.testBit (fld (T.control c0.st.toNat) (8 * k) 5)) op
      (c0.ctr.getD k 0) ∧
    h.core.ctrSat.getD k false = (c.ctrSat.getD k false || h.core.ctr.getD k 0 == 2 ^ 48 - 1)) ∧
  (∀ (T : Slalom) (c : SlalomCore) (row k : Nat), k < 4 →
    operand T c row (0x20 + k) = decide (T.ctrThr k ≤ c.ctr.getD k 0)) ∧
  (∀ hit op v, op < 4 → v < 2 ^ 48 → counterStep hit op v < 2 ^ 48) ∧
  counterStep true 0 (2 ^ 48 - 1) = 2 ^ 48 - 1 ∧ counterStep false 2 (2 ^ 48 - 1) = 2 ^ 48 - 1

/-- R117: "A timer started in slot s reads k at the start of slot s + k": its reached operand is then first true
in slot s + limit. A stopped timer holds its value, and a later start clears it; a timer saturates at 2^48 − 1 and
stays reached; and no timer, and nothing else of the slalom, advances in a beat of lost slots (R120). -/
def Obligations.TimerRules : Prop :=
  (∀ (v : Nat) (run : Bool) (k : Nat), 1 ≤ k → k < 2 ^ 48 →
    (fun x : Nat × Bool => timerStep 0 x.1 x.2)^[k - 1] (timerStep 1 v run) = (k, true)) ∧
  (∀ (T : Slalom) (c : SlalomCore) (row n : Nat), n < 2 →
    operand T c row (0x24 + n) = decide (T.tmrLim n ≤ c.tmr.getD n 0)) ∧
  (∀ (v k : Nat) (run : Bool),
    (fun x : Nat × Bool => timerStep 0 x.1 x.2)^[k] (timerStep 2 v run) = (v, false)) ∧
  (∀ v, timerStep 1 v false = (1, true)) ∧
  (∀ k, (fun x : Nat × Bool => timerStep 0 x.1 x.2)^[k] (2 ^ 48 - 1, true) = (2 ^ 48 - 1, true)) ∧
  (∀ (T : Slalom) (n : Nat), T.tmrLim n ≤ 2 ^ 48 - 1) ∧
  (∀ (T : Slalom) (c : SlalomCore) (base : Slot) (hits : List (BitVec 64)), c.phase = .hunt →
    let b := slalomBeat T c base true hits
    b.core = { c with gapSeen := true } ∧ b.events = [] ∧ b.xtrig = none ∧ b.trig = none)

/-- R89: a pattern gate hits in every slot of a visible sample whose view agrees with val under msk, and in no
other slot. -/
def Obligations.PatternGateHitsTheWholeSample : Prop :=
  ∀ (g : Gate) (st : GateSt) (x : Samp) (j : Nat), g.type = 1 → j < 64 → x.pos + x.len ≤ 64 →
    (logicSample g st x).2.getLsbD j =
      (decide ((x.view ^^^ g.val) &&& g.msk = 0) && decide (x.pos ≤ j) && decide (j < x.pos + x.len))

/-- PCS_STEP, TRIG_IN_EDGE, TUNE_APPLY, ARM_BEAT, RE_ARM, RUNOUT_END, DISARM_EFFECT and BEAT_DECIDE complete
(R99, R103, R112, R113, R114, R120, R122 to R124, R130). -/
def Obligations.TriggerEventsComplete : Prop :=
  (∀ (n : BitVec 4) (b : BitVec 64) s, (s.seqr n.toNat).en = true → (s.seqr n.toNat).beat = b →
    pcsReady s (s.seqr n.toNat) b = true → (pcsStep (s.seqr n.toNat) b).2 = none →
    Becomes (.pcsStep n b) s (s.modSeqr n.toNat fun q => (pcsStep q b).1)) ∧
  (∀ (n : BitVec 4) (b : BitVec 64) s j, (s.seqr n.toNat).en = true → (s.seqr n.toNat).beat = b →
    pcsReady s (s.seqr n.toNat) b = true → (pcsStep (s.seqr n.toNat) b).2 = some j →
    Becomes (.pcsStep n b) s (seqrFires (s.modSeqr n.toNat fun q => (pcsStep q b).1) n.toNat
      (b + BitVec.ofNat 64 j))) ∧
  (∀ i r tm s, Becomes (.trigInEdge i r tm) s (edgeFires s (b2n i) r (fbv tm 8 64))) ∧
  (∀ (p : BitVec 7) s t, (s.port p.toNat).trig.tunes = [t] → (s.port p.toNat).due t.effect = true →
    Becomes (.tuneApply p) s (s.modPort p.toNat fun P => { P with
      trig := { applyTune P.trig t with tunes := [] } })) ∧
  (∀ (p : BitVec 7) s a, (s.port p.toNat).trig.armBeat = some a → (s.port p.toNat).due a = true →
    (s.port p.toNat).trig.disarmAt = none →
    GivesNext (.armBeat p) s fun t =>
      let c := (t.port p.toNat).trig.sl
      c.phase = .hunt ∧ c.st = BitVec.ofNat 4 (Slalom.startState (s.port p.toNat).trig.table) ∧
      c.store = Slalom.storeInit (s.port p.toNat).trig.table ∧ c.ctr = [0, 0, 0, 0] ∧ c.tmr = [0, 0] ∧
      c.run = [false, false] ∧ c.first = true ∧ (t.port p.toNat).trig.firstHunt = a ∧
      (t.port p.toNat).trig.armBeat = none) ∧
  (∀ (p : BitVec 7) s, (s.port p.toNat).trig.sl.phase = .lift →
    (s.port p.toNat).due (s.port p.toNat).trig.sl.liftEnd = true → (s.port p.toNat).trig.fenced = none →
    GivesNext (.reArm p) s fun t =>
      let c := (t.port p.toNat).trig.sl
      let T := (s.port p.toNat).trig.table
      c.phase = .hunt ∧ c.st = BitVec.ofNat 4 (Slalom.startState T) ∧ c.store = Slalom.storeInit T ∧
      c.tmr = [0, 0] ∧ c.run = [false, false] ∧ c.first = true ∧
      (∀ k < 4, c.ctr.getD k 0 =
        if Slalom.ctrKeep T k then (s.port p.toNat).trig.sl.ctr.getD k 0 else 0) ∧
      (t.port p.toNat).trig.firstHunt = (s.port p.toNat).trig.sl.liftEnd) ∧
  (∀ (p : BitVec 7) s, (s.port p.toNat).ended (s.port p.toNat).pos = true →
    (s.port p.toNat).trig.fenced = none → (s.port p.toNat).trig.stopCause = none →
    (s.port p.toNat).run.fillsDir = false →
    Becomes (.runoutEnd p) s ((closeRun s p.toNat (runLast (s.port p.toNat)) false).modPort p.toNat
      fun P => { P with trig := { P.trig with
        sl := { P.trig.sl with
          phase := .lift
          liftEnd := beatSlot ((s.port p.toNat).trig.sl.trig + BitVec.ofNat 64
            ((runoutLen (s.port p.toNat).trig.table (s.port p.toNat).trig.sl
              (RunCfg.post (s.port p.toNat).run.cfg)).getD 0)) +
            beats (Slalom.liftBeats P.trig.table + 1) } } })) ∧
  (∀ (p : BitVec 7) s d, (s.port p.toNat).trig.disarmAt = some d → (s.port p.toNat).due d = true →
    (s.port p.toNat).ended d = false → (s.port p.toNat).trig.sl.phase ≠ .runout →
    (s.port p.toNat).run.refused = none →
    Becomes (.disarmEffect p) s
      (followEnd (goIdle (offerRecs (endGap s p.toNat) p.toNat d) p.toNat) p.toNat)) ∧
  (∀ (p : BitVec 7) s b bs, (s.port p.toNat).deskew = b :: bs → (s.port p.toNat).blocked b.slot = false →
    (s.port p.toNat).trig.sl.phase = .idle → (s.port p.toNat).trig.armed = false → b.lost = false →
    ((s.port p.toNat).wouldStore b.slot && (s.port p.toNat).drops) = false →
    Becomes (.beatDecide p) s (offerSamples (chainBeat (popBeat s p.toNat) p.toNat b none).1 p.toNat b 0)) ∧
  (∀ (p : BitVec 7) s b bs, (s.port p.toNat).deskew = b :: bs → (s.port p.toNat).blocked b.slot = false →
    (s.port p.toNat).trig.sl.phase = .idle → (s.port p.toNat).trig.armed = false → b.lost = true →
    Becomes (.beatDecide p) s (offerGap (chainBeat (popBeat s p.toNat) p.toNat b (some b.cause)).1 p.toNat 1)) ∧
  (∀ (p : BitVec 7) s b bs, (s.port p.toNat).deskew = b :: bs → (s.port p.toNat).blocked b.slot = false →
    (s.port p.toNat).trig.heldOut = false → (s.port p.toNat).trig.sl.phase ≠ .idle → b.lost = true →
    Becomes (.beatDecide p) s (loseBeat
      (offerGap (chainBeat (popBeat s p.toNat) p.toNat b (some b.cause)).1 p.toNat 1) p.toNat b false)) ∧
  (∀ (p : BitVec 7) s b bs, (s.port p.toNat).deskew = b :: bs → (s.port p.toNat).blocked b.slot = false →
    (s.port p.toNat).trig.heldOut = false → (s.port p.toNat).trig.sl.phase ≠ .idle → b.lost = false →
    (s.port p.toNat).wouldStore b.slot = false →
    let r := chainBeat (popBeat s p.toNat) p.toNat b none
    Becomes (.beatDecide p) s (keepBeat r.1 p.toNat b (s.port p.toNat).chain.inEffect r.2))

/-- Family 0x06 (R112, R113, R133, R147, R156, R160, R161): RUN_SET, RUN_GET, RUN_ARM, RUN_DISARM, RUN_RELEASE,
RUN_STATUS and RUN_MASK_SET complete, with these effects. RUN_ARM arms the ports of its mask for one beat, when
the checks of R161 hold in their order and no port of the mask is WARM. -/
def Obligations.RunCommandsComplete : Prop :=
  (∀ p s, Ready cmdRunSet p s → runCfgOk (p.blk 512) = true → (s.port p.idx).trig.armed = false →
    Does (.runSet p) cmdRunSet p s fun a => a.modPort p.idx fun P => { P with
      run := { P.run with
        cfg := p.blk 512, nextSeq := 0, relSeq := 0
        closing := P.run.closing.map fun x => { x with live := false } } }) ∧
  (∀ p s, Ready cmdRunGet p s →
    Does (.runGet p) cmdRunGet p s id 0 (bytesOf 64 (s.port p.idx).run.cfg.toNat)) ∧
  (∀ p s, Ready cmdRunArm p s → maskPorts p ≠ [] → beatFieldOk p 0 = true →
    Passes (armChecks p s (loadBeat s (maskPorts p))) → (∀ q ∈ maskPorts p, (s.port q).state ≠ .warm) →
    let arm := if beatImm p 0 then loadBeat s (maskPorts p) else beatAt p 0
    Does (.runArm p) cmdRunArm p s (armPorts p arm) (s.tmOf arm).toNat) ∧
  (∀ p s, Ready cmdRunDisarm p s → maskPorts p ≠ [] → beatFieldOk p 0 = true →
    (∀ q ∈ maskPorts p, s.portOwner q = some p.fn) → 11 ≤ s.boot.step →
    (beatImm p 0 = true ∨ notAfter (lastBeatOf s (maskPorts p)) (beatAt p 0) = true) →
    let d := if beatImm p 0 then lastBeatOf s (maskPorts p) else beatAt p 0
    Does (.runDisarm p) cmdRunDisarm p s
      (fun a => (maskPorts p).foldl (fun a q => a.modPort q fun P => P.disarmBy d) a) (s.tmOf d).toNat) ∧
  (∀ p s, Ready cmdRunRelease p s → p.inb 4 5 < 2 ^ 36 →
    (BitVec.ofNat 36 (p.inb 4 5) - (s.port p.idx).run.relSeq).toNat <
      ((s.port p.idx).run.nextSeq - (s.port p.idx).run.relSeq).toNat →
    Does (.runRelease p) cmdRunRelease p s fun a => a.modPort p.idx fun P => { P with
      run := { P.run with relSeq := BitVec.ofNat 36 (p.inb 4 5) + 1 } }) ∧
  (∀ p s, Ready cmdRunStatus p s →
    Does (.runStatus p) cmdRunStatus p s id 0 (bytesOf 32 (runStatus (s.port p.idx).run))) ∧
  (∀ p s, Ready cmdRunMaskSet p s → p.inb 4 2 + p.inb 6 2 ≤ 65536 →
    9 * ((p.inb 6 2 + 1) / 2) ≤ p.data.length → (s.port p.idx).trig.armed = false →
    Does (.runMaskSet p) cmdRunMaskSet p s fun a => a.modPort p.idx fun P => { P with
      run := { P.run with mask := P.run.mask.setList (p.inb 4 2) (entries36 p.data (p.inb 6 2)) } })

/-- R146: at each re-arm, before any store of the run that begins, a write of valid = 0 to the entry of the
run's index is queued; and once a run has closed and its other writes have completed, its entry is queued. A
mark of poisoned data that device firmware owes is made (R159). -/
def Obligations.RunDirectoryComplete : Prop :=
  (∀ (p : BitVec 7) s, (s.port p.toNat).trig.sl.phase = .lift →
    (s.port p.toNat).due (s.port p.toNat).trig.sl.liftEnd = true → (s.port p.toNat).trig.fenced = none →
    GivesNext (.reArm p) s fun t =>
      let R := (s.port p.toNat).run
      let n := R.openSeq
      (t.port p.toNat).run.curSeq = n ∧ (t.port p.toNat).run.sWr = 0 ∧ (t.port p.toNat).run.rWr = 0 ∧
      ∃ e : BitVec 216, bit e 180 = false ∧ fld e 195 3 = 0 ∧
        (t.port p.toNat).run.fifo = R.fifo ++ [plainStore (RunCfg.entryAddr R.cfg n.toNat) 1 n
          (s.port p.toNat).trig.sl.liftEnd (bytesOf 27 e.toNat)]) ∧
  (∀ (p : BitVec 7) s c cs, (s.port p.toNat).run.closing = c :: cs → runPieces s p.toNat c.seq = false →
    Becomes (.directoryEntryWrite p) s (pushStores s p.toNat
      [plainStore c.addr 3 c.seq (s.port p.toNat).pos
        (bytesOf 27 (put c.entry 181 1 (b2n c.poisoned)).toNat)])) ∧
  (∀ (p : BitVec 7) (n : BitVec 36) s x, (p.toNat, n, x) ∈ s.hub.marks →
    Becomes (.runPoisonMark p n) s ((poisonEntry s p.toNat n).modHub fun H => { H with
      marks := H.marks.filter fun m => !(m.1 == p.toNat && m.2.1 == n) }))

/-- R135: the first beat F of a run lies at or before the beat that holds t, so trig_off is never negative. While
nothing has been overwritten and edge records are off, F is beat(t - pre_slots), or the
first HUNT beat where that is later, and only then is pre_short 1.
R156: an analogue position whose bounds are the ends of the scale is never violated, and one whose lower
bound exceeds its upper bound is always violated. -/
def Obligations.RunBounds : Prop :=
  ((∀ P : Port, (runFirst P).1 ≤ slotsTo P.trig.firstHunt P.trig.sl.trig) ∧
   (∀ P : Port, RunCfg.src P.run.cfg ≠ 2 → P.run.overAt = none →
     let t := slotsTo P.trig.firstHunt P.trig.sl.trig
     let pre := RunCfg.pre P.run.cfg
     (pre ≤ t → (runFirst P).2 = false ∧ (runFirst P).1 % 64 = 0 ∧ (runFirst P).1 + pre ≤ t ∧
       t < (runFirst P).1 + pre + 64) ∧
     (t < pre → runFirst P = (0, true)))) ∧
  ((∀ (e : BitVec 36) (w : BitVec 18), fbv e 0 18 = 0o400000#18 → fbv e 18 18 = 0o377777#18 →
     maskTest false e w = none) ∧
   (∀ (e : BitVec 36) (w : BitVec 18), (fbv e 18 18).toInt < (fbv e 0 18).toInt →
     (maskTest false e w).isSome = true))

/-- Family 0x07 (R164 to R166, R170 to R172, R176, R187, R191, R192): SPEC_SET, SPEC_GET, SPEC_START,
SPEC_STOP, SPEC_SYNC, SPEC_TUNE, SPEC_COEF_SET, SPEC_WINDOW_SET, SPEC_TRIG_SET, SPEC_TRIG_TUNE and
SPEC_MASK_SET complete, with these effects and answers; what is configured in a STOPPED chain needs one.
SYNCHRONISING_RESET_BEAT and FRAME_COMPLETE complete (R172, R180, R185 to R190, R195, R201): the one
scheduled beat of a chain resets it, once the frames before it are out, and the next frame of a sequence whose
samples have all arrived is produced. -/
def Obligations.SpectralRowsComplete : Prop :=
  ((∀ p s, Ready cmdSpecSet p s → specOk (p.blk 512) = true → (s.port p.idx).chain.active = false →
     Does (.specSet p) cmdSpecSet p s fun a => a.modPort p.idx fun P => { P with
       chain := { P.chain with cfg := p.blk 512, specWr := 0 } }) ∧
   (∀ p s, Ready cmdSpecGet p s → p.subv = 0 →
     Does (.specGet p) cmdSpecGet p s id 0 (bytesOf 64 (s.port p.idx).chain.cfg.toNat)) ∧
   (∀ p s, Ready cmdSpecGet p s → p.subv = 2 →
     Does (.specGet p) cmdSpecGet p s id 0 (bytesOf 48 (specStatus (s.port p.idx).chain))) ∧
   (∀ p s, Ready cmdSpecStart p s → beatImm p 0 = true → beatFieldOk p 0 = true →
     clusterUsable s (portPair p.idx) = true → (∀ d, Holder.die d ∈ clusterHolders (portPair p.idx) →
       dieForbidden s d = false) →
     (s.port p.idx).chain.active = false → fmtLogic (s.port p.idx).fmt.toNat = false →
     (s.port p.idx).state = .live → (s.port p.idx).dens.hold = .none → startOk (s.port p.idx) = true →
     densFits (s.port p.idx) = true →
     Does (.specStart p) cmdSpecStart p s (fun a => a.fresh.2.modPort p.idx fun P =>
       startChain P (loadBeat s [p.idx])) (s.tmOf (loadBeat s [p.idx])).toNat) ∧
   (∀ p s, Ready cmdSpecStop p s →
     Does (.specStop p) cmdSpecStop p s fun a => stopChain a p.idx 6 (nextBeatOf a p.idx)) ∧
   (∀ p s, Ready cmdSpecSync p s → beatImm p 0 = true → beatFieldOk p 0 = true →
     (s.port p.idx).chain.active = true →
     Does (.specSync p) cmdSpecSync p s (fun a => a.modPort p.idx fun P => { P with
       chain := { P.chain with sched := P.chain.sched ++ [⟨nextBeatOf s p.idx, 2⟩] } })
       (s.tmOf (nextBeatOf s p.idx)).toNat) ∧
   (∀ p s, Ready cmdSpecTune p s → p.dat 12 1 = 1 → (s.port p.idx).chain.active = true →
     Does (.specTune p) cmdSpecTune p s
       (fun a => a.modPort p.idx fun P => { P with chain := { P.chain with
         tunes := P.chain.tunes ++ [⟨nextBeatOf s p.idx, some (BitVec.ofNat 48 (p.dat 0 6)), none⟩] } })
       (s.tmOf (nextBeatOf s p.idx)).toNat) ∧
   (∀ p s, Ready cmdSpecCoefSet p s → p.subv ≤ 1 → p.inb 4 1 = 1 → (s.port p.idx).chain.active = false →
     Does (.specCoefSet p) cmdSpecCoefSet p s fun a => a.modPort p.idx fun P => { P with
       chain := { P.chain with halfband := none } }) ∧
   (∀ p s, Ready cmdSpecCoefSet p s → p.subv = 0 → p.inb 4 1 = 0 → 72 ≤ p.data.length →
     (s.port p.idx).chain.active = false →
     Does (.specCoefSet p) cmdSpecCoefSet p s fun a => a.modPort p.idx fun P => { P with
       chain := { P.chain with userCfir := P.chain.userCfir.setList 0 (wordsOf p.data 32) } }) ∧
   (∀ p s n, Ready cmdSpecWindowSet p s → p.subv = 0 → n = pipeN ((s.port p.idx).chain.pipe 0) →
     9 * ((n + 3) / 4) ≤ p.data.length → (s.port p.idx).chain.active = false →
     Does (.specWindowSet p) cmdSpecWindowSet p s fun a => a.modPort p.idx fun P => { P with
       chain := { P.chain with
         window := P.chain.window.set 0 (Tab.setList (P.chain.window.get [] 0) 0 (wordsOf p.data n)) } }) ∧
   (∀ p s, Ready cmdSpecTrigSet p s → p.subv < 4 → trigUnitOk (s.port p.idx) (p.blk 256) = true →
     (s.port p.idx).chain.active = false →
     Does (.specTrigSet p) cmdSpecTrigSet p s fun a => a.modPort p.idx fun P => { P with
       chain := { P.chain with
         units := P.chain.units.set p.subv { TrigUnit.reset with desc := p.blk 256 } } }) ∧
   (∀ p s, Ready cmdSpecTrigTune p s → p.subv < 4 →
     trigUnitOk (s.port p.idx)
       (put ((s.port p.idx).chain.units.get TrigUnit.reset p.subv).desc 64 96 (p.blk 96).toNat) = true →
     Does (.specTrigTune p) cmdSpecTrigTune p s fun a => a.modPort p.idx fun P => { P with
       chain := { P.chain with
         units := P.chain.units.mod TrigUnit.reset p.subv fun u => { u with tune := some (p.blk 96) } } }) ∧
   (∀ p s, Ready cmdSpecMaskSet p s → p.inb 4 2 + p.inb 6 3 ≤ 65536 →
     9 * ((p.inb 6 3 + 1) / 2) ≤ p.data.length → (s.port p.idx).chain.active = true →
     Does (.specMaskSet p) cmdSpecMaskSet p s fun a => a.modPort p.idx fun P => { P with
       chain := { P.chain with maskNew := P.chain.maskNew ++
         [(a.time.slotCount, p.inb 4 2, entries36 p.data (p.inb 6 3))] } })) ∧
  ((∀ (p : BitVec 7) s e, (s.port p.toNat).chain.sched = [e] → (s.port p.toNat).due e.beat = true →
     (s.port p.toNat).chain.st ≠ .stopped ∨ e.cause = 1 → e.cause.toNat < 15 →
     (∀ q ∈ (s.port p.toNat).chain.seqList, (s.port p.toNat).readyFrame q = none) →
     Becomes (.synchronisingResetBeat p) s (chainReset (s.modPort p.toNat fun P => { P with
       chain := { P.chain with sched := [] } }) p.toNat e.cause.toNat e.beat)) ∧
   (∀ (p : BitVec 7) (q : Bool) f s, (s.port p.toNat).readyFrame (b2n q) = some f →
     (s.port p.toNat).chain.st ≠ .stopped → b2n q ∈ (s.port p.toNat).chain.seqList →
     (s.port p.toNat).dens.decayDue = false → (s.port p.toNat).dens.snapReq = none →
     Becomes (.frameComplete p q) s (frameDone s p.toNat (buildFrame (s.port p.toNat) (b2n q) f))))

/-- R167, R177: the NCO phase at a synchronising reset is phase_ofs, that of a retune of its beat included, and it
advances by ftw, modulo 2^48, at every input sample.
R172, R173: a synchronising reset restarts the frame index of every sequence and the filters, and every earlier
resync and retune is forgotten. -/
def Obligations.PhaseAndFramesAfterReset : Prop :=
  ((∀ s n cause slot, ((chainReset s n cause slot).port n).chain.phiSlot = slot ∧
     ((chainReset s n cause slot).port n).chain.phi = fbv ((chainReset s n cause slot).port n).chain.cfg 64 48) ∧
   ∀ (c : Chain) (samp k : Nat), 0 < samp → samp * k < 2 ^ 64 →
     c.phiAt samp (c.phiSlot + BitVec.ofNat 64 (samp * k)) = (c.phi.toNat + fld c.cfg 16 48 * k) % 2 ^ 48) ∧
  (∀ s n cause slot,
     let c := ((chainReset s n cause slot).port n).chain
     c.resetSlot = slot ∧ c.evPos = 0 ∧ c.lostAt = none ∧ c.retuneSlot = none ∧ c.dc = DcState.reset ∧
     c.pipes = [] ∧ (∀ q < 2, (c.seqs.get SeqSt.reset q).nextIdx = 0) ∧
     c.lastCause = BitVec.ofNat 4 cause)

/-- R168, R173: after a synchronising reset the first N down-converter outputs are tagged, N as the decimation
table gives it.
R188: a band-power unit turns above at its threshold, turns below only under threshold less hysteresis, and
fires by its mode; on the first evaluated frame no change fires. -/
def Obligations.SettlingAndBandPower : Prop :=
  (taggedOuts 0 false 0 = 0 ∧ taggedOuts 1 false 0 = 23 ∧ taggedOuts 2 false 0 = 34 ∧
   taggedOuts 3 false 0 = 40 ∧ (∀ k, 4 ≤ k → k ≤ 16 → taggedOuts k false 0 = 39) ∧
   ∀ k, 4 ≤ k → k ≤ 16 → taggedOuts k true 0 = 0) ∧
  (∀ (d : Dens) (mask : Tab (BitVec 36)) (u : TrigUnit) (fr : Frame) (bp : Nat), u.ttype = 2 → u.tune = none →
     let r := unitFrame d mask u fr bp
     (u.par 0 ≤ bp → r.1.above = some true) ∧
     (bp + u.par 1 < u.par 0 → r.1.above = some false) ∧
     (bp < u.par 0 → u.par 0 ≤ bp + u.par 1 → ∀ a, u.above = some a → r.1.above = some a) ∧
     (u.mode = 0 → r.2.1 = (r.1.above == some true)) ∧
     (u.mode = 1 → r.2.1 = (r.1.above == some false)) ∧
     (u.mode = 2 → r.2.1 = (u.above == some false && r.1.above == some true)) ∧
     (u.mode = 3 → r.2.1 = (u.above == some true && r.1.above == some false)) ∧
     r.2.2 = bp)

/-- Family 0x08 and the events of a density field (R194, R197 to R199, R204): DENS_SET, DENS_GET, DENS_SNAP,
both rows of DENS_RELEASE, DENS_CLEAR, DENS_DECAY_STEP, DENS_FREEZE and DENS_MERGE_DONE complete. -/
def Obligations.DensityCompletes : Prop :=
  (∀ p s, Ready cmdDensSet p s → densOk (p.blk 512) = true → (s.port p.idx).chain.active = false →
    Does (.densSet p) cmdDensSet p s fun a => a.modPort p.idx fun P => { P with
      dens := { P.dens with cfg := p.blk 512, statWr := 0 } }) ∧
  (∀ p s, Ready cmdDensGet p s → p.subv = 0 →
    Does (.densGet p) cmdDensGet p s id 0 (bytesOf 64 (s.port p.idx).dens.cfg.toNat)) ∧
  (∀ p s, Ready cmdDensGet p s → p.subv = 1 →
    Does (.densGet p) cmdDensGet p s id 0 (bytesOf 32 (densStatus (s.port p.idx).dens))) ∧
  (∀ p s, Ready cmdDensSnap p s → (s.port p.idx).dens.hold = .none → (s.port p.idx).dens.snapReq = none →
    Starts (.densSnap p) cmdDensSnap p s fun a => a.modPort p.idx fun P => { P with
      dens := { P.dens with snapReq := some p.core } }) ∧
  (∀ p s, Ready cmdDensReleaseClear p s → p.inb 4 1 = 1 → (s.port p.idx).dens.hold = .frozen →
    (s.port p.idx).dens.releasing = false → imageClaimed s p.idx = false →
    Does (.densReleaseClear p) cmdDensReleaseClear p s fun a => a.modPort p.idx fun P => { P with
      dens := if P.chain.st = .stopped then
          { P.dens with
            hold := .none, live := P.dens.delta, delta := [], frozen := [], satMap := [], decayPending := 0
            decayDue := false, releasing := false }
        else { P.dens with releasing := true } }) ∧
  (∀ p s, Ready cmdDensReleaseMerge p s → p.inb 4 1 = 0 → (s.port p.idx).dens.hold = .frozen →
    (s.port p.idx).dens.releasing = false → imageClaimed s p.idx = false →
    Does (.densReleaseMerge p) cmdDensReleaseMerge p s fun a => a.modPort p.idx fun P => { P with
      dens := { P.dens with hold := .merging } }) ∧
  (∀ p s, Ready cmdDensClear p s → (s.port p.idx).dens.hold = .none →
    Does (.densClear p) cmdDensClear p s fun a => a.modPort p.idx fun P => { P with dens := P.dens.clear }) ∧
  (∀ (p : BitVec 7) s, (s.port p.toNat).dens.decayDue = true → (s.port p.toNat).dens.hold = .none →
    Becomes (.densDecayStep p) s (s.modPort p.toNat fun P => { P with dens := { P.dens with
      live := P.dens.live.map fun x => (x.1, decay P.dens.decayShift x.2)
      decayDue := false } })) ∧
  (∀ (p : BitVec 7) s q, (s.port p.toNat).dens.snapReq = some q → (s.port p.toNat).dens.decayDue = false →
    GivesNext (.densFreeze p) s fun t =>
      let d := (s.port p.toNat).dens
      let e := (t.port p.toNat).dens
      e.hold = .frozen ∧ e.frozen = d.live ∧ e.live = [] ∧ e.delta = [] ∧ e.snapReq = none ∧
      e.decayPending = 0 ∧ e.snapTm = d.lastTm ∧ e.snapIdx = d.lastIdx) ∧
  (∀ (p : BitVec 7) s, (s.port p.toNat).dens.hold = .merging →
    GivesNext (.densMergeDone p) s fun t =>
      let d := (s.port p.toNat).dens
      let e := (t.port p.toNat).dens
      e.hold = .none ∧ e.frozen = [] ∧ e.delta = [] ∧ e.decayPending = 0 ∧
      ∀ i, e.live.get 0 i =
        min (decayN d.decayShift d.decayPending (d.frozen.get 0 i) + d.delta.get 0 i) (2 ^ 24 - 1))

/-- R196: a counter that would pass 2^24 − 1 stays at that value, sets its column's bit in the saturation map
and adds 1 to sat_cells at its first saturation; no other cell changes.
R197: a decay step takes c to c − ⌈c / 2^d⌉, so a cell of 1 reaches 0, and no cell grows. -/
def Obligations.DensityCounters : Prop :=
  (∀ (d : Dens) (i : Nat), d.hold = .none → d.live.get 0 i < 2 ^ 24 →
     (d.hit i).live.get 0 i = min (d.live.get 0 i + 1) (2 ^ 24 - 1) ∧
     (∀ j, j ≠ i → (d.hit i).live.get 0 j = d.live.get 0 j) ∧
     (d.live.get 0 i = 2 ^ 24 - 1 → (d.hit i).satMap.get false (i / 256) = true ∧
       (d.hit i).satCells = d.satCells + if d.satSet.get false i then 0 else 1) ∧
     (d.live.get 0 i < 2 ^ 24 - 1 → (d.hit i).satMap = d.satMap ∧ (d.hit i).satCells = d.satCells)) ∧
  ((∀ sh c, 2 ^ sh * (c - decay sh c) < c + 2 ^ sh ∧ c ≤ 2 ^ sh * (c - decay sh c)) ∧
   (∀ sh c, decay sh c ≤ c) ∧ (∀ sh, decay sh 1 = 0) ∧ ∀ sh k c, decayN sh k c ≤ c)

/-- R211 to R214: every instruction of the X slot completes: a bundle that raises no cause and need not wait
completes with the X slot's results over the registers as they stood, and with the Y slot's. NOP does in
either slot. -/
def Obligations.XSlotInstructionsComplete : Prop :=
  (∀ op i, XInstr op i → ∀ (e : BitVec 9) (x : XOps) (o : BitVec 36) s, MayIssue s e.toNat (xWord op x) o →
    Becomes (i e x o) s (completeBundle (endStall s e.toNat) e.toNat (xWord op x) o)) ∧
  (∀ (e : BitVec 9) (o : BitVec 36) s, MayIssue s e.toNat o 0 →
    Becomes (.iNop e (bundleOf o 0)) s (completeBundle (endStall s e.toNat) e.toNat o 0)) ∧
  (∀ (e : BitVec 9) (o : BitVec 36) s, MayIssue s e.toNat 0 o →
    Becomes (.iNop e (bundleOf 0 o)) s (completeBundle (endStall s e.toNat) e.toNat 0 o))

/-- R207 to R210, R215 to R217, R219 to R224, R227, R229: every instruction of the Y slot but TRAP completes: a
bundle that raises no cause and need not wait completes with both slots' results. -/
def Obligations.YSlotInstructionsComplete : Prop :=
  ∀ op i, YInstr op i → ∀ (e : BitVec 9) (y : YOps) (o : BitVec 36) s, MayIssue s e.toNat o (yWord op y) →
    Becomes (i e y o) s (completeBundle (endStall s e.toNat) e.toNat o (yWord op y))

/-- The operations of the X-slot table: the result of each instruction that writes a general register, and of each
that writes an accumulator, from the operands as they stood before the bundle. -/
def Obligations.XSlotResults : Prop :=
  ∀ (E : Engine) (m : BitVec 18) (x : XOps),
    let a := E.gr x.a.toNat
    let b := E.gr x.b.toNat
    let acc := (E.ac x.d.toNat).toInt
    let acca := (E.ac x.a.toNat).toInt
    let g := fun (op : Nat) => (xEval E m (xWord op x)).g
    let A := fun (op : Nat) => (xEval E m (xWord op x)).acc
    let fit18 := fun (v : Int) => some (x.d.toNat, BitVec.ofInt 18 (fit m 18 v).1)
    let fit48 := fun (v : Int) => some (x.d.toNat, BitVec.ofInt 48 (fit m 48 v).1)
    let prod := a.toInt * b.toInt * if modeFrac m then 2 else 1
    let k := fld b 0 6
    let ki := fld x.imm 0 6
    g 0x01 = fit18 (a.toInt + b.toInt) ∧ g 0x02 = fit18 (a.toInt - b.toInt) ∧
    g 0x03 = fit18 (a.toInt + x.imm.toInt) ∧ g 0x04 = fit18 (-a.toInt) ∧ g 0x05 = fit18 a.toInt.natAbs ∧
    g 0x06 = some (x.d.toNat, a &&& b) ∧ g 0x07 = some (x.d.toNat, a ||| b) ∧
    g 0x08 = some (x.d.toNat, a ^^^ b) ∧ g 0x09 = some (x.d.toNat, a &&& x.imm) ∧
    g 0x0A = some (x.d.toNat, x.imm) ∧ g 0x0B = some (x.d.toNat, a) ∧
    g 0x0C = some (x.d.toNat, if a.toInt < b.toInt then a else b) ∧
    g 0x0D = some (x.d.toNat, if a.toInt < b.toInt then b else a) ∧
    g 0x0E = some (x.d.toNat, BitVec.ofNat 18 (a.toNat * 2 ^ k)) ∧
    g 0x0F = some (x.d.toNat, BitVec.ofInt 18 (a.toInt.fdiv (2 ^ k))) ∧
    g 0x10 = some (x.d.toNat, BitVec.ofNat 18 (a.toNat / 2 ^ k)) ∧
    g 0x14 = fit18 (scale m (a.toInt * b.toInt) 17) ∧
    (b ≠ 0 → g 0x15 = fit18 (a.toInt.tdiv b.toInt)) ∧
    (b ≠ 0 → g 0x16 = some (x.d.toNat, BitVec.ofInt 18 (a.toInt - b.toInt * a.toInt.tdiv b.toInt))) ∧
    g 0x27 = fit18 (scale m acca ki) ∧
    A 0x20 = fit48 (acc + prod) ∧ A 0x21 = fit48 (acc - prod) ∧
    A 0x22 = some (x.d.toNat, BitVec.ofInt 48 prod) ∧ A 0x23 = some (x.d.toNat, 0) ∧
    A 0x24 = fit48 (a.toInt * 2 ^ ki) ∧ A 0x25 = fit48 (acc + acca) ∧
    A 0x26 = some (x.d.toNat, BitVec.ofInt 48 (acca.fdiv (2 ^ ki)))

/-- R225, R226: TRAP beside a NOP enters the handler: EPC names the next bundle, ECAUSE the cause and the Y slot,
the mode in effect is saved and becomes 0, and execution continues at tvec.
R227: RETE leaves the handler and resumes at EPC with the saved mode, pending mode, shadow and branch. -/
def Obligations.TrapAndReturn : Prop :=
  (∀ (e : BitVec 9) (y : YOps) s, let n := e.toNat
     let w := yWord 0x1B y
     (s.eng n).runs = true → Tab.get 0 (s.eng n).imem (s.eng n).pc.toNat = bundleOf 0 w →
     yOk w = true → (s.eng n).branch = none → loopTail (s.eng n) (s.eng n).pc.toNat = false →
     (s.eng n).inHandler = false → (s.eng n).tvecEn = true → (s.eng n).modePend = none →
     interlocked (s.eng n) s.time.slotCount 0 w = false →
     GivesNext (.iTrap e y 0) s fun t =>
       let E := t.eng n
       E.st = .handler ∧ E.inHandler = true ∧ E.pc = BitVec.ofNat 13 (s.eng n).tvec ∧
       E.epc = ((s.eng n).pc + 1).setWidth 18 ∧ E.ecause = 0x28 ∧ E.emode = (s.eng n).mode ∧ E.mode = 0 ∧
       E.g = (s.eng n).g ∧ E.a = (s.eng n).a ∧ E.p = (s.eng n).p ∧ E.flags = (s.eng n).flags) ∧
  (∀ (e : BitVec 9) (y : YOps) s, let n := e.toNat
     MayIssue s n 0 (yWord 0x1C y) → (s.eng n).branch = none →
     GivesNext (.iRete e y 0) s fun t =>
       let E := t.eng n
       let S := s.eng n
       E.inHandler = false ∧ E.st = .running ∧ E.pc = fbv S.epc 0 13 ∧ E.mode = S.emode ∧
       E.shadow = fld S.estat 0 2 ∧ E.modePend = (if fld S.estat 0 2 = 0 then none else some S.epend) ∧
       E.branch = (if bit S.estat 2 then some (fbv S.etgt 0 13, bit S.estat 3) else none))

/-- R225: a bundle that raises a cause other than TRAP leaves no effect in either slot: registers, flags, loop
counters, inputs, ring counts, local and shared memory, synchronisation counters and ports stay. -/
def Obligations.ExceptionLeavesNoEffect : Prop :=
  ∀ (s : State) (e : Nat) (x y : BitVec 36) (c : Cause), lowest (bundleCauses (s.eng e) e x y) = some c →
    c.code ≠ 8 →
    let t := issueBundle s e (bundleOf x y)
    let E := t.eng e
    E.g = (s.eng e).g ∧ E.a = (s.eng e).a ∧ E.p = (s.eng e).p ∧ E.flags = (s.eng e).flags ∧
    E.lc = (s.eng e).lc ∧ E.dmem = (s.eng e).dmem ∧ E.streams = (s.eng e).streams ∧
    E.outWr = (s.eng e).outWr ∧ E.bundles = (s.eng e).bundles ∧ t.clusters = s.clusters ∧ t.ports = s.ports ∧
    t.mem = s.mem ∧ ∀ f, f ≠ e → t.eng f = s.eng f

/-- R211: an X instruction beside a NOP writes at most its destination register, the flags and the place of
execution: the other general registers, the address registers, the memories, the inputs, the other engines, the
ports, the clusters and capture memory stay. -/
def Obligations.XSlotFrame : Prop :=
  ∀ op i, XInstr op i → ∀ (e : BitVec 9) (x : XOps) s t, MayIssue s e.toNat (xWord op x) 0 →
    exec (i e x 0) s = .next t →
    let E := t.eng e.toNat
    let S := s.eng e.toNat
    (∀ k < 16, k ≠ x.d.toNat → E.gr k = S.gr k) ∧ (∀ k < 4, k ≠ x.d.toNat → E.ac k = S.ac k) ∧
    E.p = S.p ∧ E.dmem = S.dmem ∧ E.streams = S.streams ∧ E.outWr = S.outWr ∧ E.outRd = S.outRd ∧
    E.imem = S.imem ∧ E.cfg = S.cfg ∧ E.epc = S.epc ∧ E.ecause = S.ecause ∧
    (∀ f, f ≠ e.toNat → t.eng f = s.eng f) ∧
    t.clusters = s.clusters ∧ t.ports = s.ports ∧ t.mem = s.mem

/-- R212: fit keeps a value in range, and otherwise saturates in SAT mode and wraps modulo 2^n in WRAP mode.
R212: scale rounds v / 2^k down, or to a nearest integer with ties away from zero, or to even.
The results at the edges of R213, with their flags: NEG, ABS, DIV and MUL of the least value set V and SV,
a division by zero sets DZ, and shifts by 18 and more leave V at 0. -/
def Obligations.ArithmeticResults : Prop :=
  (∀ (m : BitVec 18) (n : Nat) (v : Int), 1 ≤ n →
     let lo : Int := -2 ^ (n - 1)
     let hi : Int := 2 ^ (n - 1) - 1
     lo ≤ (fit m n v).1 ∧ (fit m n v).1 ≤ hi ∧
     ((fit m n v).2 = true ↔ v < lo ∨ hi < v) ∧ (lo ≤ v → v ≤ hi → (fit m n v).1 = v) ∧
     (modeSat m = true → hi < v → (fit m n v).1 = hi) ∧ (modeSat m = true → v < lo → (fit m n v).1 = lo) ∧
     (modeSat m = false → ((2 : Int) ^ n) ∣ (fit m n v).1 - v)) ∧
  (∀ (m : BitVec 18) (v : Int) (k : Nat),
     (modeRnd m = 0 → scale m v k * 2 ^ k ≤ v ∧ v < (scale m v k + 1) * 2 ^ k) ∧
     ((modeRnd m = 1 ∨ modeRnd m = 2) → 2 * (scale m v k * 2 ^ k - v) ≤ 2 ^ k ∧
       2 * (v - scale m v k * 2 ^ k) ≤ 2 ^ k) ∧
     (modeRnd m = 1 → 2 * (v - scale m v k * 2 ^ k) = 2 ^ k → v < 0) ∧
     (modeRnd m = 1 → 2 * (scale m v k * 2 ^ k - v) = 2 ^ k → 0 < v) ∧
     (modeRnd m = 2 → (2 * (v - scale m v k * 2 ^ k) = 2 ^ k ∨ 2 * (scale m v k * 2 ^ k - v) = 2 ^ k) → k ≠ 0 →
       scale m v k % 2 = 0)) ∧
  (∀ (E : Engine) (m : BitVec 18) (x : XOps) (f : BitVec 18),
     let a := E.gr x.a.toNat
     let b := E.gr x.b.toNat
     let r := fun (op : Nat) => xEval E m (xWord op x)
     let g := fun (op : Nat) => (r op).g.map (·.2)
     let F := fun (op : Nat) => (r op).fs.apply f
     let top := if modeSat m then (0o377777 : BitVec 18) else 0o400000
     (a = 0o400000 → g 0x04 = some top ∧ bit (F 0x04) 3 = true ∧ bit (F 0x04) 4 = true) ∧
     (a = 0o400000 → g 0x05 = some top ∧ bit (F 0x05) 3 = true ∧ bit (F 0x05) 4 = true) ∧
     (a = 0o400000 → b = 0o777777 → g 0x15 = some top ∧ bit (F 0x15) 3 = true ∧ bit (F 0x15) 4 = true) ∧
     (a = 0o400000 → b = 0o400000 → g 0x14 = some top ∧ bit (F 0x14) 3 = true ∧ bit (F 0x14) 4 = true) ∧
     (b = 0 → g 0x15 = some (if 0 ≤ a.toInt then 0o377777 else 0o400000) ∧ bit (F 0x15) 5 = true) ∧
     (b = 0 → g 0x16 = some a ∧ bit (F 0x16) 5 = true) ∧
     (a = 0o400000 → b = 0o777777 → g 0x16 = some 0 ∧ (∀ i ∈ [2, 3, 4, 5, 6], bit (F 0x16) i = bit f i)) ∧
     (18 ≤ fld b 0 6 → g 0x0E = some 0 ∧ g 0x10 = some 0 ∧ bit (F 0x0E) 3 = false ∧ bit (F 0x10) 3 = false) ∧
     (18 ≤ fld b 0 6 → g 0x0F = some (if 0 ≤ a.toInt then 0 else 0o777777) ∧ bit (F 0x0F) 3 = false))

/-- R211: the fields of a slot, and the slots of a bundle, are read back from where they are placed: no bit of an
encoding is lost. -/
def Obligations.SlotFieldsReadBack : Prop :=
  (∀ op x, op < 64 → opOf (xWord op x) = op ∧ xd (xWord op x) = x.d.toNat ∧ xa (xWord op x) = x.a.toNat ∧
    xb (xWord op x) = x.b.toNat ∧ ximm (xWord op x) = x.imm.toNat) ∧
  (∀ op y, op < 64 → opOf (yWord op y) = op ∧ yr (yWord op y) = y.r.toNat ∧ yp (yWord op y) = y.p.toNat ∧
    ypm (yWord op y) = y.pm ∧ ys (yWord op y) = y.s.toNat ∧ yimm (yWord op y) = y.imm.toNat) ∧
  ∀ x y, xSlot (bundleOf x y) = x ∧ ySlot (bundleOf x y) = y

/-- R217: the inner loop is tested first, and the outer count is taken only on the pass in which the inner loop
finishes. -/
def Obligations.InnerLoopFirst : Prop :=
  ∀ (E : Engine) (b : BitVec 13) (c0 c1 : BitVec 18), E.inHandler = false → E.lc = [c0, c1] →
    (b = E.le.getD 1 0 → 1 < c1.toNat → (loopTest E b).pc = E.ls.getD 1 0 ∧ (loopTest E b).lc = [c0, c1 - 1]) ∧
    (b = E.le.getD 1 0 → b = E.le.getD 0 0 → c1 = 1 → 1 < c0.toNat →
      (loopTest E b).pc = E.ls.getD 0 0 ∧ (loopTest E b).lc = [c0 - 1, 0]) ∧
    (b = E.le.getD 0 0 → c1 = 0 → c0 = 1 → (loopTest E b).pc = b + 1 ∧ (loopTest E b).lc = [0, 0]) ∧
    (b ≠ E.le.getD 0 0 → b ≠ E.le.getD 1 0 → (loopTest E b).pc = b + 1 ∧ (loopTest E b).lc = [c0, c1])

/-- R216: "MTC to MODE in bundle n takes effect two bundles later, from bundle n + 3": the two bundles of the mode
shadow run and trap under the old mode; an MTC to MODE in the shadow of another, and a value with rnd = 0b11 or a
reserved bit set, raise ILL_MODE. -/
def Obligations.ModeTakesEffectAfterItsShadow : Prop :=
  (∀ (E : Engine) (v : BitVec 18),
    let E1 := shadowStep (ctlWrite E 0 v) true
    let E2 := shadowStep E1 false
    let E3 := shadowStep E2 false
    E1.mode = E.mode ∧ E2.mode = E.mode ∧ E3.mode = v ∧ E3.modePend = none) ∧
  (∀ (E : Engine) (e : Nat) (x : BitVec 36), xOk x = true → slotsConflict x 0 = false →
    bundleCauses E e x 0 = (match (xEval E E.mode x).cause E.mode with
      | some c => [⟨c, false, 0⟩]
      | none => [])) ∧
  (∀ (E : Engine) (v : BitVec 18), ctlWriteCause E 0 v =
    if fld v 1 2 = 3 ∨ 64 ≤ v.toNat ∨ E.modePend.isSome = true ∨ E.inHandler = true then some 3 else none)

/-- Family 0x09 (R221, R228 to R230): ENG_LOAD, ENG_SET, ENG_GET, both forms of ENG_START, ENG_STOP and
ENG_RING_ACK complete. -/
def Obligations.EngineCommandsComplete : Prop :=
  (∀ p s, Ready cmdEngLoad p s → p.subv = 0 → p.inb 4 4 + p.inb 8 4 ≤ 8192 →
    9 * p.inb 8 4 ≤ p.data.length → engBusy s p.idx = false →
    clusterUsable s (engCluster p.idx) = true → (∀ d, Holder.die d ∈ clusterHolders (engCluster p.idx) →
      dieForbidden s d = false) →
    Does (.engLoad p) cmdEngLoad p s fun a => a.modEng p.idx fun E => { E with
      st := .stopped, resumable := false
      imem := E.imem.setList (p.inb 4 4)
        ((List.range (p.inb 8 4)).map fun i => BitVec.ofNat 72 (le (slice p.data (9 * i) 9))) }) ∧
  (∀ p s, Ready cmdEngSet p s → engCfgOk s p.idx (p.blk 512) = true → engBusy s p.idx = false →
    Does (.engSet p) cmdEngSet p s fun a => a.modEng p.idx fun E => { E with cfg := p.blk 512 }) ∧
  (∀ p s, Ready cmdEngGet p s → p.subv = 0 →
    Does (.engGet p) cmdEngGet p s id 0 (bytesOf 64 (s.eng p.idx).cfg.toNat)) ∧
  (∀ p s, Ready cmdEngGet p s → p.subv = 1 →
    Does (.engGet p) cmdEngGet p s id 0 (bytesOf 32 (engStatus (s.eng p.idx) p.idx s.time.slotCount))) ∧
  (∀ p s, Ready cmdEngStart p s → p.inb 4 1 = 0 → beatImm p 0 = true → beatFieldOk p 0 = true →
    streamsOk s p.idx = true → ((s.eng p.idx).st = .stopped ∨ (s.eng p.idx).st = .halted) →
    (s.eng p.idx).startAt = none → clusterUsable s (engCluster p.idx) = true →
    (∀ d, Holder.die d ∈ clusterHolders (engCluster p.idx) → dieForbidden s d = false) →
    Does (.engStartFresh p) cmdEngStart p s (fun a => a.modEng p.idx fun E => { E with
      startAt := some (s.time.slotCount + 64), startResume := false })
      (s.tmOf (s.time.slotCount + 64)).toNat) ∧
  (∀ p s, Ready cmdEngStart p s → p.inb 4 1 = 1 → beatImm p 0 = true → beatFieldOk p 0 = true →
    streamsOk s p.idx = true → (s.eng p.idx).st = .stopped → (s.eng p.idx).resumable = true →
    (s.eng p.idx).startAt = none → clusterUsable s (engCluster p.idx) = true →
    (∀ d, Holder.die d ∈ clusterHolders (engCluster p.idx) → dieForbidden s d = false) →
    Does (.engStartResume p) cmdEngStart p s (fun a => a.modEng p.idx fun E => { E with
      startAt := some (s.time.slotCount + 64), startResume := true })
      (s.tmOf (s.time.slotCount + 64)).toNat) ∧
  (∀ p s, Ready cmdEngStop p s → (s.eng p.idx).startAt = none → (s.eng p.idx).st = .running →
    Does (.engStop p) cmdEngStop p s fun a => a.modEng p.idx fun E => Engine.unclaim { E with
      st := .stopped, resumable := true, stalls := E.stallsAt s.time.slotCount, stall := none }) ∧
  (∀ p s, Ready cmdEngRingAck p s →
    (BitVec.ofNat 48 (p.inb 4 6) - (s.eng p.idx).outRd).toNat ≤
      ((s.eng p.idx).outWr - (s.eng p.idx).outRd).toNat →
    Does (.engRingAck p) cmdEngRingAck p s fun a => a.modEng p.idx fun E => { E with
      outRd := BitVec.ofNat 48 (p.inb 4 6) })

/-- ENGINE_START_BEAT, ENG_STALL_END, STREAM_ELEMENT_ARRIVE, ENGINE_FAULT, ENGINE_RESTART and WARM_SLOTS_END
complete (R218, R219, R229, R231 to R233). -/
def Obligations.EngineEventsComplete : Prop :=
  (∀ (e : BitVec 9) s b, (s.eng e.toNat).startAt = some b → notAfter b s.time.slotCount = true →
    (s.eng e.toNat).startResume = false → GivesNext (.engineStartBeat e) s fun t =>
      let E := t.eng e.toNat
      let S := s.eng e.toNat
      E.st = .running ∧ E.pc = BitVec.ofNat 13 S.entry ∧ E.g = List.replicate 16 0 ∧
      E.a = List.replicate 4 0 ∧ E.p = List.replicate 8 0 ∧ E.mode = 1 ∧ E.flags = 0 ∧ E.lc = [0, 0] ∧
      E.dmem = S.image ∧ (∀ k < 4, (E.stream k).fifo = []) ∧ E.outWr = 0 ∧ E.outRd = 0 ∧ E.bundles = 0 ∧ E.effSlot = b) ∧
  (∀ (e : BitVec 9) s b, (s.eng e.toNat).stall = some b → (s.eng e.toNat).runs = true →
    bundleWaits s e.toNat (xSlot b) (ySlot b) = false → Becomes (.engStallEnd e) s (issueBundle s e.toNat b)) ∧
  (∀ (e : BitVec 9) (n : BitVec 2) el rest s, (s.eng e.toNat).runs = true → (s.eng e.toNat).startAt = none →
    (s.eng e.toNat).bindSrc n.toNat ≠ 0 → (s.eng e.toNat).bindSrc n.toNat ≠ 6 →
    ((s.eng e.toNat).stream n.toNat).due = el :: rest → notAfter (s.eng e.toNat).effSlot el.cursor = true →
    Becomes (.streamElementArrive e n) s (s.modEng e.toNat fun E => { E with
      streams := E.streams.mod Stream.reset n.toNat fun t =>
        if 4096 < t.words + el.words.length then { t with
          due := rest, lost := satInc t.lost el.words.length, pendLoss := true }
        else { t with
          due := rest, fifo := t.fifo ++ [{ el with loss := el.loss || t.pendLoss }], pendLoss := false } })) ∧
  (∀ (e : BitVec 9) s, (s.eng e.toNat).runs = true → Becomes (.engineFault e) s (engFault s e.toNat)) ∧
  (∀ (e : BitVec 9) s, (s.eng e.toNat).st = .restarting → (s.eng e.toNat).noPhys = false →
    GivesNext (.engineRestart e) s fun t =>
      let E := t.eng e.toNat
      let S := s.eng e.toNat
      E.st = .running ∧ E.pc = BitVec.ofNat 13 S.entry ∧ E.dmem = S.image ∧ E.outWr = S.outWr ∧ E.outRd = S.outRd ∧ E.restarts = satInc S.restarts ∧
      E.warmEnd = some (s.time.slotCount + BitVec.ofNat 64 S.warmSlots) ∧
      (∀ n < 4, (E.stream n).pendLoss = true) ∧ t.faults.restarts = satInc s.faults.restarts) ∧
  (∀ (e : BitVec 9) s w, (s.eng e.toNat).warmEnd = some w → notAfter (beatSlot w) s.time.slotCount = true →
    Becomes (.warmSlotsEnd e) s ((flagRec s e.toNat (beatSlot w) 1 1 (physOf (s.eng e.toNat) e.toNat)
      (ringPos (s.eng e.toNat))).modEng e.toNat fun E => { E with warmEnd := none }))

/-- Family 0x0A (R251, R252, R258, R262, R270, R276): MEM_CFG_SET, MEM_CFG_GET, MEM_STATUS, MEM_DELAY_GET,
MEM_TEST and MEM_RETIRE complete. -/
def Obligations.MemoryCommandsComplete : Prop :=
  (∀ p s, Ready cmdMemCfgSet p s → memCfgOk (p.blk 256) = true → 11 ≤ s.boot.step →
    s.ports.any (fun x => x.2.trig.armed) = false →
    s.hub.wipes.any (fun w => w.kind == .memCfg && w.chans.isEmpty) = false →
    fbv (p.blk 256) 0 80 = fbv s.hub.memCfg 0 80 →
    Does (.memCfgSet p) cmdMemCfgSet p s fun a => a.modHub fun H => { H with memCfg := p.blk 256 }) ∧
  (∀ p s, Ready cmdMemCfgSet p s → memCfgOk (p.blk 256) = true → 11 ≤ s.boot.step →
    s.ports.any (fun x => x.2.trig.armed) = false →
    s.hub.wipes.any (fun w => w.kind == .memCfg && w.chans.isEmpty) = false →
    fbv (p.blk 256) 0 80 ≠ fbv s.hub.memCfg 0 80 → wipeable s captureChans ≠ [] →
    Accepts (.memCfgSet p) cmdMemCfgSet p s
      (fun a => (forEach (wipeable a captureChans) (fun a k => a.modChan k fun C => { C with
          wiping := true, openRow := [], st := if C.st == .service then .inOrder else C.st }) a).modHub
        fun H => { H with memCfg := p.blk 256, cfgWipe := true
                          wipes := H.wipes ++ [⟨.memCfg, wipeable a captureChans⟩] })
      .memCfg) ∧
  (∀ p s, Ready cmdMemCfgSet p s → memCfgOk (p.blk 256) = true → 11 ≤ s.boot.step →
    s.ports.any (fun x => x.2.trig.armed) = false → fbv (p.blk 256) 0 80 ≠ fbv s.hub.memCfg 0 80 →
    wipeable s captureChans = [] →
    GivesNext (.memCfgSet p) s fun t => t.hub.memCfg = p.blk 256 ∧ t.hub.cfgWipe = false ∧ t.mem = s.mem) ∧
  (∀ p s, Ready cmdMemCfgGet p s → Does (.memCfgGet p) cmdMemCfgGet p s id 0 (bytesOf 32 s.hub.memCfg.toNat)) ∧
  (∀ p s, Ready cmdMemStatus p s →
    Does (.memStatus p) cmdMemStatus p s id 0 (bytesOf 64 (chanStatus (s.chan p.idx) (p.fn == 0)))) ∧
  (∀ p s, Ready cmdMemDelayGet p s →
    Does (.memDelayGet p) cmdMemDelayGet p s id 0 (bytesOf 16 (s.chan p.idx).delays.toNat)) ∧
  (∀ p s, Ready cmdMemTest p s →
    (regionPorts (chanRegion p.idx)).any (fun q => (s.port q).trig.armed) = false →
    (s.chan p.idx).st = .service →
    Accepts (.memTest p) cmdMemTest p s
      (fun a => (a.modChan p.idx fun C => { C with
        st := .inOrder, testing := some (originOf p), wiping := true }).modHub
        fun H => { H with wipes := H.wipes ++ [⟨.memTest p.idx, [p.idx]⟩] })
      (.memTest p.idx)) ∧
  (∀ p s, Ready cmdMemRetire p s → isLodge p.idx = false → chanServes s p.idx = true →
    Does (.memRetire p) cmdMemRetire p s fun a => fence a p.idx 3)

/-- GROOMER_READ, SCRUB_OVERDUE, LANE_RESWEEP, SWEEP_DONE, CHANNEL_RETIRE, RETIREMENT_RESUME, IN_ORDER_RECOVERY_END
and WIPE_DONE complete (R254, R261, R262, R266 to R271). A wipe of a whole unit leaves nothing in the channel. -/
def Obligations.MemoryEventsComplete : Prop :=
  (∀ (c : BitVec 7) age x y s s1, let b := (s.chan c.toNat).scrubPos.toNat
    chanServes s c.toNat = true →
    groomerTurn s c.toNat { MemReq.reset with
      cls := .scrub, addr := 72 * b, inChan := some c.toNat, len := 72, age := age } = some s1 →
    Becomes (.groomerRead c age x y) s (groomerNext (groomBurst s1 c.toNat b x y) c.toNat)) ∧
  (∀ (c : BitVec 7) s, chanServes s c.toNat = true → (s.chan c.toNat).scrubOverdue = false →
    24 * hourSlots ≤ passSlots s (s.chan c.toNat) →
    Becomes (.scrubOverdue c) s
      (evScrub (s.modChan c.toNat fun C => { C with scrubOverdue := true }) c.toNat true)) ∧
  (∀ (c : BitVec 7) (l : BitVec 3) s, (s.chan c.toNat).st = .service → l.toNat < 5 → isLodge c.toNat = false →
    64 < ((s.chan c.toNat).laneCe.filter fun x =>
      x.2 == l.toNat && decide (slotsTo x.1 s.time.slotCount < nsSlots 1000000)).length →
    Becomes (.laneResweep c l) s (s.modChan c.toNat fun C => { C with
      st := .inOrder, reSweep := some l.toNat })) ∧
  (∀ (c : BitVec 7) r s, isLodge c.toNat = false → (s.chan c.toNat).st = .training →
    Becomes (.sweepDone c r) s (trainChan s c.toNat r)) ∧
  (∀ (c : BitVec 7) r s, isLodge c.toNat = true → (s.chan c.toNat).st = .training →
    Becomes (.sweepDone c r) s (trainLodge s c.toNat r.fixedErrs)) ∧
  (∀ (c : BitVec 7) r s, isLodge c.toNat = false → (s.chan c.toNat).st = .inOrder →
    (s.chan c.toNat).reSweep.isSome = true → Becomes (.sweepDone c r) s (endReSweep s c.toNat r)) ∧
  (∀ (c : BitVec 7) s, isLodge c.toNat = false → chanServes s c.toNat = true →
    Becomes (.channelRetire c .noResponse) s (fence s c.toNat 1)) ∧
  (∀ (c : BitVec 7) s, isLodge c.toNat = false → chanServes s c.toNat = true → bit s.hub.memCfg 120 = true →
    fld s.hub.memCfg 128 8 ≤ (lastSecond s.time.slotCount (s.chan c.toNat).ueTimes).length →
    Becomes (.channelRetire c .errors) s (fence s c.toNat 0)) ∧
  (∀ (c : BitVec 7) s, (s.chan c.toNat).st = .fenced → (s.hub.marks.any fun m => m.2.2 == some c.toNat) = false →
    Becomes (.retirementResume c) s (retired s c.toNat)) ∧
  (∀ (r : BitVec 4) s, (s.region r.toNat).recover = true →
    nsSlots 1000000 ≤ slotsTo (s.region r.toNat).recoverFrom s.time.slotCount →
    Becomes (.inOrderRecoveryEnd r) s
      (forEach (regionChans r.toNat) toService (s.modRegion r.toNat fun R => { R with recover := false }))) ∧
  (∀ (c : BitVec 7) l s, (s.chan c.toNat).wiping = true → s.hub.wipes = [⟨.scope l, [c.toNat]⟩] →
    GivesNext (.wipeDone c) s fun t => t.hub.wipes = [] ∧ (t.chan c.toNat).wiping = false ∧
      (t.chan c.toNat).plist = [] ∧ (t.chan c.toNat).errs = [] ∧
      t.mem = if isLodge c.toNat then s.mem else Memory.wipe s.mem fun a => addrChan a == c.toNat) ∧
  (∀ (c : BitVec 7) w s, (s.chan c.toNat).wiping = true → s.hub.wipes = [w] →
    w.chans.filter (· != c.toNat) ≠ [] →
    GivesNext (.wipeDone c) s fun t => (t.chan c.toNat).wiping = false ∧
      t.hub.wipes = [{ w with chans := w.chans.filter (· != c.toNat) }])

/-- R250: every backed address has its own place: the channel and the channel-local byte give it back.
R251: for a fixed row, the rank and bank map is one to one on the low five bits of the row index, whatever
the select values. -/
def Obligations.AddressAndBankMaps : Prop :=
  (∀ a, backed a = true → addrChan a < 128 ∧ isLodge (addrChan a) = false ∧
     chanAddr (addrChan a) (addrLocal a) = some a) ∧
  (∀ (cfg : BitVec 256) (v w : Nat), v / 32 = w / 32 → bankKey cfg v = bankKey cfg w → v = w)

/-- MEM_REQUEST, MEM_ACCESS_COMPLETE, REFRESH, HAMMER_THRESHOLD, THROTTLE_END and RANK_POWER_DOWN complete (R253
to R256, R259, R263). A request that MEM_REQUEST lets in is accepted by its channel; one that the controller
serves next opens its row, and its bursts are read or written.
R272: a request of a DMA channel to a retired channel leaves memory alone; a read returns zeros with the
poison mark.
R263 to R265, R268: a read of a burst leaves memory alone; a listed burst reads with the poison mark; one
that does not decode is counted and read with the mark; one without an error reads as it stands and changes
nothing. -/
def Obligations.RetiredAndBadReads : Prop :=
  ((∀ (p : BitVec 7) s x rest, (s.port p.toNat).run.fifo = x :: rest → (s.port p.toNat).run.storesHeld = false →
     clearing s p.toNat = false →
     (storePieces x).any (fun y => (s.chan (addrChan y.1)).st == .fenced) = false →
     Becomes (.memRequest (.store p)) s (issueStore s p.toNat x rest)) ∧
   (∀ (n : BitVec 5) w a len s off bs s1, dmaWants s n.toNat w a len = some (off, bs) →
     dmaGate s n.toNat w a len = .passes s1 →
     Becomes (.memRequest (.dma n w a len)) s
       (acceptReq (s1.modDma n.toNat fun D => { D with cur := D.cur.map (dmaIssued w off len) })
         { MemReq.reset with
           cls := .dma, who := n.toNat, part := BitVec.ofNat 4 (dmaPart s n.toNat), write := w, addr := a
           data := bs.map (·.1), len := len, poison := bs.any (·.2), off := off } (some (dmaPart s n.toNat)))) ∧
   (∀ w hi a bs len s,
     let q : MemReq := { MemReq.reset with
       cls := .control, write := w, addr := a, inChan := some (if hi then 15 else 7), data := bs, len := len }
     0 < q.size → a + q.size ≤ reservedFrom → a / 4608 = (a + q.size - 1) / 4608 →
     Becomes (.memRequest (.lodge w hi a bs len)) s (acceptReq s q none)) ∧
   (∀ (c : BitVec 7) i xs s q, (s.chan c.toNat).queue[i]? = some q → mayServe s c.toNat i = true →
     q.write = false →
     let s1 := s.modChan c.toNat fun C =>
       countLate q (touchRow s.hub.memCfg s.time.slotCount { C with queue := C.queue.eraseIdx i } q.row q.id)
     let r := readBursts c.toNat q.count s1 q.bursts.1 xs
     Becomes (.memAccessComplete c i xs) s (reqDone r.1 q ((r.2.drop (q.start % 72)).take q.len))) ∧
   (∀ (c : BitVec 7) i xs s q, (s.chan c.toNat).queue[i]? = some q → mayServe s c.toNat i = true →
     q.write = true → q.cls ≠ .scrub →
     let s1 := s.modChan c.toNat fun C =>
       countLate q (touchRow s.hub.memCfg s.time.slotCount { C with queue := C.queue.eraseIdx i } q.row q.id)
     Becomes (.memAccessComplete c i xs) s
       (reqDone (writeBursts c.toNat q.poison q.count s1 q.bursts.1 (q.start % 72) q.data xs) q [])) ∧
   (∀ (c : BitVec 7) w s, chanServes s c.toNat = true →
     GivesNext (.refresh c false w) s fun t => (t.chan c.toNat).openRow = [] ∧
       (t.chan c.toNat).postponed = (s.chan c.toNat).postponed - 1 ∧
       (t.chan c.toNat).acts = if w then [] else (s.chan c.toNat).acts) ∧
   (∀ (c : BitVec 7) w s, chanServes s c.toNat = true →
     (s.chan c.toNat).queue.any (fun q => q.urgency == 2) = true → (s.chan c.toNat).postponed < 8 →
     Becomes (.refresh c true w) s (s.modChan c.toNat fun C => { C with postponed := C.postponed + 1 })) ∧
   (∀ (c : BitVec 7) who row b s, (s.chan c.toNat).hammerDue = [(who, row, b)] → who < 161 →
     GivesNext (.hammerThreshold c who) s fun t => (t.chan c.toNat).hammerDue = [] ∧
       (t.chan c.toNat).hammer = satInc (s.chan c.toNat).hammer ∧
       (t.chan c.toNat).throttled = (s.chan c.toNat).throttled ++ [(who, bankKey s.hub.memCfg row, b)]) ∧
   (∀ (c : BitVec 7) who x s, (s.chan c.toNat).throttled = [(who, x)] →
     GivesNext (.throttleEnd c who) s fun t => (t.chan c.toNat).throttled = []) ∧
   (∀ (c : BitVec 7) r s, chanServes s c.toNat = true → fld s.hub.memCfg 80 16 ≠ 0 →
     (s.chan c.toNat).rankDown.getD (b2n r) false = false → (s.chan c.toNat).queue = [] →
     Becomes (.rankPowerDown c r) s (s.modChan c.toNat fun C => { C with
       rankDown := C.rankDown.set (b2n r) true, openRow := C.openRow.filter fun x => x.1 / 16 != b2n r }))) ∧
  (∀ (s : State) (q : MemReq), (s.chan q.chan).st = .retired → q.cls = .dma →
     (acceptReq s q none).mem = s.mem ∧
     (q.write = false → acceptReq s q none =
       dmaReturn (s.modChan q.chan (countLate q)) q.who q.off (List.replicate q.len (0, true)))) ∧
  (∀ (s : State) (c b : Nat) (x : BurstIn) (back : Bool),
     let seen := xorSyms (xorSyms ((s.chan c).errs.get [] b) x.hard) x.soft
     (readBurst s c b x back).1.mem = s.mem ∧
     ((s.chan c).plist.contains b = true → (readBurst s c b x back).2.2 = true) ∧
     (decodeSyms seen = .bad → (readBurst s c b x back).2.2 = true ∧
       ((readBurst s c b x back).1.chan c).ue = satInc (s.chan c).ue) ∧
     (seen = [] → x.hard = [] → (readBurst s c b x back).1 = s))

/-- R289 to R293, R298, R299, R306, R310, R63: SQ_TAIL_DOORBELL, PACKET_FETCH, RQ_HEAD_DOORBELL, Q_ENABLE,
Q_DISABLE, QUEUE_DRAINED, MBOX_GO, CHUTE_PTR_WRITE, SLOT_CTRL_WRITE and REGISTER_WRITE complete.
R309 to R313, R316, R322 to R327: CHUTE_READ, CHUTE_WRITE, FLR, FLR_COMPLETE, D3HOT_ENTRY, D0_RETURN,
HOLDOFF_EXPIRE, PERST_A_ASSERT, PERST_B_ASSERT, PERST_B_DEASSERT, HOT_RESET, LINK_DOWN and ENDPOINT_LINK_UP
complete. -/
def Obligations.HostEventsComplete : Prop :=
  ((∀ (f : BitVec 4) v s, reach s f.toNat = true → (s.fn f.toNat).qState = .active →
     (v - (s.fn f.toNat).sqHead).toNat ≤ 2 ^ (s.fn f.toNat).sqLog2.toNat →
     Becomes (.sqTailDoorbell f v) s (s.modFn f.toNat fun F => { F with sqTail := v })) ∧
   (∀ (f : BitVec 4) v s, reach s f.toNat = true → (s.fn f.toNat).qState = .active →
     2 ^ (s.fn f.toNat).sqLog2.toNat < (v - (s.fn f.toNat).sqHead).toNat →
     Becomes (.sqTailDoorbell f v) s (s.modFn f.toNat fun F => { F with
       sqTail := v, qState := .error, qErr := 1 })) ∧
   (∀ p s, let F := s.fn p.fn.toNat
     p.mbox = false → F.active = true → (s.ep (p.fn.toNat / 8)).up = true → F.fetched.length < 16 →
     1 ≤ p.cells.toNat → p.cells.toNat ≤ 64 → p.cells.toNat ≤ (F.sqTail - F.sqHead).toNat → p.seq = F.qSeq →
     Becomes (.packetFetch p false) s (drainBad 16 (s.setFn p.fn.toNat { F with
       sqHead := F.sqHead + BitVec.ofNat 32 p.cells.toNat, qSeq := F.qSeq + 1
       fetched := F.fetched ++ [⟨p.core, strangeOpcode s p, dmaMarks s p.fn.toNat⟩] }) p.fn.toNat)) ∧
   (∀ p s, let F := s.fn p.fn.toNat
     p.mbox = false → F.active = true → (s.ep (p.fn.toNat / 8)).up = true → F.fetched.length < 16 →
     1 ≤ (F.sqTail - F.sqHead).toNat →
     Becomes (.packetFetch p true) s (s.setFn p.fn.toNat (F.queueError 4))) ∧
   (∀ (f : BitVec 4) v s, reach s f.toNat = true → (s.fn f.toNat).qState = .active →
     ((s.fn f.toNat).rqTail - v).toNat ≤ 2 ^ (s.fn f.toNat).rqLog2.toNat →
     Becomes (.rqHeadDoorbell f v) s (queueMoves (s.modFn f.toNat fun F => { F with rqHead := v }) f.toNat)) ∧
   (∀ (f : BitVec 4) s, let F := s.fn f.toNat
     reach s f.toNat = true → F.qState = .disabled → ringOk F.sqBase F.sqLog2 = true →
     ringOk F.rqBase F.rqLog2 = true →
     Becomes (.qEnable f) s (queueMoves (s.setFn f.toNat { F with
       en := true, qState := .active, qErr := 0 }) f.toNat)) ∧
   (∀ (f : BitVec 4) s, reach s f.toNat = true → (s.fn f.toNat).qState = .active →
     Becomes (.qDisable f) s ((dropGrants s f.toNat).setFn f.toNat { s.fn f.toNat with
       en := false, qState := .draining, fetched := [] })) ∧
   (∀ (f : BitVec 4) s, (s.fn f.toNat).qState = .draining → (s.fn f.toNat).begun = [] →
     (s.fn f.toNat).doneWait = [] →
     Becomes (.queueDrained f) s (s.setFn f.toNat (queueDisabled (s.fn f.toNat)))) ∧
   (∀ s, let p := mailboxPacket false (s.mbox.cmd.toList 0 4096)
     reach s 0 = true → s.mbox.ready = true → s.mbox.busy = false → mboxFail s p = none →
     Becomes .mboxGo s { s with mbox := { s.mbox with seq := s.mbox.seq + 1, busy := true, begun := false } }) ∧
   (∀ (f : BitVec 4) v s, reach s f.toNat = true →
     GivesNext (.chutePtrWrite f v) s fun t => let F := t.fn f.toNat
       fld F.chutePtr 0 39 = fld v 0 39 ∧ fld F.chutePtr 40 2 = fld v 40 2 ∧ F.prefetch = none) ∧
   (∀ (p : BitVec 7) v be s, reach s 0 = true →
     Becomes (.slotCtrlWrite p v be) s (slotCtrlWrite s p.toNat be.toNat v.toNat)) ∧
   (∀ (f : BitVec 4) off dws s, reach s f.toNat = true →
     Becomes (.registerWrite f off dws) s (bar0Write s f.toNat (off.toNat / 4 * 4) dws))) ∧
  ((∀ (f : BitVec 4) lanes m s x, reach s f.toNat = true → chuteRead s f.toNat (lanes.count true) m = some x →
     chuteSpace s f.toNat = 0 → 0 < lanes.count true →
     Becomes (.chuteRead f lanes m) s
       (chutePrefetch (x.1.out (.chute f.toNat (laneBytes lanes x.2.1) x.2.2)) f.toNat)) ∧
   (∀ (f : BitVec 4) bytes ep m s x, reach s f.toNat = true →
     chuteWrite s f.toNat (bytes.filterMap id) ep m = some x →
     Becomes (.chuteWrite f bytes ep m) s (if ep then aerNote x f.toNat else x)) ∧
   (∀ (f : BitVec 4) s, (s.ep (f.toNat / 8)).up = true → (s.fn f.toNat).flr = false →
     (s.fn f.toNat).pm ≠ .d3cold → Becomes (.flr f) s (startFlr s f.toNat)) ∧
   (∀ (f : BitVec 4) s, (s.fn f.toNat).flr = true → (s.fn f.toNat).flrWiped = true → f ≠ 0 →
     (s.fn f.toNat).pm = .d0 →
     Becomes (.flrComplete f) s (s.modFn f.toNat fun F => { F with flr := false, flrWiped := false })) ∧
   (∀ (f : BitVec 4) pme s, (s.ep (f.toNat / 8)).up = true → (s.fn f.toNat).pm = .d0 →
     (s.fn f.toNat).flr = false →
     Becomes (.d3hotEntry f pme) s (forEach (s.partDma f.toNat) dmaBetween
       (s.modFn f.toNat fun F => { F with pm := .d3hot, pmeEn := pme, pmeSent := false }))) ∧
   (∀ (f : BitVec 4) s, (s.ep (f.toNat / 8)).up = true → (s.fn f.toNat).pm = .d3hot →
     (s.fn f.toNat).flr = false →
     Becomes (.d0Return f) s (queueMoves (drainReplies (dmaGoOn (s.modFn f.toNat fun F => { F with
       pm := .d0, pmeSent := false }) f.toNat) f.toNat) f.toNat)) ∧
   (∀ (g : BitVec 6) s, s.fns.any (fun x => x.2.holdRun.getLsbD g.toNat) = true →
     Becomes (.holdoffExpire g) s { s with fns := s.fns.map fun x =>
       (x.1, { x.2 with holdRun := x.2.holdRun &&& ~~~ (1#64 <<< g.toNat) }) }) ∧
   (∀ s, (s.ep 0).perst = false → edgeLatched s = false →
     Becomes .perstAAssert s ((s.modEp 0 fun E => { E with
       perst := true, up := false, pmeRec := (s.fn 0).pmeEn }).modHub fun H => { H with resetDue := some 2 })) ∧
   (∀ s, (s.ep 1).perst = false →
     Becomes .perstBAssert s (forEach (epFns true) (fun s f => s.modFn f fun F => { F with pm := .d3cold })
       (forEach (epFns true) functionReset (s.modEp 1 fun E => { E with perst := true, up := false })))) ∧
   (∀ s, (s.ep 1).perst = true →
     Becomes .perstBDeassert s (forEach (epFns true) (fun s f => s.modFn f fun F => { F with pm := .d0 })
       (s.modEp 1 fun E => { E with perst := false }))) ∧
   (∀ ep s, (s.ep (b2n ep)).up = true → Becomes (.hotReset ep) s (forEach (epFns ep) functionReset s)) ∧
   (∀ ep s, (s.ep (b2n ep)).up = true → Becomes (.linkDown ep) s (linkDown s ep)) ∧
   (∀ ep s, (s.ep (b2n ep)).up = false → (s.ep (b2n ep)).perst = false → 7 ≤ s.boot.step → asleep s = false →
     Becomes (.endpointLinkUp ep) s (s.modEp (b2n ep) fun E => { E with up := true })))

/-- R315, R316: INTA of a function whose registers left reset is asserted exactly while a group routed to it is
effective and the function is in D0 with its Interrupt Disable bit 0; a group that stops being pending starts its
hold-off timer, unless the timer is 0. -/
def Obligations.IntaFollowsTheGroups : Prop :=
  (∀ s f, f ∈ s.fns.map (·.1) →
    ((settle s).fn f).inta = (((settle s).fn f).pm == .d0 && !((settle s).fn f).intDisable &&
      (routed f).any (effective (settle s) f))) ∧
  (∀ s f g, g ∈ routed f → f < 16 →
    ((evalFn s f).fn f).holdRun.getLsbD g = ((s.fn f).holdRun.getLsbD g ||
      ((s.fn f).wasPending.getLsbD g && !groupPending s g && (s.fn f).holdoff.get 0 g != 0)))

/-- R309: after a Chute read of `n` enabled lanes the pointer stands `n` bytes on in its space, a lane that is
not enabled reads zero, and capture memory stays.
R264, R309, R311: a Chute write leaves every burst of capture memory alone but those of the bytes at the
pointer; where those hold and meet no error, every byte outside the bytes at the pointer reads as before. -/
def Obligations.ChuteTransfers : Prop :=
  (∀ (f : BitVec 4) lanes m s t, reach s f.toNat = true →
     (∃ x, chuteRead s f.toNat (lanes.count true) m = some x) → exec (.chuteRead f lanes m) s = .next t →
     fld (t.fn f.toNat).chutePtr 0 39 = (fld (s.fn f.toNat).chutePtr 0 39 + lanes.count true) % 2 ^ 39 ∧
     fld (t.fn f.toNat).chutePtr 40 2 = fld (s.fn f.toNat).chutePtr 40 2 ∧ t.mem = s.mem ∧
     (∀ bs, (laneBytes lanes bs).length = lanes.length ∧
       ∀ i < lanes.length, lanes.getD i false = false → (laneBytes lanes bs).getD i 0 = 0)) ∧
  (∀ (f : BitVec 4) bytes ep m s t, exec (.chuteWrite f bytes ep m) s = .next t →
     let p := fld (s.fn f.toNat).chutePtr 0 39
     let n := (bytes.filterMap id).length
     (∀ a, (∀ i < n, ¬ (addrChan (p + i) = addrChan a ∧ addrBurst (p + i) = addrBurst a)) →
       Memory.read t.mem a = Memory.read s.mem a) ∧
     (m.bursts = [] → (∀ i < n, (s.chan (addrChan (p + i))).errs.get [] (addrBurst (p + i)) = []) →
       ∀ a, ¬ (p ≤ a ∧ a < p + n) → Memory.read t.mem a = Memory.read s.mem a))

/-- Families 0x0B and 0x0C (R328, R330, R342, R344, R346, R348 to R350, R354, R357, R358): both rows of DMA_SET,
DMA_GET, DMA_START, DMA_HALT, DMA_STATUS, CMP_JOB, CMP_RESUME, CMP_CANCEL and CMP_STATUS complete, with these
effects and answers.
DESC_FETCH, DMA_READ_COMPLETION, FOLLOW_WRITE_COUNT, DMA_WRITE_RESPONSE, CQ_HEAD_POLL, DMA_BUS_ERROR,
DMA_COMPLETION_TIMEOUT and CMP_JOB_END complete (R331, R334, R335, R337, R340 to R343, R357). -/
def Obligations.DmaRowsComplete : Prop :=
  ((∀ p s, Ready cmdDmaSet p s → p.target ≠ locPackage → dmaCfgOk (p.blk 512) = true →
     dmaStopped s p.idx = true →
     Does (.dmaSet p) cmdDmaSet p s fun a => a.modDma p.idx fun D => { D with
       cfg := p.blk 512, recCount := 0, consumed := 0, fpos := 0, fKey := none }) ∧
   (∀ p s, Ready cmdDmaSetTwinMask p s → p.target = locPackage →
     Does (.dmaSetTwinMask p) cmdDmaSetTwinMask p s fun a => a.modHub fun H => { H with
       twinMask := BitVec.ofNat 16 (p.inb 4 2) }) ∧
   (∀ p s, Ready cmdDmaGet p s → p.target ≠ locPackage →
     Does (.dmaGet p) cmdDmaGet p s id 0 (bytesOf 64 (s.dmaCh p.idx).cfg.toNat)) ∧
   (∀ p s, Ready cmdDmaGetTwin p s → p.target = locPackage →
     Does (.dmaGet p) cmdDmaGetTwin p s id s.hub.twinMask.toNat) ∧
   (∀ p s, Ready cmdDmaStart p s → p.inb 4 8 % 64 = 0 → dmaStopped s p.idx = true →
     Does (.dmaStart p) cmdDmaStart p s fun a => a.modDma p.idx fun D => { D with
       st := .running, head := BitVec.ofNat 64 (p.inb 4 8), nextDesc := some (BitVec.ofNat 64 (p.inb 4 8))
       recent := [], fetched := 0, cur := none, descs := 0, bytes := 0, crc := 0xFFFFFFFF, busErrors := 0
       winLocal := 0, recWait := none, haltPend := none, tries := 0, dieWait := none, followW := 0 }) ∧
   (∀ p s, Ready cmdDmaHalt p s → (s.dmaCh p.idx).st = .running →
     Starts (.dmaHalt p) cmdDmaHalt p s fun a =>
       dmaHalt (a.modDma p.idx fun D => { D with haltWait := D.haltWait ++ [p] }) p.idx 1) ∧
   (∀ p s, Ready cmdDmaStatus p s →
     Does (.dmaStatus p) cmdDmaStatus p s id 0 (bytesOf 64 (dmaStatus (s.dmaCh p.idx)))) ∧
   (∀ p s m, Ready cmdCmpJob p s → jobOk (p.blk 512) = true → encrypts s p.part = false →
     dmaStopped s p.idx = true → freeCmp s = some m → fld (p.blk 512) 262 1 = 0 →
     Accepts (.cmpJob p) cmdCmpJob p s (fun a =>
       (a.modCmp m fun _ => { Cmp.reset with
         st := 1, channel := BitVec.ofNat 5 p.idx, block := p.blk 512, areaAddr := fbv (p.blk 512) 64 64
         areaLen := fld (p.blk 512) 128 64, part := p.part }).modDma p.idx fun D => { D with
           st := .job, job := some m, head := fbv (p.blk 512) 0 64, nextDesc := some (fbv (p.blk 512) 0 64)
           recent := [], fetched := 0, cur := none, recWait := none, haltPend := none, tries := 0
           dieWait := none })
       (.cmp m) (loc 5 m)) ∧
   (∀ p s, Ready cmdCmpResume p s → 1 ≤ p.dat 0 8 → p.dat 0 8 ≤ 2 ^ 40 → encrypts s p.part = false →
     (s.cmpEng p.idx).st = 2 →
     Accepts (.cmpResume p) cmdCmpResume p s (fun a => a.modCmp p.idx fun C => { C with
       st := 1, areaAddr := BitVec.ofNat 64 (p.inb 4 8), areaLen := p.dat 0 8, outArea := 0 })
       (.cmp p.idx) (loc 5 p.idx)) ∧
   (∀ p s, Ready cmdCmpCancel p s → (s.cmpEng p.idx).st = 1 →
     Does (.cmpCancel p) cmdCmpCancel p s fun a =>
       cmpEnd a p.idx 7 2 (min (s.cmpEng p.idx).inConsumed.toNat (2 ^ 32 - 1)) .idle) ∧
   (∀ p s, Ready cmdCmpCancel p s → (s.cmpEng p.idx).st = 2 →
     Does (.cmpCancel p) cmdCmpCancel p s fun a =>
       (a.modCmp p.idx fun C => { C with st := 3, input := [], output := [] }).modDma
         (s.cmpEng p.idx).channel.toNat fun D => { D with
           st := .idle, cur := none, nextDesc := none, recWait := none, haltPend := none, job := none }) ∧
   (∀ p s, Ready cmdCmpStatus p s →
     Does (.cmpStatus p) cmdCmpStatus p s id 0 (bytesOf 64 (cmpStatus (s.cmpEng p.idx))))) ∧
  ((∀ (n : BitVec 5) bits m s a, (s.dmaCh n.toNat).st = .running → (s.dmaCh n.toNat).nextDesc = some a →
     (s.dmaCh n.toNat).cur = none → (s.dmaCh n.toNat).recWait = none →
     (s.dmaCh n.toNat).recent.contains a = false → ((s.dmaCh n.toNat).fetched = 0 ∨ a ≠ (s.dmaCh n.toNat).head) →
     (s.dmaCh n.toNat).fetched < (s.dmaCh n.toNat).budget →
     descOk { Desc.reset with bits := bits } false = true → descMine s n.toNat { Desc.reset with bits := bits } = true →
     bit bits 312 = false → fld bits 304 4 ≤ 3 →
     GivesNext (.descFetch n bits [] m) s fun t =>
       let D := t.dmaCh n.toNat
       (D.cur.map fun d => (d.addr, d.bits, d.total, d.read, d.sent)) = some (a, bits, fld bits 256 32, 0, 0) ∧
       D.st = .running ∧ D.descAddr = a ∧ D.fetched = (s.dmaCh n.toNat).fetched + 1 ∧
       D.crc = (if bit bits 315 then 0xFFFFFFFF else (s.dmaCh n.toNat).crc)) ∧
   (∀ (n : BitVec 5) bytes poison m s d, (s.dmaCh n.toNat).cur = some d → (s.dmaCh n.toNat).recWait = none →
     (s.dmaCh n.toNat).st = .running → bytes ≠ [] → d.read + bytes.length ≤ d.total → d.srcSpace = 0 →
     bufRoom s n.toNat bytes.length = true →
     Becomes (.dmaReadCompletion n bytes poison m) s
       (takeData (if poison then aerNote s (dmaPart s n.toNat) else s) n.toNat (bytes.map (·, poison)))) ∧
   (∀ (n : BitVec 5) (w : BitVec 64) s d, (s.dmaCh n.toNat).cur = some d → d.follows = true →
     (s.dmaCh n.toNat).followW ≤ w.toNat → w.toNat ≤ writeCount s d.srcPort (if d.srcSpace = 4 then 1 else 2) →
     Becomes (.followWriteCount n w) s (dmaSettle (s.modDma n.toNat fun D => { D with followW := w.toNat }) n.toNat)) ∧
   (∀ (n : BitVec 5) len s d, (s.dmaCh n.toNat).cur = some d → (s.dmaCh n.toNat).recWait = none →
     (s.dmaCh n.toNat).job = none → (s.dmaCh n.toNat).st = .running → 0 < len → d.dstSpace = 0 →
     len ≤ d.held.length → (∀ x ∈ d.held.take len, x.2 = false) → d.sent + len ≤ d.total →
     Becomes (.dmaWriteResponse n len) s (dmaSettle (sendHost s n.toNat d len) n.toNat)) ∧
   (∀ (n : BitVec 5) v s r, (s.dmaCh n.toNat).recWait = some r →
     2 ^ (s.dmaCh n.toNat).cqLog2 ≤ ((s.dmaCh n.toNat).recCount - v).toNat →
     Becomes (.cqHeadPoll n v) s (s.modDma n.toNat fun D => { D with consumed := v, tries := 0 })) ∧
   (∀ (n : BitVec 5) v s r, (s.dmaCh n.toNat).recWait = some r → (s.dmaCh n.toNat).st = .running →
     ((s.dmaCh n.toNat).recCount - v).toNat < 2 ^ (s.dmaCh n.toNat).cqLog2 →
     Becomes (.cqHeadPoll n v) s (dmaBetween (writeRecord
       (s.modDma n.toNat fun D => { D with consumed := v, tries := 0 }) n.toNat r) n.toNat)) ∧
   (∀ (n : BitVec 5) s, dmaCanFail (s.dmaCh n.toNat) true = true →
     Becomes (.dmaBusError n true) s (dmaFail s n.toNat true)) ∧
   (∀ (n : BitVec 5) s d, dmaCanFail (s.dmaCh n.toNat) false = true → (s.dmaCh n.toNat).cur = some d →
     Becomes (.dmaBusError n false) s (dmaFail s n.toNat false)) ∧
   (∀ (n : BitVec 5) s, dmaCanFail (s.dmaCh n.toNat) true = true → (s.dmaCh n.toNat).dieWait = none →
     Becomes (.dmaCompletionTimeout n true) s (dmaFail s n.toNat true)) ∧
   (∀ (m : BitVec 4) (r : CmpIn) x s, (s.cmpEng m.toNat).st = 1 →
     (s.dmaCh (s.cmpEng m.toNat).channel.toNat).st = .job → r.outcome = 4 → r.output = [] →
     outcomeOk s m.toNat 4 [] = true →
     GivesNext (.cmpJobEnd m r x) s fun t =>
       (t.cmpEng m.toNat).st = 3 ∧ (t.cmpEng m.toNat).outcome = 4 ∧
       (t.dmaCh (s.cmpEng m.toNat).channel.toNat).st = .idle ∧
       (t.dmaCh (s.cmpEng m.toNat).channel.toNat).job = none ∧ t.mem = s.mem))

/-- R343: a failed attempt with retries left is counted and retried in place; when the retries are spent the
channel halts, with reason 3 for a write, and nothing more of the descriptor is moved. -/
def Obligations.BusErrorsAreRetriedThenHalt : Prop :=
  ∀ (s : State) (n : Nat) (w : Bool), (s.dmaCh n).st = .running → (s.dmaCh n).recWait = none →
    ((s.dmaCh n).tries < (s.dmaCh n).retry →
      let D := (dmaFail s n w).dmaCh n
      D.st = .running ∧ D.tries = (s.dmaCh n).tries + 1 ∧ D.busErrors = satInc (s.dmaCh n).busErrors ∧
      D.cfg = (s.dmaCh n).cfg ∧ D.nextDesc = (s.dmaCh n).nextDesc ∧ D.bytes = (s.dmaCh n).bytes) ∧
    ((s.dmaCh n).retry ≤ (s.dmaCh n).tries → w = true → ((s.dmaCh n).cqBase = 0 ∨ (s.dmaCh n).cqRoom = true) →
      (s.dmaCh n).job = none →
      (dmaFail s n true).mem = s.mem ∧
      let D := (dmaFail s n true).dmaCh n
      D.st = .halted ∧ D.haltReason = 3 ∧ D.cur = none ∧ D.nextDesc = none)

/-- R344: "Before fetching a descriptor, the channel compares its address with the chain head and with the
addresses of the 8 descriptors fetched most recently": a match halts the channel with reason 5, and a fetch that
would exceed the budget halts it with reason 6; in both cases nothing is fetched. -/
def Obligations.LoopedChainHalts : Prop :=
  (∀ (n : BitVec 5) bits idx m s a, (s.dmaCh n.toNat).st = .running → (s.dmaCh n.toNat).nextDesc = some a →
    (s.dmaCh n.toNat).cur = none → (s.dmaCh n.toNat).recWait = none → (s.dmaCh n.toNat).job = none →
    ((s.dmaCh n.toNat).cqBase = 0 ∨ (s.dmaCh n.toNat).cqRoom = true) →
    (s.dmaCh n.toNat).resetting = false →
    ((s.dmaCh n.toNat).recent.contains a = true ∨
      (0 < (s.dmaCh n.toNat).fetched ∧ a = (s.dmaCh n.toNat).head)) →
    GivesNext (.descFetch n bits idx m) s fun t =>
      let D := t.dmaCh n.toNat
      D.st = .halted ∧ D.haltReason = 5 ∧ D.fetched = (s.dmaCh n.toNat).fetched ∧ D.descAddr = a ∧
      D.cur = none ∧ t.mem = s.mem) ∧
  (∀ (n : BitVec 5) bits idx m s a, (s.dmaCh n.toNat).st = .running → (s.dmaCh n.toNat).nextDesc = some a →
    (s.dmaCh n.toNat).cur = none → (s.dmaCh n.toNat).recWait = none → (s.dmaCh n.toNat).job = none →
    ((s.dmaCh n.toNat).cqBase = 0 ∨ (s.dmaCh n.toNat).cqRoom = true) →
    (s.dmaCh n.toNat).recent.contains a = false →
    ((s.dmaCh n.toNat).fetched = 0 ∨ a ≠ (s.dmaCh n.toNat).head) →
    (s.dmaCh n.toNat).resetting = false →
    (s.dmaCh n.toNat).budget ≤ (s.dmaCh n.toNat).fetched →
    GivesNext (.descFetch n bits idx m) s fun t =>
      let D := t.dmaCh n.toNat
      D.st = .halted ∧ D.haltReason = 6 ∧ D.fetched = (s.dmaCh n.toNat).fetched ∧ D.cur = none ∧
      t.mem = s.mem) ∧
  (∀ (n : BitVec 5) bits m s a, (s.dmaCh n.toNat).nextDesc = some a → (s.dmaCh n.toNat).cur = none →
    (s.dmaCh n.toNat).recWait = none → (s.dmaCh n.toNat).st = .running →
    (s.dmaCh n.toNat).recent.contains a = false →
    ((s.dmaCh n.toNat).fetched = 0 ∨ a ≠ (s.dmaCh n.toNat).head) →
    (s.dmaCh n.toNat).fetched < (s.dmaCh n.toNat).budget → fld bits 304 4 ≤ 3 →
    descOk { Desc.reset with bits := bits } false = true →
    descMine s n.toNat { Desc.reset with bits := bits } = true → bit bits 312 = false →
    GivesNext (.descFetch n bits [] m) s fun t =>
      (t.dmaCh n.toNat).recent = ((s.dmaCh n.toNat).recent ++ [a]).drop ((s.dmaCh n.toNat).recent.length - 7))

/-- Family 0x0D (R73, R243, R300, R375, R381, R383, R384): SYS_EPOCH_SET, SYS_TIME_GET, SYS_TRIG_OUT_SET,
SYS_TRIG_OUT_GET, SYS_LINK_SET, SYS_LINK_STATUS, SYS_MSG_SEND and SYS_PHASE_STEP complete, with these effects
and answers. The layout of the parameters that the spec does not give is log entry 1501. -/
def Obligations.SystemCommandsComplete : Prop :=
  (∀ p s, Ready cmdSysEpochSet p s → p.dat 1 8 % 64 = 0 → p.dat 1 8 < 2 ^ 64 → p.dat 9 1 = 0 →
    anyArmed s = false → follows s = false → (s.vach.role ≠ 3 ∨ ∀ v < 4, (s.vp v).peerArmed = false) →
    s.time.wait = none →
    Does (.sysEpochSet p) cmdSysEpochSet p s fun a =>
      loadEpoch a (a.time.slotCount + 64) (BitVec.ofNat 64 (p.dat 1 8)) (BitVec.ofNat 8 (p.dat 0 1)) false) ∧
  (∀ p s, Ready cmdSysEpochSet p s → p.dat 1 8 % 64 = 0 → p.dat 1 8 < 2 ^ 64 →
    (p.dat 9 1 = 1 ∨ p.dat 9 1 = 2) →
    anyArmed s = false → follows s = false → (s.vach.role ≠ 3 ∨ ∀ v < 4, (s.vp v).peerArmed = false) →
    s.time.wait = none →
    Accepts (.sysEpochSet p) cmdSysEpochSet p s (fun a => { a with time := { a.time with
      wait := some ⟨p.dat 9 1 == 2, BitVec.ofNat 64 (p.dat 1 8), BitVec.ofNat 8 (p.dat 0 1), originOf p⟩ } })
      .epoch) ∧
  (∀ p s, Ready cmdSysTimeGet p s →
    Does (.sysTimeGet p) cmdSysTimeGet p s id (s.nowTm.toNat + 2 ^ 72 * s.tmStOf s.time.slotCount)) ∧
  (∀ p s, Ready cmdSysTrigOutSet p s → p.subv ≤ 1 → fld (p.blk 32) 16 8 ≠ 0 →
    selOk (fld (p.blk 32) 0 12) 5 = true → zeros (p.blk 32) [(13, 3), (24, 8)] = true →
    let t := { s.hub.trigOut.get TrigOut.reset p.subv with route := p.blk 32, fires := 0, overruns := 0 }
    Does (.sysTrigOutSet p) cmdSysTrigOutSet p s
      (fun a => (a.modHub fun H => { H with trigOut := H.trigOut.set p.subv t }).out
        (.trigLevel p.subv (some (t.level s.time.slotCount)))) (trigOutResult t)) ∧
  (∀ p s, Ready cmdSysTrigOutGet p s → p.subv ≤ 1 →
    Does (.sysTrigOutGet p) cmdSysTrigOutGet p s id
      (trigOutResult (s.hub.trigOut.get TrigOut.reset p.subv))) ∧
  (∀ p s, Ready cmdSysLinkSet p s → vachCfgOk (p.blk 512) = true →
    (∀ k < 12, routeOwned s (p.blk 512) k = true) → anyArmed s = false →
    (s.vach.role ≠ 3 ∨ ∀ v < 4, (s.vp v).peerArmed = false) →
    Does (.sysLinkSet p) cmdSysLinkSet p s fun a =>
      applyJoin (forEach (List.range 4) applyEnable (a.modVach fun V => { V with cfg := p.blk 512 }))) ∧
  (∀ p s, Ready cmdSysLinkStatus p s → p.subv = 0 →
    Does (.sysLinkStatus p) cmdSysLinkStatus p s id 0 (bytesOf 64 s.vach.cfg.toNat)) ∧
  (∀ p s, Ready cmdSysLinkStatus p s → p.subv = 1 →
    Does (.sysLinkStatus p) cmdSysLinkStatus p s id 0 (bytesOf 64 (vachStatus s.vach))) ∧
  (∀ p s, Ready cmdSysMsgSend p s → p.inb 4 2 < 4096 → p.inb 6 1 < 16 → 2 ≤ s.vach.role.toNat →
    p.inb 4 2 ≠ s.vach.devId →
    let seq := s.vach.txSeq.get 0 (p.inb 4 2) + 1
    Does (.sysMsgSend p) cmdSysMsgSend p s (fun a =>
      flood (a.modVach fun V => { V with txSeq := V.txSeq.set (p.inb 4 2) seq }) none
        (messageFrame 2 (p.inb 4 2) s.vach.devId (p.inb 6 1) seq.toNat (BitVec.ofNat 128 (p.dat 0 16))))
      seq.toNat) ∧
  (∀ p s, Ready cmdSysPhaseStep p s → follows s = false → (s.vach.role ≠ 3 ∨ s.vach.ppsLock = false) →
    s.vach.stepOrigin = none →
    let n := (BitVec.ofNat 16 (p.inb 4 2)).toInt
    n.natAbs ≤ 1023 → n ≠ 0 →
    (s.time.epochSet = false ∨ (0 ≤ s.time.fraction.toNat + 16 * n ∧ s.time.fraction.toNat + 16 * n ≤ 255)) →
    Starts (.sysPhaseStep p) cmdSysPhaseStep p s fun a => a.modVach fun V => { V with
      stepsDue := n, stepOrigin := some p })

/-- SYNC_IN_EDGE, EPOCH_LOAD_TIMEOUT, PPS_EDGE, PPS_MISSING, REFCLK_LOSS_COAST, PLL_LOCK, PHASE_STEP,
STEER_UPDATE and FOLLOWER_EPOCH_LOAD complete (R73, R75, R76, R368, R369, R378 to R382).
FLIT_RECEIVE, TIME_TRANSFER, MESSAGE, MESSAGE_BROADCAST, LINK_CONTROL, XTRIG_RECORD_ENTRY, VP_LANE_LOST,
VP_TRAIN_TIMEOUT, VP_TRAIN_DONE, VP_DOWN_RETRAIN and TREE_REFORM complete (R361 to R367, R373 to R377). -/
def Obligations.TimeAndVacheodEventsComplete : Prop :=
  ((∀ slot s, s.time.wait = none → s.vach.divArm = true →
     (∀ x ∈ s.ports, x.2.state = .down ∨ x.2.state = .powered) →
     GivesNext (.syncInEdge slot) s fun t =>
       t.vach.divSet = some slot ∧ t.vach.divArm = false ∧ t.vach.syncPhaseErr = s.vach.syncPhaseErr) ∧
   (∀ s w, s.time.wait = some w →
     Becomes .epochLoadTimeout s (abandonEpoch s (if w.onSync then 2 else 1))) ∧
   (∀ tm s, s.vach.ppsSlot = none →
     Becomes (.ppsEdge tm) s (edgeLoad (disciplinePps ((edgeFires s 2 true (fbv tm 8 64)).modVach fun V =>
       { V with ppsOk := true, ppsTm := tm, ppsSlot := some (fbv tm 8 64) }) tm) false (fbv tm 8 64))) ∧
   (∀ s, s.vach.ppsOk = true →
     Becomes .ppsMissing s (evLink (s.modVach fun V => { V with ppsOk := false }) 10 0xF 0)) ∧
   (∀ r s, s.time.coast = false → s.clk.dclkLock = true →
     GivesNext (.refclkLossCoast r) s fun t =>
       t.time.coast = true ∧ t.time.coasted = true ∧ t.clk.dclkLock = false ∧ t.clk.refclkOk = r ∧
       t.clk.coastCount = satInc s.clk.coastCount) ∧
   (∀ mv s, GivesNext (.pllLock mv) s fun t => t.clk.lkfMv = mv ∧
     (mv.toNat < 600 → t.clk.dclkLock = false) ∧
     (600 ≤ mv.toNat → mv.toNat < 800 → t.clk.dclkLock = s.clk.dclkLock ∧ t.time = s.time) ∧
     (800 ≤ mv.toNat → 6 ≤ s.boot.step → t.clk.dclkLock = true ∧ t.time.coast = false)) ∧
   (∀ s, s.vach.stepsDue ≠ 0 → stepFree s = true → s.vach.stepOrigin = none →
     Becomes .phaseStep s (oneStep s (decide (0 < s.vach.stepsDue)))) ∧
   (∀ s, follows s = true → (s.vp s.vach.upstream.toNat).theta ≠ [] → s.vach.stepsDue = 0 →
     s.vach.stepOrigin = none → s.vach.epochOk = true →
     let mean := meanTheta (s.vp s.vach.upstream.toNat)
     let g := (s.time.fraction.toNat : Int) + mean
     Becomes .steerUpdate s (s.modVach fun V => { V with
       offset := BitVec.ofInt 24 mean, gridOffset := g, stepsDue := max (-4) (min 4 (-(g / 16))) })) ∧
   (∀ slot frac s, follows s = true → s.vach.epochOk = false → anyArmed s = false → s.vach.exchanges = 64 →
     s.vach.stepsDue = 0 → s.vach.stepOrigin = none → slot.toNat % 64 = 0 → frac.toNat ≤ 15 →
     s.time.coast = false →
     GivesNext (.followerEpochLoad slot frac) s fun t =>
       t.time.slotCount = slot ∧ t.time.fraction = frac ∧ t.time.src = true ∧ t.time.coasted = false ∧
       t.time.epochGen = s.time.epochGen + 1 ∧ t.vach.epochOk = true ∧ t.vach.sysEpoch = epochKnown s)) ∧
  ((∀ (v : BitVec 2) flit s, (s.vp v.toNat).trained = true → (s.vp v.toNat).laneLost = none →
     (s.vp v.toNat).pieces = [] →
     Becomes (.flitReceive v flit false) s (s.modVp v.toNat fun P => { P with
       xtErr := satInc P.xtErr, pieces := [] })) ∧
   (∀ (v : BitVec 2) flit s, (s.vp v.toNat).trained = true → fld flit 0 2 = 2 →
     Becomes (.flitReceive v flit true) s (takePiece (takeRecords (s.modVp v.toNat fun P => { P with
       peerReady := true }) v.toNat flit) v.toNat (bit flit 2) (fbv flit 180 12))) ∧
   (∀ (v : BitVec 2) frame tm s, (s.vp v.toNat).st = .tree ∨ (s.vp v.toNat).st = .standby →
     sideOk frame = true → fld frame 0 4 = 1 → (s.vp v.toNat).ttSent = [] →
     Becomes (.timeTransfer v frame tm) s (s.modVp v.toNat fun P => { P with
       ttPeer := fbv frame 8 4, ttArr := tm })) ∧
   (∀ (v : BitVec 2) frame s, (s.vp v.toNat).st = .tree → sideOk frame = true → fld frame 0 4 = 2 →
     fld frame 4 12 ≠ s.vach.devId →
     Becomes (.message v frame) s (flood s (some v.toNat) frame)) ∧
   (∀ (v : BitVec 2) frame s, (s.vp v.toNat).st = .tree → sideOk frame = true → fld frame 0 4 = 2 →
     fld frame 4 12 = s.vach.devId → Becomes (.message v frame) s (deliverMsg s frame false)) ∧
   (∀ (v : BitVec 2) frame s, (s.vp v.toNat).st = .tree → sideOk frame = true → fld frame 0 4 = 3 →
     Becomes (.messageBroadcast v frame) s (deliverMsg (flood s (some v.toNat) frame) frame true)) ∧
   (∀ (v : BitVec 2) frame s, (s.vp v.toNat).trained = true → sideOk frame = true → fld frame 0 4 = 4 →
     GivesNext (.linkControl v frame) s fun t =>
       let P := t.vp v.toNat
       P.peer = fbv frame 4 12 ∧ P.peerLeader = fbv frame 16 12 ∧ P.peerPrio = fbv frame 28 4 ∧
       P.peerDepth = fbv frame 32 4 ∧ P.peerArmed = bit frame 36 ∧ P.peerMode = fbv frame 37 2 ∧
       P.peerEpoch = fbv frame 40 16) ∧
   (∀ (v : BitVec 2) r rest s, (s.vp v.toNat).elastic = r :: rest → r.late = true →
     GivesNext (.xtrigRecordEntry v) s fun t =>
       (t.vp v.toNat).xtLate = satInc (s.vp v.toNat).xtLate ∧ (t.vp v.toNat).elastic = rest ∧
       t.vach.padAlarm = true ∧ t.ports = s.ports ∧ t.pcs = s.pcs) ∧
   (∀ (v : BitVec 2) r rest s, (s.vp v.toNat).elastic = r :: rest → r.late = false →
     notAfter r.entry s.time.slotCount = true →
     Becomes (.xtrigRecordEntry v) s
       (forEach ((List.range 12).filter fun k => bit r.bits (4 + k) && carriageLine s k ≤ 143) (fun s k =>
         lineFire s (carriageLine s k) (r.entry + BitVec.ofNat 64 (fld r.bits (16 + 6 * k) 6)) (some v.toNat))
         (s.modVp v.toNat fun P => { P with elastic := rest }))) ∧
   (∀ (v lane : BitVec 2) s, (s.vp v.toNat).trained = true → (s.vp v.toNat).laneLost = none →
     Becomes (.vpLaneLost v lane) s (s.modVp v.toNat fun P => { P with laneLost := some lane.toNat })) ∧
   (∀ (v lane : BitVec 2) s k, (s.vp v.toNat).trained = true → (s.vp v.toNat).laneLost = some k →
     k ≠ lane.toNat → GivesNext (.vpLaneLost v lane) s fun t => (t.vp v.toNat).st = .down) ∧
   (∀ (v : BitVec 2) s, (s.vp v.toNat).st = .train →
     GivesNext (.vpTrainTimeout v) s fun t => (t.vp v.toNat).st = .down) ∧
   (∀ (v : BitVec 2) d s, (s.vp v.toNat).st = .train →
     GivesNext (.vpTrainDone v d) s fun t => (t.vp v.toNat).st = .notReady ∧ (t.vp v.toNat).delay = d ∧
       (t.vp v.toNat).cl = BitVec.ofNat 8 (min 255 (clOf d.toNat)) ∧ (t.vp v.toNat).laneLost = none) ∧
   (∀ (v : BitVec 2) s, (s.vp v.toNat).st = .down →
     GivesNext (.vpDownRetrain v) s fun t => (t.vp v.toNat).st = .train) ∧
   (∀ s, s.vach.join = true → s.boot.step = 11 → (∀ v < 4, (s.vp v).trained = false) → s.vach.prio ≠ 0 →
     s.vach.role ≠ 2 → s.vach.role ≠ 4 →
     GivesNext .treeReform s fun t =>
       t.vach.role = 3 ∧ t.vach.leaderId = BitVec.ofNat 12 s.vach.devId ∧ t.vach.depth = 0 ∧
       t.vach.upstream = 0xF))

/-- R373: C_l is the least whole number of DCLK that is not below the measured delay plus 0.25 ns; a delay of
4.90 ns gives 8, and one of 12.10 ns gives 18.
R375: a message is accepted exactly when its number is 1 to 1,024 above the last accepted one of its source
and kind; any other leaves the state as it was. -/
def Obligations.CarriageAndMessages : Prop :=
  (clOf 1225 = 8 ∧ clOf 3025 = 18 ∧
   ∀ d, (4 * d + 250) * 9 ≤ 6400 * clOf d ∧ 6400 * clOf d < (4 * d + 250) * 9 + 6400) ∧
  (∀ (s : State) (f : BitVec 192),
     let src := fld f 16 12
     let m : BitVec 16 := fbv f 32 16
     let step := (m - s.vach.rxSeq.get 0 src).toNat
     (step = 0 ∨ 1024 < step → deliverMsg s f false = s) ∧
     (1 ≤ step → step ≤ 1024 →
       (deliverMsg s f false).vach.rxSeq.get 0 src = m ∧
       (deliverMsg s f false).vach.rxBcast = s.vach.rxBcast ∧
       (step = 1 → (deliverMsg s f false).vach.msgGap = s.vach.msgGap) ∧
       (deliverMsg s f false).mem = s.mem))

/-- Family 0x0E (R387, R397, R398, R401, R402, R404, R406, R407): PWR_CAP_SET, the three states of
PWR_STATE_SET, PWR_STATUS, CLK_STATUS, MON_SEQ_SET, MON_READ and both steps of MON_CAL complete, with these
effects and answers. -/
def Obligations.PowerCommandsComplete : Prop :=
  (∀ p s, Ready cmdPwrCapSet p s → pwrCfgOk (p.blk 256) = true →
    tokensInUse s ≤ fld (p.blk 256) 0 11 * 2600 / 1550 →
    Does (.pwrCapSet p) cmdPwrCapSet p s fun a =>
      fitBudget (a.modPwr fun P => { P with cfg := p.blk 256 }) (fld (p.blk 256) 0 11 * 2600 / 1550)) ∧
  (∀ p s, Ready cmdState p s → p.inb 4 1 = 0 → p.inb 0 4 = 0 → mayPark s = true →
    Does (.pwrStateSetOff p) cmdState p s fun a => a.modPwr fun P => { P with
      target := some (0, BitVec.ofNat 32 (p.inb 8 4)) }) ∧
  (∀ p s, Ready cmdState p s → p.inb 4 1 = 1 → p.inb 0 4 = 0 → mayPark s = true →
    Does (.pwrStateSetParked p) cmdState p s fun a => a.modPwr fun P => { P with
      target := some (1, BitVec.ofNat 32 (p.inb 8 4)) }) ∧
  (∀ p s, Ready cmdState p s → p.inb 4 1 = 2 → p.inb 0 4 = 0 →
    (∀ d < 4, newPolicy p d = 1 → dieInUse s d = false) →
    GivesNext (.pwrStateSetReady p) s fun t => ∀ d < 4, (t.die d).policy = BitVec.ofNat 2 (newPolicy p d)) ∧
  (∀ p s, Ready cmdPwrStatus p s →
    Does (.pwrStatus p) cmdPwrStatus p s
      (fun a => noteAlarms (alarms a) (a.modPwr fun P => { P with meterEst := false })) 0
      (bytesOf 64 (powerStatus s (p.fn == 0)))) ∧
  (∀ p s, Ready cmdClkStatus p s →
    Does (.clkStatus p) cmdClkStatus p s id 0 (bytesOf 32 (clockStatus s))) ∧
  (∀ p s, let n := p.dat 0 4 % 64
    let es := (List.range n).map fun i => BitVec.ofNat 32 (p.dat (4 + 4 * i) 4)
    Ready cmdMonSeqSet p s → monSeqOk (p.dat 0 4) es = true → 4 + 4 * n ≤ p.data.length →
    s.mon.running = false →
    Does (.monSeqSet p) cmdMonSeqSet p s fun a => { a with mon := { a.mon with
      header := BitVec.ofNat 32 (p.dat 0 4), entries := a.mon.entries.setList 0 es, cur := 0, pass := 0
      running := true, next := none, results := a.mon.results.map fun x => (x.1, put x.2 16 1 0) } }) ∧
  (∀ p s, let n := p.dat 0 4 % 64
    let es := (List.range n).map fun i => BitVec.ofNat 32 (p.dat (4 + 4 * i) 4)
    Ready cmdMonSeqSet p s → monSeqOk (p.dat 0 4) es = true → 4 + 4 * n ≤ p.data.length →
    s.mon.running = true →
    Does (.monSeqSet p) cmdMonSeqSet p s fun a => { a with mon := { a.mon with
      next := some (BitVec.ofNat 32 (p.dat 0 4), es) } }) ∧
  (∀ p s, Ready cmdMonRead p s →
    Does (.monRead p) cmdMonRead p s id 0 ((s.mon.results.toList 0 32).flatMap fun r => bytesOf 4 r.toNat)) ∧
  (∀ p s, Ready cmdMonCal p s → p.inb 4 1 ≤ 23 → p.inb 5 1 = 0 → s.mon.calBusy = none →
    Accepts (.monCalZero p) cmdMonCal p s (fun a => { a with mon := { a.mon with
      calBusy := some (p.inb 4 1, false, BitVec.ofNat 16 (p.inb 6 2), originOf p) } }) (.monCal (p.inb 4 1))) ∧
  (∀ p s, Ready cmdMonCal p s → p.inb 4 1 ≤ 23 → p.inb 5 1 = 1 → s.mon.calBusy = none →
    Accepts (.monCalFullScale p) cmdMonCal p s (fun a => { a with mon := { a.mon with
      calBusy := some (p.inb 4 1, true, BitVec.ofNat 16 (p.inb 6 2), originOf p) } }) (.monCal (p.inb 4 1)))

/-- TOKEN_GRANT, TOKEN_WAIT_TIMEOUT, DIE_FABRIC_READY, CONTAINER_POWER_UP_DONE, CLUSTER_IDLE_OFF, DIE_IDLE_OFF,
PARK_TRANSITION, WAKE_EDGE, WAKE_TIMER, TELEMETRY_SAMPLE, TEMPERATURE_READ, MON_ENTRY_DONE, URGENT_CONVERSION
and MON_CAL_MEASUREMENT_DONE complete (R20, R387 to R389, R394 to R396, R399, R400, R404 to R406).
R392, R393: the budget at the greatest cap is 2,600 tokens, and no cap that PWR_CAP_SET takes gives more;
the tokens of a port are those of its readiness level. -/
def Obligations.PowerEventsComplete : Prop :=
  ((∀ s, 2 ≤ s.pwr.state.toNat →
     Becomes (.tokenGrant false) s
       (grantLoop (patrolRegions s).pwr.queue.length (patrolRegions s) false)) ∧
   (∀ i s g p, s.pwr.queue[i]? = some g → g.packet = some p → p.mbox = false →
     Becomes (.tokenWaitTimeout i) s
       (drainBad 16 (replyQueue ((s.modPwr fun P => { P with queue := P.queue.eraseIdx i }).modFn p.fn.toNat
         fun F => { F with fetched := F.fetched.filter fun q => q.pkt != p.core, reserved := F.reserved + 1 })
         p.fn.toNat (replyEntry p.tag p.seq 0x10 0xC004 0)) p.fn.toNat)) ∧
   (∀ (d : BitVec 2) s, (s.die d.toNat).powering = true →
     GivesNext (.dieFabricReady d) s fun t => (t.die d.toNat).pwr = 1 ∧ (t.die d.toNat).powering = false ∧
       ∀ n, (t.dmaCh n).dieWait ≠ some d.toNat) ∧
   (∀ k s, k < 64 → (s.cluster k).powering = true → regionUsable s (k / 4) = true →
     GivesNext (.containerPowerUpDone (BitVec.ofNat 16 (0x7000 + k))) s fun t =>
       t.cluster k = { Cluster.reset with powered := true, failed := (s.cluster k).failed }) ∧
   (∀ r s, r < 16 → (s.region r).powering = true → (s.die (r / 4)).pwr ≠ 0 → (s.die (r / 4)).powering = false →
     Becomes (.containerPowerUpDone (BitVec.ofNat 16 (0x8000 + r))) s (settlePower (startTrainings (settleDie
       (s.modRegion r fun R => { R with powered := true, powering := false }) (r / 4)) (regionPorts r)))) ∧
   (∀ (k : BitVec 6) s, fld s.pwr.cfg 32 16 ≠ 0 → clusterUsable s k.toNat = true → clusterInUse s k.toNat = false →
     densHeld s k.toNat = false → Becomes (.clusterIdleOff k) s (clusterOff s k.toNat)) ∧
   (∀ (d : BitVec 2) s, let a := patrolRegions s
     fld s.pwr.cfg 48 16 ≠ 0 → (a.die d.toNat).pwr ≠ 0 → (a.die d.toNat).powering = false →
     (a.die d.toNat).policy.toNat < 2 → dieWorks a d.toNat = false → dieWanted a d.toNat = false →
     (∀ r ∈ dieRegions d.toNat, regionOn (a.region r) = false) →
     Becomes (.dieIdleOff d) s (dieOff a d.toNat)) ∧
   (∀ s st timer, s.pwr.target = some (st, timer) →
     (∀ p < 128, (s.port p).state = .down ∨ (s.port p).state = .powered ∨ (s.port p).state = .quarantined) →
     stillStoring s = false →
     GivesNext .parkTransition s fun t =>
       t.pwr.state = st ∧ t.pwr.target = none ∧ t.time.counting = false ∧ t.clk.dclkLock = false ∧
       t.clk.hclkLock = false ∧ (t.pwr.wakeTimer = if timer = 0 then none else some timer) ∧
       (st = 0 → t.mem = []) ∧ (st = 1 → t.mem = s.mem)) ∧
   (∀ v parked b s, s.boot.lodgeOn = true → s.boot.step = 11 → s.pwr.state = 1 → bit s.pwr.cfg 67 = true →
     (∀ i < 3, (wakeEnabled s i && wakeLatched s i) = false) →
     GivesNext (.wakeEdge 3 v parked b) s fun t =>
       t.pwr.state = 2 ∧ t.pwr.lastWake = 3 ∧ t.time.counting = true ∧ t.time.coasted = true ∧
       t.time.slotCount = s.pwr.parkSlot + BitVec.ofNat 64 (parkedSlots parked.toNat) ∧
       t.time.epochGen = s.time.epochGen ∧ t.mem = s.mem) ∧
   (∀ parked b s n, s.boot.lodgeOn = true → s.boot.step = 11 → s.pwr.state = 1 → s.pwr.wakeTimer = some n →
     (∀ i < 4, (wakeEnabled s i && wakeLatched s i) = false) →
     GivesNext (.wakeTimer parked b) s fun t => t.pwr.state = 2 ∧ t.pwr.lastWake = 4 ∧ t.mem = s.mem) ∧
   (∀ mv ma p10 s, s.boot.lodgeOn = true → 2 ≤ s.pwr.state.toNat →
     GivesNext (.telemetrySample mv ma p10) s fun t =>
       t.pwr.energy = s.pwr.energy + BitVec.ofNat 64 (mv.toNat * ma.toNat / 10000) ∧ t.pwr.vIn = mv ∧
       t.pwr.pIn = p10 ∧ t.pwr.pOver = decide (10 * fld s.pwr.cfg 80 11 < p10.toNat) ∧
       t.pwr.vinWarn = (decide (mv.toNat < 11000) || decide (13000 < mv.toNat)) ∧
       t.pwr.meterEst = s.pwr.meterEst) ∧
   (∀ t0 t1 t2 t3 hub s, 2 ≤ s.pwr.state.toNat →
     t0.toInt < 1520 → t1.toInt < 1520 → t2.toInt < 1520 → t3.toInt < 1520 →
     GivesNext (.temperatureRead t0 t1 t2 t3 hub) s fun t =>
       (t.die 0).temp = t0 ∧ (t.die 1).temp = t1 ∧ (t.die 2).temp = t2 ∧ (t.die 3).temp = t3 ∧
       t.pwr.hubTemp = hub ∧ ∀ d < 4, (t.die d).tWarn = false ∧ (t.die d).tCrit = false) ∧
   (∀ mean s, s.mon.running = true → s.mon.next = none → fld (s.mon.entries.get 0 s.mon.cur) 5 2 = 0 →
     GivesNext (.monEntryDone mean 0) s fun t =>
       fld (t.mon.results.get 0 s.mon.cur) 0 16 =
         calibrated s (fld (s.mon.entries.get 0 s.mon.cur) 0 5) mean.toNat ∧
       bit (t.mon.results.get 0 s.mon.cur) 16 = true ∧ bit (t.mon.results.get 0 s.mon.cur) 17 = false ∧
       t.mon.cur = if fld s.mon.header 0 6 ≤ s.mon.cur + 1 then 0 else s.mon.cur + 1) ∧
   (∀ s, Becomes .urgentConversion s { s with mon := { s.mon with urgent := s.mon.urgent + 1 } }) ∧
   (∀ raw s i target o, s.mon.calBusy = some (i, false, target, o) → i < 16 →
     GivesNext (.monCalMeasurementDone raw) s fun t =>
       t.mon.calBusy = none ∧ (t.mon.cals.get Cal.reset i).step0 = some raw)) ∧
  ((∀ s, fld s.pwr.cfg 0 11 = 1550 → budget s = 2600) ∧
   (∀ s, fld s.pwr.cfg 0 11 ≤ 1550 → budget s * 1550 ≤ fld s.pwr.cfg 0 11 * 2600 ∧
     fld s.pwr.cfg 0 11 * 2600 < (budget s + 1) * 1550) ∧
   (∀ P : Port, P.liveGrant = false →
     ((P.state = .down ∨ P.state = .powered ∨ P.state = .quarantined) → portTokens P = 0) ∧
     (P.state = .warm → portTokens P = 3) ∧
     ((P.state = .training ∨ P.state = .live ∨ P.state = .rebuild ∨ P.state = .degraded) → portTokens P = 9)))

/-- Family 0x0F (R410, R413, R419, R420, R422, R423, R425, R426, R428, R434): the seventeen rows of SEC_ATTEST,
SEC_SESSION_OPEN, SEC_SESSION_CLOSE, SEC_APPROVED, SEC_LIFECYCLE, SEC_FW_UPDATE, SEC_ZEROISE, SEC_SELFTEST and
SEC_AUDIT_READ complete, with these effects and answers; a session request whose credential or keys do not verify
opens nothing.
ISLAND_OPERATION_DONE and DRBG_RESEED complete (R409, R413, R419, R423, R425 to R427): the oldest operation
of the island ends, or a failing test leads to the error state, in which every session has ended. -/
def Obligations.SecurityRowsComplete : Prop :=
  ((∀ p s, Ready cmdAttestReport p s → p.subv = 0 → canSign s = true →
     Does (.secAttestReport p) cmdAttestReport p s id 0
       (sealBytes s p.part true 0 (Config.sha384 (slice p.data 0 32)).toNat 0 s.nowTm.toNat 0 none
         (calRecord s p.part false))) ∧
   (∀ p s, Ready cmdAttest p s → p.subv = 1 →
     Does (.secAttestCerts p) cmdAttest p s id 0 (if s.sec.certs = [] then Config.pubKeys else s.sec.certs)) ∧
   (∀ p s, Ready cmdAttest p s → p.subv = 2 →
     Does (.secAttestCal p) cmdAttest p s id 0 (calRecord s p.part false)) ∧
   (∀ p s, let r := p.refData
     let cl := le (slice r 2 2)
     Ready cmdSecSessionOpen p s → p.dataRef = true → 9216 + cl ≤ r.length → reqReserved r = true →
     (cl = 0 ∨ cl = 7504) →
     (le (slice r 0 1) = 0 ∧ (lifecycle s = 1 ∨ lifecycle s = 2) ∧ (s.part p.part).session = none ∨
       le (slice r 0 1) = 1 ∧ p.fn = 0 ∧ s.sec.coSession = none) →
     if credentialOk s p.part r = true ∧ Config.keyValid (slice r 64 97) = true ∧
         Config.keyValid (slice r 192 2592) = true ∧ Config.keyValid (slice r 2784 97) = true ∧
         Config.keyValid (slice r 2912 1568) = true then
       Accepts (.secSessionOpen p) cmdSecSessionOpen p s
         (fun a => a.modSec fun S => { S with islandJob := S.islandJob ++ [(.sessionOpen, p)] }) .island
     else GivesNext (.secSessionOpen p) s fun t =>
       t.sec.islandJob = s.sec.islandJob ∧ t.sec.coSession = s.sec.coSession ∧ t.parts = s.parts ∧
       t.ports = s.ports) ∧
   (∀ p s, Ready cmdSecSessionClose p s →
     (p.inb 4 1 = 0 ∧ (s.part p.part).session.isSome = true ∨ p.inb 4 1 = 1 ∧ s.sec.coSession.isSome = true) →
     (∀ n ∈ s.partPorts p.part, (s.port n).trig.armed = false) →
     (∀ n ∈ s.partDma p.part, (s.dmaCh n).st ≠ .running ∧ (s.dmaCh n).st ≠ .halting ∧ (s.dmaCh n).st ≠ .job) →
     partCompressing s p.part = false →
     Accepts (.secSessionClose p) cmdSecSessionClose p s
       (fun a => a.modSec fun S => { S with islandJob := S.islandJob ++ [(.seal, p)] }) .island) ∧
   (∀ p s, Ready cmdApproved p s → p.inb 4 1 = 1 → lifecycle s = 2 → otherSession s = false →
     Does (.secApprovedEnter p) cmdApproved p s fun a =>
       audit (a.modSec fun S => { S with approved := true }) 7 0 2 0xC005 0 1 0) ∧
   (∀ p s, Ready cmdApproved p s → p.inb 4 1 = 0 → lifecycle s = 2 → bit s.sec.sensed 8 = false →
     otherSession s = false →
     Does (.secApprovedLeave p) cmdApproved p s fun a =>
       audit (a.modSec fun S => { S with approved := false }) 7 0 2 0xC005 0 0 0) ∧
   (∀ p s, Ready cmdLifecycle p s → p.inb 4 1 = 1 → lifecycle s = 0 →
     Departs (.secLifecycleFactory p) cmdLifecycle p s fun a =>
       toLifecycle ((rand a 384).2.modSec fun S => { S with identity := true }) 1) ∧
   (∀ p s, Ready cmdLifecycle p s → p.inb 4 1 = 2 → lifecycle s = 1 → p.dataRef = true →
     Accepts (.secLifecycleCerts p) cmdLifecycle p s
       (fun a => a.modSec fun S => { S with islandJob := S.islandJob ++ [(.lifecycle, p)] }) .island) ∧
   (∀ p s, Ready cmdLifecycle p s → p.inb 4 1 = 3 → lifecycle s = 1 → p.dataRef = true →
     2689 ≤ p.refData.length → s.sec.certs ≠ [] →
     Departs (.secLifecycleField p) cmdLifecycle p s fun a => toLifecycle (a.modSec fun S => { S with
       fuses := put S.fuses 144 384
         (fld S.fuses 144 384 ||| (Config.sha384 (slice p.refData 0 2689)).toNat) }) 2) ∧
   (∀ p s, Ready cmdLifecycle p s → p.inb 4 1 = 4 → lifecycle s = 2 →
     Departs (.secLifecycleReturn p) cmdLifecycle p s fun a =>
       toLifecycle (a.modSec fun S => { S with identity := false }) 3) ∧
   (∀ p s, Ready cmdLifecycle p s → p.inb 4 1 = 5 → lifecycle s ≠ 4 →
     Departs (.secLifecycleVoid p) cmdLifecycle p s fun a =>
       toLifecycle (a.modSec fun S => { S with identity := false }) 4) ∧
   (∀ p s, Ready cmdDebugUnlock p s → p.inb 4 1 = 6 → fld s.sec.sensed 4 2 = 1 →
     (lifecycle s = 1 ∨ lifecycle s = 3) →
     Accepts (.secLifecycleDebugUnlock p) cmdDebugUnlock p s
       (fun a => a.modSec fun S => { S with islandJob := S.islandJob ++ [(.lifecycle, p)] }) .island) ∧
   (∀ p s, Ready cmdFw p s → p.inb 4 1 = 0 → p.mbox = false → p.dataRef = true →
     Accepts (.secFwUpdateWrite p) cmdFw p s
       (fun a => a.modSec fun S => { S with islandJob := S.islandJob ++ [(.fwVerify, p)] }) .island) ∧
   (∀ p s, Ready cmdFw p s → p.inb 4 1 = 0 → p.mbox = true → p.data.length ≤ 4016 → p.inb 5 1 % 2 = 0 →
     (p.inb 8 4 = 0 ∨ p.inb 8 4 = s.sec.chunks.length) →
     Does (.secFwUpdateWrite p) cmdFw p s fun a => a.modSec fun S => { S with
       chunks := (if p.inb 8 4 = 0 then [] else S.chunks) ++ p.data }) ∧
   (∀ p s, Ready cmdFw p s → p.inb 4 1 = 1 → (runningFw s).booted = true →
     Does (.secFwUpdateCommit p) cmdFw p s fun a =>
       audit (a.modSec fun S => { S with
         fuses := put S.fuses 16 128 (fld S.fuses 16 128 ||| (2 ^ (runningFw s).arc.toNat - 1)) })
         8 0 2 0xC005 0 (runningFw s).version.toNat ((runningFw s).meas.toNat % 2 ^ 128)) ∧
   (∀ p s, Ready cmdZeroise p s → p.subv = 0 →
     Does (.secZeroise p) cmdZeroise p s fun a => audit (zeroise a) 9 0 2 0xC005 0 0 0) ∧
   (∀ p s, Ready cmdZeroise p s → p.subv = 1 →
     Does (.secZeroiseVoid p) cmdZeroise p s fun a =>
       toLifecycle ((audit (zeroise a) 9 0 2 0xC005 0 1 0).modSec fun S => { S with identity := false }) 4) ∧
   (∀ p s, Ready cmdSelftest p s → p.inb 4 1 % 2 = 0 →
     Accepts (.secSelftest p) cmdSelftest p s
       (fun a => a.modSec fun S => { S with islandJob := S.islandJob ++ [(.selfTest, p)] }) .island) ∧
   (∀ p s, Ready cmdFaultInsert p s → p.inb 4 1 % 2 = 1 →
     Accepts (.secSelftestFaultInsert p) cmdFaultInsert p s
       (fun a => a.modSec fun S => { S with islandJob := S.islandJob ++ [(.selfTest, p)] }) .island) ∧
   (∀ p s e es, Ready cmdSecAuditRead p s → s.sec.audit = e :: es →
     Does (.secAuditRead p) cmdSecAuditRead p s id (fld e.bits 0 64)
       (((s.sec.audit.filter fun e => p.inb 4 8 ≤ fld e.bits 0 64).take (p.inb 12 4)).flatMap auditBytes))) ∧
  ((∀ r s op p js, s.sec.islandJob = (op, p) :: js → r.fail = none → s.sec.error = false →
     (op ≠ .sessionOpen ∨ reseedDue s = false) →
     Becomes (.islandOperationDone r) s
       (finishIsland (s.modSec fun S => { S with islandJob := js }) op p)) ∧
   (∀ r s op p js n, s.sec.islandJob = (op, p) :: js → r.fail = some n →
     GivesNext (.islandOperationDone r) s fun t =>
       t.sec.error = true ∧ t.sec.errTest = n ∧ t.sec.errEntropy = r.entropy ∧ t.sec.coSession = none ∧
       (∀ k < 16, (t.part k).session = none) ∧ t.sec.islandJob = js) ∧
   (∀ s, reseedDue s = true →
     Becomes (.drbgReseed true) s (s.modSec fun S => { S with drbgReq := 0 })) ∧
   (∀ s, reseedDue s = true →
     GivesNext (.drbgReseed false) s fun t =>
       t.sec.error = true ∧ t.sec.errEntropy = true ∧ t.sec.coSession = none ∧
       ∀ k < 16, (t.part k).session = none))

/-- R428: SEC_ZEROISE leaves no session of any partition and none of the Crypto Officer, and the key-encryption
key is gone; capture memory, the partitions' windows and the fuses stay.
R423: the life-cycle fuses only ever move on: a transition blows fuses and clears none, and the state read
after the next reset is the one asked for when the one before it was the state it follows. -/
def Obligations.ZeroisationAndFuses : Prop :=
  (∀ s, (∀ k < 16, ((zeroise s).part k).session = none) ∧ (zeroise s).sec.coSession = none ∧
     (zeroise s).sec.kek = false ∧ (zeroise s).sec.drbgReq = 0 ∧ (zeroise s).mem = s.mem ∧
     (zeroise s).hub.windows = s.hub.windows ∧ (zeroise s).sec.fuses = s.sec.fuses ∧
     (zeroise s).ports = s.ports) ∧
  (∀ s code, code ≤ 4 →
     (∀ i < 1024, s.sec.fuses.getLsbD i = true → (toLifecycle s code).sec.fuses.getLsbD i = true) ∧
     (∀ i < 1024, 4 ≤ i → (toLifecycle s code).sec.fuses.getLsbD i = s.sec.fuses.getLsbD i) ∧
     (fld s.sec.fuses 0 4 = [0, 1, 3, 7, 15].getD (code - 1) 15 ∨ code = 4 →
       fld (toLifecycle s code).sec.fuses 0 4 = [0, 1, 3, 7, 15].getD code 15) ∧
     (toLifecycle s code).hub.resetDue = some 3)

/-- POWER_ON, PACKAGE_RESET, HUB_PLL_LOCK, HOST_ENDPOINTS_UP and ENVIRONMENTAL_FAILURE complete (R390, R423,
R428, R436, R438, R440): a boot ends step 4 with step 5 in progress, DCLK lock starts slot_count from 0, and with
both endpoints allowed up the boot reaches its wipe, or ends in the recovery service.
UNIT_RESET, CLUSTER_RESET, REGION_RESET and DIE_RESET complete (R23, R25), outside a reset in progress that covers
the block.
R457: the five rows of DIAG_INJECT complete: the fault takes the path of a natural one, and the reply carries
the timemark. An injected lane loss has a log entry of its own (the model's choice, log entry 1802).
LOCKSTEP_MISMATCH, REPLAY_CATCH_UP, SPARE_TAKEOVER, HEARTBEAT_MISS, WATCHDOG_BREAK, D2D_LINK_FAILURE,
D2D_RETRAIN_TIMEOUT and D2D_LINK_RETRAINED complete (R445 to R451, R453).
R23, R24: a package reset leaves every port DOWN or QUARANTINED and disarmed, every queue DISABLED, no window,
no owner of a block and no session, while the fuses, the audit ring, the event log and the power configuration
keep what they hold. -/
def Obligations.BootResetAndFaultsComplete : Prop :=
  ((∀ b s, s.boot.lodgeOn = false → GivesNext (.powerOn b) s fun t =>
     t.boot.step = 5 ∧ t.boot.lodgeOn = true ∧ t.boot.cause = 1 ∧ t.boot.count = s.boot.count + 1 ∧
     t.pwr.energy = 0 ∧ t.pwr.excursions = 0 ∧ t.pwr.parked = 0 ∧ t.time.counting = false) ∧
   (∀ c b s, s.hub.resetDue = some c →
     Becomes (.packageReset c b) s (bootEarly (packageReset s c.toNat) 2 b)) ∧
   (∀ c b s, s.hub.resetDue = some c → GivesNext (.packageReset c b) s fun t =>
     t.boot.step = 5 ∧ t.boot.cause = c ∧ t.hub.resetDue = none ∧ t.hub.accepted = [] ∧ t.hub.windows = [] ∧
     (∀ p, (t.port p).trig.armed = false) ∧ ∀ k, (t.part k).session = none) ∧
   (∀ s, s.boot.step = 5 → GivesNext .hubPllLock s fun t =>
     t.boot.step = 6 ∧ t.time.slotCount = 0 ∧ t.time.counting = true ∧ t.clk.dclkLock = true ∧
     t.clk.refclkOk = true ∧ t.clk.hclkLock = true ∧ t.clk.monLock = true) ∧
   (∀ b s, s.boot.step = 6 → s.mbox.ready = false → b.perstA = false → s.boot.recovery = true →
     GivesNext (.hostEndpointsUp b) s fun t =>
       t.mbox.ready = true ∧ (t.ep 0).up = true ∧ t.boot.step = 6 ∧ t.mem = s.mem) ∧
   (∀ b s, s.boot.step = 6 → s.mbox.ready = false → b.perstA = false → s.boot.recovery = false →
     s.hub.wipes = [] → b.lodgeErrs = [0, 0] →
     GivesNext (.hostEndpointsUp b) s fun t =>
       t.mbox.ready = true ∧ t.boot.step = 10 ∧ (t.chan 7).wiping = true ∧ (t.chan 15).wiping = true) ∧
   (∀ cause b s, s.boot.lodgeOn = true → 1 ≤ cause.toNat → cause.toNat ≤ 3 →
     GivesNext (.environmentalFailure cause b) s fun t =>
       t.boot.step = 5 ∧ t.boot.cause = 5 ∧ t.sec.coSession = none ∧ t.hub.accepted = [])) ∧
  ((∀ l s, coveredReset s l.toNat = false →
     Becomes (.unitReset l) s (unitReset s l.toNat)) ∧
   (∀ (k : BitVec 6) s, coveredReset s (loc 7 k.toNat) = false → GivesNext (.clusterReset k) s fun t =>
     (∀ e ∈ clusterEngines k.toNat, t.eng e = Engine.reset) ∧
     (∀ p ∈ pairPorts k.toNat, (t.port p).chain = Chain.reset ∧ (t.port p).dens = Dens.reset) ∧
     (t.cluster k.toNat).powered = (s.cluster k.toNat).powered ∧ (t.cluster k.toNat).shared = [] ∧
     t.mem = s.mem ∧ t.chans = s.chans ∧ t.regions = s.regions ∧ t.dies = s.dies) ∧
   (∀ (r : BitVec 4) s, coveredReset s (loc 8 r.toNat) = false →
     Becomes (.regionReset r) s (regionReset s r.toNat)) ∧
   (∀ (d : BitVec 2) s, coveredReset s (loc 9 d.toNat) = false →
     Becomes (.dieReset d) s (dieReset s d.toNat)) ∧
   (∀ e s, e < 512 → unitReset s (0x2000 + e) = engineReset s e)) ∧
  ((∀ p s, Ready cmdInject p s → p.inb 4 1 = 1 → locOk p.target = true → p.target / 0x1000 = 0 → p.subv = 0 →
     Does (.diagInjectMismatch p) cmdInject p s (fun a => mismatch a p.idx true) s.nowTm.toNat) ∧
   (∀ p s, Ready cmdInject p s → p.inb 4 1 = 2 → locOk p.target = true → p.target / 0x1000 = 0 → p.subv = 0 →
     Does (.diagInjectPersistent p) cmdInject p s (fun a => persistentFault a p.idx true) s.nowTm.toNat) ∧
   (∀ p s, Ready cmdInject p s → p.inb 4 1 = 3 → locOk p.target = true → p.target / 0x1000 = 2 → p.subv = 0 →
     Does (.diagInjectEngine p) cmdInject p s
       (fun a => if (a.eng p.idx).runs then engFault a p.idx true else a) s.nowTm.toNat) ∧
   (∀ p s, Ready cmdInject p s → p.inb 4 1 = 4 → locOk p.target = true → p.target / 0x1000 = 4 → p.subv = 0 →
     Does (.diagInjectChannel p) cmdInject p s
       (fun a => if chanServes a p.idx && !isLodge p.idx then fence a p.idx 1 true else a) s.nowTm.toNat) ∧
   (∀ p s, Ready cmdInject p s → p.inb 4 1 = 5 → locOk p.target = true → p.target / 0x1000 = 0 → p.subv ≤ 8 →
     Does (.diagInjectLaneLoss p) cmdInject p s
       (fun a => let b := logAt a none true 0x8003 (locPort p.idx) (p.target + 2 ^ 16 * p.subv) 0
         if ((a.port p.idx).lane p.subv).usable then happen b p.idx (.laneLost p.subv) else b) s.nowTm.toNat)) ∧
  ((∀ (p : BitVec 7) beat s, let P := s.port p.toNat
     P.deskew ≠ [] → P.pos = beat → P.trig.sl.phase ≠ .idle → P.trig.heldOut = false → P.trig.fenced = none →
     P.trig.replaying = none → (recentMismatches P).length < 3 →
     GivesNext (.lockstepMismatch p beat) s fun t =>
       (t.port p.toNat).trig.replaying = some beat ∧ (t.port p.toNat).trig.fenced = none ∧
       t.faults.replays = satInc s.faults.replays) ∧
   (∀ (p : BitVec 7) beat s, let P := s.port p.toNat
     P.deskew ≠ [] → P.pos = beat → P.trig.sl.phase ≠ .idle → P.trig.heldOut = false → P.trig.fenced = none →
     (P.trig.replaying.isSome = true ∨ 3 ≤ (recentMismatches P).length) →
     spareTaken s (portRegion p.toNat) = false →
     GivesNext (.lockstepMismatch p beat) s fun t => (t.port p.toNat).trig.fenced = some beat ∧
       (t.port p.toNat).trig.replaying = none) ∧
   (∀ (p : BitVec 7) s, (s.port p.toNat).trig.replaying.isSome = true → (s.port p.toNat).trig.fenced = none →
     Becomes (.replayCatchUp p) s
       (s.modPort p.toNat fun P => { P with trig := { P.trig with replaying := none } })) ∧
   (∀ (p : BitVec 7) (tr : BitVec 64) s f, (s.port p.toNat).trig.fenced = some f → notAfter f tr = true →
     tr.toNat % 64 = 0 → (s.port p.toNat).blockEdge tr = true →
     GivesNext (.spareTakeover p tr) s fun t =>
       (t.port p.toNat).onSpare = true ∧ (t.port p.toNat).trig.fenced = none ∧
       (t.port p.toNat).trig.replaying = some f ∧ (t.region (portRegion p.toNat)).spareOf = some p.toNat ∧
       t.faults.takeovers = satInc s.faults.takeovers) ∧
   (∀ core b s, s.faults.cores.getLsbD core.toNat = true → put s.faults.cores core.toNat 1 0 ≠ 0 →
     GivesNext (.heartbeatMiss core b) s fun t => t.faults.cores = put s.faults.cores core.toNat 1 0) ∧
   (∀ core b s, s.faults.cores.getLsbD core.toNat = true → put s.faults.cores core.toNat 1 0 = 0 →
     GivesNext (.heartbeatMiss core b) s fun t => t.boot.cause = 6 ∧ t.boot.step = 5) ∧
   (∀ p l s, p.mbox = false → (s.fn p.fn.toNat).begun.contains p.core = true →
     Becomes (.watchdogBreak (.firmware p l)) s
       (broken (replyTo s false p 0x50 (l.toNat + 2 ^ 16 * 2) 0 []) l.toNat)) ∧
   (∀ (d : BitVec 2) s, (s.die d.toNat).pwr ≠ 0 → (s.die d.toNat).linkUp = true →
     Becomes (.watchdogBreak (.linkCredit d)) s
       (broken (failLink (s.modDie d.toNat fun D => { D with linkUp := false }) d.toNat) (loc 0xD d.toNat))) ∧
   (∀ (f : BitVec 4) lanes s, reach s f.toNat = true →
     chuteRead s f.toNat (lanes.count true) ⟨msBeats, []⟩ = none →
     Becomes (.watchdogBreak (.chute f lanes)) s
       (broken ((chuteAdvance (chuteFlags s f.toNat 1) f.toNat (lanes.count true)).out
         (.chute f.toNat (laneBytes lanes (List.replicate (lanes.count true) 0xFF)) false)) (locEndpoint f.toNat))) ∧
   (∀ (e : BitVec 9) s b, (s.eng e.toNat).stall = some b → opOf (ySlot b) = 0x15 →
     (s.port (tuneTarget (s.eng e.toNat) e.toNat (ySlot b)).2).trig.fenced.isSome = true →
     Becomes (.watchdogBreak (.tune e)) s (broken (breakTune s e.toNat b) (loc 2 e.toNat))) ∧
   (∀ (d : BitVec 2) s, (s.die d.toNat).pwr ≠ 0 → (s.die d.toNat).linkUp = true →
     Becomes (.d2dLinkFailure d) s (s.modDie d.toNat fun D => { D with linkUp := false })) ∧
   (∀ (d : BitVec 2) s, (s.die d.toNat).linkUp = false →
     Becomes (.d2dLinkRetrained d) s (s.modDie d.toNat fun D => { D with linkUp := true })) ∧
   (∀ (d : BitVec 2) s, (s.die d.toNat).linkUp = false → coveredReset s (loc 9 d.toNat) = false →
     Becomes (.d2dRetrainTimeout d) s (dieReset s d.toNat))) ∧
  (∀ s cause, let t := packageReset s cause
     (∀ p, ((t.port p).state = .down ∨ (t.port p).state = .quarantined) ∧ (t.port p).trig.armed = false ∧
       (t.port p).run = PortRun.reset) ∧
     (∀ f, (t.fn f).qState = .disabled ∧ (t.fn f).fetched = [] ∧ (t.fn f).begun = []) ∧
     t.hub.windows = [] ∧ (∀ i, t.pairOwner i = none ∧ t.dmaOwner i = none ∧ t.pcsOwner i = none ∧
       t.lineOwner i = none) ∧
     (∀ k, (t.part k).session = none) ∧ t.sec.coSession = none ∧ t.engines = [] ∧ t.dma = [] ∧
     t.sec.fuses = s.sec.fuses ∧ t.pwr.cfg = s.pwr.cfg ∧ t.vach.cfg = s.vach.cfg ∧ t.boot.count = s.boot.count + 1)
end

