-- ==== Sys2Proof/Laws/Bits.lean ====
section
/-! SUPPORT. Reading a bit field after writing one. -/
namespace Sys2Proof.Machine

/-- A bit after a field has been written. -/
theorem put_getLsbD {n : Nat} (x : BitVec n) (lo len v j : Nat) :
    (put x lo len v).getLsbD j =
      (decide (j < n) && if j < lo then x.getLsbD j else if j < lo + len then v.testBit (j - lo)
        else x.getLsbD j) := by
  have e : x.toNat % 2 ^ lo + (v % 2 ^ len) * 2 ^ lo + x.toNat >>> (lo + len) * 2 ^ (lo + len) =
      2 ^ (lo + len) * (x.toNat >>> (lo + len)) + (2 ^ lo * (v % 2 ^ len) + x.toNat % 2 ^ lo) := by ring
  have h1 : x.toNat % 2 ^ lo < 2 ^ lo := Nat.mod_lt _ (by positivity)
  have h2 : 2 ^ lo * (v % 2 ^ len) + x.toNat % 2 ^ lo < 2 ^ (lo + len) := by
    have : v % 2 ^ len + 1 ≤ 2 ^ len := Nat.mod_lt _ (by positivity)
    calc _ < 2 ^ lo * (v % 2 ^ len) + 2 ^ lo := by omega
      _ = 2 ^ lo * (v % 2 ^ len + 1) := by ring
      _ ≤ 2 ^ lo * 2 ^ len := Nat.mul_le_mul_left _ this
      _ = _ := by rw [pow_add]
  unfold put
  rw [BitVec.getLsbD_ofNat, e, Nat.testBit_two_pow_mul_add _ h2, Nat.testBit_two_pow_mul_add _ h1]
  congr 1
  by_cases a : j < lo
  · simp [a, show j < lo + len by omega, Nat.testBit_mod_two_pow, BitVec.getLsbD]
  · by_cases b : j < lo + len
    · simp [a, b, Nat.testBit_mod_two_pow, show j - lo < len by omega]
    · simp [a, b, BitVec.getLsbD, Nat.testBit_shiftRight, show lo + len + (j - (lo + len)) = j by omega]

/-- The same for the reading of one bit. -/
theorem bit_put {n : Nat} (x : BitVec n) (lo len v j : Nat) :
    bit (put x lo len v) j =
      (decide (j < n) && if j < lo then bit x j else if j < lo + len then v.testBit (j - lo) else bit x j) :=
  put_getLsbD x lo len v j

@[simp] theorem b2n_testBit_zero (b : Bool) : (b2n b).testBit 0 = b := by cases b <;> rfl

end Sys2Proof.Machine
end

