-- ==== Sys2Proof/Laws/State.lean ====
section
/-! SUPPORT. The small lemmas of the state's named updates: which field each of them leaves alone, one lemma
for each field and update, and what a block reads as after the update of a block. -/
namespace Sys2Proof.Machine
variable (s : State)

/-! ### setPort -/

@[simp] theorem State.setPort_pending (p : Nat) (x : Port) : (s.setPort p x).pending = s.pending := (rfl)
@[simp] theorem State.setPort_time (p : Nat) (x : Port) : (s.setPort p x).time = s.time := (rfl)
@[simp] theorem State.setPort_engines (p : Nat) (x : Port) : (s.setPort p x).engines = s.engines := (rfl)
@[simp] theorem State.setPort_clusters (p : Nat) (x : Port) : (s.setPort p x).clusters = s.clusters := (rfl)
@[simp] theorem State.setPort_regions (p : Nat) (x : Port) : (s.setPort p x).regions = s.regions := (rfl)
@[simp] theorem State.setPort_dies (p : Nat) (x : Port) : (s.setPort p x).dies = s.dies := (rfl)
@[simp] theorem State.setPort_chans (p : Nat) (x : Port) : (s.setPort p x).chans = s.chans := (rfl)
@[simp] theorem State.setPort_mem (p : Nat) (x : Port) : (s.setPort p x).mem = s.mem := (rfl)
@[simp] theorem State.setPort_pcs (p : Nat) (x : Port) : (s.setPort p x).pcs = s.pcs := (rfl)
@[simp] theorem State.setPort_fns (p : Nat) (x : Port) : (s.setPort p x).fns = s.fns := (rfl)
@[simp] theorem State.setPort_eps (p : Nat) (x : Port) : (s.setPort p x).eps = s.eps := (rfl)
@[simp] theorem State.setPort_mbox (p : Nat) (x : Port) : (s.setPort p x).mbox = s.mbox := (rfl)
@[simp] theorem State.setPort_parts (p : Nat) (x : Port) : (s.setPort p x).parts = s.parts := (rfl)
@[simp] theorem State.setPort_dma (p : Nat) (x : Port) : (s.setPort p x).dma = s.dma := (rfl)
@[simp] theorem State.setPort_cmp (p : Nat) (x : Port) : (s.setPort p x).cmp = s.cmp := (rfl)
@[simp] theorem State.setPort_vach (p : Nat) (x : Port) : (s.setPort p x).vach = s.vach := (rfl)
@[simp] theorem State.setPort_pwr (p : Nat) (x : Port) : (s.setPort p x).pwr = s.pwr := (rfl)
@[simp] theorem State.setPort_clk (p : Nat) (x : Port) : (s.setPort p x).clk = s.clk := (rfl)
@[simp] theorem State.setPort_mon (p : Nat) (x : Port) : (s.setPort p x).mon = s.mon := (rfl)
@[simp] theorem State.setPort_sec (p : Nat) (x : Port) : (s.setPort p x).sec = s.sec := (rfl)
@[simp] theorem State.setPort_boot (p : Nat) (x : Port) : (s.setPort p x).boot = s.boot := (rfl)
@[simp] theorem State.setPort_faults (p : Nat) (x : Port) : (s.setPort p x).faults = s.faults := (rfl)
@[simp] theorem State.setPort_hub (p : Nat) (x : Port) : (s.setPort p x).hub = s.hub := (rfl)
@[simp] theorem State.setPort_outbox (p : Nat) (x : Port) : (s.setPort p x).outbox = s.outbox := (rfl)
@[simp] theorem State.setPort_freeCtr (p : Nat) (x : Port) : (s.setPort p x).freeCtr = s.freeCtr := (rfl)
@[simp] theorem State.setPort_eng_get (p : Nat) (x : Port) (i : Nat) : (s.setPort p x).eng i = s.eng i := (rfl)
@[simp] theorem State.setPort_cluster_get (p : Nat) (x : Port) (i : Nat) : (s.setPort p x).cluster i = s.cluster i := (rfl)
@[simp] theorem State.setPort_region_get (p : Nat) (x : Port) (i : Nat) : (s.setPort p x).region i = s.region i := (rfl)
@[simp] theorem State.setPort_die_get (p : Nat) (x : Port) (i : Nat) : (s.setPort p x).die i = s.die i := (rfl)
@[simp] theorem State.setPort_chan_get (p : Nat) (x : Port) (i : Nat) : (s.setPort p x).chan i = s.chan i := (rfl)
@[simp] theorem State.setPort_seqr_get (p : Nat) (x : Port) (i : Nat) : (s.setPort p x).seqr i = s.seqr i := (rfl)
@[simp] theorem State.setPort_fn_get (p : Nat) (x : Port) (i : Nat) : (s.setPort p x).fn i = s.fn i := (rfl)
@[simp] theorem State.setPort_ep_get (p : Nat) (x : Port) (i : Nat) : (s.setPort p x).ep i = s.ep i := (rfl)
@[simp] theorem State.setPort_part_get (p : Nat) (x : Port) (i : Nat) : (s.setPort p x).part i = s.part i := (rfl)
@[simp] theorem State.setPort_dmaCh_get (p : Nat) (x : Port) (i : Nat) : (s.setPort p x).dmaCh i = s.dmaCh i := (rfl)
@[simp] theorem State.setPort_cmpEng_get (p : Nat) (x : Port) (i : Nat) : (s.setPort p x).cmpEng i = s.cmpEng i := (rfl)
@[simp] theorem State.setPort_vp_get (p : Nat) (x : Port) (i : Nat) : (s.setPort p x).vp i = s.vp i := (rfl)

/-! ### modPort -/

@[simp] theorem State.modPort_pending (p : Nat) (f : Port → Port) : (s.modPort p f).pending = s.pending := (rfl)
@[simp] theorem State.modPort_time (p : Nat) (f : Port → Port) : (s.modPort p f).time = s.time := (rfl)
@[simp] theorem State.modPort_engines (p : Nat) (f : Port → Port) : (s.modPort p f).engines = s.engines := (rfl)
@[simp] theorem State.modPort_clusters (p : Nat) (f : Port → Port) : (s.modPort p f).clusters = s.clusters := (rfl)
@[simp] theorem State.modPort_regions (p : Nat) (f : Port → Port) : (s.modPort p f).regions = s.regions := (rfl)
@[simp] theorem State.modPort_dies (p : Nat) (f : Port → Port) : (s.modPort p f).dies = s.dies := (rfl)
@[simp] theorem State.modPort_chans (p : Nat) (f : Port → Port) : (s.modPort p f).chans = s.chans := (rfl)
@[simp] theorem State.modPort_mem (p : Nat) (f : Port → Port) : (s.modPort p f).mem = s.mem := (rfl)
@[simp] theorem State.modPort_pcs (p : Nat) (f : Port → Port) : (s.modPort p f).pcs = s.pcs := (rfl)
@[simp] theorem State.modPort_fns (p : Nat) (f : Port → Port) : (s.modPort p f).fns = s.fns := (rfl)
@[simp] theorem State.modPort_eps (p : Nat) (f : Port → Port) : (s.modPort p f).eps = s.eps := (rfl)
@[simp] theorem State.modPort_mbox (p : Nat) (f : Port → Port) : (s.modPort p f).mbox = s.mbox := (rfl)
@[simp] theorem State.modPort_parts (p : Nat) (f : Port → Port) : (s.modPort p f).parts = s.parts := (rfl)
@[simp] theorem State.modPort_dma (p : Nat) (f : Port → Port) : (s.modPort p f).dma = s.dma := (rfl)
@[simp] theorem State.modPort_cmp (p : Nat) (f : Port → Port) : (s.modPort p f).cmp = s.cmp := (rfl)
@[simp] theorem State.modPort_vach (p : Nat) (f : Port → Port) : (s.modPort p f).vach = s.vach := (rfl)
@[simp] theorem State.modPort_pwr (p : Nat) (f : Port → Port) : (s.modPort p f).pwr = s.pwr := (rfl)
@[simp] theorem State.modPort_clk (p : Nat) (f : Port → Port) : (s.modPort p f).clk = s.clk := (rfl)
@[simp] theorem State.modPort_mon (p : Nat) (f : Port → Port) : (s.modPort p f).mon = s.mon := (rfl)
@[simp] theorem State.modPort_sec (p : Nat) (f : Port → Port) : (s.modPort p f).sec = s.sec := (rfl)
@[simp] theorem State.modPort_boot (p : Nat) (f : Port → Port) : (s.modPort p f).boot = s.boot := (rfl)
@[simp] theorem State.modPort_faults (p : Nat) (f : Port → Port) : (s.modPort p f).faults = s.faults := (rfl)
@[simp] theorem State.modPort_hub (p : Nat) (f : Port → Port) : (s.modPort p f).hub = s.hub := (rfl)
@[simp] theorem State.modPort_outbox (p : Nat) (f : Port → Port) : (s.modPort p f).outbox = s.outbox := (rfl)
@[simp] theorem State.modPort_freeCtr (p : Nat) (f : Port → Port) : (s.modPort p f).freeCtr = s.freeCtr := (rfl)
@[simp] theorem State.modPort_eng_get (p : Nat) (f : Port → Port) (i : Nat) : (s.modPort p f).eng i = s.eng i := (rfl)
@[simp] theorem State.modPort_cluster_get (p : Nat) (f : Port → Port) (i : Nat) : (s.modPort p f).cluster i = s.cluster i := (rfl)
@[simp] theorem State.modPort_region_get (p : Nat) (f : Port → Port) (i : Nat) : (s.modPort p f).region i = s.region i := (rfl)
@[simp] theorem State.modPort_die_get (p : Nat) (f : Port → Port) (i : Nat) : (s.modPort p f).die i = s.die i := (rfl)
@[simp] theorem State.modPort_chan_get (p : Nat) (f : Port → Port) (i : Nat) : (s.modPort p f).chan i = s.chan i := (rfl)
@[simp] theorem State.modPort_seqr_get (p : Nat) (f : Port → Port) (i : Nat) : (s.modPort p f).seqr i = s.seqr i := (rfl)
@[simp] theorem State.modPort_fn_get (p : Nat) (f : Port → Port) (i : Nat) : (s.modPort p f).fn i = s.fn i := (rfl)
@[simp] theorem State.modPort_ep_get (p : Nat) (f : Port → Port) (i : Nat) : (s.modPort p f).ep i = s.ep i := (rfl)
@[simp] theorem State.modPort_part_get (p : Nat) (f : Port → Port) (i : Nat) : (s.modPort p f).part i = s.part i := (rfl)
@[simp] theorem State.modPort_dmaCh_get (p : Nat) (f : Port → Port) (i : Nat) : (s.modPort p f).dmaCh i = s.dmaCh i := (rfl)
@[simp] theorem State.modPort_cmpEng_get (p : Nat) (f : Port → Port) (i : Nat) : (s.modPort p f).cmpEng i = s.cmpEng i := (rfl)
@[simp] theorem State.modPort_vp_get (p : Nat) (f : Port → Port) (i : Nat) : (s.modPort p f).vp i = s.vp i := (rfl)

/-! ### setEng -/

@[simp] theorem State.setEng_pending (e : Nat) (x : Engine) : (s.setEng e x).pending = s.pending := (rfl)
@[simp] theorem State.setEng_time (e : Nat) (x : Engine) : (s.setEng e x).time = s.time := (rfl)
@[simp] theorem State.setEng_ports (e : Nat) (x : Engine) : (s.setEng e x).ports = s.ports := (rfl)
@[simp] theorem State.setEng_clusters (e : Nat) (x : Engine) : (s.setEng e x).clusters = s.clusters := (rfl)
@[simp] theorem State.setEng_regions (e : Nat) (x : Engine) : (s.setEng e x).regions = s.regions := (rfl)
@[simp] theorem State.setEng_dies (e : Nat) (x : Engine) : (s.setEng e x).dies = s.dies := (rfl)
@[simp] theorem State.setEng_chans (e : Nat) (x : Engine) : (s.setEng e x).chans = s.chans := (rfl)
@[simp] theorem State.setEng_mem (e : Nat) (x : Engine) : (s.setEng e x).mem = s.mem := (rfl)
@[simp] theorem State.setEng_pcs (e : Nat) (x : Engine) : (s.setEng e x).pcs = s.pcs := (rfl)
@[simp] theorem State.setEng_fns (e : Nat) (x : Engine) : (s.setEng e x).fns = s.fns := (rfl)
@[simp] theorem State.setEng_eps (e : Nat) (x : Engine) : (s.setEng e x).eps = s.eps := (rfl)
@[simp] theorem State.setEng_mbox (e : Nat) (x : Engine) : (s.setEng e x).mbox = s.mbox := (rfl)
@[simp] theorem State.setEng_parts (e : Nat) (x : Engine) : (s.setEng e x).parts = s.parts := (rfl)
@[simp] theorem State.setEng_dma (e : Nat) (x : Engine) : (s.setEng e x).dma = s.dma := (rfl)
@[simp] theorem State.setEng_cmp (e : Nat) (x : Engine) : (s.setEng e x).cmp = s.cmp := (rfl)
@[simp] theorem State.setEng_vach (e : Nat) (x : Engine) : (s.setEng e x).vach = s.vach := (rfl)
@[simp] theorem State.setEng_pwr (e : Nat) (x : Engine) : (s.setEng e x).pwr = s.pwr := (rfl)
@[simp] theorem State.setEng_clk (e : Nat) (x : Engine) : (s.setEng e x).clk = s.clk := (rfl)
@[simp] theorem State.setEng_mon (e : Nat) (x : Engine) : (s.setEng e x).mon = s.mon := (rfl)
@[simp] theorem State.setEng_sec (e : Nat) (x : Engine) : (s.setEng e x).sec = s.sec := (rfl)
@[simp] theorem State.setEng_boot (e : Nat) (x : Engine) : (s.setEng e x).boot = s.boot := (rfl)
@[simp] theorem State.setEng_faults (e : Nat) (x : Engine) : (s.setEng e x).faults = s.faults := (rfl)
@[simp] theorem State.setEng_hub (e : Nat) (x : Engine) : (s.setEng e x).hub = s.hub := (rfl)
@[simp] theorem State.setEng_outbox (e : Nat) (x : Engine) : (s.setEng e x).outbox = s.outbox := (rfl)
@[simp] theorem State.setEng_freeCtr (e : Nat) (x : Engine) : (s.setEng e x).freeCtr = s.freeCtr := (rfl)
@[simp] theorem State.setEng_port_get (e : Nat) (x : Engine) (i : Nat) : (s.setEng e x).port i = s.port i := (rfl)
@[simp] theorem State.setEng_cluster_get (e : Nat) (x : Engine) (i : Nat) : (s.setEng e x).cluster i = s.cluster i := (rfl)
@[simp] theorem State.setEng_region_get (e : Nat) (x : Engine) (i : Nat) : (s.setEng e x).region i = s.region i := (rfl)
@[simp] theorem State.setEng_die_get (e : Nat) (x : Engine) (i : Nat) : (s.setEng e x).die i = s.die i := (rfl)
@[simp] theorem State.setEng_chan_get (e : Nat) (x : Engine) (i : Nat) : (s.setEng e x).chan i = s.chan i := (rfl)
@[simp] theorem State.setEng_seqr_get (e : Nat) (x : Engine) (i : Nat) : (s.setEng e x).seqr i = s.seqr i := (rfl)
@[simp] theorem State.setEng_fn_get (e : Nat) (x : Engine) (i : Nat) : (s.setEng e x).fn i = s.fn i := (rfl)
@[simp] theorem State.setEng_ep_get (e : Nat) (x : Engine) (i : Nat) : (s.setEng e x).ep i = s.ep i := (rfl)
@[simp] theorem State.setEng_part_get (e : Nat) (x : Engine) (i : Nat) : (s.setEng e x).part i = s.part i := (rfl)
@[simp] theorem State.setEng_dmaCh_get (e : Nat) (x : Engine) (i : Nat) : (s.setEng e x).dmaCh i = s.dmaCh i := (rfl)
@[simp] theorem State.setEng_cmpEng_get (e : Nat) (x : Engine) (i : Nat) : (s.setEng e x).cmpEng i = s.cmpEng i := (rfl)
@[simp] theorem State.setEng_vp_get (e : Nat) (x : Engine) (i : Nat) : (s.setEng e x).vp i = s.vp i := (rfl)

/-! ### modEng -/

@[simp] theorem State.modEng_pending (e : Nat) (f : Engine → Engine) : (s.modEng e f).pending = s.pending := (rfl)
@[simp] theorem State.modEng_time (e : Nat) (f : Engine → Engine) : (s.modEng e f).time = s.time := (rfl)
@[simp] theorem State.modEng_ports (e : Nat) (f : Engine → Engine) : (s.modEng e f).ports = s.ports := (rfl)
@[simp] theorem State.modEng_clusters (e : Nat) (f : Engine → Engine) : (s.modEng e f).clusters = s.clusters := (rfl)
@[simp] theorem State.modEng_regions (e : Nat) (f : Engine → Engine) : (s.modEng e f).regions = s.regions := (rfl)
@[simp] theorem State.modEng_dies (e : Nat) (f : Engine → Engine) : (s.modEng e f).dies = s.dies := (rfl)
@[simp] theorem State.modEng_chans (e : Nat) (f : Engine → Engine) : (s.modEng e f).chans = s.chans := (rfl)
@[simp] theorem State.modEng_mem (e : Nat) (f : Engine → Engine) : (s.modEng e f).mem = s.mem := (rfl)
@[simp] theorem State.modEng_pcs (e : Nat) (f : Engine → Engine) : (s.modEng e f).pcs = s.pcs := (rfl)
@[simp] theorem State.modEng_fns (e : Nat) (f : Engine → Engine) : (s.modEng e f).fns = s.fns := (rfl)
@[simp] theorem State.modEng_eps (e : Nat) (f : Engine → Engine) : (s.modEng e f).eps = s.eps := (rfl)
@[simp] theorem State.modEng_mbox (e : Nat) (f : Engine → Engine) : (s.modEng e f).mbox = s.mbox := (rfl)
@[simp] theorem State.modEng_parts (e : Nat) (f : Engine → Engine) : (s.modEng e f).parts = s.parts := (rfl)
@[simp] theorem State.modEng_dma (e : Nat) (f : Engine → Engine) : (s.modEng e f).dma = s.dma := (rfl)
@[simp] theorem State.modEng_cmp (e : Nat) (f : Engine → Engine) : (s.modEng e f).cmp = s.cmp := (rfl)
@[simp] theorem State.modEng_vach (e : Nat) (f : Engine → Engine) : (s.modEng e f).vach = s.vach := (rfl)
@[simp] theorem State.modEng_pwr (e : Nat) (f : Engine → Engine) : (s.modEng e f).pwr = s.pwr := (rfl)
@[simp] theorem State.modEng_clk (e : Nat) (f : Engine → Engine) : (s.modEng e f).clk = s.clk := (rfl)
@[simp] theorem State.modEng_mon (e : Nat) (f : Engine → Engine) : (s.modEng e f).mon = s.mon := (rfl)
@[simp] theorem State.modEng_sec (e : Nat) (f : Engine → Engine) : (s.modEng e f).sec = s.sec := (rfl)
@[simp] theorem State.modEng_boot (e : Nat) (f : Engine → Engine) : (s.modEng e f).boot = s.boot := (rfl)
@[simp] theorem State.modEng_faults (e : Nat) (f : Engine → Engine) : (s.modEng e f).faults = s.faults := (rfl)
@[simp] theorem State.modEng_hub (e : Nat) (f : Engine → Engine) : (s.modEng e f).hub = s.hub := (rfl)
@[simp] theorem State.modEng_outbox (e : Nat) (f : Engine → Engine) : (s.modEng e f).outbox = s.outbox := (rfl)
@[simp] theorem State.modEng_freeCtr (e : Nat) (f : Engine → Engine) : (s.modEng e f).freeCtr = s.freeCtr := (rfl)
@[simp] theorem State.modEng_port_get (e : Nat) (f : Engine → Engine) (i : Nat) : (s.modEng e f).port i = s.port i := (rfl)
@[simp] theorem State.modEng_cluster_get (e : Nat) (f : Engine → Engine) (i : Nat) : (s.modEng e f).cluster i = s.cluster i := (rfl)
@[simp] theorem State.modEng_region_get (e : Nat) (f : Engine → Engine) (i : Nat) : (s.modEng e f).region i = s.region i := (rfl)
@[simp] theorem State.modEng_die_get (e : Nat) (f : Engine → Engine) (i : Nat) : (s.modEng e f).die i = s.die i := (rfl)
@[simp] theorem State.modEng_chan_get (e : Nat) (f : Engine → Engine) (i : Nat) : (s.modEng e f).chan i = s.chan i := (rfl)
@[simp] theorem State.modEng_seqr_get (e : Nat) (f : Engine → Engine) (i : Nat) : (s.modEng e f).seqr i = s.seqr i := (rfl)
@[simp] theorem State.modEng_fn_get (e : Nat) (f : Engine → Engine) (i : Nat) : (s.modEng e f).fn i = s.fn i := (rfl)
@[simp] theorem State.modEng_ep_get (e : Nat) (f : Engine → Engine) (i : Nat) : (s.modEng e f).ep i = s.ep i := (rfl)
@[simp] theorem State.modEng_part_get (e : Nat) (f : Engine → Engine) (i : Nat) : (s.modEng e f).part i = s.part i := (rfl)
@[simp] theorem State.modEng_dmaCh_get (e : Nat) (f : Engine → Engine) (i : Nat) : (s.modEng e f).dmaCh i = s.dmaCh i := (rfl)
@[simp] theorem State.modEng_cmpEng_get (e : Nat) (f : Engine → Engine) (i : Nat) : (s.modEng e f).cmpEng i = s.cmpEng i := (rfl)
@[simp] theorem State.modEng_vp_get (e : Nat) (f : Engine → Engine) (i : Nat) : (s.modEng e f).vp i = s.vp i := (rfl)

/-! ### modCluster -/

@[simp] theorem State.modCluster_pending (k : Nat) (f : Cluster → Cluster) : (s.modCluster k f).pending = s.pending := (rfl)
@[simp] theorem State.modCluster_time (k : Nat) (f : Cluster → Cluster) : (s.modCluster k f).time = s.time := (rfl)
@[simp] theorem State.modCluster_ports (k : Nat) (f : Cluster → Cluster) : (s.modCluster k f).ports = s.ports := (rfl)
@[simp] theorem State.modCluster_engines (k : Nat) (f : Cluster → Cluster) : (s.modCluster k f).engines = s.engines := (rfl)
@[simp] theorem State.modCluster_regions (k : Nat) (f : Cluster → Cluster) : (s.modCluster k f).regions = s.regions := (rfl)
@[simp] theorem State.modCluster_dies (k : Nat) (f : Cluster → Cluster) : (s.modCluster k f).dies = s.dies := (rfl)
@[simp] theorem State.modCluster_chans (k : Nat) (f : Cluster → Cluster) : (s.modCluster k f).chans = s.chans := (rfl)
@[simp] theorem State.modCluster_mem (k : Nat) (f : Cluster → Cluster) : (s.modCluster k f).mem = s.mem := (rfl)
@[simp] theorem State.modCluster_pcs (k : Nat) (f : Cluster → Cluster) : (s.modCluster k f).pcs = s.pcs := (rfl)
@[simp] theorem State.modCluster_fns (k : Nat) (f : Cluster → Cluster) : (s.modCluster k f).fns = s.fns := (rfl)
@[simp] theorem State.modCluster_eps (k : Nat) (f : Cluster → Cluster) : (s.modCluster k f).eps = s.eps := (rfl)
@[simp] theorem State.modCluster_mbox (k : Nat) (f : Cluster → Cluster) : (s.modCluster k f).mbox = s.mbox := (rfl)
@[simp] theorem State.modCluster_parts (k : Nat) (f : Cluster → Cluster) : (s.modCluster k f).parts = s.parts := (rfl)
@[simp] theorem State.modCluster_dma (k : Nat) (f : Cluster → Cluster) : (s.modCluster k f).dma = s.dma := (rfl)
@[simp] theorem State.modCluster_cmp (k : Nat) (f : Cluster → Cluster) : (s.modCluster k f).cmp = s.cmp := (rfl)
@[simp] theorem State.modCluster_vach (k : Nat) (f : Cluster → Cluster) : (s.modCluster k f).vach = s.vach := (rfl)
@[simp] theorem State.modCluster_pwr (k : Nat) (f : Cluster → Cluster) : (s.modCluster k f).pwr = s.pwr := (rfl)
@[simp] theorem State.modCluster_clk (k : Nat) (f : Cluster → Cluster) : (s.modCluster k f).clk = s.clk := (rfl)
@[simp] theorem State.modCluster_mon (k : Nat) (f : Cluster → Cluster) : (s.modCluster k f).mon = s.mon := (rfl)
@[simp] theorem State.modCluster_sec (k : Nat) (f : Cluster → Cluster) : (s.modCluster k f).sec = s.sec := (rfl)
@[simp] theorem State.modCluster_boot (k : Nat) (f : Cluster → Cluster) : (s.modCluster k f).boot = s.boot := (rfl)
@[simp] theorem State.modCluster_faults (k : Nat) (f : Cluster → Cluster) : (s.modCluster k f).faults = s.faults := (rfl)
@[simp] theorem State.modCluster_hub (k : Nat) (f : Cluster → Cluster) : (s.modCluster k f).hub = s.hub := (rfl)
@[simp] theorem State.modCluster_outbox (k : Nat) (f : Cluster → Cluster) : (s.modCluster k f).outbox = s.outbox := (rfl)
@[simp] theorem State.modCluster_freeCtr (k : Nat) (f : Cluster → Cluster) : (s.modCluster k f).freeCtr = s.freeCtr := (rfl)
@[simp] theorem State.modCluster_port_get (k : Nat) (f : Cluster → Cluster) (i : Nat) : (s.modCluster k f).port i = s.port i := (rfl)
@[simp] theorem State.modCluster_eng_get (k : Nat) (f : Cluster → Cluster) (i : Nat) : (s.modCluster k f).eng i = s.eng i := (rfl)
@[simp] theorem State.modCluster_region_get (k : Nat) (f : Cluster → Cluster) (i : Nat) : (s.modCluster k f).region i = s.region i := (rfl)
@[simp] theorem State.modCluster_die_get (k : Nat) (f : Cluster → Cluster) (i : Nat) : (s.modCluster k f).die i = s.die i := (rfl)
@[simp] theorem State.modCluster_chan_get (k : Nat) (f : Cluster → Cluster) (i : Nat) : (s.modCluster k f).chan i = s.chan i := (rfl)
@[simp] theorem State.modCluster_seqr_get (k : Nat) (f : Cluster → Cluster) (i : Nat) : (s.modCluster k f).seqr i = s.seqr i := (rfl)
@[simp] theorem State.modCluster_fn_get (k : Nat) (f : Cluster → Cluster) (i : Nat) : (s.modCluster k f).fn i = s.fn i := (rfl)
@[simp] theorem State.modCluster_ep_get (k : Nat) (f : Cluster → Cluster) (i : Nat) : (s.modCluster k f).ep i = s.ep i := (rfl)
@[simp] theorem State.modCluster_part_get (k : Nat) (f : Cluster → Cluster) (i : Nat) : (s.modCluster k f).part i = s.part i := (rfl)
@[simp] theorem State.modCluster_dmaCh_get (k : Nat) (f : Cluster → Cluster) (i : Nat) : (s.modCluster k f).dmaCh i = s.dmaCh i := (rfl)
@[simp] theorem State.modCluster_cmpEng_get (k : Nat) (f : Cluster → Cluster) (i : Nat) : (s.modCluster k f).cmpEng i = s.cmpEng i := (rfl)
@[simp] theorem State.modCluster_vp_get (k : Nat) (f : Cluster → Cluster) (i : Nat) : (s.modCluster k f).vp i = s.vp i := (rfl)

/-! ### modRegion -/

@[simp] theorem State.modRegion_pending (r : Nat) (f : Region → Region) : (s.modRegion r f).pending = s.pending := (rfl)
@[simp] theorem State.modRegion_time (r : Nat) (f : Region → Region) : (s.modRegion r f).time = s.time := (rfl)
@[simp] theorem State.modRegion_ports (r : Nat) (f : Region → Region) : (s.modRegion r f).ports = s.ports := (rfl)
@[simp] theorem State.modRegion_engines (r : Nat) (f : Region → Region) : (s.modRegion r f).engines = s.engines := (rfl)
@[simp] theorem State.modRegion_clusters (r : Nat) (f : Region → Region) : (s.modRegion r f).clusters = s.clusters := (rfl)
@[simp] theorem State.modRegion_dies (r : Nat) (f : Region → Region) : (s.modRegion r f).dies = s.dies := (rfl)
@[simp] theorem State.modRegion_chans (r : Nat) (f : Region → Region) : (s.modRegion r f).chans = s.chans := (rfl)
@[simp] theorem State.modRegion_mem (r : Nat) (f : Region → Region) : (s.modRegion r f).mem = s.mem := (rfl)
@[simp] theorem State.modRegion_pcs (r : Nat) (f : Region → Region) : (s.modRegion r f).pcs = s.pcs := (rfl)
@[simp] theorem State.modRegion_fns (r : Nat) (f : Region → Region) : (s.modRegion r f).fns = s.fns := (rfl)
@[simp] theorem State.modRegion_eps (r : Nat) (f : Region → Region) : (s.modRegion r f).eps = s.eps := (rfl)
@[simp] theorem State.modRegion_mbox (r : Nat) (f : Region → Region) : (s.modRegion r f).mbox = s.mbox := (rfl)
@[simp] theorem State.modRegion_parts (r : Nat) (f : Region → Region) : (s.modRegion r f).parts = s.parts := (rfl)
@[simp] theorem State.modRegion_dma (r : Nat) (f : Region → Region) : (s.modRegion r f).dma = s.dma := (rfl)
@[simp] theorem State.modRegion_cmp (r : Nat) (f : Region → Region) : (s.modRegion r f).cmp = s.cmp := (rfl)
@[simp] theorem State.modRegion_vach (r : Nat) (f : Region → Region) : (s.modRegion r f).vach = s.vach := (rfl)
@[simp] theorem State.modRegion_pwr (r : Nat) (f : Region → Region) : (s.modRegion r f).pwr = s.pwr := (rfl)
@[simp] theorem State.modRegion_clk (r : Nat) (f : Region → Region) : (s.modRegion r f).clk = s.clk := (rfl)
@[simp] theorem State.modRegion_mon (r : Nat) (f : Region → Region) : (s.modRegion r f).mon = s.mon := (rfl)
@[simp] theorem State.modRegion_sec (r : Nat) (f : Region → Region) : (s.modRegion r f).sec = s.sec := (rfl)
@[simp] theorem State.modRegion_boot (r : Nat) (f : Region → Region) : (s.modRegion r f).boot = s.boot := (rfl)
@[simp] theorem State.modRegion_faults (r : Nat) (f : Region → Region) : (s.modRegion r f).faults = s.faults := (rfl)
@[simp] theorem State.modRegion_hub (r : Nat) (f : Region → Region) : (s.modRegion r f).hub = s.hub := (rfl)
@[simp] theorem State.modRegion_outbox (r : Nat) (f : Region → Region) : (s.modRegion r f).outbox = s.outbox := (rfl)
@[simp] theorem State.modRegion_freeCtr (r : Nat) (f : Region → Region) : (s.modRegion r f).freeCtr = s.freeCtr := (rfl)
@[simp] theorem State.modRegion_port_get (r : Nat) (f : Region → Region) (i : Nat) : (s.modRegion r f).port i = s.port i := (rfl)
@[simp] theorem State.modRegion_eng_get (r : Nat) (f : Region → Region) (i : Nat) : (s.modRegion r f).eng i = s.eng i := (rfl)
@[simp] theorem State.modRegion_cluster_get (r : Nat) (f : Region → Region) (i : Nat) : (s.modRegion r f).cluster i = s.cluster i := (rfl)
@[simp] theorem State.modRegion_die_get (r : Nat) (f : Region → Region) (i : Nat) : (s.modRegion r f).die i = s.die i := (rfl)
@[simp] theorem State.modRegion_chan_get (r : Nat) (f : Region → Region) (i : Nat) : (s.modRegion r f).chan i = s.chan i := (rfl)
@[simp] theorem State.modRegion_seqr_get (r : Nat) (f : Region → Region) (i : Nat) : (s.modRegion r f).seqr i = s.seqr i := (rfl)
@[simp] theorem State.modRegion_fn_get (r : Nat) (f : Region → Region) (i : Nat) : (s.modRegion r f).fn i = s.fn i := (rfl)
@[simp] theorem State.modRegion_ep_get (r : Nat) (f : Region → Region) (i : Nat) : (s.modRegion r f).ep i = s.ep i := (rfl)
@[simp] theorem State.modRegion_part_get (r : Nat) (f : Region → Region) (i : Nat) : (s.modRegion r f).part i = s.part i := (rfl)
@[simp] theorem State.modRegion_dmaCh_get (r : Nat) (f : Region → Region) (i : Nat) : (s.modRegion r f).dmaCh i = s.dmaCh i := (rfl)
@[simp] theorem State.modRegion_cmpEng_get (r : Nat) (f : Region → Region) (i : Nat) : (s.modRegion r f).cmpEng i = s.cmpEng i := (rfl)
@[simp] theorem State.modRegion_vp_get (r : Nat) (f : Region → Region) (i : Nat) : (s.modRegion r f).vp i = s.vp i := (rfl)

/-! ### modDie -/

@[simp] theorem State.modDie_pending (d : Nat) (f : Die → Die) : (s.modDie d f).pending = s.pending := (rfl)
@[simp] theorem State.modDie_time (d : Nat) (f : Die → Die) : (s.modDie d f).time = s.time := (rfl)
@[simp] theorem State.modDie_ports (d : Nat) (f : Die → Die) : (s.modDie d f).ports = s.ports := (rfl)
@[simp] theorem State.modDie_engines (d : Nat) (f : Die → Die) : (s.modDie d f).engines = s.engines := (rfl)
@[simp] theorem State.modDie_clusters (d : Nat) (f : Die → Die) : (s.modDie d f).clusters = s.clusters := (rfl)
@[simp] theorem State.modDie_regions (d : Nat) (f : Die → Die) : (s.modDie d f).regions = s.regions := (rfl)
@[simp] theorem State.modDie_chans (d : Nat) (f : Die → Die) : (s.modDie d f).chans = s.chans := (rfl)
@[simp] theorem State.modDie_mem (d : Nat) (f : Die → Die) : (s.modDie d f).mem = s.mem := (rfl)
@[simp] theorem State.modDie_pcs (d : Nat) (f : Die → Die) : (s.modDie d f).pcs = s.pcs := (rfl)
@[simp] theorem State.modDie_fns (d : Nat) (f : Die → Die) : (s.modDie d f).fns = s.fns := (rfl)
@[simp] theorem State.modDie_eps (d : Nat) (f : Die → Die) : (s.modDie d f).eps = s.eps := (rfl)
@[simp] theorem State.modDie_mbox (d : Nat) (f : Die → Die) : (s.modDie d f).mbox = s.mbox := (rfl)
@[simp] theorem State.modDie_parts (d : Nat) (f : Die → Die) : (s.modDie d f).parts = s.parts := (rfl)
@[simp] theorem State.modDie_dma (d : Nat) (f : Die → Die) : (s.modDie d f).dma = s.dma := (rfl)
@[simp] theorem State.modDie_cmp (d : Nat) (f : Die → Die) : (s.modDie d f).cmp = s.cmp := (rfl)
@[simp] theorem State.modDie_vach (d : Nat) (f : Die → Die) : (s.modDie d f).vach = s.vach := (rfl)
@[simp] theorem State.modDie_pwr (d : Nat) (f : Die → Die) : (s.modDie d f).pwr = s.pwr := (rfl)
@[simp] theorem State.modDie_clk (d : Nat) (f : Die → Die) : (s.modDie d f).clk = s.clk := (rfl)
@[simp] theorem State.modDie_mon (d : Nat) (f : Die → Die) : (s.modDie d f).mon = s.mon := (rfl)
@[simp] theorem State.modDie_sec (d : Nat) (f : Die → Die) : (s.modDie d f).sec = s.sec := (rfl)
@[simp] theorem State.modDie_boot (d : Nat) (f : Die → Die) : (s.modDie d f).boot = s.boot := (rfl)
@[simp] theorem State.modDie_faults (d : Nat) (f : Die → Die) : (s.modDie d f).faults = s.faults := (rfl)
@[simp] theorem State.modDie_hub (d : Nat) (f : Die → Die) : (s.modDie d f).hub = s.hub := (rfl)
@[simp] theorem State.modDie_outbox (d : Nat) (f : Die → Die) : (s.modDie d f).outbox = s.outbox := (rfl)
@[simp] theorem State.modDie_freeCtr (d : Nat) (f : Die → Die) : (s.modDie d f).freeCtr = s.freeCtr := (rfl)
@[simp] theorem State.modDie_port_get (d : Nat) (f : Die → Die) (i : Nat) : (s.modDie d f).port i = s.port i := (rfl)
@[simp] theorem State.modDie_eng_get (d : Nat) (f : Die → Die) (i : Nat) : (s.modDie d f).eng i = s.eng i := (rfl)
@[simp] theorem State.modDie_cluster_get (d : Nat) (f : Die → Die) (i : Nat) : (s.modDie d f).cluster i = s.cluster i := (rfl)
@[simp] theorem State.modDie_region_get (d : Nat) (f : Die → Die) (i : Nat) : (s.modDie d f).region i = s.region i := (rfl)
@[simp] theorem State.modDie_chan_get (d : Nat) (f : Die → Die) (i : Nat) : (s.modDie d f).chan i = s.chan i := (rfl)
@[simp] theorem State.modDie_seqr_get (d : Nat) (f : Die → Die) (i : Nat) : (s.modDie d f).seqr i = s.seqr i := (rfl)
@[simp] theorem State.modDie_fn_get (d : Nat) (f : Die → Die) (i : Nat) : (s.modDie d f).fn i = s.fn i := (rfl)
@[simp] theorem State.modDie_ep_get (d : Nat) (f : Die → Die) (i : Nat) : (s.modDie d f).ep i = s.ep i := (rfl)
@[simp] theorem State.modDie_part_get (d : Nat) (f : Die → Die) (i : Nat) : (s.modDie d f).part i = s.part i := (rfl)
@[simp] theorem State.modDie_dmaCh_get (d : Nat) (f : Die → Die) (i : Nat) : (s.modDie d f).dmaCh i = s.dmaCh i := (rfl)
@[simp] theorem State.modDie_cmpEng_get (d : Nat) (f : Die → Die) (i : Nat) : (s.modDie d f).cmpEng i = s.cmpEng i := (rfl)
@[simp] theorem State.modDie_vp_get (d : Nat) (f : Die → Die) (i : Nat) : (s.modDie d f).vp i = s.vp i := (rfl)

/-! ### modChan -/

@[simp] theorem State.modChan_pending (c : Nat) (f : Chan → Chan) : (s.modChan c f).pending = s.pending := (rfl)
@[simp] theorem State.modChan_time (c : Nat) (f : Chan → Chan) : (s.modChan c f).time = s.time := (rfl)
@[simp] theorem State.modChan_ports (c : Nat) (f : Chan → Chan) : (s.modChan c f).ports = s.ports := (rfl)
@[simp] theorem State.modChan_engines (c : Nat) (f : Chan → Chan) : (s.modChan c f).engines = s.engines := (rfl)
@[simp] theorem State.modChan_clusters (c : Nat) (f : Chan → Chan) : (s.modChan c f).clusters = s.clusters := (rfl)
@[simp] theorem State.modChan_regions (c : Nat) (f : Chan → Chan) : (s.modChan c f).regions = s.regions := (rfl)
@[simp] theorem State.modChan_dies (c : Nat) (f : Chan → Chan) : (s.modChan c f).dies = s.dies := (rfl)
@[simp] theorem State.modChan_mem (c : Nat) (f : Chan → Chan) : (s.modChan c f).mem = s.mem := (rfl)
@[simp] theorem State.modChan_pcs (c : Nat) (f : Chan → Chan) : (s.modChan c f).pcs = s.pcs := (rfl)
@[simp] theorem State.modChan_fns (c : Nat) (f : Chan → Chan) : (s.modChan c f).fns = s.fns := (rfl)
@[simp] theorem State.modChan_eps (c : Nat) (f : Chan → Chan) : (s.modChan c f).eps = s.eps := (rfl)
@[simp] theorem State.modChan_mbox (c : Nat) (f : Chan → Chan) : (s.modChan c f).mbox = s.mbox := (rfl)
@[simp] theorem State.modChan_parts (c : Nat) (f : Chan → Chan) : (s.modChan c f).parts = s.parts := (rfl)
@[simp] theorem State.modChan_dma (c : Nat) (f : Chan → Chan) : (s.modChan c f).dma = s.dma := (rfl)
@[simp] theorem State.modChan_cmp (c : Nat) (f : Chan → Chan) : (s.modChan c f).cmp = s.cmp := (rfl)
@[simp] theorem State.modChan_vach (c : Nat) (f : Chan → Chan) : (s.modChan c f).vach = s.vach := (rfl)
@[simp] theorem State.modChan_pwr (c : Nat) (f : Chan → Chan) : (s.modChan c f).pwr = s.pwr := (rfl)
@[simp] theorem State.modChan_clk (c : Nat) (f : Chan → Chan) : (s.modChan c f).clk = s.clk := (rfl)
@[simp] theorem State.modChan_mon (c : Nat) (f : Chan → Chan) : (s.modChan c f).mon = s.mon := (rfl)
@[simp] theorem State.modChan_sec (c : Nat) (f : Chan → Chan) : (s.modChan c f).sec = s.sec := (rfl)
@[simp] theorem State.modChan_boot (c : Nat) (f : Chan → Chan) : (s.modChan c f).boot = s.boot := (rfl)
@[simp] theorem State.modChan_faults (c : Nat) (f : Chan → Chan) : (s.modChan c f).faults = s.faults := (rfl)
@[simp] theorem State.modChan_hub (c : Nat) (f : Chan → Chan) : (s.modChan c f).hub = s.hub := (rfl)
@[simp] theorem State.modChan_outbox (c : Nat) (f : Chan → Chan) : (s.modChan c f).outbox = s.outbox := (rfl)
@[simp] theorem State.modChan_freeCtr (c : Nat) (f : Chan → Chan) : (s.modChan c f).freeCtr = s.freeCtr := (rfl)
@[simp] theorem State.modChan_port_get (c : Nat) (f : Chan → Chan) (i : Nat) : (s.modChan c f).port i = s.port i := (rfl)
@[simp] theorem State.modChan_eng_get (c : Nat) (f : Chan → Chan) (i : Nat) : (s.modChan c f).eng i = s.eng i := (rfl)
@[simp] theorem State.modChan_cluster_get (c : Nat) (f : Chan → Chan) (i : Nat) : (s.modChan c f).cluster i = s.cluster i := (rfl)
@[simp] theorem State.modChan_region_get (c : Nat) (f : Chan → Chan) (i : Nat) : (s.modChan c f).region i = s.region i := (rfl)
@[simp] theorem State.modChan_die_get (c : Nat) (f : Chan → Chan) (i : Nat) : (s.modChan c f).die i = s.die i := (rfl)
@[simp] theorem State.modChan_seqr_get (c : Nat) (f : Chan → Chan) (i : Nat) : (s.modChan c f).seqr i = s.seqr i := (rfl)
@[simp] theorem State.modChan_fn_get (c : Nat) (f : Chan → Chan) (i : Nat) : (s.modChan c f).fn i = s.fn i := (rfl)
@[simp] theorem State.modChan_ep_get (c : Nat) (f : Chan → Chan) (i : Nat) : (s.modChan c f).ep i = s.ep i := (rfl)
@[simp] theorem State.modChan_part_get (c : Nat) (f : Chan → Chan) (i : Nat) : (s.modChan c f).part i = s.part i := (rfl)
@[simp] theorem State.modChan_dmaCh_get (c : Nat) (f : Chan → Chan) (i : Nat) : (s.modChan c f).dmaCh i = s.dmaCh i := (rfl)
@[simp] theorem State.modChan_cmpEng_get (c : Nat) (f : Chan → Chan) (i : Nat) : (s.modChan c f).cmpEng i = s.cmpEng i := (rfl)
@[simp] theorem State.modChan_vp_get (c : Nat) (f : Chan → Chan) (i : Nat) : (s.modChan c f).vp i = s.vp i := (rfl)

/-! ### modSeqr -/

@[simp] theorem State.modSeqr_pending (n : Nat) (f : Pcs → Pcs) : (s.modSeqr n f).pending = s.pending := (rfl)
@[simp] theorem State.modSeqr_time (n : Nat) (f : Pcs → Pcs) : (s.modSeqr n f).time = s.time := (rfl)
@[simp] theorem State.modSeqr_ports (n : Nat) (f : Pcs → Pcs) : (s.modSeqr n f).ports = s.ports := (rfl)
@[simp] theorem State.modSeqr_engines (n : Nat) (f : Pcs → Pcs) : (s.modSeqr n f).engines = s.engines := (rfl)
@[simp] theorem State.modSeqr_clusters (n : Nat) (f : Pcs → Pcs) : (s.modSeqr n f).clusters = s.clusters := (rfl)
@[simp] theorem State.modSeqr_regions (n : Nat) (f : Pcs → Pcs) : (s.modSeqr n f).regions = s.regions := (rfl)
@[simp] theorem State.modSeqr_dies (n : Nat) (f : Pcs → Pcs) : (s.modSeqr n f).dies = s.dies := (rfl)
@[simp] theorem State.modSeqr_chans (n : Nat) (f : Pcs → Pcs) : (s.modSeqr n f).chans = s.chans := (rfl)
@[simp] theorem State.modSeqr_mem (n : Nat) (f : Pcs → Pcs) : (s.modSeqr n f).mem = s.mem := (rfl)
@[simp] theorem State.modSeqr_fns (n : Nat) (f : Pcs → Pcs) : (s.modSeqr n f).fns = s.fns := (rfl)
@[simp] theorem State.modSeqr_eps (n : Nat) (f : Pcs → Pcs) : (s.modSeqr n f).eps = s.eps := (rfl)
@[simp] theorem State.modSeqr_mbox (n : Nat) (f : Pcs → Pcs) : (s.modSeqr n f).mbox = s.mbox := (rfl)
@[simp] theorem State.modSeqr_parts (n : Nat) (f : Pcs → Pcs) : (s.modSeqr n f).parts = s.parts := (rfl)
@[simp] theorem State.modSeqr_dma (n : Nat) (f : Pcs → Pcs) : (s.modSeqr n f).dma = s.dma := (rfl)
@[simp] theorem State.modSeqr_cmp (n : Nat) (f : Pcs → Pcs) : (s.modSeqr n f).cmp = s.cmp := (rfl)
@[simp] theorem State.modSeqr_vach (n : Nat) (f : Pcs → Pcs) : (s.modSeqr n f).vach = s.vach := (rfl)
@[simp] theorem State.modSeqr_pwr (n : Nat) (f : Pcs → Pcs) : (s.modSeqr n f).pwr = s.pwr := (rfl)
@[simp] theorem State.modSeqr_clk (n : Nat) (f : Pcs → Pcs) : (s.modSeqr n f).clk = s.clk := (rfl)
@[simp] theorem State.modSeqr_mon (n : Nat) (f : Pcs → Pcs) : (s.modSeqr n f).mon = s.mon := (rfl)
@[simp] theorem State.modSeqr_sec (n : Nat) (f : Pcs → Pcs) : (s.modSeqr n f).sec = s.sec := (rfl)
@[simp] theorem State.modSeqr_boot (n : Nat) (f : Pcs → Pcs) : (s.modSeqr n f).boot = s.boot := (rfl)
@[simp] theorem State.modSeqr_faults (n : Nat) (f : Pcs → Pcs) : (s.modSeqr n f).faults = s.faults := (rfl)
@[simp] theorem State.modSeqr_hub (n : Nat) (f : Pcs → Pcs) : (s.modSeqr n f).hub = s.hub := (rfl)
@[simp] theorem State.modSeqr_outbox (n : Nat) (f : Pcs → Pcs) : (s.modSeqr n f).outbox = s.outbox := (rfl)
@[simp] theorem State.modSeqr_freeCtr (n : Nat) (f : Pcs → Pcs) : (s.modSeqr n f).freeCtr = s.freeCtr := (rfl)
@[simp] theorem State.modSeqr_port_get (n : Nat) (f : Pcs → Pcs) (i : Nat) : (s.modSeqr n f).port i = s.port i := (rfl)
@[simp] theorem State.modSeqr_eng_get (n : Nat) (f : Pcs → Pcs) (i : Nat) : (s.modSeqr n f).eng i = s.eng i := (rfl)
@[simp] theorem State.modSeqr_cluster_get (n : Nat) (f : Pcs → Pcs) (i : Nat) : (s.modSeqr n f).cluster i = s.cluster i := (rfl)
@[simp] theorem State.modSeqr_region_get (n : Nat) (f : Pcs → Pcs) (i : Nat) : (s.modSeqr n f).region i = s.region i := (rfl)
@[simp] theorem State.modSeqr_die_get (n : Nat) (f : Pcs → Pcs) (i : Nat) : (s.modSeqr n f).die i = s.die i := (rfl)
@[simp] theorem State.modSeqr_chan_get (n : Nat) (f : Pcs → Pcs) (i : Nat) : (s.modSeqr n f).chan i = s.chan i := (rfl)
@[simp] theorem State.modSeqr_fn_get (n : Nat) (f : Pcs → Pcs) (i : Nat) : (s.modSeqr n f).fn i = s.fn i := (rfl)
@[simp] theorem State.modSeqr_ep_get (n : Nat) (f : Pcs → Pcs) (i : Nat) : (s.modSeqr n f).ep i = s.ep i := (rfl)
@[simp] theorem State.modSeqr_part_get (n : Nat) (f : Pcs → Pcs) (i : Nat) : (s.modSeqr n f).part i = s.part i := (rfl)
@[simp] theorem State.modSeqr_dmaCh_get (n : Nat) (f : Pcs → Pcs) (i : Nat) : (s.modSeqr n f).dmaCh i = s.dmaCh i := (rfl)
@[simp] theorem State.modSeqr_cmpEng_get (n : Nat) (f : Pcs → Pcs) (i : Nat) : (s.modSeqr n f).cmpEng i = s.cmpEng i := (rfl)
@[simp] theorem State.modSeqr_vp_get (n : Nat) (f : Pcs → Pcs) (i : Nat) : (s.modSeqr n f).vp i = s.vp i := (rfl)

/-! ### setFn -/

@[simp] theorem State.setFn_pending (n : Nat) (x : Fn) : (s.setFn n x).pending = s.pending := (rfl)
@[simp] theorem State.setFn_time (n : Nat) (x : Fn) : (s.setFn n x).time = s.time := (rfl)
@[simp] theorem State.setFn_ports (n : Nat) (x : Fn) : (s.setFn n x).ports = s.ports := (rfl)
@[simp] theorem State.setFn_engines (n : Nat) (x : Fn) : (s.setFn n x).engines = s.engines := (rfl)
@[simp] theorem State.setFn_clusters (n : Nat) (x : Fn) : (s.setFn n x).clusters = s.clusters := (rfl)
@[simp] theorem State.setFn_regions (n : Nat) (x : Fn) : (s.setFn n x).regions = s.regions := (rfl)
@[simp] theorem State.setFn_dies (n : Nat) (x : Fn) : (s.setFn n x).dies = s.dies := (rfl)
@[simp] theorem State.setFn_chans (n : Nat) (x : Fn) : (s.setFn n x).chans = s.chans := (rfl)
@[simp] theorem State.setFn_mem (n : Nat) (x : Fn) : (s.setFn n x).mem = s.mem := (rfl)
@[simp] theorem State.setFn_pcs (n : Nat) (x : Fn) : (s.setFn n x).pcs = s.pcs := (rfl)
@[simp] theorem State.setFn_eps (n : Nat) (x : Fn) : (s.setFn n x).eps = s.eps := (rfl)
@[simp] theorem State.setFn_mbox (n : Nat) (x : Fn) : (s.setFn n x).mbox = s.mbox := (rfl)
@[simp] theorem State.setFn_parts (n : Nat) (x : Fn) : (s.setFn n x).parts = s.parts := (rfl)
@[simp] theorem State.setFn_dma (n : Nat) (x : Fn) : (s.setFn n x).dma = s.dma := (rfl)
@[simp] theorem State.setFn_cmp (n : Nat) (x : Fn) : (s.setFn n x).cmp = s.cmp := (rfl)
@[simp] theorem State.setFn_vach (n : Nat) (x : Fn) : (s.setFn n x).vach = s.vach := (rfl)
@[simp] theorem State.setFn_pwr (n : Nat) (x : Fn) : (s.setFn n x).pwr = s.pwr := (rfl)
@[simp] theorem State.setFn_clk (n : Nat) (x : Fn) : (s.setFn n x).clk = s.clk := (rfl)
@[simp] theorem State.setFn_mon (n : Nat) (x : Fn) : (s.setFn n x).mon = s.mon := (rfl)
@[simp] theorem State.setFn_sec (n : Nat) (x : Fn) : (s.setFn n x).sec = s.sec := (rfl)
@[simp] theorem State.setFn_boot (n : Nat) (x : Fn) : (s.setFn n x).boot = s.boot := (rfl)
@[simp] theorem State.setFn_faults (n : Nat) (x : Fn) : (s.setFn n x).faults = s.faults := (rfl)
@[simp] theorem State.setFn_hub (n : Nat) (x : Fn) : (s.setFn n x).hub = s.hub := (rfl)
@[simp] theorem State.setFn_outbox (n : Nat) (x : Fn) : (s.setFn n x).outbox = s.outbox := (rfl)
@[simp] theorem State.setFn_freeCtr (n : Nat) (x : Fn) : (s.setFn n x).freeCtr = s.freeCtr := (rfl)
@[simp] theorem State.setFn_port_get (n : Nat) (x : Fn) (i : Nat) : (s.setFn n x).port i = s.port i := (rfl)
@[simp] theorem State.setFn_eng_get (n : Nat) (x : Fn) (i : Nat) : (s.setFn n x).eng i = s.eng i := (rfl)
@[simp] theorem State.setFn_cluster_get (n : Nat) (x : Fn) (i : Nat) : (s.setFn n x).cluster i = s.cluster i := (rfl)
@[simp] theorem State.setFn_region_get (n : Nat) (x : Fn) (i : Nat) : (s.setFn n x).region i = s.region i := (rfl)
@[simp] theorem State.setFn_die_get (n : Nat) (x : Fn) (i : Nat) : (s.setFn n x).die i = s.die i := (rfl)
@[simp] theorem State.setFn_chan_get (n : Nat) (x : Fn) (i : Nat) : (s.setFn n x).chan i = s.chan i := (rfl)
@[simp] theorem State.setFn_seqr_get (n : Nat) (x : Fn) (i : Nat) : (s.setFn n x).seqr i = s.seqr i := (rfl)
@[simp] theorem State.setFn_ep_get (n : Nat) (x : Fn) (i : Nat) : (s.setFn n x).ep i = s.ep i := (rfl)
@[simp] theorem State.setFn_part_get (n : Nat) (x : Fn) (i : Nat) : (s.setFn n x).part i = s.part i := (rfl)
@[simp] theorem State.setFn_dmaCh_get (n : Nat) (x : Fn) (i : Nat) : (s.setFn n x).dmaCh i = s.dmaCh i := (rfl)
@[simp] theorem State.setFn_cmpEng_get (n : Nat) (x : Fn) (i : Nat) : (s.setFn n x).cmpEng i = s.cmpEng i := (rfl)
@[simp] theorem State.setFn_vp_get (n : Nat) (x : Fn) (i : Nat) : (s.setFn n x).vp i = s.vp i := (rfl)

/-! ### modFn -/

@[simp] theorem State.modFn_pending (n : Nat) (g : Fn → Fn) : (s.modFn n g).pending = s.pending := (rfl)
@[simp] theorem State.modFn_time (n : Nat) (g : Fn → Fn) : (s.modFn n g).time = s.time := (rfl)
@[simp] theorem State.modFn_ports (n : Nat) (g : Fn → Fn) : (s.modFn n g).ports = s.ports := (rfl)
@[simp] theorem State.modFn_engines (n : Nat) (g : Fn → Fn) : (s.modFn n g).engines = s.engines := (rfl)
@[simp] theorem State.modFn_clusters (n : Nat) (g : Fn → Fn) : (s.modFn n g).clusters = s.clusters := (rfl)
@[simp] theorem State.modFn_regions (n : Nat) (g : Fn → Fn) : (s.modFn n g).regions = s.regions := (rfl)
@[simp] theorem State.modFn_dies (n : Nat) (g : Fn → Fn) : (s.modFn n g).dies = s.dies := (rfl)
@[simp] theorem State.modFn_chans (n : Nat) (g : Fn → Fn) : (s.modFn n g).chans = s.chans := (rfl)
@[simp] theorem State.modFn_mem (n : Nat) (g : Fn → Fn) : (s.modFn n g).mem = s.mem := (rfl)
@[simp] theorem State.modFn_pcs (n : Nat) (g : Fn → Fn) : (s.modFn n g).pcs = s.pcs := (rfl)
@[simp] theorem State.modFn_eps (n : Nat) (g : Fn → Fn) : (s.modFn n g).eps = s.eps := (rfl)
@[simp] theorem State.modFn_mbox (n : Nat) (g : Fn → Fn) : (s.modFn n g).mbox = s.mbox := (rfl)
@[simp] theorem State.modFn_parts (n : Nat) (g : Fn → Fn) : (s.modFn n g).parts = s.parts := (rfl)
@[simp] theorem State.modFn_dma (n : Nat) (g : Fn → Fn) : (s.modFn n g).dma = s.dma := (rfl)
@[simp] theorem State.modFn_cmp (n : Nat) (g : Fn → Fn) : (s.modFn n g).cmp = s.cmp := (rfl)
@[simp] theorem State.modFn_vach (n : Nat) (g : Fn → Fn) : (s.modFn n g).vach = s.vach := (rfl)
@[simp] theorem State.modFn_pwr (n : Nat) (g : Fn → Fn) : (s.modFn n g).pwr = s.pwr := (rfl)
@[simp] theorem State.modFn_clk (n : Nat) (g : Fn → Fn) : (s.modFn n g).clk = s.clk := (rfl)
@[simp] theorem State.modFn_mon (n : Nat) (g : Fn → Fn) : (s.modFn n g).mon = s.mon := (rfl)
@[simp] theorem State.modFn_sec (n : Nat) (g : Fn → Fn) : (s.modFn n g).sec = s.sec := (rfl)
@[simp] theorem State.modFn_boot (n : Nat) (g : Fn → Fn) : (s.modFn n g).boot = s.boot := (rfl)
@[simp] theorem State.modFn_faults (n : Nat) (g : Fn → Fn) : (s.modFn n g).faults = s.faults := (rfl)
@[simp] theorem State.modFn_hub (n : Nat) (g : Fn → Fn) : (s.modFn n g).hub = s.hub := (rfl)
@[simp] theorem State.modFn_outbox (n : Nat) (g : Fn → Fn) : (s.modFn n g).outbox = s.outbox := (rfl)
@[simp] theorem State.modFn_freeCtr (n : Nat) (g : Fn → Fn) : (s.modFn n g).freeCtr = s.freeCtr := (rfl)
@[simp] theorem State.modFn_port_get (n : Nat) (g : Fn → Fn) (i : Nat) : (s.modFn n g).port i = s.port i := (rfl)
@[simp] theorem State.modFn_eng_get (n : Nat) (g : Fn → Fn) (i : Nat) : (s.modFn n g).eng i = s.eng i := (rfl)
@[simp] theorem State.modFn_cluster_get (n : Nat) (g : Fn → Fn) (i : Nat) : (s.modFn n g).cluster i = s.cluster i := (rfl)
@[simp] theorem State.modFn_region_get (n : Nat) (g : Fn → Fn) (i : Nat) : (s.modFn n g).region i = s.region i := (rfl)
@[simp] theorem State.modFn_die_get (n : Nat) (g : Fn → Fn) (i : Nat) : (s.modFn n g).die i = s.die i := (rfl)
@[simp] theorem State.modFn_chan_get (n : Nat) (g : Fn → Fn) (i : Nat) : (s.modFn n g).chan i = s.chan i := (rfl)
@[simp] theorem State.modFn_seqr_get (n : Nat) (g : Fn → Fn) (i : Nat) : (s.modFn n g).seqr i = s.seqr i := (rfl)
@[simp] theorem State.modFn_ep_get (n : Nat) (g : Fn → Fn) (i : Nat) : (s.modFn n g).ep i = s.ep i := (rfl)
@[simp] theorem State.modFn_part_get (n : Nat) (g : Fn → Fn) (i : Nat) : (s.modFn n g).part i = s.part i := (rfl)
@[simp] theorem State.modFn_dmaCh_get (n : Nat) (g : Fn → Fn) (i : Nat) : (s.modFn n g).dmaCh i = s.dmaCh i := (rfl)
@[simp] theorem State.modFn_cmpEng_get (n : Nat) (g : Fn → Fn) (i : Nat) : (s.modFn n g).cmpEng i = s.cmpEng i := (rfl)
@[simp] theorem State.modFn_vp_get (n : Nat) (g : Fn → Fn) (i : Nat) : (s.modFn n g).vp i = s.vp i := (rfl)

/-! ### modEp -/

@[simp] theorem State.modEp_pending (e : Nat) (f : Endpoint → Endpoint) : (s.modEp e f).pending = s.pending := (rfl)
@[simp] theorem State.modEp_time (e : Nat) (f : Endpoint → Endpoint) : (s.modEp e f).time = s.time := (rfl)
@[simp] theorem State.modEp_ports (e : Nat) (f : Endpoint → Endpoint) : (s.modEp e f).ports = s.ports := (rfl)
@[simp] theorem State.modEp_engines (e : Nat) (f : Endpoint → Endpoint) : (s.modEp e f).engines = s.engines := (rfl)
@[simp] theorem State.modEp_clusters (e : Nat) (f : Endpoint → Endpoint) : (s.modEp e f).clusters = s.clusters := (rfl)
@[simp] theorem State.modEp_regions (e : Nat) (f : Endpoint → Endpoint) : (s.modEp e f).regions = s.regions := (rfl)
@[simp] theorem State.modEp_dies (e : Nat) (f : Endpoint → Endpoint) : (s.modEp e f).dies = s.dies := (rfl)
@[simp] theorem State.modEp_chans (e : Nat) (f : Endpoint → Endpoint) : (s.modEp e f).chans = s.chans := (rfl)
@[simp] theorem State.modEp_mem (e : Nat) (f : Endpoint → Endpoint) : (s.modEp e f).mem = s.mem := (rfl)
@[simp] theorem State.modEp_pcs (e : Nat) (f : Endpoint → Endpoint) : (s.modEp e f).pcs = s.pcs := (rfl)
@[simp] theorem State.modEp_fns (e : Nat) (f : Endpoint → Endpoint) : (s.modEp e f).fns = s.fns := (rfl)
@[simp] theorem State.modEp_mbox (e : Nat) (f : Endpoint → Endpoint) : (s.modEp e f).mbox = s.mbox := (rfl)
@[simp] theorem State.modEp_parts (e : Nat) (f : Endpoint → Endpoint) : (s.modEp e f).parts = s.parts := (rfl)
@[simp] theorem State.modEp_dma (e : Nat) (f : Endpoint → Endpoint) : (s.modEp e f).dma = s.dma := (rfl)
@[simp] theorem State.modEp_cmp (e : Nat) (f : Endpoint → Endpoint) : (s.modEp e f).cmp = s.cmp := (rfl)
@[simp] theorem State.modEp_vach (e : Nat) (f : Endpoint → Endpoint) : (s.modEp e f).vach = s.vach := (rfl)
@[simp] theorem State.modEp_pwr (e : Nat) (f : Endpoint → Endpoint) : (s.modEp e f).pwr = s.pwr := (rfl)
@[simp] theorem State.modEp_clk (e : Nat) (f : Endpoint → Endpoint) : (s.modEp e f).clk = s.clk := (rfl)
@[simp] theorem State.modEp_mon (e : Nat) (f : Endpoint → Endpoint) : (s.modEp e f).mon = s.mon := (rfl)
@[simp] theorem State.modEp_sec (e : Nat) (f : Endpoint → Endpoint) : (s.modEp e f).sec = s.sec := (rfl)
@[simp] theorem State.modEp_boot (e : Nat) (f : Endpoint → Endpoint) : (s.modEp e f).boot = s.boot := (rfl)
@[simp] theorem State.modEp_faults (e : Nat) (f : Endpoint → Endpoint) : (s.modEp e f).faults = s.faults := (rfl)
@[simp] theorem State.modEp_hub (e : Nat) (f : Endpoint → Endpoint) : (s.modEp e f).hub = s.hub := (rfl)
@[simp] theorem State.modEp_outbox (e : Nat) (f : Endpoint → Endpoint) : (s.modEp e f).outbox = s.outbox := (rfl)
@[simp] theorem State.modEp_freeCtr (e : Nat) (f : Endpoint → Endpoint) : (s.modEp e f).freeCtr = s.freeCtr := (rfl)
@[simp] theorem State.modEp_port_get (e : Nat) (f : Endpoint → Endpoint) (i : Nat) : (s.modEp e f).port i = s.port i := (rfl)
@[simp] theorem State.modEp_eng_get (e : Nat) (f : Endpoint → Endpoint) (i : Nat) : (s.modEp e f).eng i = s.eng i := (rfl)
@[simp] theorem State.modEp_cluster_get (e : Nat) (f : Endpoint → Endpoint) (i : Nat) : (s.modEp e f).cluster i = s.cluster i := (rfl)
@[simp] theorem State.modEp_region_get (e : Nat) (f : Endpoint → Endpoint) (i : Nat) : (s.modEp e f).region i = s.region i := (rfl)
@[simp] theorem State.modEp_die_get (e : Nat) (f : Endpoint → Endpoint) (i : Nat) : (s.modEp e f).die i = s.die i := (rfl)
@[simp] theorem State.modEp_chan_get (e : Nat) (f : Endpoint → Endpoint) (i : Nat) : (s.modEp e f).chan i = s.chan i := (rfl)
@[simp] theorem State.modEp_seqr_get (e : Nat) (f : Endpoint → Endpoint) (i : Nat) : (s.modEp e f).seqr i = s.seqr i := (rfl)
@[simp] theorem State.modEp_fn_get (e : Nat) (f : Endpoint → Endpoint) (i : Nat) : (s.modEp e f).fn i = s.fn i := (rfl)
@[simp] theorem State.modEp_part_get (e : Nat) (f : Endpoint → Endpoint) (i : Nat) : (s.modEp e f).part i = s.part i := (rfl)
@[simp] theorem State.modEp_dmaCh_get (e : Nat) (f : Endpoint → Endpoint) (i : Nat) : (s.modEp e f).dmaCh i = s.dmaCh i := (rfl)
@[simp] theorem State.modEp_cmpEng_get (e : Nat) (f : Endpoint → Endpoint) (i : Nat) : (s.modEp e f).cmpEng i = s.cmpEng i := (rfl)
@[simp] theorem State.modEp_vp_get (e : Nat) (f : Endpoint → Endpoint) (i : Nat) : (s.modEp e f).vp i = s.vp i := (rfl)

/-! ### modPart -/

@[simp] theorem State.modPart_pending (k : Nat) (f : Part → Part) : (s.modPart k f).pending = s.pending := (rfl)
@[simp] theorem State.modPart_time (k : Nat) (f : Part → Part) : (s.modPart k f).time = s.time := (rfl)
@[simp] theorem State.modPart_ports (k : Nat) (f : Part → Part) : (s.modPart k f).ports = s.ports := (rfl)
@[simp] theorem State.modPart_engines (k : Nat) (f : Part → Part) : (s.modPart k f).engines = s.engines := (rfl)
@[simp] theorem State.modPart_clusters (k : Nat) (f : Part → Part) : (s.modPart k f).clusters = s.clusters := (rfl)
@[simp] theorem State.modPart_regions (k : Nat) (f : Part → Part) : (s.modPart k f).regions = s.regions := (rfl)
@[simp] theorem State.modPart_dies (k : Nat) (f : Part → Part) : (s.modPart k f).dies = s.dies := (rfl)
@[simp] theorem State.modPart_chans (k : Nat) (f : Part → Part) : (s.modPart k f).chans = s.chans := (rfl)
@[simp] theorem State.modPart_mem (k : Nat) (f : Part → Part) : (s.modPart k f).mem = s.mem := (rfl)
@[simp] theorem State.modPart_pcs (k : Nat) (f : Part → Part) : (s.modPart k f).pcs = s.pcs := (rfl)
@[simp] theorem State.modPart_fns (k : Nat) (f : Part → Part) : (s.modPart k f).fns = s.fns := (rfl)
@[simp] theorem State.modPart_eps (k : Nat) (f : Part → Part) : (s.modPart k f).eps = s.eps := (rfl)
@[simp] theorem State.modPart_mbox (k : Nat) (f : Part → Part) : (s.modPart k f).mbox = s.mbox := (rfl)
@[simp] theorem State.modPart_dma (k : Nat) (f : Part → Part) : (s.modPart k f).dma = s.dma := (rfl)
@[simp] theorem State.modPart_cmp (k : Nat) (f : Part → Part) : (s.modPart k f).cmp = s.cmp := (rfl)
@[simp] theorem State.modPart_vach (k : Nat) (f : Part → Part) : (s.modPart k f).vach = s.vach := (rfl)
@[simp] theorem State.modPart_pwr (k : Nat) (f : Part → Part) : (s.modPart k f).pwr = s.pwr := (rfl)
@[simp] theorem State.modPart_clk (k : Nat) (f : Part → Part) : (s.modPart k f).clk = s.clk := (rfl)
@[simp] theorem State.modPart_mon (k : Nat) (f : Part → Part) : (s.modPart k f).mon = s.mon := (rfl)
@[simp] theorem State.modPart_sec (k : Nat) (f : Part → Part) : (s.modPart k f).sec = s.sec := (rfl)
@[simp] theorem State.modPart_boot (k : Nat) (f : Part → Part) : (s.modPart k f).boot = s.boot := (rfl)
@[simp] theorem State.modPart_faults (k : Nat) (f : Part → Part) : (s.modPart k f).faults = s.faults := (rfl)
@[simp] theorem State.modPart_hub (k : Nat) (f : Part → Part) : (s.modPart k f).hub = s.hub := (rfl)
@[simp] theorem State.modPart_outbox (k : Nat) (f : Part → Part) : (s.modPart k f).outbox = s.outbox := (rfl)
@[simp] theorem State.modPart_freeCtr (k : Nat) (f : Part → Part) : (s.modPart k f).freeCtr = s.freeCtr := (rfl)
@[simp] theorem State.modPart_port_get (k : Nat) (f : Part → Part) (i : Nat) : (s.modPart k f).port i = s.port i := (rfl)
@[simp] theorem State.modPart_eng_get (k : Nat) (f : Part → Part) (i : Nat) : (s.modPart k f).eng i = s.eng i := (rfl)
@[simp] theorem State.modPart_cluster_get (k : Nat) (f : Part → Part) (i : Nat) : (s.modPart k f).cluster i = s.cluster i := (rfl)
@[simp] theorem State.modPart_region_get (k : Nat) (f : Part → Part) (i : Nat) : (s.modPart k f).region i = s.region i := (rfl)
@[simp] theorem State.modPart_die_get (k : Nat) (f : Part → Part) (i : Nat) : (s.modPart k f).die i = s.die i := (rfl)
@[simp] theorem State.modPart_chan_get (k : Nat) (f : Part → Part) (i : Nat) : (s.modPart k f).chan i = s.chan i := (rfl)
@[simp] theorem State.modPart_seqr_get (k : Nat) (f : Part → Part) (i : Nat) : (s.modPart k f).seqr i = s.seqr i := (rfl)
@[simp] theorem State.modPart_fn_get (k : Nat) (f : Part → Part) (i : Nat) : (s.modPart k f).fn i = s.fn i := (rfl)
@[simp] theorem State.modPart_ep_get (k : Nat) (f : Part → Part) (i : Nat) : (s.modPart k f).ep i = s.ep i := (rfl)
@[simp] theorem State.modPart_dmaCh_get (k : Nat) (f : Part → Part) (i : Nat) : (s.modPart k f).dmaCh i = s.dmaCh i := (rfl)
@[simp] theorem State.modPart_cmpEng_get (k : Nat) (f : Part → Part) (i : Nat) : (s.modPart k f).cmpEng i = s.cmpEng i := (rfl)
@[simp] theorem State.modPart_vp_get (k : Nat) (f : Part → Part) (i : Nat) : (s.modPart k f).vp i = s.vp i := (rfl)

/-! ### modDma -/

@[simp] theorem State.modDma_pending (n : Nat) (f : Dma → Dma) : (s.modDma n f).pending = s.pending := (rfl)
@[simp] theorem State.modDma_time (n : Nat) (f : Dma → Dma) : (s.modDma n f).time = s.time := (rfl)
@[simp] theorem State.modDma_ports (n : Nat) (f : Dma → Dma) : (s.modDma n f).ports = s.ports := (rfl)
@[simp] theorem State.modDma_engines (n : Nat) (f : Dma → Dma) : (s.modDma n f).engines = s.engines := (rfl)
@[simp] theorem State.modDma_clusters (n : Nat) (f : Dma → Dma) : (s.modDma n f).clusters = s.clusters := (rfl)
@[simp] theorem State.modDma_regions (n : Nat) (f : Dma → Dma) : (s.modDma n f).regions = s.regions := (rfl)
@[simp] theorem State.modDma_dies (n : Nat) (f : Dma → Dma) : (s.modDma n f).dies = s.dies := (rfl)
@[simp] theorem State.modDma_chans (n : Nat) (f : Dma → Dma) : (s.modDma n f).chans = s.chans := (rfl)
@[simp] theorem State.modDma_mem (n : Nat) (f : Dma → Dma) : (s.modDma n f).mem = s.mem := (rfl)
@[simp] theorem State.modDma_pcs (n : Nat) (f : Dma → Dma) : (s.modDma n f).pcs = s.pcs := (rfl)
@[simp] theorem State.modDma_fns (n : Nat) (f : Dma → Dma) : (s.modDma n f).fns = s.fns := (rfl)
@[simp] theorem State.modDma_eps (n : Nat) (f : Dma → Dma) : (s.modDma n f).eps = s.eps := (rfl)
@[simp] theorem State.modDma_mbox (n : Nat) (f : Dma → Dma) : (s.modDma n f).mbox = s.mbox := (rfl)
@[simp] theorem State.modDma_parts (n : Nat) (f : Dma → Dma) : (s.modDma n f).parts = s.parts := (rfl)
@[simp] theorem State.modDma_cmp (n : Nat) (f : Dma → Dma) : (s.modDma n f).cmp = s.cmp := (rfl)
@[simp] theorem State.modDma_vach (n : Nat) (f : Dma → Dma) : (s.modDma n f).vach = s.vach := (rfl)
@[simp] theorem State.modDma_pwr (n : Nat) (f : Dma → Dma) : (s.modDma n f).pwr = s.pwr := (rfl)
@[simp] theorem State.modDma_clk (n : Nat) (f : Dma → Dma) : (s.modDma n f).clk = s.clk := (rfl)
@[simp] theorem State.modDma_mon (n : Nat) (f : Dma → Dma) : (s.modDma n f).mon = s.mon := (rfl)
@[simp] theorem State.modDma_sec (n : Nat) (f : Dma → Dma) : (s.modDma n f).sec = s.sec := (rfl)
@[simp] theorem State.modDma_boot (n : Nat) (f : Dma → Dma) : (s.modDma n f).boot = s.boot := (rfl)
@[simp] theorem State.modDma_faults (n : Nat) (f : Dma → Dma) : (s.modDma n f).faults = s.faults := (rfl)
@[simp] theorem State.modDma_hub (n : Nat) (f : Dma → Dma) : (s.modDma n f).hub = s.hub := (rfl)
@[simp] theorem State.modDma_outbox (n : Nat) (f : Dma → Dma) : (s.modDma n f).outbox = s.outbox := (rfl)
@[simp] theorem State.modDma_freeCtr (n : Nat) (f : Dma → Dma) : (s.modDma n f).freeCtr = s.freeCtr := (rfl)
@[simp] theorem State.modDma_port_get (n : Nat) (f : Dma → Dma) (i : Nat) : (s.modDma n f).port i = s.port i := (rfl)
@[simp] theorem State.modDma_eng_get (n : Nat) (f : Dma → Dma) (i : Nat) : (s.modDma n f).eng i = s.eng i := (rfl)
@[simp] theorem State.modDma_cluster_get (n : Nat) (f : Dma → Dma) (i : Nat) : (s.modDma n f).cluster i = s.cluster i := (rfl)
@[simp] theorem State.modDma_region_get (n : Nat) (f : Dma → Dma) (i : Nat) : (s.modDma n f).region i = s.region i := (rfl)
@[simp] theorem State.modDma_die_get (n : Nat) (f : Dma → Dma) (i : Nat) : (s.modDma n f).die i = s.die i := (rfl)
@[simp] theorem State.modDma_chan_get (n : Nat) (f : Dma → Dma) (i : Nat) : (s.modDma n f).chan i = s.chan i := (rfl)
@[simp] theorem State.modDma_seqr_get (n : Nat) (f : Dma → Dma) (i : Nat) : (s.modDma n f).seqr i = s.seqr i := (rfl)
@[simp] theorem State.modDma_fn_get (n : Nat) (f : Dma → Dma) (i : Nat) : (s.modDma n f).fn i = s.fn i := (rfl)
@[simp] theorem State.modDma_ep_get (n : Nat) (f : Dma → Dma) (i : Nat) : (s.modDma n f).ep i = s.ep i := (rfl)
@[simp] theorem State.modDma_part_get (n : Nat) (f : Dma → Dma) (i : Nat) : (s.modDma n f).part i = s.part i := (rfl)
@[simp] theorem State.modDma_cmpEng_get (n : Nat) (f : Dma → Dma) (i : Nat) : (s.modDma n f).cmpEng i = s.cmpEng i := (rfl)
@[simp] theorem State.modDma_vp_get (n : Nat) (f : Dma → Dma) (i : Nat) : (s.modDma n f).vp i = s.vp i := (rfl)

/-! ### modCmp -/

@[simp] theorem State.modCmp_pending (m : Nat) (f : Cmp → Cmp) : (s.modCmp m f).pending = s.pending := (rfl)
@[simp] theorem State.modCmp_time (m : Nat) (f : Cmp → Cmp) : (s.modCmp m f).time = s.time := (rfl)
@[simp] theorem State.modCmp_ports (m : Nat) (f : Cmp → Cmp) : (s.modCmp m f).ports = s.ports := (rfl)
@[simp] theorem State.modCmp_engines (m : Nat) (f : Cmp → Cmp) : (s.modCmp m f).engines = s.engines := (rfl)
@[simp] theorem State.modCmp_clusters (m : Nat) (f : Cmp → Cmp) : (s.modCmp m f).clusters = s.clusters := (rfl)
@[simp] theorem State.modCmp_regions (m : Nat) (f : Cmp → Cmp) : (s.modCmp m f).regions = s.regions := (rfl)
@[simp] theorem State.modCmp_dies (m : Nat) (f : Cmp → Cmp) : (s.modCmp m f).dies = s.dies := (rfl)
@[simp] theorem State.modCmp_chans (m : Nat) (f : Cmp → Cmp) : (s.modCmp m f).chans = s.chans := (rfl)
@[simp] theorem State.modCmp_mem (m : Nat) (f : Cmp → Cmp) : (s.modCmp m f).mem = s.mem := (rfl)
@[simp] theorem State.modCmp_pcs (m : Nat) (f : Cmp → Cmp) : (s.modCmp m f).pcs = s.pcs := (rfl)
@[simp] theorem State.modCmp_fns (m : Nat) (f : Cmp → Cmp) : (s.modCmp m f).fns = s.fns := (rfl)
@[simp] theorem State.modCmp_eps (m : Nat) (f : Cmp → Cmp) : (s.modCmp m f).eps = s.eps := (rfl)
@[simp] theorem State.modCmp_mbox (m : Nat) (f : Cmp → Cmp) : (s.modCmp m f).mbox = s.mbox := (rfl)
@[simp] theorem State.modCmp_parts (m : Nat) (f : Cmp → Cmp) : (s.modCmp m f).parts = s.parts := (rfl)
@[simp] theorem State.modCmp_dma (m : Nat) (f : Cmp → Cmp) : (s.modCmp m f).dma = s.dma := (rfl)
@[simp] theorem State.modCmp_vach (m : Nat) (f : Cmp → Cmp) : (s.modCmp m f).vach = s.vach := (rfl)
@[simp] theorem State.modCmp_pwr (m : Nat) (f : Cmp → Cmp) : (s.modCmp m f).pwr = s.pwr := (rfl)
@[simp] theorem State.modCmp_clk (m : Nat) (f : Cmp → Cmp) : (s.modCmp m f).clk = s.clk := (rfl)
@[simp] theorem State.modCmp_mon (m : Nat) (f : Cmp → Cmp) : (s.modCmp m f).mon = s.mon := (rfl)
@[simp] theorem State.modCmp_sec (m : Nat) (f : Cmp → Cmp) : (s.modCmp m f).sec = s.sec := (rfl)
@[simp] theorem State.modCmp_boot (m : Nat) (f : Cmp → Cmp) : (s.modCmp m f).boot = s.boot := (rfl)
@[simp] theorem State.modCmp_faults (m : Nat) (f : Cmp → Cmp) : (s.modCmp m f).faults = s.faults := (rfl)
@[simp] theorem State.modCmp_hub (m : Nat) (f : Cmp → Cmp) : (s.modCmp m f).hub = s.hub := (rfl)
@[simp] theorem State.modCmp_outbox (m : Nat) (f : Cmp → Cmp) : (s.modCmp m f).outbox = s.outbox := (rfl)
@[simp] theorem State.modCmp_freeCtr (m : Nat) (f : Cmp → Cmp) : (s.modCmp m f).freeCtr = s.freeCtr := (rfl)
@[simp] theorem State.modCmp_port_get (m : Nat) (f : Cmp → Cmp) (i : Nat) : (s.modCmp m f).port i = s.port i := (rfl)
@[simp] theorem State.modCmp_eng_get (m : Nat) (f : Cmp → Cmp) (i : Nat) : (s.modCmp m f).eng i = s.eng i := (rfl)
@[simp] theorem State.modCmp_cluster_get (m : Nat) (f : Cmp → Cmp) (i : Nat) : (s.modCmp m f).cluster i = s.cluster i := (rfl)
@[simp] theorem State.modCmp_region_get (m : Nat) (f : Cmp → Cmp) (i : Nat) : (s.modCmp m f).region i = s.region i := (rfl)
@[simp] theorem State.modCmp_die_get (m : Nat) (f : Cmp → Cmp) (i : Nat) : (s.modCmp m f).die i = s.die i := (rfl)
@[simp] theorem State.modCmp_chan_get (m : Nat) (f : Cmp → Cmp) (i : Nat) : (s.modCmp m f).chan i = s.chan i := (rfl)
@[simp] theorem State.modCmp_seqr_get (m : Nat) (f : Cmp → Cmp) (i : Nat) : (s.modCmp m f).seqr i = s.seqr i := (rfl)
@[simp] theorem State.modCmp_fn_get (m : Nat) (f : Cmp → Cmp) (i : Nat) : (s.modCmp m f).fn i = s.fn i := (rfl)
@[simp] theorem State.modCmp_ep_get (m : Nat) (f : Cmp → Cmp) (i : Nat) : (s.modCmp m f).ep i = s.ep i := (rfl)
@[simp] theorem State.modCmp_part_get (m : Nat) (f : Cmp → Cmp) (i : Nat) : (s.modCmp m f).part i = s.part i := (rfl)
@[simp] theorem State.modCmp_dmaCh_get (m : Nat) (f : Cmp → Cmp) (i : Nat) : (s.modCmp m f).dmaCh i = s.dmaCh i := (rfl)
@[simp] theorem State.modCmp_vp_get (m : Nat) (f : Cmp → Cmp) (i : Nat) : (s.modCmp m f).vp i = s.vp i := (rfl)

/-! ### modVp -/

@[simp] theorem State.modVp_pending (v : Nat) (f : Vp → Vp) : (s.modVp v f).pending = s.pending := (rfl)
@[simp] theorem State.modVp_time (v : Nat) (f : Vp → Vp) : (s.modVp v f).time = s.time := (rfl)
@[simp] theorem State.modVp_ports (v : Nat) (f : Vp → Vp) : (s.modVp v f).ports = s.ports := (rfl)
@[simp] theorem State.modVp_engines (v : Nat) (f : Vp → Vp) : (s.modVp v f).engines = s.engines := (rfl)
@[simp] theorem State.modVp_clusters (v : Nat) (f : Vp → Vp) : (s.modVp v f).clusters = s.clusters := (rfl)
@[simp] theorem State.modVp_regions (v : Nat) (f : Vp → Vp) : (s.modVp v f).regions = s.regions := (rfl)
@[simp] theorem State.modVp_dies (v : Nat) (f : Vp → Vp) : (s.modVp v f).dies = s.dies := (rfl)
@[simp] theorem State.modVp_chans (v : Nat) (f : Vp → Vp) : (s.modVp v f).chans = s.chans := (rfl)
@[simp] theorem State.modVp_mem (v : Nat) (f : Vp → Vp) : (s.modVp v f).mem = s.mem := (rfl)
@[simp] theorem State.modVp_pcs (v : Nat) (f : Vp → Vp) : (s.modVp v f).pcs = s.pcs := (rfl)
@[simp] theorem State.modVp_fns (v : Nat) (f : Vp → Vp) : (s.modVp v f).fns = s.fns := (rfl)
@[simp] theorem State.modVp_eps (v : Nat) (f : Vp → Vp) : (s.modVp v f).eps = s.eps := (rfl)
@[simp] theorem State.modVp_mbox (v : Nat) (f : Vp → Vp) : (s.modVp v f).mbox = s.mbox := (rfl)
@[simp] theorem State.modVp_parts (v : Nat) (f : Vp → Vp) : (s.modVp v f).parts = s.parts := (rfl)
@[simp] theorem State.modVp_dma (v : Nat) (f : Vp → Vp) : (s.modVp v f).dma = s.dma := (rfl)
@[simp] theorem State.modVp_cmp (v : Nat) (f : Vp → Vp) : (s.modVp v f).cmp = s.cmp := (rfl)
@[simp] theorem State.modVp_pwr (v : Nat) (f : Vp → Vp) : (s.modVp v f).pwr = s.pwr := (rfl)
@[simp] theorem State.modVp_clk (v : Nat) (f : Vp → Vp) : (s.modVp v f).clk = s.clk := (rfl)
@[simp] theorem State.modVp_mon (v : Nat) (f : Vp → Vp) : (s.modVp v f).mon = s.mon := (rfl)
@[simp] theorem State.modVp_sec (v : Nat) (f : Vp → Vp) : (s.modVp v f).sec = s.sec := (rfl)
@[simp] theorem State.modVp_boot (v : Nat) (f : Vp → Vp) : (s.modVp v f).boot = s.boot := (rfl)
@[simp] theorem State.modVp_faults (v : Nat) (f : Vp → Vp) : (s.modVp v f).faults = s.faults := (rfl)
@[simp] theorem State.modVp_hub (v : Nat) (f : Vp → Vp) : (s.modVp v f).hub = s.hub := (rfl)
@[simp] theorem State.modVp_outbox (v : Nat) (f : Vp → Vp) : (s.modVp v f).outbox = s.outbox := (rfl)
@[simp] theorem State.modVp_freeCtr (v : Nat) (f : Vp → Vp) : (s.modVp v f).freeCtr = s.freeCtr := (rfl)
@[simp] theorem State.modVp_port_get (v : Nat) (f : Vp → Vp) (i : Nat) : (s.modVp v f).port i = s.port i := (rfl)
@[simp] theorem State.modVp_eng_get (v : Nat) (f : Vp → Vp) (i : Nat) : (s.modVp v f).eng i = s.eng i := (rfl)
@[simp] theorem State.modVp_cluster_get (v : Nat) (f : Vp → Vp) (i : Nat) : (s.modVp v f).cluster i = s.cluster i := (rfl)
@[simp] theorem State.modVp_region_get (v : Nat) (f : Vp → Vp) (i : Nat) : (s.modVp v f).region i = s.region i := (rfl)
@[simp] theorem State.modVp_die_get (v : Nat) (f : Vp → Vp) (i : Nat) : (s.modVp v f).die i = s.die i := (rfl)
@[simp] theorem State.modVp_chan_get (v : Nat) (f : Vp → Vp) (i : Nat) : (s.modVp v f).chan i = s.chan i := (rfl)
@[simp] theorem State.modVp_seqr_get (v : Nat) (f : Vp → Vp) (i : Nat) : (s.modVp v f).seqr i = s.seqr i := (rfl)
@[simp] theorem State.modVp_fn_get (v : Nat) (f : Vp → Vp) (i : Nat) : (s.modVp v f).fn i = s.fn i := (rfl)
@[simp] theorem State.modVp_ep_get (v : Nat) (f : Vp → Vp) (i : Nat) : (s.modVp v f).ep i = s.ep i := (rfl)
@[simp] theorem State.modVp_part_get (v : Nat) (f : Vp → Vp) (i : Nat) : (s.modVp v f).part i = s.part i := (rfl)
@[simp] theorem State.modVp_dmaCh_get (v : Nat) (f : Vp → Vp) (i : Nat) : (s.modVp v f).dmaCh i = s.dmaCh i := (rfl)
@[simp] theorem State.modVp_cmpEng_get (v : Nat) (f : Vp → Vp) (i : Nat) : (s.modVp v f).cmpEng i = s.cmpEng i := (rfl)

/-! ### modHub -/

@[simp] theorem State.modHub_pending (f : Hub → Hub) : (s.modHub f).pending = s.pending := (rfl)
@[simp] theorem State.modHub_time (f : Hub → Hub) : (s.modHub f).time = s.time := (rfl)
@[simp] theorem State.modHub_ports (f : Hub → Hub) : (s.modHub f).ports = s.ports := (rfl)
@[simp] theorem State.modHub_engines (f : Hub → Hub) : (s.modHub f).engines = s.engines := (rfl)
@[simp] theorem State.modHub_clusters (f : Hub → Hub) : (s.modHub f).clusters = s.clusters := (rfl)
@[simp] theorem State.modHub_regions (f : Hub → Hub) : (s.modHub f).regions = s.regions := (rfl)
@[simp] theorem State.modHub_dies (f : Hub → Hub) : (s.modHub f).dies = s.dies := (rfl)
@[simp] theorem State.modHub_chans (f : Hub → Hub) : (s.modHub f).chans = s.chans := (rfl)
@[simp] theorem State.modHub_mem (f : Hub → Hub) : (s.modHub f).mem = s.mem := (rfl)
@[simp] theorem State.modHub_pcs (f : Hub → Hub) : (s.modHub f).pcs = s.pcs := (rfl)
@[simp] theorem State.modHub_fns (f : Hub → Hub) : (s.modHub f).fns = s.fns := (rfl)
@[simp] theorem State.modHub_eps (f : Hub → Hub) : (s.modHub f).eps = s.eps := (rfl)
@[simp] theorem State.modHub_mbox (f : Hub → Hub) : (s.modHub f).mbox = s.mbox := (rfl)
@[simp] theorem State.modHub_parts (f : Hub → Hub) : (s.modHub f).parts = s.parts := (rfl)
@[simp] theorem State.modHub_dma (f : Hub → Hub) : (s.modHub f).dma = s.dma := (rfl)
@[simp] theorem State.modHub_cmp (f : Hub → Hub) : (s.modHub f).cmp = s.cmp := (rfl)
@[simp] theorem State.modHub_vach (f : Hub → Hub) : (s.modHub f).vach = s.vach := (rfl)
@[simp] theorem State.modHub_pwr (f : Hub → Hub) : (s.modHub f).pwr = s.pwr := (rfl)
@[simp] theorem State.modHub_clk (f : Hub → Hub) : (s.modHub f).clk = s.clk := (rfl)
@[simp] theorem State.modHub_mon (f : Hub → Hub) : (s.modHub f).mon = s.mon := (rfl)
@[simp] theorem State.modHub_sec (f : Hub → Hub) : (s.modHub f).sec = s.sec := (rfl)
@[simp] theorem State.modHub_boot (f : Hub → Hub) : (s.modHub f).boot = s.boot := (rfl)
@[simp] theorem State.modHub_faults (f : Hub → Hub) : (s.modHub f).faults = s.faults := (rfl)
@[simp] theorem State.modHub_outbox (f : Hub → Hub) : (s.modHub f).outbox = s.outbox := (rfl)
@[simp] theorem State.modHub_freeCtr (f : Hub → Hub) : (s.modHub f).freeCtr = s.freeCtr := (rfl)
@[simp] theorem State.modHub_port_get (f : Hub → Hub) (i : Nat) : (s.modHub f).port i = s.port i := (rfl)
@[simp] theorem State.modHub_eng_get (f : Hub → Hub) (i : Nat) : (s.modHub f).eng i = s.eng i := (rfl)
@[simp] theorem State.modHub_cluster_get (f : Hub → Hub) (i : Nat) : (s.modHub f).cluster i = s.cluster i := (rfl)
@[simp] theorem State.modHub_region_get (f : Hub → Hub) (i : Nat) : (s.modHub f).region i = s.region i := (rfl)
@[simp] theorem State.modHub_die_get (f : Hub → Hub) (i : Nat) : (s.modHub f).die i = s.die i := (rfl)
@[simp] theorem State.modHub_chan_get (f : Hub → Hub) (i : Nat) : (s.modHub f).chan i = s.chan i := (rfl)
@[simp] theorem State.modHub_seqr_get (f : Hub → Hub) (i : Nat) : (s.modHub f).seqr i = s.seqr i := (rfl)
@[simp] theorem State.modHub_fn_get (f : Hub → Hub) (i : Nat) : (s.modHub f).fn i = s.fn i := (rfl)
@[simp] theorem State.modHub_ep_get (f : Hub → Hub) (i : Nat) : (s.modHub f).ep i = s.ep i := (rfl)
@[simp] theorem State.modHub_part_get (f : Hub → Hub) (i : Nat) : (s.modHub f).part i = s.part i := (rfl)
@[simp] theorem State.modHub_dmaCh_get (f : Hub → Hub) (i : Nat) : (s.modHub f).dmaCh i = s.dmaCh i := (rfl)
@[simp] theorem State.modHub_cmpEng_get (f : Hub → Hub) (i : Nat) : (s.modHub f).cmpEng i = s.cmpEng i := (rfl)
@[simp] theorem State.modHub_vp_get (f : Hub → Hub) (i : Nat) : (s.modHub f).vp i = s.vp i := (rfl)

/-! ### modSec -/

@[simp] theorem State.modSec_pending (f : Sec → Sec) : (s.modSec f).pending = s.pending := (rfl)
@[simp] theorem State.modSec_time (f : Sec → Sec) : (s.modSec f).time = s.time := (rfl)
@[simp] theorem State.modSec_ports (f : Sec → Sec) : (s.modSec f).ports = s.ports := (rfl)
@[simp] theorem State.modSec_engines (f : Sec → Sec) : (s.modSec f).engines = s.engines := (rfl)
@[simp] theorem State.modSec_clusters (f : Sec → Sec) : (s.modSec f).clusters = s.clusters := (rfl)
@[simp] theorem State.modSec_regions (f : Sec → Sec) : (s.modSec f).regions = s.regions := (rfl)
@[simp] theorem State.modSec_dies (f : Sec → Sec) : (s.modSec f).dies = s.dies := (rfl)
@[simp] theorem State.modSec_chans (f : Sec → Sec) : (s.modSec f).chans = s.chans := (rfl)
@[simp] theorem State.modSec_mem (f : Sec → Sec) : (s.modSec f).mem = s.mem := (rfl)
@[simp] theorem State.modSec_pcs (f : Sec → Sec) : (s.modSec f).pcs = s.pcs := (rfl)
@[simp] theorem State.modSec_fns (f : Sec → Sec) : (s.modSec f).fns = s.fns := (rfl)
@[simp] theorem State.modSec_eps (f : Sec → Sec) : (s.modSec f).eps = s.eps := (rfl)
@[simp] theorem State.modSec_mbox (f : Sec → Sec) : (s.modSec f).mbox = s.mbox := (rfl)
@[simp] theorem State.modSec_parts (f : Sec → Sec) : (s.modSec f).parts = s.parts := (rfl)
@[simp] theorem State.modSec_dma (f : Sec → Sec) : (s.modSec f).dma = s.dma := (rfl)
@[simp] theorem State.modSec_cmp (f : Sec → Sec) : (s.modSec f).cmp = s.cmp := (rfl)
@[simp] theorem State.modSec_vach (f : Sec → Sec) : (s.modSec f).vach = s.vach := (rfl)
@[simp] theorem State.modSec_pwr (f : Sec → Sec) : (s.modSec f).pwr = s.pwr := (rfl)
@[simp] theorem State.modSec_clk (f : Sec → Sec) : (s.modSec f).clk = s.clk := (rfl)
@[simp] theorem State.modSec_mon (f : Sec → Sec) : (s.modSec f).mon = s.mon := (rfl)
@[simp] theorem State.modSec_boot (f : Sec → Sec) : (s.modSec f).boot = s.boot := (rfl)
@[simp] theorem State.modSec_faults (f : Sec → Sec) : (s.modSec f).faults = s.faults := (rfl)
@[simp] theorem State.modSec_hub (f : Sec → Sec) : (s.modSec f).hub = s.hub := (rfl)
@[simp] theorem State.modSec_outbox (f : Sec → Sec) : (s.modSec f).outbox = s.outbox := (rfl)
@[simp] theorem State.modSec_freeCtr (f : Sec → Sec) : (s.modSec f).freeCtr = s.freeCtr := (rfl)
@[simp] theorem State.modSec_port_get (f : Sec → Sec) (i : Nat) : (s.modSec f).port i = s.port i := (rfl)
@[simp] theorem State.modSec_eng_get (f : Sec → Sec) (i : Nat) : (s.modSec f).eng i = s.eng i := (rfl)
@[simp] theorem State.modSec_cluster_get (f : Sec → Sec) (i : Nat) : (s.modSec f).cluster i = s.cluster i := (rfl)
@[simp] theorem State.modSec_region_get (f : Sec → Sec) (i : Nat) : (s.modSec f).region i = s.region i := (rfl)
@[simp] theorem State.modSec_die_get (f : Sec → Sec) (i : Nat) : (s.modSec f).die i = s.die i := (rfl)
@[simp] theorem State.modSec_chan_get (f : Sec → Sec) (i : Nat) : (s.modSec f).chan i = s.chan i := (rfl)
@[simp] theorem State.modSec_seqr_get (f : Sec → Sec) (i : Nat) : (s.modSec f).seqr i = s.seqr i := (rfl)
@[simp] theorem State.modSec_fn_get (f : Sec → Sec) (i : Nat) : (s.modSec f).fn i = s.fn i := (rfl)
@[simp] theorem State.modSec_ep_get (f : Sec → Sec) (i : Nat) : (s.modSec f).ep i = s.ep i := (rfl)
@[simp] theorem State.modSec_part_get (f : Sec → Sec) (i : Nat) : (s.modSec f).part i = s.part i := (rfl)
@[simp] theorem State.modSec_dmaCh_get (f : Sec → Sec) (i : Nat) : (s.modSec f).dmaCh i = s.dmaCh i := (rfl)
@[simp] theorem State.modSec_cmpEng_get (f : Sec → Sec) (i : Nat) : (s.modSec f).cmpEng i = s.cmpEng i := (rfl)
@[simp] theorem State.modSec_vp_get (f : Sec → Sec) (i : Nat) : (s.modSec f).vp i = s.vp i := (rfl)

/-! ### modPwr -/

@[simp] theorem State.modPwr_pending (f : Pwr → Pwr) : (s.modPwr f).pending = s.pending := (rfl)
@[simp] theorem State.modPwr_time (f : Pwr → Pwr) : (s.modPwr f).time = s.time := (rfl)
@[simp] theorem State.modPwr_ports (f : Pwr → Pwr) : (s.modPwr f).ports = s.ports := (rfl)
@[simp] theorem State.modPwr_engines (f : Pwr → Pwr) : (s.modPwr f).engines = s.engines := (rfl)
@[simp] theorem State.modPwr_clusters (f : Pwr → Pwr) : (s.modPwr f).clusters = s.clusters := (rfl)
@[simp] theorem State.modPwr_regions (f : Pwr → Pwr) : (s.modPwr f).regions = s.regions := (rfl)
@[simp] theorem State.modPwr_dies (f : Pwr → Pwr) : (s.modPwr f).dies = s.dies := (rfl)
@[simp] theorem State.modPwr_chans (f : Pwr → Pwr) : (s.modPwr f).chans = s.chans := (rfl)
@[simp] theorem State.modPwr_mem (f : Pwr → Pwr) : (s.modPwr f).mem = s.mem := (rfl)
@[simp] theorem State.modPwr_pcs (f : Pwr → Pwr) : (s.modPwr f).pcs = s.pcs := (rfl)
@[simp] theorem State.modPwr_fns (f : Pwr → Pwr) : (s.modPwr f).fns = s.fns := (rfl)
@[simp] theorem State.modPwr_eps (f : Pwr → Pwr) : (s.modPwr f).eps = s.eps := (rfl)
@[simp] theorem State.modPwr_mbox (f : Pwr → Pwr) : (s.modPwr f).mbox = s.mbox := (rfl)
@[simp] theorem State.modPwr_parts (f : Pwr → Pwr) : (s.modPwr f).parts = s.parts := (rfl)
@[simp] theorem State.modPwr_dma (f : Pwr → Pwr) : (s.modPwr f).dma = s.dma := (rfl)
@[simp] theorem State.modPwr_cmp (f : Pwr → Pwr) : (s.modPwr f).cmp = s.cmp := (rfl)
@[simp] theorem State.modPwr_vach (f : Pwr → Pwr) : (s.modPwr f).vach = s.vach := (rfl)
@[simp] theorem State.modPwr_clk (f : Pwr → Pwr) : (s.modPwr f).clk = s.clk := (rfl)
@[simp] theorem State.modPwr_mon (f : Pwr → Pwr) : (s.modPwr f).mon = s.mon := (rfl)
@[simp] theorem State.modPwr_sec (f : Pwr → Pwr) : (s.modPwr f).sec = s.sec := (rfl)
@[simp] theorem State.modPwr_boot (f : Pwr → Pwr) : (s.modPwr f).boot = s.boot := (rfl)
@[simp] theorem State.modPwr_faults (f : Pwr → Pwr) : (s.modPwr f).faults = s.faults := (rfl)
@[simp] theorem State.modPwr_hub (f : Pwr → Pwr) : (s.modPwr f).hub = s.hub := (rfl)
@[simp] theorem State.modPwr_outbox (f : Pwr → Pwr) : (s.modPwr f).outbox = s.outbox := (rfl)
@[simp] theorem State.modPwr_freeCtr (f : Pwr → Pwr) : (s.modPwr f).freeCtr = s.freeCtr := (rfl)
@[simp] theorem State.modPwr_port_get (f : Pwr → Pwr) (i : Nat) : (s.modPwr f).port i = s.port i := (rfl)
@[simp] theorem State.modPwr_eng_get (f : Pwr → Pwr) (i : Nat) : (s.modPwr f).eng i = s.eng i := (rfl)
@[simp] theorem State.modPwr_cluster_get (f : Pwr → Pwr) (i : Nat) : (s.modPwr f).cluster i = s.cluster i := (rfl)
@[simp] theorem State.modPwr_region_get (f : Pwr → Pwr) (i : Nat) : (s.modPwr f).region i = s.region i := (rfl)
@[simp] theorem State.modPwr_die_get (f : Pwr → Pwr) (i : Nat) : (s.modPwr f).die i = s.die i := (rfl)
@[simp] theorem State.modPwr_chan_get (f : Pwr → Pwr) (i : Nat) : (s.modPwr f).chan i = s.chan i := (rfl)
@[simp] theorem State.modPwr_seqr_get (f : Pwr → Pwr) (i : Nat) : (s.modPwr f).seqr i = s.seqr i := (rfl)
@[simp] theorem State.modPwr_fn_get (f : Pwr → Pwr) (i : Nat) : (s.modPwr f).fn i = s.fn i := (rfl)
@[simp] theorem State.modPwr_ep_get (f : Pwr → Pwr) (i : Nat) : (s.modPwr f).ep i = s.ep i := (rfl)
@[simp] theorem State.modPwr_part_get (f : Pwr → Pwr) (i : Nat) : (s.modPwr f).part i = s.part i := (rfl)
@[simp] theorem State.modPwr_dmaCh_get (f : Pwr → Pwr) (i : Nat) : (s.modPwr f).dmaCh i = s.dmaCh i := (rfl)
@[simp] theorem State.modPwr_cmpEng_get (f : Pwr → Pwr) (i : Nat) : (s.modPwr f).cmpEng i = s.cmpEng i := (rfl)
@[simp] theorem State.modPwr_vp_get (f : Pwr → Pwr) (i : Nat) : (s.modPwr f).vp i = s.vp i := (rfl)

/-! ### modVach -/

@[simp] theorem State.modVach_pending (f : Vach → Vach) : (s.modVach f).pending = s.pending := (rfl)
@[simp] theorem State.modVach_time (f : Vach → Vach) : (s.modVach f).time = s.time := (rfl)
@[simp] theorem State.modVach_ports (f : Vach → Vach) : (s.modVach f).ports = s.ports := (rfl)
@[simp] theorem State.modVach_engines (f : Vach → Vach) : (s.modVach f).engines = s.engines := (rfl)
@[simp] theorem State.modVach_clusters (f : Vach → Vach) : (s.modVach f).clusters = s.clusters := (rfl)
@[simp] theorem State.modVach_regions (f : Vach → Vach) : (s.modVach f).regions = s.regions := (rfl)
@[simp] theorem State.modVach_dies (f : Vach → Vach) : (s.modVach f).dies = s.dies := (rfl)
@[simp] theorem State.modVach_chans (f : Vach → Vach) : (s.modVach f).chans = s.chans := (rfl)
@[simp] theorem State.modVach_mem (f : Vach → Vach) : (s.modVach f).mem = s.mem := (rfl)
@[simp] theorem State.modVach_pcs (f : Vach → Vach) : (s.modVach f).pcs = s.pcs := (rfl)
@[simp] theorem State.modVach_fns (f : Vach → Vach) : (s.modVach f).fns = s.fns := (rfl)
@[simp] theorem State.modVach_eps (f : Vach → Vach) : (s.modVach f).eps = s.eps := (rfl)
@[simp] theorem State.modVach_mbox (f : Vach → Vach) : (s.modVach f).mbox = s.mbox := (rfl)
@[simp] theorem State.modVach_parts (f : Vach → Vach) : (s.modVach f).parts = s.parts := (rfl)
@[simp] theorem State.modVach_dma (f : Vach → Vach) : (s.modVach f).dma = s.dma := (rfl)
@[simp] theorem State.modVach_cmp (f : Vach → Vach) : (s.modVach f).cmp = s.cmp := (rfl)
@[simp] theorem State.modVach_pwr (f : Vach → Vach) : (s.modVach f).pwr = s.pwr := (rfl)
@[simp] theorem State.modVach_clk (f : Vach → Vach) : (s.modVach f).clk = s.clk := (rfl)
@[simp] theorem State.modVach_mon (f : Vach → Vach) : (s.modVach f).mon = s.mon := (rfl)
@[simp] theorem State.modVach_sec (f : Vach → Vach) : (s.modVach f).sec = s.sec := (rfl)
@[simp] theorem State.modVach_boot (f : Vach → Vach) : (s.modVach f).boot = s.boot := (rfl)
@[simp] theorem State.modVach_faults (f : Vach → Vach) : (s.modVach f).faults = s.faults := (rfl)
@[simp] theorem State.modVach_hub (f : Vach → Vach) : (s.modVach f).hub = s.hub := (rfl)
@[simp] theorem State.modVach_outbox (f : Vach → Vach) : (s.modVach f).outbox = s.outbox := (rfl)
@[simp] theorem State.modVach_freeCtr (f : Vach → Vach) : (s.modVach f).freeCtr = s.freeCtr := (rfl)
@[simp] theorem State.modVach_port_get (f : Vach → Vach) (i : Nat) : (s.modVach f).port i = s.port i := (rfl)
@[simp] theorem State.modVach_eng_get (f : Vach → Vach) (i : Nat) : (s.modVach f).eng i = s.eng i := (rfl)
@[simp] theorem State.modVach_cluster_get (f : Vach → Vach) (i : Nat) : (s.modVach f).cluster i = s.cluster i := (rfl)
@[simp] theorem State.modVach_region_get (f : Vach → Vach) (i : Nat) : (s.modVach f).region i = s.region i := (rfl)
@[simp] theorem State.modVach_die_get (f : Vach → Vach) (i : Nat) : (s.modVach f).die i = s.die i := (rfl)
@[simp] theorem State.modVach_chan_get (f : Vach → Vach) (i : Nat) : (s.modVach f).chan i = s.chan i := (rfl)
@[simp] theorem State.modVach_seqr_get (f : Vach → Vach) (i : Nat) : (s.modVach f).seqr i = s.seqr i := (rfl)
@[simp] theorem State.modVach_fn_get (f : Vach → Vach) (i : Nat) : (s.modVach f).fn i = s.fn i := (rfl)
@[simp] theorem State.modVach_ep_get (f : Vach → Vach) (i : Nat) : (s.modVach f).ep i = s.ep i := (rfl)
@[simp] theorem State.modVach_part_get (f : Vach → Vach) (i : Nat) : (s.modVach f).part i = s.part i := (rfl)
@[simp] theorem State.modVach_dmaCh_get (f : Vach → Vach) (i : Nat) : (s.modVach f).dmaCh i = s.dmaCh i := (rfl)
@[simp] theorem State.modVach_cmpEng_get (f : Vach → Vach) (i : Nat) : (s.modVach f).cmpEng i = s.cmpEng i := (rfl)

/-! ### modBoot -/

@[simp] theorem State.modBoot_pending (f : Boot → Boot) : (s.modBoot f).pending = s.pending := (rfl)
@[simp] theorem State.modBoot_time (f : Boot → Boot) : (s.modBoot f).time = s.time := (rfl)
@[simp] theorem State.modBoot_ports (f : Boot → Boot) : (s.modBoot f).ports = s.ports := (rfl)
@[simp] theorem State.modBoot_engines (f : Boot → Boot) : (s.modBoot f).engines = s.engines := (rfl)
@[simp] theorem State.modBoot_clusters (f : Boot → Boot) : (s.modBoot f).clusters = s.clusters := (rfl)
@[simp] theorem State.modBoot_regions (f : Boot → Boot) : (s.modBoot f).regions = s.regions := (rfl)
@[simp] theorem State.modBoot_dies (f : Boot → Boot) : (s.modBoot f).dies = s.dies := (rfl)
@[simp] theorem State.modBoot_chans (f : Boot → Boot) : (s.modBoot f).chans = s.chans := (rfl)
@[simp] theorem State.modBoot_mem (f : Boot → Boot) : (s.modBoot f).mem = s.mem := (rfl)
@[simp] theorem State.modBoot_pcs (f : Boot → Boot) : (s.modBoot f).pcs = s.pcs := (rfl)
@[simp] theorem State.modBoot_fns (f : Boot → Boot) : (s.modBoot f).fns = s.fns := (rfl)
@[simp] theorem State.modBoot_eps (f : Boot → Boot) : (s.modBoot f).eps = s.eps := (rfl)
@[simp] theorem State.modBoot_mbox (f : Boot → Boot) : (s.modBoot f).mbox = s.mbox := (rfl)
@[simp] theorem State.modBoot_parts (f : Boot → Boot) : (s.modBoot f).parts = s.parts := (rfl)
@[simp] theorem State.modBoot_dma (f : Boot → Boot) : (s.modBoot f).dma = s.dma := (rfl)
@[simp] theorem State.modBoot_cmp (f : Boot → Boot) : (s.modBoot f).cmp = s.cmp := (rfl)
@[simp] theorem State.modBoot_vach (f : Boot → Boot) : (s.modBoot f).vach = s.vach := (rfl)
@[simp] theorem State.modBoot_pwr (f : Boot → Boot) : (s.modBoot f).pwr = s.pwr := (rfl)
@[simp] theorem State.modBoot_clk (f : Boot → Boot) : (s.modBoot f).clk = s.clk := (rfl)
@[simp] theorem State.modBoot_mon (f : Boot → Boot) : (s.modBoot f).mon = s.mon := (rfl)
@[simp] theorem State.modBoot_sec (f : Boot → Boot) : (s.modBoot f).sec = s.sec := (rfl)
@[simp] theorem State.modBoot_faults (f : Boot → Boot) : (s.modBoot f).faults = s.faults := (rfl)
@[simp] theorem State.modBoot_hub (f : Boot → Boot) : (s.modBoot f).hub = s.hub := (rfl)
@[simp] theorem State.modBoot_outbox (f : Boot → Boot) : (s.modBoot f).outbox = s.outbox := (rfl)
@[simp] theorem State.modBoot_freeCtr (f : Boot → Boot) : (s.modBoot f).freeCtr = s.freeCtr := (rfl)
@[simp] theorem State.modBoot_port_get (f : Boot → Boot) (i : Nat) : (s.modBoot f).port i = s.port i := (rfl)
@[simp] theorem State.modBoot_eng_get (f : Boot → Boot) (i : Nat) : (s.modBoot f).eng i = s.eng i := (rfl)
@[simp] theorem State.modBoot_cluster_get (f : Boot → Boot) (i : Nat) : (s.modBoot f).cluster i = s.cluster i := (rfl)
@[simp] theorem State.modBoot_region_get (f : Boot → Boot) (i : Nat) : (s.modBoot f).region i = s.region i := (rfl)
@[simp] theorem State.modBoot_die_get (f : Boot → Boot) (i : Nat) : (s.modBoot f).die i = s.die i := (rfl)
@[simp] theorem State.modBoot_chan_get (f : Boot → Boot) (i : Nat) : (s.modBoot f).chan i = s.chan i := (rfl)
@[simp] theorem State.modBoot_seqr_get (f : Boot → Boot) (i : Nat) : (s.modBoot f).seqr i = s.seqr i := (rfl)
@[simp] theorem State.modBoot_fn_get (f : Boot → Boot) (i : Nat) : (s.modBoot f).fn i = s.fn i := (rfl)
@[simp] theorem State.modBoot_ep_get (f : Boot → Boot) (i : Nat) : (s.modBoot f).ep i = s.ep i := (rfl)
@[simp] theorem State.modBoot_part_get (f : Boot → Boot) (i : Nat) : (s.modBoot f).part i = s.part i := (rfl)
@[simp] theorem State.modBoot_dmaCh_get (f : Boot → Boot) (i : Nat) : (s.modBoot f).dmaCh i = s.dmaCh i := (rfl)
@[simp] theorem State.modBoot_cmpEng_get (f : Boot → Boot) (i : Nat) : (s.modBoot f).cmpEng i = s.cmpEng i := (rfl)
@[simp] theorem State.modBoot_vp_get (f : Boot → Boot) (i : Nat) : (s.modBoot f).vp i = s.vp i := (rfl)

/-! ### modFaults -/

@[simp] theorem State.modFaults_pending (f : FaultSum → FaultSum) : (s.modFaults f).pending = s.pending := (rfl)
@[simp] theorem State.modFaults_time (f : FaultSum → FaultSum) : (s.modFaults f).time = s.time := (rfl)
@[simp] theorem State.modFaults_ports (f : FaultSum → FaultSum) : (s.modFaults f).ports = s.ports := (rfl)
@[simp] theorem State.modFaults_engines (f : FaultSum → FaultSum) : (s.modFaults f).engines = s.engines := (rfl)
@[simp] theorem State.modFaults_clusters (f : FaultSum → FaultSum) : (s.modFaults f).clusters = s.clusters := (rfl)
@[simp] theorem State.modFaults_regions (f : FaultSum → FaultSum) : (s.modFaults f).regions = s.regions := (rfl)
@[simp] theorem State.modFaults_dies (f : FaultSum → FaultSum) : (s.modFaults f).dies = s.dies := (rfl)
@[simp] theorem State.modFaults_chans (f : FaultSum → FaultSum) : (s.modFaults f).chans = s.chans := (rfl)
@[simp] theorem State.modFaults_mem (f : FaultSum → FaultSum) : (s.modFaults f).mem = s.mem := (rfl)
@[simp] theorem State.modFaults_pcs (f : FaultSum → FaultSum) : (s.modFaults f).pcs = s.pcs := (rfl)
@[simp] theorem State.modFaults_fns (f : FaultSum → FaultSum) : (s.modFaults f).fns = s.fns := (rfl)
@[simp] theorem State.modFaults_eps (f : FaultSum → FaultSum) : (s.modFaults f).eps = s.eps := (rfl)
@[simp] theorem State.modFaults_mbox (f : FaultSum → FaultSum) : (s.modFaults f).mbox = s.mbox := (rfl)
@[simp] theorem State.modFaults_parts (f : FaultSum → FaultSum) : (s.modFaults f).parts = s.parts := (rfl)
@[simp] theorem State.modFaults_dma (f : FaultSum → FaultSum) : (s.modFaults f).dma = s.dma := (rfl)
@[simp] theorem State.modFaults_cmp (f : FaultSum → FaultSum) : (s.modFaults f).cmp = s.cmp := (rfl)
@[simp] theorem State.modFaults_vach (f : FaultSum → FaultSum) : (s.modFaults f).vach = s.vach := (rfl)
@[simp] theorem State.modFaults_pwr (f : FaultSum → FaultSum) : (s.modFaults f).pwr = s.pwr := (rfl)
@[simp] theorem State.modFaults_clk (f : FaultSum → FaultSum) : (s.modFaults f).clk = s.clk := (rfl)
@[simp] theorem State.modFaults_mon (f : FaultSum → FaultSum) : (s.modFaults f).mon = s.mon := (rfl)
@[simp] theorem State.modFaults_sec (f : FaultSum → FaultSum) : (s.modFaults f).sec = s.sec := (rfl)
@[simp] theorem State.modFaults_boot (f : FaultSum → FaultSum) : (s.modFaults f).boot = s.boot := (rfl)
@[simp] theorem State.modFaults_hub (f : FaultSum → FaultSum) : (s.modFaults f).hub = s.hub := (rfl)
@[simp] theorem State.modFaults_outbox (f : FaultSum → FaultSum) : (s.modFaults f).outbox = s.outbox := (rfl)
@[simp] theorem State.modFaults_freeCtr (f : FaultSum → FaultSum) : (s.modFaults f).freeCtr = s.freeCtr := (rfl)
@[simp] theorem State.modFaults_port_get (f : FaultSum → FaultSum) (i : Nat) : (s.modFaults f).port i = s.port i := (rfl)
@[simp] theorem State.modFaults_eng_get (f : FaultSum → FaultSum) (i : Nat) : (s.modFaults f).eng i = s.eng i := (rfl)
@[simp] theorem State.modFaults_cluster_get (f : FaultSum → FaultSum) (i : Nat) : (s.modFaults f).cluster i = s.cluster i := (rfl)
@[simp] theorem State.modFaults_region_get (f : FaultSum → FaultSum) (i : Nat) : (s.modFaults f).region i = s.region i := (rfl)
@[simp] theorem State.modFaults_die_get (f : FaultSum → FaultSum) (i : Nat) : (s.modFaults f).die i = s.die i := (rfl)
@[simp] theorem State.modFaults_chan_get (f : FaultSum → FaultSum) (i : Nat) : (s.modFaults f).chan i = s.chan i := (rfl)
@[simp] theorem State.modFaults_seqr_get (f : FaultSum → FaultSum) (i : Nat) : (s.modFaults f).seqr i = s.seqr i := (rfl)
@[simp] theorem State.modFaults_fn_get (f : FaultSum → FaultSum) (i : Nat) : (s.modFaults f).fn i = s.fn i := (rfl)
@[simp] theorem State.modFaults_ep_get (f : FaultSum → FaultSum) (i : Nat) : (s.modFaults f).ep i = s.ep i := (rfl)
@[simp] theorem State.modFaults_part_get (f : FaultSum → FaultSum) (i : Nat) : (s.modFaults f).part i = s.part i := (rfl)
@[simp] theorem State.modFaults_dmaCh_get (f : FaultSum → FaultSum) (i : Nat) : (s.modFaults f).dmaCh i = s.dmaCh i := (rfl)
@[simp] theorem State.modFaults_cmpEng_get (f : FaultSum → FaultSum) (i : Nat) : (s.modFaults f).cmpEng i = s.cmpEng i := (rfl)
@[simp] theorem State.modFaults_vp_get (f : FaultSum → FaultSum) (i : Nat) : (s.modFaults f).vp i = s.vp i := (rfl)

/-! ### out -/

@[simp] theorem State.out_pending (o : Out) : (s.out o).pending = s.pending := (rfl)
@[simp] theorem State.out_time (o : Out) : (s.out o).time = s.time := (rfl)
@[simp] theorem State.out_ports (o : Out) : (s.out o).ports = s.ports := (rfl)
@[simp] theorem State.out_engines (o : Out) : (s.out o).engines = s.engines := (rfl)
@[simp] theorem State.out_clusters (o : Out) : (s.out o).clusters = s.clusters := (rfl)
@[simp] theorem State.out_regions (o : Out) : (s.out o).regions = s.regions := (rfl)
@[simp] theorem State.out_dies (o : Out) : (s.out o).dies = s.dies := (rfl)
@[simp] theorem State.out_chans (o : Out) : (s.out o).chans = s.chans := (rfl)
@[simp] theorem State.out_mem (o : Out) : (s.out o).mem = s.mem := (rfl)
@[simp] theorem State.out_pcs (o : Out) : (s.out o).pcs = s.pcs := (rfl)
@[simp] theorem State.out_fns (o : Out) : (s.out o).fns = s.fns := (rfl)
@[simp] theorem State.out_eps (o : Out) : (s.out o).eps = s.eps := (rfl)
@[simp] theorem State.out_mbox (o : Out) : (s.out o).mbox = s.mbox := (rfl)
@[simp] theorem State.out_parts (o : Out) : (s.out o).parts = s.parts := (rfl)
@[simp] theorem State.out_dma (o : Out) : (s.out o).dma = s.dma := (rfl)
@[simp] theorem State.out_cmp (o : Out) : (s.out o).cmp = s.cmp := (rfl)
@[simp] theorem State.out_vach (o : Out) : (s.out o).vach = s.vach := (rfl)
@[simp] theorem State.out_pwr (o : Out) : (s.out o).pwr = s.pwr := (rfl)
@[simp] theorem State.out_clk (o : Out) : (s.out o).clk = s.clk := (rfl)
@[simp] theorem State.out_mon (o : Out) : (s.out o).mon = s.mon := (rfl)
@[simp] theorem State.out_sec (o : Out) : (s.out o).sec = s.sec := (rfl)
@[simp] theorem State.out_boot (o : Out) : (s.out o).boot = s.boot := (rfl)
@[simp] theorem State.out_faults (o : Out) : (s.out o).faults = s.faults := (rfl)
@[simp] theorem State.out_hub (o : Out) : (s.out o).hub = s.hub := (rfl)
@[simp] theorem State.out_freeCtr (o : Out) : (s.out o).freeCtr = s.freeCtr := (rfl)
@[simp] theorem State.out_port_get (o : Out) (i : Nat) : (s.out o).port i = s.port i := (rfl)
@[simp] theorem State.out_eng_get (o : Out) (i : Nat) : (s.out o).eng i = s.eng i := (rfl)
@[simp] theorem State.out_cluster_get (o : Out) (i : Nat) : (s.out o).cluster i = s.cluster i := (rfl)
@[simp] theorem State.out_region_get (o : Out) (i : Nat) : (s.out o).region i = s.region i := (rfl)
@[simp] theorem State.out_die_get (o : Out) (i : Nat) : (s.out o).die i = s.die i := (rfl)
@[simp] theorem State.out_chan_get (o : Out) (i : Nat) : (s.out o).chan i = s.chan i := (rfl)
@[simp] theorem State.out_seqr_get (o : Out) (i : Nat) : (s.out o).seqr i = s.seqr i := (rfl)
@[simp] theorem State.out_fn_get (o : Out) (i : Nat) : (s.out o).fn i = s.fn i := (rfl)
@[simp] theorem State.out_ep_get (o : Out) (i : Nat) : (s.out o).ep i = s.ep i := (rfl)
@[simp] theorem State.out_part_get (o : Out) (i : Nat) : (s.out o).part i = s.part i := (rfl)
@[simp] theorem State.out_dmaCh_get (o : Out) (i : Nat) : (s.out o).dmaCh i = s.dmaCh i := (rfl)
@[simp] theorem State.out_cmpEng_get (o : Out) (i : Nat) : (s.out o).cmpEng i = s.cmpEng i := (rfl)
@[simp] theorem State.out_vp_get (o : Out) (i : Nat) : (s.out o).vp i = s.vp i := (rfl)

/-! ### Choices between states -/
variable (c : Prop) [Decidable c] (t : State)

@[simp] theorem ite_pending : (if c then s else t).pending = if c then s.pending else t.pending := apply_ite State.pending c s t
@[simp] theorem ite_time : (if c then s else t).time = if c then s.time else t.time := apply_ite State.time c s t
@[simp] theorem ite_ports : (if c then s else t).ports = if c then s.ports else t.ports := apply_ite State.ports c s t
@[simp] theorem ite_engines : (if c then s else t).engines = if c then s.engines else t.engines := apply_ite State.engines c s t
@[simp] theorem ite_clusters : (if c then s else t).clusters = if c then s.clusters else t.clusters := apply_ite State.clusters c s t
@[simp] theorem ite_regions : (if c then s else t).regions = if c then s.regions else t.regions := apply_ite State.regions c s t
@[simp] theorem ite_dies : (if c then s else t).dies = if c then s.dies else t.dies := apply_ite State.dies c s t
@[simp] theorem ite_chans : (if c then s else t).chans = if c then s.chans else t.chans := apply_ite State.chans c s t
@[simp] theorem ite_mem : (if c then s else t).mem = if c then s.mem else t.mem := apply_ite State.mem c s t
@[simp] theorem ite_pcs : (if c then s else t).pcs = if c then s.pcs else t.pcs := apply_ite State.pcs c s t
@[simp] theorem ite_fns : (if c then s else t).fns = if c then s.fns else t.fns := apply_ite State.fns c s t
@[simp] theorem ite_eps : (if c then s else t).eps = if c then s.eps else t.eps := apply_ite State.eps c s t
@[simp] theorem ite_mbox : (if c then s else t).mbox = if c then s.mbox else t.mbox := apply_ite State.mbox c s t
@[simp] theorem ite_parts : (if c then s else t).parts = if c then s.parts else t.parts := apply_ite State.parts c s t
@[simp] theorem ite_dma : (if c then s else t).dma = if c then s.dma else t.dma := apply_ite State.dma c s t
@[simp] theorem ite_cmp : (if c then s else t).cmp = if c then s.cmp else t.cmp := apply_ite State.cmp c s t
@[simp] theorem ite_vach : (if c then s else t).vach = if c then s.vach else t.vach := apply_ite State.vach c s t
@[simp] theorem ite_pwr : (if c then s else t).pwr = if c then s.pwr else t.pwr := apply_ite State.pwr c s t
@[simp] theorem ite_clk : (if c then s else t).clk = if c then s.clk else t.clk := apply_ite State.clk c s t
@[simp] theorem ite_mon : (if c then s else t).mon = if c then s.mon else t.mon := apply_ite State.mon c s t
@[simp] theorem ite_sec : (if c then s else t).sec = if c then s.sec else t.sec := apply_ite State.sec c s t
@[simp] theorem ite_boot : (if c then s else t).boot = if c then s.boot else t.boot := apply_ite State.boot c s t
@[simp] theorem ite_faults : (if c then s else t).faults = if c then s.faults else t.faults := apply_ite State.faults c s t
@[simp] theorem ite_hub : (if c then s else t).hub = if c then s.hub else t.hub := apply_ite State.hub c s t
@[simp] theorem ite_outbox : (if c then s else t).outbox = if c then s.outbox else t.outbox := apply_ite State.outbox c s t
@[simp] theorem ite_freeCtr : (if c then s else t).freeCtr = if c then s.freeCtr else t.freeCtr := apply_ite State.freeCtr c s t
@[simp] theorem ite_port_get (i : Nat) : (if c then s else t).port i = if c then s.port i else t.port i :=
  apply_ite (State.port · i) c s t
@[simp] theorem ite_eng_get (i : Nat) : (if c then s else t).eng i = if c then s.eng i else t.eng i :=
  apply_ite (State.eng · i) c s t
@[simp] theorem ite_cluster_get (i : Nat) : (if c then s else t).cluster i = if c then s.cluster i else t.cluster i :=
  apply_ite (State.cluster · i) c s t
@[simp] theorem ite_region_get (i : Nat) : (if c then s else t).region i = if c then s.region i else t.region i :=
  apply_ite (State.region · i) c s t
@[simp] theorem ite_die_get (i : Nat) : (if c then s else t).die i = if c then s.die i else t.die i :=
  apply_ite (State.die · i) c s t
@[simp] theorem ite_chan_get (i : Nat) : (if c then s else t).chan i = if c then s.chan i else t.chan i :=
  apply_ite (State.chan · i) c s t
@[simp] theorem ite_seqr_get (i : Nat) : (if c then s else t).seqr i = if c then s.seqr i else t.seqr i :=
  apply_ite (State.seqr · i) c s t
@[simp] theorem ite_fn_get (i : Nat) : (if c then s else t).fn i = if c then s.fn i else t.fn i :=
  apply_ite (State.fn · i) c s t
@[simp] theorem ite_ep_get (i : Nat) : (if c then s else t).ep i = if c then s.ep i else t.ep i :=
  apply_ite (State.ep · i) c s t
@[simp] theorem ite_part_get (i : Nat) : (if c then s else t).part i = if c then s.part i else t.part i :=
  apply_ite (State.part · i) c s t
@[simp] theorem ite_dmaCh_get (i : Nat) : (if c then s else t).dmaCh i = if c then s.dmaCh i else t.dmaCh i :=
  apply_ite (State.dmaCh · i) c s t
@[simp] theorem ite_cmpEng_get (i : Nat) : (if c then s else t).cmpEng i = if c then s.cmpEng i else t.cmpEng i :=
  apply_ite (State.cmpEng · i) c s t
@[simp] theorem ite_vp_get (i : Nat) : (if c then s else t).vp i = if c then s.vp i else t.vp i :=
  apply_ite (State.vp · i) c s t

end Sys2Proof.Machine
end

