-- ==== Sys2Proof/Laws/Tab.lean ====
section
/-! SUPPORT. Reading a table after a write, and a block of the package after an update of it. -/
namespace Sys2Proof.Machine

theorem Tab.get_set_same {α : Type} (d : α) (t : Tab α) (k : Nat) (v : α) : (t.set k v).get d k = v := by
  induction t with
  | nil => simp [Tab.set, Tab.get]
  | cons x t ih =>
    obtain ⟨i, w⟩ := x
    unfold Tab.set
    split
    · simp [Tab.get]
    · split
      · simp [Tab.get]
      · rename_i h _
        have : ¬ i = k := fun e => by simp_all
        simp [Tab.get, this, ih]

theorem Tab.get_set_other {α : Type} (d : α) (t : Tab α) (k j : Nat) (v : α) (h : j ≠ k) :
    (t.set k v).get d j = t.get d j := by
  induction t with
  | nil => simp [Tab.set, Tab.get, Ne.symm h]
  | cons x t ih =>
    obtain ⟨i, w⟩ := x
    unfold Tab.set
    split
    · simp [Tab.get, Ne.symm h]
    · split
      · rename_i e; subst e; simp [Tab.get, Ne.symm h]
      · simp only [Tab.get]; split
        · rfl
        · exact ih

@[simp] theorem Tab.get_set {α : Type} (d : α) (t : Tab α) (k j : Nat) (v : α) :
    (t.set k v).get d j = if j = k then v else t.get d j := by
  by_cases h : j = k
  · subst h; simp [Tab.get_set_same]
  · simp [h, Tab.get_set_other d t k j v h]

/-- The later of two writes under one key stands. -/
@[simp] theorem Tab.set_set {α : Type} (t : Tab α) (k : Nat) (v w : α) : (t.set k v).set k w = t.set k w := by
  induction t with
  | nil => simp [Tab.set]
  | cons x t ih =>
    obtain ⟨i, u⟩ := x
    simp only [Tab.set]
    by_cases h : k < i
    · simp [h, Tab.set]
    · by_cases e : k = i
      · simp [e, Tab.set]
      · simp [h, e, Tab.set, ih]

@[simp] theorem Tab.get_mod {α : Type} (d : α) (t : Tab α) (k j : Nat) (f : α → α) :
    (t.mod d k f).get d j = if j = k then f (t.get d k) else t.get d j := by simp [Tab.mod]

variable (s : State)

@[simp] theorem State.port_setPort (p q : Nat) (x : Port) :
    (s.setPort p x).port q = if q = p then x else s.port q := by simp [State.port, State.setPort]
@[simp] theorem State.port_modPort (p q : Nat) (f : Port → Port) :
    (s.modPort p f).port q = if q = p then f (s.port p) else s.port q := by simp [State.modPort]
@[simp] theorem State.setPort_setPort (p : Nat) (x y : Port) :
    (s.setPort p x).setPort p y = s.setPort p y := by simp [State.setPort]
@[simp] theorem State.eng_setEng (e j : Nat) (x : Engine) :
    (s.setEng e x).eng j = if j = e then x else s.eng j := by simp [State.eng, State.setEng]
@[simp] theorem State.eng_modEng (e j : Nat) (f : Engine → Engine) :
    (s.modEng e f).eng j = if j = e then f (s.eng e) else s.eng j := by simp [State.modEng]
@[simp] theorem State.cluster_modCluster (k j : Nat) (f : Cluster → Cluster) :
    (s.modCluster k f).cluster j = if j = k then f (s.cluster k) else s.cluster j := by
  simp [State.cluster, State.modCluster]
@[simp] theorem State.region_modRegion (k j : Nat) (f : Region → Region) :
    (s.modRegion k f).region j = if j = k then f (s.region k) else s.region j := by
  simp [State.region, State.modRegion]
@[simp] theorem State.die_modDie (k j : Nat) (f : Die → Die) :
    (s.modDie k f).die j = if j = k then f (s.die k) else s.die j := by simp [State.die, State.modDie]
@[simp] theorem State.chan_modChan (k j : Nat) (f : Chan → Chan) :
    (s.modChan k f).chan j = if j = k then f (s.chan k) else s.chan j := by simp [State.chan, State.modChan]
@[simp] theorem State.seqr_modSeqr (k j : Nat) (f : Pcs → Pcs) :
    (s.modSeqr k f).seqr j = if j = k then f (s.seqr k) else s.seqr j := by simp [State.seqr, State.modSeqr]
@[simp] theorem State.fn_setFn (k j : Nat) (x : Fn) :
    (s.setFn k x).fn j = if j = k then x else s.fn j := by simp [State.fn, State.setFn]
@[simp] theorem State.fn_modFn (k j : Nat) (f : Fn → Fn) :
    (s.modFn k f).fn j = if j = k then f (s.fn k) else s.fn j := by simp [State.modFn]
@[simp] theorem State.ep_modEp (k j : Nat) (f : Endpoint → Endpoint) :
    (s.modEp k f).ep j = if j = k then f (s.ep k) else s.ep j := by simp [State.ep, State.modEp]
@[simp] theorem State.part_modPart (k j : Nat) (f : Part → Part) :
    (s.modPart k f).part j = if j = k then f (s.part k) else s.part j := by simp [State.part, State.modPart]
@[simp] theorem State.dmaCh_modDma (k j : Nat) (f : Dma → Dma) :
    (s.modDma k f).dmaCh j = if j = k then f (s.dmaCh k) else s.dmaCh j := by simp [State.dmaCh, State.modDma]
@[simp] theorem State.cmpEng_modCmp (k j : Nat) (f : Cmp → Cmp) :
    (s.modCmp k f).cmpEng j = if j = k then f (s.cmpEng k) else s.cmpEng j := by
  simp [State.cmpEng, State.modCmp]
@[simp] theorem State.vp_modVp (k j : Nat) (f : Vp → Vp) :
    (s.modVp k f).vp j = if j = k then f (s.vp k) else s.vp j := by simp [State.vp, State.modVp]
@[simp] theorem State.hub_modHub (f : Hub → Hub) : (s.modHub f).hub = f s.hub := (rfl)
@[simp] theorem State.sec_modSec (f : Sec → Sec) : (s.modSec f).sec = f s.sec := (rfl)
@[simp] theorem State.pwr_modPwr (f : Pwr → Pwr) : (s.modPwr f).pwr = f s.pwr := (rfl)
@[simp] theorem State.vach_modVach (f : Vach → Vach) : (s.modVach f).vach = f s.vach := (rfl)
@[simp] theorem State.boot_modBoot (f : Boot → Boot) : (s.modBoot f).boot = f s.boot := (rfl)
@[simp] theorem State.faults_modFaults (f : FaultSum → FaultSum) : (s.modFaults f).faults = f s.faults := (rfl)
@[simp] theorem State.outbox_out (o : Out) : (s.out o).outbox = s.outbox ++ [o] := (rfl)

/-! An update of one kind of block leaves every other kind of block alone. -/

theorem State.port_congr {s t : State} (h : t.ports = s.ports) (p : Nat) : t.port p = s.port p := by
  simp [State.port, h]
theorem State.eng_congr {s t : State} (h : t.engines = s.engines) (e : Nat) : t.eng e = s.eng e := by
  simp [State.eng, h]
theorem State.fn_congr {s t : State} (h : t.fns = s.fns) (f : Nat) : t.fn f = s.fn f := by simp [State.fn, h]
theorem State.chan_congr {s t : State} (h : t.chans = s.chans) (c : Nat) : t.chan c = s.chan c := by
  simp [State.chan, h]

end Sys2Proof.Machine
end

