-- ==== Sys2Proof/Laws/Command.lean ====
section
/-! SUPPORT. The shared frame of the host commands: which checks make up the whole list, and what a command
that begins and passes answers. -/
namespace Sys2Proof.Machine

theorem firstFail_none_iff (fs : List (Option Fail)) : firstFail fs = none ↔ Passes fs := by
  induction fs with
  | nil => simp [firstFail, Passes]
  | cons f fs ih => cases f <;> simp_all [firstFail, Passes]

@[simp] theorem passes_nil : Passes [] := by simp [Passes]
@[simp] theorem passes_cons (f : Option Fail) (fs : List (Option Fail)) :
    Passes (f :: fs) ↔ f = none ∧ Passes fs := by simp [Passes]
@[simp] theorem passes_append (fs gs : List (Option Fail)) : Passes (fs ++ gs) ↔ Passes fs ∧ Passes gs := by
  simp [Passes, or_imp, forall_and]
@[simp] theorem need_eq_none (b : Bool) (f : Fail) : need b f = none ↔ b = true := by
  cases b <;> simp [need]

/-- The checks of a command are the shared ones and the row's own. -/
theorem allChecks_none_iff (c : Cmd) (p : Packet) (s : State) (params state : List (Option Fail)) :
    allChecks c p s params state = none ↔
      allChecks c p s [] [] = none ∧ Passes params ∧ Passes state := by
  simp only [allChecks, firstFail_none_iff, passes_append, passes_nil]
  tauto

/-- A command that is ready and whose own checks hold takes its effect and answers. -/
theorem Cmd.run_ready {c : Cmd} {p : Packet} {s : State} (h : Ready c p s) {params state : List (Option Fail)}
    (hp : Passes params) (hs : Passes state) (eff : State → State × Rep) :
    Cmd.run c p s params state eff =
      .next (settle (drainBad 16 (conclude c p (eff (takePacket c p s))) p.fn.toNat)) := by
  simp [Cmd.run, h.1, (allChecks_none_iff c p s params state).mpr ⟨h.2, hp, hs⟩, ok]

/-- A command that does not begin leaves the state unchanged. -/
theorem Cmd.run_idle {c : Cmd} {p : Packet} {s : State} (h : begins c p s = false)
    (params state : List (Option Fail)) (eff : State → State × Rep) :
    Cmd.run c p s params state eff = .next s := by simp [Cmd.run, h]

/-- A failing check ends the command with its status and without its effect. -/
theorem Cmd.run_failed {c : Cmd} {p : Packet} {s : State} (h : begins c p s = true)
    {params state : List (Option Fail)} {f : Fail} (hf : allChecks c p s params state = some f)
    (eff : State → State × Rep) :
    Cmd.run c p s params state eff =
      .next (settle (drainBad 16 (conclude c p (noteFail p f (takePacket c p s), .fail f)) p.fn.toNat)) := by
  simp [Cmd.run, h, hf, ok]

/-- A ready command whose containers are usable runs as any other. -/
theorem Cmd.runPowered_ready {c : Cmd} {p : Packet} {s : State} (h : Ready c p s) {hs : List Holder} {cap : Bool}
    {params state : List (Option Fail)} (hp : Passes params) (hst : Passes state)
    (hd : ∀ d, Holder.die d ∈ hs → dieForbidden s d = false) (eff : State → State × Rep) :
    Cmd.runPowered c p s true hs cap params state eff =
      .next (settle (drainBad 16 (conclude c p (eff (takePacket c p s))) p.fn.toNat)) := by
  unfold Cmd.runPowered
  simp only [Bool.true_or, if_true]
  refine Cmd.run_ready h hp ?_ eff
  rw [passes_append]
  refine ⟨hst, ?_⟩
  simp
  intro a ha
  cases a <;> simp
  next d => simp [hd d ha]

/-! Taking a packet from its queue changes the queue, or the mailbox, and nothing else. -/

@[simp] theorem takePacket_pending (c : Cmd) (p : Packet) (s : State) : (takePacket c p s).pending = s.pending := by
  unfold takePacket; split <;> rfl
@[simp] theorem takePacket_time (c : Cmd) (p : Packet) (s : State) : (takePacket c p s).time = s.time := by
  unfold takePacket; split <;> rfl
@[simp] theorem takePacket_ports (c : Cmd) (p : Packet) (s : State) : (takePacket c p s).ports = s.ports := by
  unfold takePacket; split <;> rfl
@[simp] theorem takePacket_engines (c : Cmd) (p : Packet) (s : State) : (takePacket c p s).engines = s.engines := by
  unfold takePacket; split <;> rfl
@[simp] theorem takePacket_clusters (c : Cmd) (p : Packet) (s : State) : (takePacket c p s).clusters = s.clusters := by
  unfold takePacket; split <;> rfl
@[simp] theorem takePacket_regions (c : Cmd) (p : Packet) (s : State) : (takePacket c p s).regions = s.regions := by
  unfold takePacket; split <;> rfl
@[simp] theorem takePacket_dies (c : Cmd) (p : Packet) (s : State) : (takePacket c p s).dies = s.dies := by
  unfold takePacket; split <;> rfl
@[simp] theorem takePacket_chans (c : Cmd) (p : Packet) (s : State) : (takePacket c p s).chans = s.chans := by
  unfold takePacket; split <;> rfl
@[simp] theorem takePacket_mem (c : Cmd) (p : Packet) (s : State) : (takePacket c p s).mem = s.mem := by
  unfold takePacket; split <;> rfl
@[simp] theorem takePacket_pcs (c : Cmd) (p : Packet) (s : State) : (takePacket c p s).pcs = s.pcs := by
  unfold takePacket; split <;> rfl
@[simp] theorem takePacket_eps (c : Cmd) (p : Packet) (s : State) : (takePacket c p s).eps = s.eps := by
  unfold takePacket; split <;> rfl
@[simp] theorem takePacket_parts (c : Cmd) (p : Packet) (s : State) : (takePacket c p s).parts = s.parts := by
  unfold takePacket; split <;> rfl
@[simp] theorem takePacket_dma (c : Cmd) (p : Packet) (s : State) : (takePacket c p s).dma = s.dma := by
  unfold takePacket; split <;> rfl
@[simp] theorem takePacket_cmp (c : Cmd) (p : Packet) (s : State) : (takePacket c p s).cmp = s.cmp := by
  unfold takePacket; split <;> rfl
@[simp] theorem takePacket_vach (c : Cmd) (p : Packet) (s : State) : (takePacket c p s).vach = s.vach := by
  unfold takePacket; split <;> rfl
@[simp] theorem takePacket_pwr (c : Cmd) (p : Packet) (s : State) : (takePacket c p s).pwr = s.pwr := by
  unfold takePacket; split <;> rfl
@[simp] theorem takePacket_clk (c : Cmd) (p : Packet) (s : State) : (takePacket c p s).clk = s.clk := by
  unfold takePacket; split <;> rfl
@[simp] theorem takePacket_mon (c : Cmd) (p : Packet) (s : State) : (takePacket c p s).mon = s.mon := by
  unfold takePacket; split <;> rfl
@[simp] theorem takePacket_sec (c : Cmd) (p : Packet) (s : State) : (takePacket c p s).sec = s.sec := by
  unfold takePacket; split <;> rfl
@[simp] theorem takePacket_boot (c : Cmd) (p : Packet) (s : State) : (takePacket c p s).boot = s.boot := by
  unfold takePacket; split <;> rfl
@[simp] theorem takePacket_faults (c : Cmd) (p : Packet) (s : State) : (takePacket c p s).faults = s.faults := by
  unfold takePacket; split <;> rfl
@[simp] theorem takePacket_hub (c : Cmd) (p : Packet) (s : State) : (takePacket c p s).hub = s.hub := by
  unfold takePacket; split <;> rfl
@[simp] theorem takePacket_outbox (c : Cmd) (p : Packet) (s : State) : (takePacket c p s).outbox = s.outbox := by
  unfold takePacket; split <;> rfl
@[simp] theorem takePacket_freeCtr (c : Cmd) (p : Packet) (s : State) : (takePacket c p s).freeCtr = s.freeCtr := by
  unfold takePacket; split <;> rfl

@[simp] theorem takePacket_port_get (c : Cmd) (p : Packet) (s : State) (k : Nat) :
    (takePacket c p s).port k = s.port k := by simp [State.port]
@[simp] theorem takePacket_eng_get (c : Cmd) (p : Packet) (s : State) (k : Nat) :
    (takePacket c p s).eng k = s.eng k := by simp [State.eng]
@[simp] theorem takePacket_cluster_get (c : Cmd) (p : Packet) (s : State) (k : Nat) :
    (takePacket c p s).cluster k = s.cluster k := by simp [State.cluster]
@[simp] theorem takePacket_region_get (c : Cmd) (p : Packet) (s : State) (k : Nat) :
    (takePacket c p s).region k = s.region k := by simp [State.region]
@[simp] theorem takePacket_die_get (c : Cmd) (p : Packet) (s : State) (k : Nat) :
    (takePacket c p s).die k = s.die k := by simp [State.die]
@[simp] theorem takePacket_chan_get (c : Cmd) (p : Packet) (s : State) (k : Nat) :
    (takePacket c p s).chan k = s.chan k := by simp [State.chan]
@[simp] theorem takePacket_seqr_get (c : Cmd) (p : Packet) (s : State) (k : Nat) :
    (takePacket c p s).seqr k = s.seqr k := by simp [State.seqr]
@[simp] theorem takePacket_part_get (c : Cmd) (p : Packet) (s : State) (k : Nat) :
    (takePacket c p s).part k = s.part k := by simp [State.part]
@[simp] theorem takePacket_dmaCh_get (c : Cmd) (p : Packet) (s : State) (k : Nat) :
    (takePacket c p s).dmaCh k = s.dmaCh k := by simp [State.dmaCh]
@[simp] theorem takePacket_cmpEng_get (c : Cmd) (p : Packet) (s : State) (k : Nat) :
    (takePacket c p s).cmpEng k = s.cmpEng k := by simp [State.cmpEng]
@[simp] theorem takePacket_vp_get (c : Cmd) (p : Packet) (s : State) (k : Nat) :
    (takePacket c p s).vp k = s.vp k := by simp [State.vp]

end Sys2Proof.Machine
end

