-- ==== Sys2Proof/Laws/Memory.lean ====
section
/-! SUPPORT. Capture memory: what a byte reads as after a write, and that every operation keeps the canonical
form. -/
namespace Sys2Proof.Machine

theorem Memory.wfFrom_mono {lo lo' : Nat} {m : List Host.Cell} (h : Memory.wfFrom lo m = true) (le : lo' ≤ lo) :
    Memory.wfFrom lo' m = true := by
  cases m with
  | nil => rfl
  | cons x m =>
    simp only [Memory.wfFrom, Bool.and_eq_true, decide_eq_true_eq] at h ⊢
    exact ⟨⟨by omega, h.1.2⟩, h.2⟩

theorem Memory.wfFrom_write {lo : Nat} {m : List Host.Cell} (h : Memory.wfFrom lo m = true) (k : Nat) (v : Byte)
    (hk : lo ≤ k) : Memory.wfFrom lo (Memory.write m k v) = true := by
  induction m generalizing lo with
  | nil => by_cases hv : v = memDefault <;> simp [Memory.write, Memory.wfFrom, hv, hk]
  | cons x m ih =>
    obtain ⟨a, b⟩ := x
    simp only [Memory.wfFrom, Bool.and_eq_true, decide_eq_true_eq] at h
    obtain ⟨⟨ha, hb⟩, hm⟩ := h
    unfold Memory.write
    split
    · split
      · simp [Memory.wfFrom, ha, hm]; simpa using hb
      · rename_i hlt hv
        simp only [Memory.wfFrom, Bool.and_eq_true, decide_eq_true_eq]
        exact ⟨⟨hk, by simpa using hv⟩, ⟨by omega, hb⟩, hm⟩
    · split
      · rename_i he; subst he
        split
        · exact Memory.wfFrom_mono hm (by omega)
        · rename_i hv
          simp only [Memory.wfFrom, Bool.and_eq_true, decide_eq_true_eq]
          exact ⟨⟨hk, by simpa using hv⟩, hm⟩
      · simp only [Memory.wfFrom, Bool.and_eq_true, decide_eq_true_eq]
        exact ⟨⟨ha, hb⟩, ih hm (by omega)⟩

/-- Writing a byte keeps the canonical form. -/
@[simp] theorem Memory.wf_write {m : List Host.Cell} (h : Memory.wf m = true) (k : Nat) (v : Byte) :
    Memory.wf (Memory.write m k v) = true := Memory.wfFrom_write h k v (Nat.zero_le k)

/-- Writing bytes keeps the canonical form. -/
@[simp] theorem Memory.wf_writeList {m : List Host.Cell} (h : Memory.wf m = true) (k : Nat) (vs : List Byte) :
    Memory.wf (Memory.writeList m k vs) = true := by
  induction vs generalizing m k with
  | nil => exact h
  | cons v vs ih => exact ih (Memory.wf_write h k v) (k + 1)

theorem Memory.wfFrom_filter {lo : Nat} {m : List Host.Cell} (h : Memory.wfFrom lo m = true)
    (p : Host.Cell → Bool) : Memory.wfFrom lo (m.filter p) = true := by
  induction m generalizing lo with
  | nil => rfl
  | cons x m ih =>
    obtain ⟨a, b⟩ := x
    simp only [Memory.wfFrom, Bool.and_eq_true, decide_eq_true_eq] at h
    rw [List.filter_cons]
    split
    · simp only [Memory.wfFrom, Bool.and_eq_true, decide_eq_true_eq]
      exact ⟨h.1, ih h.2⟩
    · exact Memory.wfFrom_mono (ih h.2) (by omega)

/-- A wipe keeps the canonical form. -/
@[simp] theorem Memory.wf_wipe {m : List Host.Cell} (h : Memory.wf m = true) (p : Nat → Bool) :
    Memory.wf (Memory.wipe m p) = true := Memory.wfFrom_filter h _

@[simp] theorem Memory.wf_nil : Memory.wf [] = true := rfl

theorem Memory.read_below {lo : Nat} {m : List Host.Cell} (h : Memory.wfFrom lo m = true) (k : Nat) (hk : k < lo) :
    Memory.read m k = memDefault := by
  induction m generalizing lo with
  | nil => rfl
  | cons x m ih =>
    obtain ⟨a, b⟩ := x
    simp only [Memory.wfFrom, Bool.and_eq_true, decide_eq_true_eq] at h
    simp [Memory.read, show ¬ a = k by omega, ih h.2 (by omega)]

/-- A byte reads as what was written last. -/
theorem Memory.read_write {m : List Host.Cell} (h : Memory.wf m = true) (k j : Nat) (v : Byte) :
    Memory.read (Memory.write m k v) j = if j = k then v else Memory.read m j := by
  suffices H : ∀ lo, Memory.wfFrom lo m = true →
      Memory.read (Memory.write m k v) j = if j = k then v else Memory.read m j from H 0 h
  clear h
  induction m with
  | nil =>
    intro lo _
    by_cases hj : j = k
    · subst hj; by_cases hv : v = memDefault <;> simp [Memory.write, Memory.read, hv]
    · by_cases hv : v = memDefault <;> simp [Memory.write, Memory.read, hv, hj, Ne.symm hj]
  | cons x m ih =>
    obtain ⟨a, b⟩ := x
    intro lo h
    simp only [Memory.wfFrom, Bool.and_eq_true, decide_eq_true_eq] at h
    unfold Memory.write
    split
    · rename_i hlt
      by_cases hj : j = k
      · subst hj
        have hr := Memory.read_below h.2 j (by omega)
        split <;> simp_all [Memory.read, show ¬ a = j by omega]
      · split
        · simp
        · rw [Memory.read]; simp [show ¬ k = j from fun e => hj e.symm]
    · split
      · rename_i he; subst he
        by_cases hj : j = k
        · subst hj
          have hr := Memory.read_below h.2 j (by omega)
          split <;> simp_all [Memory.read]
        · split <;> simp [Memory.read, show ¬ k = j from fun e => hj e.symm]
      · rename_i h1 h2
        rw [Memory.read, ih _ h.2]
        by_cases hj : j = k
        · subst hj; simp [show ¬ a = j by omega]
        · simp [hj, Memory.read]

/-- Reading memory after a write of several bytes: the bytes written, and every other byte as before. -/
theorem Memory.read_writeList {m : List Host.Cell} (h : Memory.wf m = true) (k j : Nat) (vs : List Byte) :
    Memory.read (Memory.writeList m k vs) j =
      if k ≤ j ∧ j < k + vs.length then vs.getD (j - k) 0 else Memory.read m j := by
  induction vs generalizing m k with
  | nil => rw [if_neg (by simp)]; rfl
  | cons v vs ih =>
    rw [Memory.writeList, ih (Memory.wf_write h k v), Memory.read_write h]
    by_cases hj : j = k
    · subst hj; simp
    · by_cases hk : k + 1 ≤ j ∧ j < k + 1 + vs.length
      · rw [if_pos hk, if_pos (by simp; omega)]
        obtain ⟨d, rfl⟩ : ∃ d, j = k + 1 + d := ⟨j - (k + 1), by omega⟩
        simp [show k + 1 + d - (k + 1) = d by omega, show k + 1 + d - k = d + 1 by omega]
      · rw [if_neg hk, if_neg hj, if_neg (by simp; omega)]

end Sys2Proof.Machine
end

