-- ==== Sys2Proof/Laws/Reach.lean ====
section
/-! SUPPORT. What the shared operations reach: for each of them, every part of the state that it leaves alone. -/
set_option linter.unusedTactic false
set_option linter.unreachableTactic false

namespace Sys2Proof.Machine

/-- Folding an operation that leaves a part of the state alone leaves that part alone. -/
theorem foldl_same {α β : Type} (g : State → β) (xs : List α) (f : State → α → State)
    (h : ∀ s x, g (f s x) = g s) (s : State) : g (xs.foldl f s) = g s := by
  induction xs generalizing s with
  | nil => rfl
  | cons x xs ih => rw [List.foldl_cons, ih, h]

@[simp] theorem putEntry_rest (s : State) (f : Nat) (e : BitVec 256) :
    (putEntry s f e).pending = s.pending ∧
    (putEntry s f e).time = s.time ∧
    (putEntry s f e).ports = s.ports ∧
    (putEntry s f e).engines = s.engines ∧
    (putEntry s f e).clusters = s.clusters ∧
    (putEntry s f e).regions = s.regions ∧
    (putEntry s f e).dies = s.dies ∧
    (putEntry s f e).chans = s.chans ∧
    (putEntry s f e).mem = s.mem ∧
    (putEntry s f e).pcs = s.pcs ∧
    (putEntry s f e).eps = s.eps ∧
    (putEntry s f e).mbox = s.mbox ∧
    (putEntry s f e).parts = s.parts ∧
    (putEntry s f e).dma = s.dma ∧
    (putEntry s f e).cmp = s.cmp ∧
    (putEntry s f e).vach = s.vach ∧
    (putEntry s f e).pwr = s.pwr ∧
    (putEntry s f e).clk = s.clk ∧
    (putEntry s f e).mon = s.mon ∧
    (putEntry s f e).sec = s.sec ∧
    (putEntry s f e).boot = s.boot ∧
    (putEntry s f e).faults = s.faults ∧
    (putEntry s f e).hub = s.hub ∧
    (putEntry s f e).freeCtr = s.freeCtr ∧
    (∀ i, (putEntry s f e).port i = s.port i) ∧
    (∀ i, (putEntry s f e).eng i = s.eng i) ∧
    (∀ i, (putEntry s f e).cluster i = s.cluster i) ∧
    (∀ i, (putEntry s f e).region i = s.region i) ∧
    (∀ i, (putEntry s f e).die i = s.die i) ∧
    (∀ i, (putEntry s f e).chan i = s.chan i) ∧
    (∀ i, (putEntry s f e).seqr i = s.seqr i) ∧
    (∀ i, (putEntry s f e).ep i = s.ep i) ∧
    (∀ i, (putEntry s f e).part i = s.part i) ∧
    (∀ i, (putEntry s f e).dmaCh i = s.dmaCh i) ∧
    (∀ i, (putEntry s f e).cmpEng i = s.cmpEng i) ∧
    (∀ i, (putEntry s f e).vp i = s.vp i) := by
  unfold putEntry; try dsimp only
  repeat' first | (simp; done) | (simp [State.port, State.eng, State.cluster, State.region, State.die, State.chan, State.seqr, State.ep, State.part, State.dmaCh, State.cmpEng, State.vp]; done) | split

@[simp] theorem postEvent_rest (s : State) (f code detail result : Nat) :
    (postEvent s f code detail result).pending = s.pending ∧
    (postEvent s f code detail result).time = s.time ∧
    (postEvent s f code detail result).ports = s.ports ∧
    (postEvent s f code detail result).engines = s.engines ∧
    (postEvent s f code detail result).clusters = s.clusters ∧
    (postEvent s f code detail result).regions = s.regions ∧
    (postEvent s f code detail result).dies = s.dies ∧
    (postEvent s f code detail result).chans = s.chans ∧
    (postEvent s f code detail result).mem = s.mem ∧
    (postEvent s f code detail result).pcs = s.pcs ∧
    (postEvent s f code detail result).eps = s.eps ∧
    (postEvent s f code detail result).mbox = s.mbox ∧
    (postEvent s f code detail result).parts = s.parts ∧
    (postEvent s f code detail result).dma = s.dma ∧
    (postEvent s f code detail result).cmp = s.cmp ∧
    (postEvent s f code detail result).vach = s.vach ∧
    (postEvent s f code detail result).pwr = s.pwr ∧
    (postEvent s f code detail result).clk = s.clk ∧
    (postEvent s f code detail result).mon = s.mon ∧
    (postEvent s f code detail result).sec = s.sec ∧
    (postEvent s f code detail result).boot = s.boot ∧
    (postEvent s f code detail result).faults = s.faults ∧
    (postEvent s f code detail result).hub = s.hub ∧
    (postEvent s f code detail result).freeCtr = s.freeCtr ∧
    (∀ i, (postEvent s f code detail result).port i = s.port i) ∧
    (∀ i, (postEvent s f code detail result).eng i = s.eng i) ∧
    (∀ i, (postEvent s f code detail result).cluster i = s.cluster i) ∧
    (∀ i, (postEvent s f code detail result).region i = s.region i) ∧
    (∀ i, (postEvent s f code detail result).die i = s.die i) ∧
    (∀ i, (postEvent s f code detail result).chan i = s.chan i) ∧
    (∀ i, (postEvent s f code detail result).seqr i = s.seqr i) ∧
    (∀ i, (postEvent s f code detail result).ep i = s.ep i) ∧
    (∀ i, (postEvent s f code detail result).part i = s.part i) ∧
    (∀ i, (postEvent s f code detail result).dmaCh i = s.dmaCh i) ∧
    (∀ i, (postEvent s f code detail result).cmpEng i = s.cmpEng i) ∧
    (∀ i, (postEvent s f code detail result).vp i = s.vp i) := by
  unfold postEvent; try dsimp only
  repeat' first | (simp; done) | (simp [State.port, State.eng, State.cluster, State.region, State.die, State.chan, State.seqr, State.ep, State.part, State.dmaCh, State.cmpEng, State.vp]; done) | split

@[simp] theorem drainBacklog_rest (n : Nat) (s : State) (f : Nat) :
    (drainBacklog n s f).pending = s.pending ∧
    (drainBacklog n s f).time = s.time ∧
    (drainBacklog n s f).ports = s.ports ∧
    (drainBacklog n s f).engines = s.engines ∧
    (drainBacklog n s f).clusters = s.clusters ∧
    (drainBacklog n s f).regions = s.regions ∧
    (drainBacklog n s f).dies = s.dies ∧
    (drainBacklog n s f).chans = s.chans ∧
    (drainBacklog n s f).mem = s.mem ∧
    (drainBacklog n s f).pcs = s.pcs ∧
    (drainBacklog n s f).eps = s.eps ∧
    (drainBacklog n s f).mbox = s.mbox ∧
    (drainBacklog n s f).parts = s.parts ∧
    (drainBacklog n s f).dma = s.dma ∧
    (drainBacklog n s f).cmp = s.cmp ∧
    (drainBacklog n s f).vach = s.vach ∧
    (drainBacklog n s f).pwr = s.pwr ∧
    (drainBacklog n s f).clk = s.clk ∧
    (drainBacklog n s f).mon = s.mon ∧
    (drainBacklog n s f).sec = s.sec ∧
    (drainBacklog n s f).boot = s.boot ∧
    (drainBacklog n s f).faults = s.faults ∧
    (drainBacklog n s f).hub = s.hub ∧
    (drainBacklog n s f).freeCtr = s.freeCtr ∧
    (∀ i, (drainBacklog n s f).port i = s.port i) ∧
    (∀ i, (drainBacklog n s f).eng i = s.eng i) ∧
    (∀ i, (drainBacklog n s f).cluster i = s.cluster i) ∧
    (∀ i, (drainBacklog n s f).region i = s.region i) ∧
    (∀ i, (drainBacklog n s f).die i = s.die i) ∧
    (∀ i, (drainBacklog n s f).chan i = s.chan i) ∧
    (∀ i, (drainBacklog n s f).seqr i = s.seqr i) ∧
    (∀ i, (drainBacklog n s f).ep i = s.ep i) ∧
    (∀ i, (drainBacklog n s f).part i = s.part i) ∧
    (∀ i, (drainBacklog n s f).dmaCh i = s.dmaCh i) ∧
    (∀ i, (drainBacklog n s f).cmpEng i = s.cmpEng i) ∧
    (∀ i, (drainBacklog n s f).vp i = s.vp i) := by
  induction n generalizing s with
  | zero => simp [drainBacklog]
  | succ n ih =>
    unfold drainBacklog; try dsimp only
    repeat' first | (simp [ih]; done) | split

@[simp] theorem drainDone_rest (es : List Entry) (s : State) (f : Nat) :
    (drainDone es s f).pending = s.pending ∧
    (drainDone es s f).time = s.time ∧
    (drainDone es s f).ports = s.ports ∧
    (drainDone es s f).engines = s.engines ∧
    (drainDone es s f).clusters = s.clusters ∧
    (drainDone es s f).regions = s.regions ∧
    (drainDone es s f).dies = s.dies ∧
    (drainDone es s f).chans = s.chans ∧
    (drainDone es s f).mem = s.mem ∧
    (drainDone es s f).pcs = s.pcs ∧
    (drainDone es s f).eps = s.eps ∧
    (drainDone es s f).mbox = s.mbox ∧
    (drainDone es s f).parts = s.parts ∧
    (drainDone es s f).dma = s.dma ∧
    (drainDone es s f).cmp = s.cmp ∧
    (drainDone es s f).vach = s.vach ∧
    (drainDone es s f).pwr = s.pwr ∧
    (drainDone es s f).clk = s.clk ∧
    (drainDone es s f).mon = s.mon ∧
    (drainDone es s f).sec = s.sec ∧
    (drainDone es s f).boot = s.boot ∧
    (drainDone es s f).faults = s.faults ∧
    (drainDone es s f).hub = s.hub ∧
    (drainDone es s f).freeCtr = s.freeCtr ∧
    (∀ i, (drainDone es s f).port i = s.port i) ∧
    (∀ i, (drainDone es s f).eng i = s.eng i) ∧
    (∀ i, (drainDone es s f).cluster i = s.cluster i) ∧
    (∀ i, (drainDone es s f).region i = s.region i) ∧
    (∀ i, (drainDone es s f).die i = s.die i) ∧
    (∀ i, (drainDone es s f).chan i = s.chan i) ∧
    (∀ i, (drainDone es s f).seqr i = s.seqr i) ∧
    (∀ i, (drainDone es s f).ep i = s.ep i) ∧
    (∀ i, (drainDone es s f).part i = s.part i) ∧
    (∀ i, (drainDone es s f).dmaCh i = s.dmaCh i) ∧
    (∀ i, (drainDone es s f).cmpEng i = s.cmpEng i) ∧
    (∀ i, (drainDone es s f).vp i = s.vp i) := by
  induction es generalizing s with
  | nil => simp [drainDone]
  | cons e es ih => simp [drainDone, ih]

@[simp] theorem flush_rest (s : State) (f : Nat) :
    (flush s f).pending = s.pending ∧
    (flush s f).time = s.time ∧
    (flush s f).ports = s.ports ∧
    (flush s f).engines = s.engines ∧
    (flush s f).clusters = s.clusters ∧
    (flush s f).regions = s.regions ∧
    (flush s f).dies = s.dies ∧
    (flush s f).chans = s.chans ∧
    (flush s f).mem = s.mem ∧
    (flush s f).pcs = s.pcs ∧
    (flush s f).eps = s.eps ∧
    (flush s f).mbox = s.mbox ∧
    (flush s f).parts = s.parts ∧
    (flush s f).dma = s.dma ∧
    (flush s f).cmp = s.cmp ∧
    (flush s f).vach = s.vach ∧
    (flush s f).pwr = s.pwr ∧
    (flush s f).clk = s.clk ∧
    (flush s f).mon = s.mon ∧
    (flush s f).sec = s.sec ∧
    (flush s f).boot = s.boot ∧
    (flush s f).faults = s.faults ∧
    (flush s f).hub = s.hub ∧
    (flush s f).freeCtr = s.freeCtr ∧
    (∀ i, (flush s f).port i = s.port i) ∧
    (∀ i, (flush s f).eng i = s.eng i) ∧
    (∀ i, (flush s f).cluster i = s.cluster i) ∧
    (∀ i, (flush s f).region i = s.region i) ∧
    (∀ i, (flush s f).die i = s.die i) ∧
    (∀ i, (flush s f).chan i = s.chan i) ∧
    (∀ i, (flush s f).seqr i = s.seqr i) ∧
    (∀ i, (flush s f).ep i = s.ep i) ∧
    (∀ i, (flush s f).part i = s.part i) ∧
    (∀ i, (flush s f).dmaCh i = s.dmaCh i) ∧
    (∀ i, (flush s f).cmpEng i = s.cmpEng i) ∧
    (∀ i, (flush s f).vp i = s.vp i) := by
  unfold flush; try dsimp only
  repeat' first | (simp; done) | (simp [State.port, State.eng, State.cluster, State.region, State.die, State.chan, State.seqr, State.ep, State.part, State.dmaCh, State.cmpEng, State.vp]; done) | split

@[simp] theorem evM_rest (s : State) (code detail result : Nat) :
    (evM s code detail result).pending = s.pending ∧
    (evM s code detail result).time = s.time ∧
    (evM s code detail result).ports = s.ports ∧
    (evM s code detail result).engines = s.engines ∧
    (evM s code detail result).clusters = s.clusters ∧
    (evM s code detail result).regions = s.regions ∧
    (evM s code detail result).dies = s.dies ∧
    (evM s code detail result).chans = s.chans ∧
    (evM s code detail result).mem = s.mem ∧
    (evM s code detail result).pcs = s.pcs ∧
    (evM s code detail result).eps = s.eps ∧
    (evM s code detail result).mbox = s.mbox ∧
    (evM s code detail result).parts = s.parts ∧
    (evM s code detail result).dma = s.dma ∧
    (evM s code detail result).cmp = s.cmp ∧
    (evM s code detail result).vach = s.vach ∧
    (evM s code detail result).pwr = s.pwr ∧
    (evM s code detail result).clk = s.clk ∧
    (evM s code detail result).mon = s.mon ∧
    (evM s code detail result).sec = s.sec ∧
    (evM s code detail result).boot = s.boot ∧
    (evM s code detail result).faults = s.faults ∧
    (evM s code detail result).hub = s.hub ∧
    (evM s code detail result).freeCtr = s.freeCtr ∧
    (∀ i, (evM s code detail result).port i = s.port i) ∧
    (∀ i, (evM s code detail result).eng i = s.eng i) ∧
    (∀ i, (evM s code detail result).cluster i = s.cluster i) ∧
    (∀ i, (evM s code detail result).region i = s.region i) ∧
    (∀ i, (evM s code detail result).die i = s.die i) ∧
    (∀ i, (evM s code detail result).chan i = s.chan i) ∧
    (∀ i, (evM s code detail result).seqr i = s.seqr i) ∧
    (∀ i, (evM s code detail result).ep i = s.ep i) ∧
    (∀ i, (evM s code detail result).part i = s.part i) ∧
    (∀ i, (evM s code detail result).dmaCh i = s.dmaCh i) ∧
    (∀ i, (evM s code detail result).cmpEng i = s.cmpEng i) ∧
    (∀ i, (evM s code detail result).vp i = s.vp i) := by
  unfold evM; try dsimp only
  repeat' first | (simp; done) | (simp [State.port, State.eng, State.cluster, State.region, State.die, State.chan, State.seqr, State.ep, State.part, State.dmaCh, State.cmpEng, State.vp]; done) | split

@[simp] theorem evPart_rest (s : State) (k code detail result : Nat) :
    (evPart s k code detail result).pending = s.pending ∧
    (evPart s k code detail result).time = s.time ∧
    (evPart s k code detail result).ports = s.ports ∧
    (evPart s k code detail result).engines = s.engines ∧
    (evPart s k code detail result).clusters = s.clusters ∧
    (evPart s k code detail result).regions = s.regions ∧
    (evPart s k code detail result).dies = s.dies ∧
    (evPart s k code detail result).chans = s.chans ∧
    (evPart s k code detail result).mem = s.mem ∧
    (evPart s k code detail result).pcs = s.pcs ∧
    (evPart s k code detail result).eps = s.eps ∧
    (evPart s k code detail result).mbox = s.mbox ∧
    (evPart s k code detail result).parts = s.parts ∧
    (evPart s k code detail result).dma = s.dma ∧
    (evPart s k code detail result).cmp = s.cmp ∧
    (evPart s k code detail result).vach = s.vach ∧
    (evPart s k code detail result).pwr = s.pwr ∧
    (evPart s k code detail result).clk = s.clk ∧
    (evPart s k code detail result).mon = s.mon ∧
    (evPart s k code detail result).sec = s.sec ∧
    (evPart s k code detail result).boot = s.boot ∧
    (evPart s k code detail result).faults = s.faults ∧
    (evPart s k code detail result).hub = s.hub ∧
    (evPart s k code detail result).freeCtr = s.freeCtr ∧
    (∀ i, (evPart s k code detail result).port i = s.port i) ∧
    (∀ i, (evPart s k code detail result).eng i = s.eng i) ∧
    (∀ i, (evPart s k code detail result).cluster i = s.cluster i) ∧
    (∀ i, (evPart s k code detail result).region i = s.region i) ∧
    (∀ i, (evPart s k code detail result).die i = s.die i) ∧
    (∀ i, (evPart s k code detail result).chan i = s.chan i) ∧
    (∀ i, (evPart s k code detail result).seqr i = s.seqr i) ∧
    (∀ i, (evPart s k code detail result).ep i = s.ep i) ∧
    (∀ i, (evPart s k code detail result).part i = s.part i) ∧
    (∀ i, (evPart s k code detail result).dmaCh i = s.dmaCh i) ∧
    (∀ i, (evPart s k code detail result).cmpEng i = s.cmpEng i) ∧
    (∀ i, (evPart s k code detail result).vp i = s.vp i) := by
  unfold evPart; try dsimp only
  repeat' first | (simp; done) | (simp [State.port, State.eng, State.cluster, State.region, State.die, State.chan, State.seqr, State.ep, State.part, State.dmaCh, State.cmpEng, State.vp]; done) | split

@[simp] theorem evOwner_rest (s : State) (p code detail result : Nat) :
    (evOwner s p code detail result).pending = s.pending ∧
    (evOwner s p code detail result).time = s.time ∧
    (evOwner s p code detail result).ports = s.ports ∧
    (evOwner s p code detail result).engines = s.engines ∧
    (evOwner s p code detail result).clusters = s.clusters ∧
    (evOwner s p code detail result).regions = s.regions ∧
    (evOwner s p code detail result).dies = s.dies ∧
    (evOwner s p code detail result).chans = s.chans ∧
    (evOwner s p code detail result).mem = s.mem ∧
    (evOwner s p code detail result).pcs = s.pcs ∧
    (evOwner s p code detail result).eps = s.eps ∧
    (evOwner s p code detail result).mbox = s.mbox ∧
    (evOwner s p code detail result).parts = s.parts ∧
    (evOwner s p code detail result).dma = s.dma ∧
    (evOwner s p code detail result).cmp = s.cmp ∧
    (evOwner s p code detail result).vach = s.vach ∧
    (evOwner s p code detail result).pwr = s.pwr ∧
    (evOwner s p code detail result).clk = s.clk ∧
    (evOwner s p code detail result).mon = s.mon ∧
    (evOwner s p code detail result).sec = s.sec ∧
    (evOwner s p code detail result).boot = s.boot ∧
    (evOwner s p code detail result).faults = s.faults ∧
    (evOwner s p code detail result).hub = s.hub ∧
    (evOwner s p code detail result).freeCtr = s.freeCtr ∧
    (∀ i, (evOwner s p code detail result).port i = s.port i) ∧
    (∀ i, (evOwner s p code detail result).eng i = s.eng i) ∧
    (∀ i, (evOwner s p code detail result).cluster i = s.cluster i) ∧
    (∀ i, (evOwner s p code detail result).region i = s.region i) ∧
    (∀ i, (evOwner s p code detail result).die i = s.die i) ∧
    (∀ i, (evOwner s p code detail result).chan i = s.chan i) ∧
    (∀ i, (evOwner s p code detail result).seqr i = s.seqr i) ∧
    (∀ i, (evOwner s p code detail result).ep i = s.ep i) ∧
    (∀ i, (evOwner s p code detail result).part i = s.part i) ∧
    (∀ i, (evOwner s p code detail result).dmaCh i = s.dmaCh i) ∧
    (∀ i, (evOwner s p code detail result).cmpEng i = s.cmpEng i) ∧
    (∀ i, (evOwner s p code detail result).vp i = s.vp i) := by
  unfold evOwner; try dsimp only
  repeat' first | (simp; done) | (simp [State.port, State.eng, State.cluster, State.region, State.die, State.chan, State.seqr, State.ep, State.part, State.dmaCh, State.cmpEng, State.vp]; done) | split

@[simp] theorem logAt_rest (s : State) (tm : Option Nat) (inj : Bool) (code l detail data : Nat) :
    (logAt s tm inj code l detail data).pending = s.pending ∧
    (logAt s tm inj code l detail data).time = s.time ∧
    (logAt s tm inj code l detail data).ports = s.ports ∧
    (logAt s tm inj code l detail data).engines = s.engines ∧
    (logAt s tm inj code l detail data).clusters = s.clusters ∧
    (logAt s tm inj code l detail data).regions = s.regions ∧
    (logAt s tm inj code l detail data).dies = s.dies ∧
    (logAt s tm inj code l detail data).chans = s.chans ∧
    (logAt s tm inj code l detail data).mem = s.mem ∧
    (logAt s tm inj code l detail data).pcs = s.pcs ∧
    (logAt s tm inj code l detail data).fns = s.fns ∧
    (logAt s tm inj code l detail data).eps = s.eps ∧
    (logAt s tm inj code l detail data).mbox = s.mbox ∧
    (logAt s tm inj code l detail data).parts = s.parts ∧
    (logAt s tm inj code l detail data).dma = s.dma ∧
    (logAt s tm inj code l detail data).cmp = s.cmp ∧
    (logAt s tm inj code l detail data).vach = s.vach ∧
    (logAt s tm inj code l detail data).pwr = s.pwr ∧
    (logAt s tm inj code l detail data).clk = s.clk ∧
    (logAt s tm inj code l detail data).mon = s.mon ∧
    (logAt s tm inj code l detail data).sec = s.sec ∧
    (logAt s tm inj code l detail data).boot = s.boot ∧
    (logAt s tm inj code l detail data).hub = s.hub ∧
    (logAt s tm inj code l detail data).outbox = s.outbox ∧
    (logAt s tm inj code l detail data).freeCtr = s.freeCtr ∧
    (∀ i, (logAt s tm inj code l detail data).port i = s.port i) ∧
    (∀ i, (logAt s tm inj code l detail data).eng i = s.eng i) ∧
    (∀ i, (logAt s tm inj code l detail data).cluster i = s.cluster i) ∧
    (∀ i, (logAt s tm inj code l detail data).region i = s.region i) ∧
    (∀ i, (logAt s tm inj code l detail data).die i = s.die i) ∧
    (∀ i, (logAt s tm inj code l detail data).chan i = s.chan i) ∧
    (∀ i, (logAt s tm inj code l detail data).seqr i = s.seqr i) ∧
    (∀ i, (logAt s tm inj code l detail data).fn i = s.fn i) ∧
    (∀ i, (logAt s tm inj code l detail data).ep i = s.ep i) ∧
    (∀ i, (logAt s tm inj code l detail data).part i = s.part i) ∧
    (∀ i, (logAt s tm inj code l detail data).dmaCh i = s.dmaCh i) ∧
    (∀ i, (logAt s tm inj code l detail data).cmpEng i = s.cmpEng i) ∧
    (∀ i, (logAt s tm inj code l detail data).vp i = s.vp i) := by
  unfold logAt; try dsimp only
  repeat' first | (simp; done) | (simp [State.port, State.eng, State.cluster, State.region, State.die, State.chan, State.seqr, State.fn, State.ep, State.part, State.dmaCh, State.cmpEng, State.vp]; done) | split

@[simp] theorem logEv_rest (s : State) (code l detail data : Nat) :
    (logEv s code l detail data).pending = s.pending ∧
    (logEv s code l detail data).time = s.time ∧
    (logEv s code l detail data).ports = s.ports ∧
    (logEv s code l detail data).engines = s.engines ∧
    (logEv s code l detail data).clusters = s.clusters ∧
    (logEv s code l detail data).regions = s.regions ∧
    (logEv s code l detail data).dies = s.dies ∧
    (logEv s code l detail data).chans = s.chans ∧
    (logEv s code l detail data).mem = s.mem ∧
    (logEv s code l detail data).pcs = s.pcs ∧
    (logEv s code l detail data).fns = s.fns ∧
    (logEv s code l detail data).eps = s.eps ∧
    (logEv s code l detail data).mbox = s.mbox ∧
    (logEv s code l detail data).parts = s.parts ∧
    (logEv s code l detail data).dma = s.dma ∧
    (logEv s code l detail data).cmp = s.cmp ∧
    (logEv s code l detail data).vach = s.vach ∧
    (logEv s code l detail data).pwr = s.pwr ∧
    (logEv s code l detail data).clk = s.clk ∧
    (logEv s code l detail data).mon = s.mon ∧
    (logEv s code l detail data).sec = s.sec ∧
    (logEv s code l detail data).boot = s.boot ∧
    (logEv s code l detail data).hub = s.hub ∧
    (logEv s code l detail data).outbox = s.outbox ∧
    (logEv s code l detail data).freeCtr = s.freeCtr ∧
    (∀ i, (logEv s code l detail data).port i = s.port i) ∧
    (∀ i, (logEv s code l detail data).eng i = s.eng i) ∧
    (∀ i, (logEv s code l detail data).cluster i = s.cluster i) ∧
    (∀ i, (logEv s code l detail data).region i = s.region i) ∧
    (∀ i, (logEv s code l detail data).die i = s.die i) ∧
    (∀ i, (logEv s code l detail data).chan i = s.chan i) ∧
    (∀ i, (logEv s code l detail data).seqr i = s.seqr i) ∧
    (∀ i, (logEv s code l detail data).fn i = s.fn i) ∧
    (∀ i, (logEv s code l detail data).ep i = s.ep i) ∧
    (∀ i, (logEv s code l detail data).part i = s.part i) ∧
    (∀ i, (logEv s code l detail data).dmaCh i = s.dmaCh i) ∧
    (∀ i, (logEv s code l detail data).cmpEng i = s.cmpEng i) ∧
    (∀ i, (logEv s code l detail data).vp i = s.vp i) := by
  unfold logEv; try dsimp only
  repeat' first | (simp; done) | (simp [State.port, State.eng, State.cluster, State.region, State.die, State.chan, State.seqr, State.fn, State.ep, State.part, State.dmaCh, State.cmpEng, State.vp]; done) | split

@[simp] theorem audit_rest (s : State) (kind part role l status detail aux : Nat) :
    (audit s kind part role l status detail aux).pending = s.pending ∧
    (audit s kind part role l status detail aux).time = s.time ∧
    (audit s kind part role l status detail aux).ports = s.ports ∧
    (audit s kind part role l status detail aux).engines = s.engines ∧
    (audit s kind part role l status detail aux).clusters = s.clusters ∧
    (audit s kind part role l status detail aux).regions = s.regions ∧
    (audit s kind part role l status detail aux).dies = s.dies ∧
    (audit s kind part role l status detail aux).chans = s.chans ∧
    (audit s kind part role l status detail aux).mem = s.mem ∧
    (audit s kind part role l status detail aux).pcs = s.pcs ∧
    (audit s kind part role l status detail aux).fns = s.fns ∧
    (audit s kind part role l status detail aux).eps = s.eps ∧
    (audit s kind part role l status detail aux).mbox = s.mbox ∧
    (audit s kind part role l status detail aux).parts = s.parts ∧
    (audit s kind part role l status detail aux).dma = s.dma ∧
    (audit s kind part role l status detail aux).cmp = s.cmp ∧
    (audit s kind part role l status detail aux).vach = s.vach ∧
    (audit s kind part role l status detail aux).pwr = s.pwr ∧
    (audit s kind part role l status detail aux).clk = s.clk ∧
    (audit s kind part role l status detail aux).mon = s.mon ∧
    (audit s kind part role l status detail aux).boot = s.boot ∧
    (audit s kind part role l status detail aux).faults = s.faults ∧
    (audit s kind part role l status detail aux).hub = s.hub ∧
    (audit s kind part role l status detail aux).outbox = s.outbox ∧
    (audit s kind part role l status detail aux).freeCtr = s.freeCtr ∧
    (∀ i, (audit s kind part role l status detail aux).port i = s.port i) ∧
    (∀ i, (audit s kind part role l status detail aux).eng i = s.eng i) ∧
    (∀ i, (audit s kind part role l status detail aux).cluster i = s.cluster i) ∧
    (∀ i, (audit s kind part role l status detail aux).region i = s.region i) ∧
    (∀ i, (audit s kind part role l status detail aux).die i = s.die i) ∧
    (∀ i, (audit s kind part role l status detail aux).chan i = s.chan i) ∧
    (∀ i, (audit s kind part role l status detail aux).seqr i = s.seqr i) ∧
    (∀ i, (audit s kind part role l status detail aux).fn i = s.fn i) ∧
    (∀ i, (audit s kind part role l status detail aux).ep i = s.ep i) ∧
    (∀ i, (audit s kind part role l status detail aux).part i = s.part i) ∧
    (∀ i, (audit s kind part role l status detail aux).dmaCh i = s.dmaCh i) ∧
    (∀ i, (audit s kind part role l status detail aux).cmpEng i = s.cmpEng i) ∧
    (∀ i, (audit s kind part role l status detail aux).vp i = s.vp i) := by
  unfold audit; try dsimp only
  repeat' first | (simp; done) | (simp [State.port, State.eng, State.cluster, State.region, State.die, State.chan, State.seqr, State.fn, State.ep, State.part, State.dmaCh, State.cmpEng, State.vp]; done) | split

@[simp] theorem evFault_rest (s : State) (o : Option (BitVec 4)) (l kind : Nat) (inj : Bool) (data : Nat) :
    (evFault s o l kind inj data).pending = s.pending ∧
    (evFault s o l kind inj data).time = s.time ∧
    (evFault s o l kind inj data).ports = s.ports ∧
    (evFault s o l kind inj data).engines = s.engines ∧
    (evFault s o l kind inj data).clusters = s.clusters ∧
    (evFault s o l kind inj data).regions = s.regions ∧
    (evFault s o l kind inj data).dies = s.dies ∧
    (evFault s o l kind inj data).chans = s.chans ∧
    (evFault s o l kind inj data).mem = s.mem ∧
    (evFault s o l kind inj data).pcs = s.pcs ∧
    (evFault s o l kind inj data).eps = s.eps ∧
    (evFault s o l kind inj data).mbox = s.mbox ∧
    (evFault s o l kind inj data).parts = s.parts ∧
    (evFault s o l kind inj data).dma = s.dma ∧
    (evFault s o l kind inj data).cmp = s.cmp ∧
    (evFault s o l kind inj data).vach = s.vach ∧
    (evFault s o l kind inj data).pwr = s.pwr ∧
    (evFault s o l kind inj data).clk = s.clk ∧
    (evFault s o l kind inj data).mon = s.mon ∧
    (evFault s o l kind inj data).sec = s.sec ∧
    (evFault s o l kind inj data).boot = s.boot ∧
    (evFault s o l kind inj data).hub = s.hub ∧
    (evFault s o l kind inj data).freeCtr = s.freeCtr ∧
    (∀ i, (evFault s o l kind inj data).port i = s.port i) ∧
    (∀ i, (evFault s o l kind inj data).eng i = s.eng i) ∧
    (∀ i, (evFault s o l kind inj data).cluster i = s.cluster i) ∧
    (∀ i, (evFault s o l kind inj data).region i = s.region i) ∧
    (∀ i, (evFault s o l kind inj data).die i = s.die i) ∧
    (∀ i, (evFault s o l kind inj data).chan i = s.chan i) ∧
    (∀ i, (evFault s o l kind inj data).seqr i = s.seqr i) ∧
    (∀ i, (evFault s o l kind inj data).ep i = s.ep i) ∧
    (∀ i, (evFault s o l kind inj data).part i = s.part i) ∧
    (∀ i, (evFault s o l kind inj data).dmaCh i = s.dmaCh i) ∧
    (∀ i, (evFault s o l kind inj data).cmpEng i = s.cmpEng i) ∧
    (∀ i, (evFault s o l kind inj data).vp i = s.vp i) := by
  unfold evFault; try dsimp only
  repeat' first | (simp; done) | (simp [State.port, State.eng, State.cluster, State.region, State.die, State.chan, State.seqr, State.ep, State.part, State.dmaCh, State.cmpEng, State.vp]; done) | split

@[simp] theorem evSec_rest (s : State) (kind part : Nat) :
    (evSec s kind part).pending = s.pending ∧
    (evSec s kind part).time = s.time ∧
    (evSec s kind part).ports = s.ports ∧
    (evSec s kind part).engines = s.engines ∧
    (evSec s kind part).clusters = s.clusters ∧
    (evSec s kind part).regions = s.regions ∧
    (evSec s kind part).dies = s.dies ∧
    (evSec s kind part).chans = s.chans ∧
    (evSec s kind part).mem = s.mem ∧
    (evSec s kind part).pcs = s.pcs ∧
    (evSec s kind part).eps = s.eps ∧
    (evSec s kind part).mbox = s.mbox ∧
    (evSec s kind part).parts = s.parts ∧
    (evSec s kind part).dma = s.dma ∧
    (evSec s kind part).cmp = s.cmp ∧
    (evSec s kind part).vach = s.vach ∧
    (evSec s kind part).pwr = s.pwr ∧
    (evSec s kind part).clk = s.clk ∧
    (evSec s kind part).mon = s.mon ∧
    (evSec s kind part).sec = s.sec ∧
    (evSec s kind part).boot = s.boot ∧
    (evSec s kind part).hub = s.hub ∧
    (evSec s kind part).freeCtr = s.freeCtr ∧
    (∀ i, (evSec s kind part).port i = s.port i) ∧
    (∀ i, (evSec s kind part).eng i = s.eng i) ∧
    (∀ i, (evSec s kind part).cluster i = s.cluster i) ∧
    (∀ i, (evSec s kind part).region i = s.region i) ∧
    (∀ i, (evSec s kind part).die i = s.die i) ∧
    (∀ i, (evSec s kind part).chan i = s.chan i) ∧
    (∀ i, (evSec s kind part).seqr i = s.seqr i) ∧
    (∀ i, (evSec s kind part).ep i = s.ep i) ∧
    (∀ i, (evSec s kind part).part i = s.part i) ∧
    (∀ i, (evSec s kind part).dmaCh i = s.dmaCh i) ∧
    (∀ i, (evSec s kind part).cmpEng i = s.cmpEng i) ∧
    (∀ i, (evSec s kind part).vp i = s.vp i) := by
  unfold evSec; try dsimp only
  repeat' first | (simp; done) | (simp [State.port, State.eng, State.cluster, State.region, State.die, State.chan, State.seqr, State.ep, State.part, State.dmaCh, State.cmpEng, State.vp]; done) | split

@[simp] theorem evPower_rest (s : State) (kind idx st parked : Nat) :
    (evPower s kind idx st parked).pending = s.pending ∧
    (evPower s kind idx st parked).time = s.time ∧
    (evPower s kind idx st parked).ports = s.ports ∧
    (evPower s kind idx st parked).engines = s.engines ∧
    (evPower s kind idx st parked).clusters = s.clusters ∧
    (evPower s kind idx st parked).regions = s.regions ∧
    (evPower s kind idx st parked).dies = s.dies ∧
    (evPower s kind idx st parked).chans = s.chans ∧
    (evPower s kind idx st parked).mem = s.mem ∧
    (evPower s kind idx st parked).pcs = s.pcs ∧
    (evPower s kind idx st parked).eps = s.eps ∧
    (evPower s kind idx st parked).mbox = s.mbox ∧
    (evPower s kind idx st parked).parts = s.parts ∧
    (evPower s kind idx st parked).dma = s.dma ∧
    (evPower s kind idx st parked).cmp = s.cmp ∧
    (evPower s kind idx st parked).vach = s.vach ∧
    (evPower s kind idx st parked).pwr = s.pwr ∧
    (evPower s kind idx st parked).clk = s.clk ∧
    (evPower s kind idx st parked).mon = s.mon ∧
    (evPower s kind idx st parked).sec = s.sec ∧
    (evPower s kind idx st parked).boot = s.boot ∧
    (evPower s kind idx st parked).hub = s.hub ∧
    (evPower s kind idx st parked).freeCtr = s.freeCtr ∧
    (∀ i, (evPower s kind idx st parked).port i = s.port i) ∧
    (∀ i, (evPower s kind idx st parked).eng i = s.eng i) ∧
    (∀ i, (evPower s kind idx st parked).cluster i = s.cluster i) ∧
    (∀ i, (evPower s kind idx st parked).region i = s.region i) ∧
    (∀ i, (evPower s kind idx st parked).die i = s.die i) ∧
    (∀ i, (evPower s kind idx st parked).chan i = s.chan i) ∧
    (∀ i, (evPower s kind idx st parked).seqr i = s.seqr i) ∧
    (∀ i, (evPower s kind idx st parked).ep i = s.ep i) ∧
    (∀ i, (evPower s kind idx st parked).part i = s.part i) ∧
    (∀ i, (evPower s kind idx st parked).dmaCh i = s.dmaCh i) ∧
    (∀ i, (evPower s kind idx st parked).cmpEng i = s.cmpEng i) ∧
    (∀ i, (evPower s kind idx st parked).vp i = s.vp i) := by
  unfold evPower; try dsimp only
  repeat' first | (simp; done) | (simp [State.port, State.eng, State.cluster, State.region, State.die, State.chan, State.seqr, State.ep, State.part, State.dmaCh, State.cmpEng, State.vp]; done) | split

@[simp] theorem evalFn_rest (s : State) (f : Nat) :
    (evalFn s f).pending = s.pending ∧
    (evalFn s f).time = s.time ∧
    (evalFn s f).ports = s.ports ∧
    (evalFn s f).engines = s.engines ∧
    (evalFn s f).clusters = s.clusters ∧
    (evalFn s f).regions = s.regions ∧
    (evalFn s f).dies = s.dies ∧
    (evalFn s f).chans = s.chans ∧
    (evalFn s f).mem = s.mem ∧
    (evalFn s f).pcs = s.pcs ∧
    (evalFn s f).eps = s.eps ∧
    (evalFn s f).mbox = s.mbox ∧
    (evalFn s f).parts = s.parts ∧
    (evalFn s f).dma = s.dma ∧
    (evalFn s f).cmp = s.cmp ∧
    (evalFn s f).vach = s.vach ∧
    (evalFn s f).pwr = s.pwr ∧
    (evalFn s f).clk = s.clk ∧
    (evalFn s f).mon = s.mon ∧
    (evalFn s f).sec = s.sec ∧
    (evalFn s f).boot = s.boot ∧
    (evalFn s f).faults = s.faults ∧
    (evalFn s f).hub = s.hub ∧
    (evalFn s f).freeCtr = s.freeCtr ∧
    (∀ i, (evalFn s f).port i = s.port i) ∧
    (∀ i, (evalFn s f).eng i = s.eng i) ∧
    (∀ i, (evalFn s f).cluster i = s.cluster i) ∧
    (∀ i, (evalFn s f).region i = s.region i) ∧
    (∀ i, (evalFn s f).die i = s.die i) ∧
    (∀ i, (evalFn s f).chan i = s.chan i) ∧
    (∀ i, (evalFn s f).seqr i = s.seqr i) ∧
    (∀ i, (evalFn s f).ep i = s.ep i) ∧
    (∀ i, (evalFn s f).part i = s.part i) ∧
    (∀ i, (evalFn s f).dmaCh i = s.dmaCh i) ∧
    (∀ i, (evalFn s f).cmpEng i = s.cmpEng i) ∧
    (∀ i, (evalFn s f).vp i = s.vp i) := by
  unfold evalFn; try dsimp only
  repeat' first | (simp; done) | (simp [State.port, State.eng, State.cluster, State.region, State.die, State.chan, State.seqr, State.ep, State.part, State.dmaCh, State.cmpEng, State.vp]; done) | split

@[simp] theorem settle_rest (s : State) :
    (settle s).pending = s.pending ∧
    (settle s).time = s.time ∧
    (settle s).ports = s.ports ∧
    (settle s).engines = s.engines ∧
    (settle s).clusters = s.clusters ∧
    (settle s).regions = s.regions ∧
    (settle s).dies = s.dies ∧
    (settle s).chans = s.chans ∧
    (settle s).mem = s.mem ∧
    (settle s).pcs = s.pcs ∧
    (settle s).eps = s.eps ∧
    (settle s).mbox = s.mbox ∧
    (settle s).parts = s.parts ∧
    (settle s).dma = s.dma ∧
    (settle s).cmp = s.cmp ∧
    (settle s).vach = s.vach ∧
    (settle s).pwr = s.pwr ∧
    (settle s).clk = s.clk ∧
    (settle s).mon = s.mon ∧
    (settle s).sec = s.sec ∧
    (settle s).boot = s.boot ∧
    (settle s).faults = s.faults ∧
    (settle s).hub = s.hub ∧
    (settle s).freeCtr = s.freeCtr ∧
    (∀ i, (settle s).port i = s.port i) ∧
    (∀ i, (settle s).eng i = s.eng i) ∧
    (∀ i, (settle s).cluster i = s.cluster i) ∧
    (∀ i, (settle s).region i = s.region i) ∧
    (∀ i, (settle s).die i = s.die i) ∧
    (∀ i, (settle s).chan i = s.chan i) ∧
    (∀ i, (settle s).seqr i = s.seqr i) ∧
    (∀ i, (settle s).ep i = s.ep i) ∧
    (∀ i, (settle s).part i = s.part i) ∧
    (∀ i, (settle s).dmaCh i = s.dmaCh i) ∧
    (∀ i, (settle s).cmpEng i = s.cmpEng i) ∧
    (∀ i, (settle s).vp i = s.vp i) := by
  unfold settle
  and_intros
  all_goals first
    | exact foldl_same _ _ _ (by simp) s
    | exact fun i => foldl_same (State.port · i) _ _ (by simp) s
    | exact fun i => foldl_same (State.eng · i) _ _ (by simp) s
    | exact fun i => foldl_same (State.cluster · i) _ _ (by simp) s
    | exact fun i => foldl_same (State.region · i) _ _ (by simp) s
    | exact fun i => foldl_same (State.die · i) _ _ (by simp) s
    | exact fun i => foldl_same (State.chan · i) _ _ (by simp) s
    | exact fun i => foldl_same (State.seqr · i) _ _ (by simp) s
    | exact fun i => foldl_same (State.ep · i) _ _ (by simp) s
    | exact fun i => foldl_same (State.part · i) _ _ (by simp) s
    | exact fun i => foldl_same (State.dmaCh · i) _ _ (by simp) s
    | exact fun i => foldl_same (State.cmpEng · i) _ _ (by simp) s
    | exact fun i => foldl_same (State.vp · i) _ _ (by simp) s

@[simp] theorem emitRec_rest (s : State) (p : Nat) (slot : Slot) (ty body : Nat) :
    (emitRec s p slot ty body).pending = s.pending ∧
    (emitRec s p slot ty body).time = s.time ∧
    (emitRec s p slot ty body).engines = s.engines ∧
    (emitRec s p slot ty body).clusters = s.clusters ∧
    (emitRec s p slot ty body).regions = s.regions ∧
    (emitRec s p slot ty body).dies = s.dies ∧
    (emitRec s p slot ty body).chans = s.chans ∧
    (emitRec s p slot ty body).mem = s.mem ∧
    (emitRec s p slot ty body).pcs = s.pcs ∧
    (emitRec s p slot ty body).fns = s.fns ∧
    (emitRec s p slot ty body).eps = s.eps ∧
    (emitRec s p slot ty body).mbox = s.mbox ∧
    (emitRec s p slot ty body).parts = s.parts ∧
    (emitRec s p slot ty body).dma = s.dma ∧
    (emitRec s p slot ty body).cmp = s.cmp ∧
    (emitRec s p slot ty body).vach = s.vach ∧
    (emitRec s p slot ty body).pwr = s.pwr ∧
    (emitRec s p slot ty body).clk = s.clk ∧
    (emitRec s p slot ty body).mon = s.mon ∧
    (emitRec s p slot ty body).sec = s.sec ∧
    (emitRec s p slot ty body).boot = s.boot ∧
    (emitRec s p slot ty body).faults = s.faults ∧
    (emitRec s p slot ty body).hub = s.hub ∧
    (emitRec s p slot ty body).outbox = s.outbox ∧
    (emitRec s p slot ty body).freeCtr = s.freeCtr ∧
    (∀ i, (emitRec s p slot ty body).eng i = s.eng i) ∧
    (∀ i, (emitRec s p slot ty body).cluster i = s.cluster i) ∧
    (∀ i, (emitRec s p slot ty body).region i = s.region i) ∧
    (∀ i, (emitRec s p slot ty body).die i = s.die i) ∧
    (∀ i, (emitRec s p slot ty body).chan i = s.chan i) ∧
    (∀ i, (emitRec s p slot ty body).seqr i = s.seqr i) ∧
    (∀ i, (emitRec s p slot ty body).fn i = s.fn i) ∧
    (∀ i, (emitRec s p slot ty body).ep i = s.ep i) ∧
    (∀ i, (emitRec s p slot ty body).part i = s.part i) ∧
    (∀ i, (emitRec s p slot ty body).dmaCh i = s.dmaCh i) ∧
    (∀ i, (emitRec s p slot ty body).cmpEng i = s.cmpEng i) ∧
    (∀ i, (emitRec s p slot ty body).vp i = s.vp i) := by
  unfold emitRec; try dsimp only
  repeat' first | (simp; done) | (simp [State.eng, State.cluster, State.region, State.die, State.chan, State.seqr, State.fn, State.ep, State.part, State.dmaCh, State.cmpEng, State.vp]; done) | split

@[simp] theorem replyQueue_rest (s : State) (f : Nat) (e : BitVec 256) :
    (replyQueue s f e).pending = s.pending ∧
    (replyQueue s f e).time = s.time ∧
    (replyQueue s f e).ports = s.ports ∧
    (replyQueue s f e).engines = s.engines ∧
    (replyQueue s f e).clusters = s.clusters ∧
    (replyQueue s f e).regions = s.regions ∧
    (replyQueue s f e).dies = s.dies ∧
    (replyQueue s f e).chans = s.chans ∧
    (replyQueue s f e).mem = s.mem ∧
    (replyQueue s f e).pcs = s.pcs ∧
    (replyQueue s f e).eps = s.eps ∧
    (replyQueue s f e).mbox = s.mbox ∧
    (replyQueue s f e).parts = s.parts ∧
    (replyQueue s f e).dma = s.dma ∧
    (replyQueue s f e).cmp = s.cmp ∧
    (replyQueue s f e).vach = s.vach ∧
    (replyQueue s f e).pwr = s.pwr ∧
    (replyQueue s f e).clk = s.clk ∧
    (replyQueue s f e).mon = s.mon ∧
    (replyQueue s f e).sec = s.sec ∧
    (replyQueue s f e).boot = s.boot ∧
    (replyQueue s f e).faults = s.faults ∧
    (replyQueue s f e).hub = s.hub ∧
    (replyQueue s f e).freeCtr = s.freeCtr ∧
    (∀ i, (replyQueue s f e).port i = s.port i) ∧
    (∀ i, (replyQueue s f e).eng i = s.eng i) ∧
    (∀ i, (replyQueue s f e).cluster i = s.cluster i) ∧
    (∀ i, (replyQueue s f e).region i = s.region i) ∧
    (∀ i, (replyQueue s f e).die i = s.die i) ∧
    (∀ i, (replyQueue s f e).chan i = s.chan i) ∧
    (∀ i, (replyQueue s f e).seqr i = s.seqr i) ∧
    (∀ i, (replyQueue s f e).ep i = s.ep i) ∧
    (∀ i, (replyQueue s f e).part i = s.part i) ∧
    (∀ i, (replyQueue s f e).dmaCh i = s.dmaCh i) ∧
    (∀ i, (replyQueue s f e).cmpEng i = s.cmpEng i) ∧
    (∀ i, (replyQueue s f e).vp i = s.vp i) := by
  unfold replyQueue; try dsimp only
  repeat' first | (simp; done) | (simp [State.port, State.eng, State.cluster, State.region, State.die, State.chan, State.seqr, State.ep, State.part, State.dmaCh, State.cmpEng, State.vp]; done) | split

@[simp] theorem replyTo_rest (s : State) (b : Bool) (p : Packet) (st dt r : Nat) (bs : List Byte) :
    (replyTo s b p st dt r bs).pending = s.pending ∧
    (replyTo s b p st dt r bs).time = s.time ∧
    (replyTo s b p st dt r bs).ports = s.ports ∧
    (replyTo s b p st dt r bs).engines = s.engines ∧
    (replyTo s b p st dt r bs).clusters = s.clusters ∧
    (replyTo s b p st dt r bs).regions = s.regions ∧
    (replyTo s b p st dt r bs).dies = s.dies ∧
    (replyTo s b p st dt r bs).chans = s.chans ∧
    (replyTo s b p st dt r bs).mem = s.mem ∧
    (replyTo s b p st dt r bs).pcs = s.pcs ∧
    (replyTo s b p st dt r bs).eps = s.eps ∧
    (replyTo s b p st dt r bs).parts = s.parts ∧
    (replyTo s b p st dt r bs).dma = s.dma ∧
    (replyTo s b p st dt r bs).cmp = s.cmp ∧
    (replyTo s b p st dt r bs).vach = s.vach ∧
    (replyTo s b p st dt r bs).pwr = s.pwr ∧
    (replyTo s b p st dt r bs).clk = s.clk ∧
    (replyTo s b p st dt r bs).mon = s.mon ∧
    (replyTo s b p st dt r bs).sec = s.sec ∧
    (replyTo s b p st dt r bs).boot = s.boot ∧
    (replyTo s b p st dt r bs).faults = s.faults ∧
    (replyTo s b p st dt r bs).hub = s.hub ∧
    (replyTo s b p st dt r bs).freeCtr = s.freeCtr ∧
    (∀ i, (replyTo s b p st dt r bs).port i = s.port i) ∧
    (∀ i, (replyTo s b p st dt r bs).eng i = s.eng i) ∧
    (∀ i, (replyTo s b p st dt r bs).cluster i = s.cluster i) ∧
    (∀ i, (replyTo s b p st dt r bs).region i = s.region i) ∧
    (∀ i, (replyTo s b p st dt r bs).die i = s.die i) ∧
    (∀ i, (replyTo s b p st dt r bs).chan i = s.chan i) ∧
    (∀ i, (replyTo s b p st dt r bs).seqr i = s.seqr i) ∧
    (∀ i, (replyTo s b p st dt r bs).ep i = s.ep i) ∧
    (∀ i, (replyTo s b p st dt r bs).part i = s.part i) ∧
    (∀ i, (replyTo s b p st dt r bs).dmaCh i = s.dmaCh i) ∧
    (∀ i, (replyTo s b p st dt r bs).cmpEng i = s.cmpEng i) ∧
    (∀ i, (replyTo s b p st dt r bs).vp i = s.vp i) := by
  unfold replyTo; try dsimp only
  repeat' first | (simp; done) | (simp [State.port, State.eng, State.cluster, State.region, State.die, State.chan, State.seqr, State.ep, State.part, State.dmaCh, State.cmpEng, State.vp]; done) | split

@[simp] theorem finish_rest (s : State) (o : Origin) (st dt x : Nat) :
    (finish s o st dt x).pending = s.pending ∧
    (finish s o st dt x).time = s.time ∧
    (finish s o st dt x).ports = s.ports ∧
    (finish s o st dt x).engines = s.engines ∧
    (finish s o st dt x).clusters = s.clusters ∧
    (finish s o st dt x).regions = s.regions ∧
    (finish s o st dt x).dies = s.dies ∧
    (finish s o st dt x).chans = s.chans ∧
    (finish s o st dt x).mem = s.mem ∧
    (finish s o st dt x).pcs = s.pcs ∧
    (finish s o st dt x).eps = s.eps ∧
    (finish s o st dt x).parts = s.parts ∧
    (finish s o st dt x).dma = s.dma ∧
    (finish s o st dt x).cmp = s.cmp ∧
    (finish s o st dt x).vach = s.vach ∧
    (finish s o st dt x).pwr = s.pwr ∧
    (finish s o st dt x).clk = s.clk ∧
    (finish s o st dt x).mon = s.mon ∧
    (finish s o st dt x).sec = s.sec ∧
    (finish s o st dt x).boot = s.boot ∧
    (finish s o st dt x).faults = s.faults ∧
    (finish s o st dt x).freeCtr = s.freeCtr ∧
    (∀ i, (finish s o st dt x).port i = s.port i) ∧
    (∀ i, (finish s o st dt x).eng i = s.eng i) ∧
    (∀ i, (finish s o st dt x).cluster i = s.cluster i) ∧
    (∀ i, (finish s o st dt x).region i = s.region i) ∧
    (∀ i, (finish s o st dt x).die i = s.die i) ∧
    (∀ i, (finish s o st dt x).chan i = s.chan i) ∧
    (∀ i, (finish s o st dt x).seqr i = s.seqr i) ∧
    (∀ i, (finish s o st dt x).ep i = s.ep i) ∧
    (∀ i, (finish s o st dt x).part i = s.part i) ∧
    (∀ i, (finish s o st dt x).dmaCh i = s.dmaCh i) ∧
    (∀ i, (finish s o st dt x).cmpEng i = s.cmpEng i) ∧
    (∀ i, (finish s o st dt x).vp i = s.vp i) := by
  unfold finish; try dsimp only
  repeat' first | (simp; done) | (simp [State.port, State.eng, State.cluster, State.region, State.die, State.chan, State.seqr, State.ep, State.part, State.dmaCh, State.cmpEng, State.vp]; done) | split

@[simp] theorem dropSecond_rest (c : Cmd) (p : Packet) (s : State) :
    (dropSecond c p s).pending = s.pending ∧
    (dropSecond c p s).time = s.time ∧
    (dropSecond c p s).ports = s.ports ∧
    (dropSecond c p s).engines = s.engines ∧
    (dropSecond c p s).clusters = s.clusters ∧
    (dropSecond c p s).regions = s.regions ∧
    (dropSecond c p s).dies = s.dies ∧
    (dropSecond c p s).chans = s.chans ∧
    (dropSecond c p s).mem = s.mem ∧
    (dropSecond c p s).pcs = s.pcs ∧
    (dropSecond c p s).eps = s.eps ∧
    (dropSecond c p s).mbox = s.mbox ∧
    (dropSecond c p s).parts = s.parts ∧
    (dropSecond c p s).dma = s.dma ∧
    (dropSecond c p s).cmp = s.cmp ∧
    (dropSecond c p s).vach = s.vach ∧
    (dropSecond c p s).pwr = s.pwr ∧
    (dropSecond c p s).clk = s.clk ∧
    (dropSecond c p s).mon = s.mon ∧
    (dropSecond c p s).sec = s.sec ∧
    (dropSecond c p s).boot = s.boot ∧
    (dropSecond c p s).faults = s.faults ∧
    (dropSecond c p s).hub = s.hub ∧
    (dropSecond c p s).outbox = s.outbox ∧
    (dropSecond c p s).freeCtr = s.freeCtr ∧
    (∀ i, (dropSecond c p s).port i = s.port i) ∧
    (∀ i, (dropSecond c p s).eng i = s.eng i) ∧
    (∀ i, (dropSecond c p s).cluster i = s.cluster i) ∧
    (∀ i, (dropSecond c p s).region i = s.region i) ∧
    (∀ i, (dropSecond c p s).die i = s.die i) ∧
    (∀ i, (dropSecond c p s).chan i = s.chan i) ∧
    (∀ i, (dropSecond c p s).seqr i = s.seqr i) ∧
    (∀ i, (dropSecond c p s).ep i = s.ep i) ∧
    (∀ i, (dropSecond c p s).part i = s.part i) ∧
    (∀ i, (dropSecond c p s).dmaCh i = s.dmaCh i) ∧
    (∀ i, (dropSecond c p s).cmpEng i = s.cmpEng i) ∧
    (∀ i, (dropSecond c p s).vp i = s.vp i) := by
  unfold dropSecond; try dsimp only
  repeat' first | (simp; done) | (simp [State.port, State.eng, State.cluster, State.region, State.die, State.chan, State.seqr, State.ep, State.part, State.dmaCh, State.cmpEng, State.vp]; done) | split

@[simp] theorem drainBad_rest (n : Nat) (s : State) (f : Nat) :
    (drainBad n s f).pending = s.pending ∧
    (drainBad n s f).time = s.time ∧
    (drainBad n s f).ports = s.ports ∧
    (drainBad n s f).engines = s.engines ∧
    (drainBad n s f).clusters = s.clusters ∧
    (drainBad n s f).regions = s.regions ∧
    (drainBad n s f).dies = s.dies ∧
    (drainBad n s f).chans = s.chans ∧
    (drainBad n s f).mem = s.mem ∧
    (drainBad n s f).pcs = s.pcs ∧
    (drainBad n s f).eps = s.eps ∧
    (drainBad n s f).mbox = s.mbox ∧
    (drainBad n s f).parts = s.parts ∧
    (drainBad n s f).dma = s.dma ∧
    (drainBad n s f).cmp = s.cmp ∧
    (drainBad n s f).vach = s.vach ∧
    (drainBad n s f).pwr = s.pwr ∧
    (drainBad n s f).clk = s.clk ∧
    (drainBad n s f).mon = s.mon ∧
    (drainBad n s f).sec = s.sec ∧
    (drainBad n s f).boot = s.boot ∧
    (drainBad n s f).faults = s.faults ∧
    (drainBad n s f).hub = s.hub ∧
    (drainBad n s f).freeCtr = s.freeCtr ∧
    (∀ i, (drainBad n s f).port i = s.port i) ∧
    (∀ i, (drainBad n s f).eng i = s.eng i) ∧
    (∀ i, (drainBad n s f).cluster i = s.cluster i) ∧
    (∀ i, (drainBad n s f).region i = s.region i) ∧
    (∀ i, (drainBad n s f).die i = s.die i) ∧
    (∀ i, (drainBad n s f).chan i = s.chan i) ∧
    (∀ i, (drainBad n s f).seqr i = s.seqr i) ∧
    (∀ i, (drainBad n s f).ep i = s.ep i) ∧
    (∀ i, (drainBad n s f).part i = s.part i) ∧
    (∀ i, (drainBad n s f).dmaCh i = s.dmaCh i) ∧
    (∀ i, (drainBad n s f).cmpEng i = s.cmpEng i) ∧
    (∀ i, (drainBad n s f).vp i = s.vp i) := by
  induction n generalizing s with
  | zero => simp [drainBad]
  | succ n ih =>
    unfold drainBad; try dsimp only
    repeat' first | (simp [ih]; done) | split

@[simp] theorem conclude_rest (c : Cmd) (p : Packet) (x : State × Rep) :
    (conclude c p x).pending = x.1.pending ∧
    (conclude c p x).time = x.1.time ∧
    (conclude c p x).ports = x.1.ports ∧
    (conclude c p x).engines = x.1.engines ∧
    (conclude c p x).clusters = x.1.clusters ∧
    (conclude c p x).regions = x.1.regions ∧
    (conclude c p x).dies = x.1.dies ∧
    (conclude c p x).chans = x.1.chans ∧
    (conclude c p x).mem = x.1.mem ∧
    (conclude c p x).pcs = x.1.pcs ∧
    (conclude c p x).eps = x.1.eps ∧
    (conclude c p x).parts = x.1.parts ∧
    (conclude c p x).dma = x.1.dma ∧
    (conclude c p x).cmp = x.1.cmp ∧
    (conclude c p x).vach = x.1.vach ∧
    (conclude c p x).pwr = x.1.pwr ∧
    (conclude c p x).clk = x.1.clk ∧
    (conclude c p x).mon = x.1.mon ∧
    (conclude c p x).sec = x.1.sec ∧
    (conclude c p x).boot = x.1.boot ∧
    (conclude c p x).faults = x.1.faults ∧
    (conclude c p x).freeCtr = x.1.freeCtr ∧
    (∀ i, (conclude c p x).port i = x.1.port i) ∧
    (∀ i, (conclude c p x).eng i = x.1.eng i) ∧
    (∀ i, (conclude c p x).cluster i = x.1.cluster i) ∧
    (∀ i, (conclude c p x).region i = x.1.region i) ∧
    (∀ i, (conclude c p x).die i = x.1.die i) ∧
    (∀ i, (conclude c p x).chan i = x.1.chan i) ∧
    (∀ i, (conclude c p x).seqr i = x.1.seqr i) ∧
    (∀ i, (conclude c p x).ep i = x.1.ep i) ∧
    (∀ i, (conclude c p x).part i = x.1.part i) ∧
    (∀ i, (conclude c p x).dmaCh i = x.1.dmaCh i) ∧
    (∀ i, (conclude c p x).cmpEng i = x.1.cmpEng i) ∧
    (∀ i, (conclude c p x).vp i = x.1.vp i) := by
  unfold conclude; try dsimp only
  repeat' first | (simp; done) | (simp [State.port, State.eng, State.cluster, State.region, State.die, State.chan, State.seqr, State.ep, State.part, State.dmaCh, State.cmpEng, State.vp]; done) | split

@[simp] theorem noteFail_rest (p : Packet) (f : Fail) (s : State) :
    (noteFail p f s).pending = s.pending ∧
    (noteFail p f s).time = s.time ∧
    (noteFail p f s).ports = s.ports ∧
    (noteFail p f s).engines = s.engines ∧
    (noteFail p f s).clusters = s.clusters ∧
    (noteFail p f s).regions = s.regions ∧
    (noteFail p f s).dies = s.dies ∧
    (noteFail p f s).chans = s.chans ∧
    (noteFail p f s).mem = s.mem ∧
    (noteFail p f s).pcs = s.pcs ∧
    (noteFail p f s).eps = s.eps ∧
    (noteFail p f s).mbox = s.mbox ∧
    (noteFail p f s).parts = s.parts ∧
    (noteFail p f s).dma = s.dma ∧
    (noteFail p f s).cmp = s.cmp ∧
    (noteFail p f s).vach = s.vach ∧
    (noteFail p f s).pwr = s.pwr ∧
    (noteFail p f s).clk = s.clk ∧
    (noteFail p f s).mon = s.mon ∧
    (noteFail p f s).boot = s.boot ∧
    (noteFail p f s).hub = s.hub ∧
    (noteFail p f s).freeCtr = s.freeCtr ∧
    (∀ i, (noteFail p f s).port i = s.port i) ∧
    (∀ i, (noteFail p f s).eng i = s.eng i) ∧
    (∀ i, (noteFail p f s).cluster i = s.cluster i) ∧
    (∀ i, (noteFail p f s).region i = s.region i) ∧
    (∀ i, (noteFail p f s).die i = s.die i) ∧
    (∀ i, (noteFail p f s).chan i = s.chan i) ∧
    (∀ i, (noteFail p f s).seqr i = s.seqr i) ∧
    (∀ i, (noteFail p f s).ep i = s.ep i) ∧
    (∀ i, (noteFail p f s).part i = s.part i) ∧
    (∀ i, (noteFail p f s).dmaCh i = s.dmaCh i) ∧
    (∀ i, (noteFail p f s).cmpEng i = s.cmpEng i) ∧
    (∀ i, (noteFail p f s).vp i = s.vp i) := by
  unfold noteFail; try dsimp only
  repeat' first | (simp; done) | (simp [State.port, State.eng, State.cluster, State.region, State.die, State.chan, State.seqr, State.ep, State.part, State.dmaCh, State.cmpEng, State.vp]; done) | split

@[simp] theorem finishJob_rest (s : State) (j : Job) (st dt x : Nat) :
    (finishJob s j st dt x).pending = s.pending ∧
    (finishJob s j st dt x).time = s.time ∧
    (finishJob s j st dt x).ports = s.ports ∧
    (finishJob s j st dt x).engines = s.engines ∧
    (finishJob s j st dt x).clusters = s.clusters ∧
    (finishJob s j st dt x).regions = s.regions ∧
    (finishJob s j st dt x).dies = s.dies ∧
    (finishJob s j st dt x).chans = s.chans ∧
    (finishJob s j st dt x).mem = s.mem ∧
    (finishJob s j st dt x).pcs = s.pcs ∧
    (finishJob s j st dt x).eps = s.eps ∧
    (finishJob s j st dt x).parts = s.parts ∧
    (finishJob s j st dt x).dma = s.dma ∧
    (finishJob s j st dt x).cmp = s.cmp ∧
    (finishJob s j st dt x).vach = s.vach ∧
    (finishJob s j st dt x).pwr = s.pwr ∧
    (finishJob s j st dt x).clk = s.clk ∧
    (finishJob s j st dt x).mon = s.mon ∧
    (finishJob s j st dt x).sec = s.sec ∧
    (finishJob s j st dt x).boot = s.boot ∧
    (finishJob s j st dt x).faults = s.faults ∧
    (finishJob s j st dt x).freeCtr = s.freeCtr ∧
    (∀ i, (finishJob s j st dt x).port i = s.port i) ∧
    (∀ i, (finishJob s j st dt x).eng i = s.eng i) ∧
    (∀ i, (finishJob s j st dt x).cluster i = s.cluster i) ∧
    (∀ i, (finishJob s j st dt x).region i = s.region i) ∧
    (∀ i, (finishJob s j st dt x).die i = s.die i) ∧
    (∀ i, (finishJob s j st dt x).chan i = s.chan i) ∧
    (∀ i, (finishJob s j st dt x).seqr i = s.seqr i) ∧
    (∀ i, (finishJob s j st dt x).ep i = s.ep i) ∧
    (∀ i, (finishJob s j st dt x).part i = s.part i) ∧
    (∀ i, (finishJob s j st dt x).dmaCh i = s.dmaCh i) ∧
    (∀ i, (finishJob s j st dt x).cmpEng i = s.cmpEng i) ∧
    (∀ i, (finishJob s j st dt x).vp i = s.vp i) := by
  unfold finishJob
  and_intros
  all_goals first
    | exact foldl_same _ _ _ (by simp) s
    | exact fun i => foldl_same (State.port · i) _ _ (by simp) s
    | exact fun i => foldl_same (State.eng · i) _ _ (by simp) s
    | exact fun i => foldl_same (State.cluster · i) _ _ (by simp) s
    | exact fun i => foldl_same (State.region · i) _ _ (by simp) s
    | exact fun i => foldl_same (State.die · i) _ _ (by simp) s
    | exact fun i => foldl_same (State.chan · i) _ _ (by simp) s
    | exact fun i => foldl_same (State.seqr · i) _ _ (by simp) s
    | exact fun i => foldl_same (State.ep · i) _ _ (by simp) s
    | exact fun i => foldl_same (State.part · i) _ _ (by simp) s
    | exact fun i => foldl_same (State.dmaCh · i) _ _ (by simp) s
    | exact fun i => foldl_same (State.cmpEng · i) _ _ (by simp) s
    | exact fun i => foldl_same (State.vp · i) _ _ (by simp) s

@[simp] theorem settlePackage_rest (s : State) :
    (settlePackage s).pending = s.pending ∧
    (settlePackage s).time = s.time ∧
    (settlePackage s).ports = s.ports ∧
    (settlePackage s).engines = s.engines ∧
    (settlePackage s).clusters = s.clusters ∧
    (settlePackage s).regions = s.regions ∧
    (settlePackage s).dies = s.dies ∧
    (settlePackage s).chans = s.chans ∧
    (settlePackage s).mem = s.mem ∧
    (settlePackage s).pcs = s.pcs ∧
    (settlePackage s).eps = s.eps ∧
    (settlePackage s).mbox = s.mbox ∧
    (settlePackage s).parts = s.parts ∧
    (settlePackage s).dma = s.dma ∧
    (settlePackage s).cmp = s.cmp ∧
    (settlePackage s).vach = s.vach ∧
    (settlePackage s).clk = s.clk ∧
    (settlePackage s).mon = s.mon ∧
    (settlePackage s).sec = s.sec ∧
    (settlePackage s).boot = s.boot ∧
    (settlePackage s).hub = s.hub ∧
    (settlePackage s).freeCtr = s.freeCtr ∧
    (∀ i, (settlePackage s).port i = s.port i) ∧
    (∀ i, (settlePackage s).eng i = s.eng i) ∧
    (∀ i, (settlePackage s).cluster i = s.cluster i) ∧
    (∀ i, (settlePackage s).region i = s.region i) ∧
    (∀ i, (settlePackage s).die i = s.die i) ∧
    (∀ i, (settlePackage s).chan i = s.chan i) ∧
    (∀ i, (settlePackage s).seqr i = s.seqr i) ∧
    (∀ i, (settlePackage s).ep i = s.ep i) ∧
    (∀ i, (settlePackage s).part i = s.part i) ∧
    (∀ i, (settlePackage s).dmaCh i = s.dmaCh i) ∧
    (∀ i, (settlePackage s).cmpEng i = s.cmpEng i) ∧
    (∀ i, (settlePackage s).vp i = s.vp i) := by
  unfold settlePackage; try dsimp only
  repeat' first | (simp; done) | (simp [State.port, State.eng, State.cluster, State.region, State.die, State.chan, State.seqr, State.ep, State.part, State.dmaCh, State.cmpEng, State.vp]; done) | split

@[simp] theorem requestTokens_rest (s : State) (g : Grant) :
    (requestTokens s g).pending = s.pending ∧
    (requestTokens s g).time = s.time ∧
    (requestTokens s g).ports = s.ports ∧
    (requestTokens s g).engines = s.engines ∧
    (requestTokens s g).clusters = s.clusters ∧
    (requestTokens s g).regions = s.regions ∧
    (requestTokens s g).dies = s.dies ∧
    (requestTokens s g).chans = s.chans ∧
    (requestTokens s g).mem = s.mem ∧
    (requestTokens s g).pcs = s.pcs ∧
    (requestTokens s g).fns = s.fns ∧
    (requestTokens s g).eps = s.eps ∧
    (requestTokens s g).mbox = s.mbox ∧
    (requestTokens s g).parts = s.parts ∧
    (requestTokens s g).dma = s.dma ∧
    (requestTokens s g).cmp = s.cmp ∧
    (requestTokens s g).vach = s.vach ∧
    (requestTokens s g).clk = s.clk ∧
    (requestTokens s g).mon = s.mon ∧
    (requestTokens s g).sec = s.sec ∧
    (requestTokens s g).boot = s.boot ∧
    (requestTokens s g).faults = s.faults ∧
    (requestTokens s g).hub = s.hub ∧
    (requestTokens s g).outbox = s.outbox ∧
    (requestTokens s g).freeCtr = s.freeCtr ∧
    (∀ i, (requestTokens s g).port i = s.port i) ∧
    (∀ i, (requestTokens s g).eng i = s.eng i) ∧
    (∀ i, (requestTokens s g).cluster i = s.cluster i) ∧
    (∀ i, (requestTokens s g).region i = s.region i) ∧
    (∀ i, (requestTokens s g).die i = s.die i) ∧
    (∀ i, (requestTokens s g).chan i = s.chan i) ∧
    (∀ i, (requestTokens s g).seqr i = s.seqr i) ∧
    (∀ i, (requestTokens s g).fn i = s.fn i) ∧
    (∀ i, (requestTokens s g).ep i = s.ep i) ∧
    (∀ i, (requestTokens s g).part i = s.part i) ∧
    (∀ i, (requestTokens s g).dmaCh i = s.dmaCh i) ∧
    (∀ i, (requestTokens s g).cmpEng i = s.cmpEng i) ∧
    (∀ i, (requestTokens s g).vp i = s.vp i) := by
  unfold requestTokens; try dsimp only
  repeat' first | (simp; done) | (simp [State.port, State.eng, State.cluster, State.region, State.die, State.chan, State.seqr, State.fn, State.ep, State.part, State.dmaCh, State.cmpEng, State.vp]; done) | split

@[simp] theorem driveWake_rest (s : State) :
    (driveWake s).pending = s.pending ∧
    (driveWake s).time = s.time ∧
    (driveWake s).ports = s.ports ∧
    (driveWake s).engines = s.engines ∧
    (driveWake s).clusters = s.clusters ∧
    (driveWake s).regions = s.regions ∧
    (driveWake s).dies = s.dies ∧
    (driveWake s).chans = s.chans ∧
    (driveWake s).mem = s.mem ∧
    (driveWake s).pcs = s.pcs ∧
    (driveWake s).fns = s.fns ∧
    (driveWake s).mbox = s.mbox ∧
    (driveWake s).parts = s.parts ∧
    (driveWake s).dma = s.dma ∧
    (driveWake s).cmp = s.cmp ∧
    (driveWake s).vach = s.vach ∧
    (driveWake s).pwr = s.pwr ∧
    (driveWake s).clk = s.clk ∧
    (driveWake s).mon = s.mon ∧
    (driveWake s).sec = s.sec ∧
    (driveWake s).boot = s.boot ∧
    (driveWake s).faults = s.faults ∧
    (driveWake s).hub = s.hub ∧
    (driveWake s).freeCtr = s.freeCtr ∧
    (∀ i, (driveWake s).port i = s.port i) ∧
    (∀ i, (driveWake s).eng i = s.eng i) ∧
    (∀ i, (driveWake s).cluster i = s.cluster i) ∧
    (∀ i, (driveWake s).region i = s.region i) ∧
    (∀ i, (driveWake s).die i = s.die i) ∧
    (∀ i, (driveWake s).chan i = s.chan i) ∧
    (∀ i, (driveWake s).seqr i = s.seqr i) ∧
    (∀ i, (driveWake s).fn i = s.fn i) ∧
    (∀ i, (driveWake s).part i = s.part i) ∧
    (∀ i, (driveWake s).dmaCh i = s.dmaCh i) ∧
    (∀ i, (driveWake s).cmpEng i = s.cmpEng i) ∧
    (∀ i, (driveWake s).vp i = s.vp i) := by
  unfold driveWake; try dsimp only
  repeat' first | (simp; done) | (simp [State.port, State.eng, State.cluster, State.region, State.die, State.chan, State.seqr, State.fn, State.part, State.dmaCh, State.cmpEng, State.vp]; done) | split

@[simp] theorem abandonEpoch_rest (s : State) (why : Nat) :
    (abandonEpoch s why).pending = s.pending ∧
    (abandonEpoch s why).ports = s.ports ∧
    (abandonEpoch s why).engines = s.engines ∧
    (abandonEpoch s why).clusters = s.clusters ∧
    (abandonEpoch s why).regions = s.regions ∧
    (abandonEpoch s why).dies = s.dies ∧
    (abandonEpoch s why).chans = s.chans ∧
    (abandonEpoch s why).mem = s.mem ∧
    (abandonEpoch s why).pcs = s.pcs ∧
    (abandonEpoch s why).eps = s.eps ∧
    (abandonEpoch s why).parts = s.parts ∧
    (abandonEpoch s why).dma = s.dma ∧
    (abandonEpoch s why).cmp = s.cmp ∧
    (abandonEpoch s why).vach = s.vach ∧
    (abandonEpoch s why).pwr = s.pwr ∧
    (abandonEpoch s why).clk = s.clk ∧
    (abandonEpoch s why).mon = s.mon ∧
    (abandonEpoch s why).sec = s.sec ∧
    (abandonEpoch s why).boot = s.boot ∧
    (abandonEpoch s why).faults = s.faults ∧
    (abandonEpoch s why).freeCtr = s.freeCtr ∧
    (∀ i, (abandonEpoch s why).port i = s.port i) ∧
    (∀ i, (abandonEpoch s why).eng i = s.eng i) ∧
    (∀ i, (abandonEpoch s why).cluster i = s.cluster i) ∧
    (∀ i, (abandonEpoch s why).region i = s.region i) ∧
    (∀ i, (abandonEpoch s why).die i = s.die i) ∧
    (∀ i, (abandonEpoch s why).chan i = s.chan i) ∧
    (∀ i, (abandonEpoch s why).seqr i = s.seqr i) ∧
    (∀ i, (abandonEpoch s why).ep i = s.ep i) ∧
    (∀ i, (abandonEpoch s why).part i = s.part i) ∧
    (∀ i, (abandonEpoch s why).dmaCh i = s.dmaCh i) ∧
    (∀ i, (abandonEpoch s why).cmpEng i = s.cmpEng i) ∧
    (∀ i, (abandonEpoch s why).vp i = s.vp i) := by
  unfold abandonEpoch; try dsimp only
  repeat' first | (simp; done) | (simp [State.port, State.eng, State.cluster, State.region, State.die, State.chan, State.seqr, State.ep, State.part, State.dmaCh, State.cmpEng, State.vp]; done) | split

@[simp] theorem pushStores_rest (s : State) (p : Nat) (xs : List Store) :
    (pushStores s p xs).pending = s.pending ∧
    (pushStores s p xs).time = s.time ∧
    (pushStores s p xs).engines = s.engines ∧
    (pushStores s p xs).clusters = s.clusters ∧
    (pushStores s p xs).regions = s.regions ∧
    (pushStores s p xs).dies = s.dies ∧
    (pushStores s p xs).chans = s.chans ∧
    (pushStores s p xs).mem = s.mem ∧
    (pushStores s p xs).pcs = s.pcs ∧
    (pushStores s p xs).fns = s.fns ∧
    (pushStores s p xs).eps = s.eps ∧
    (pushStores s p xs).mbox = s.mbox ∧
    (pushStores s p xs).parts = s.parts ∧
    (pushStores s p xs).dma = s.dma ∧
    (pushStores s p xs).cmp = s.cmp ∧
    (pushStores s p xs).vach = s.vach ∧
    (pushStores s p xs).pwr = s.pwr ∧
    (pushStores s p xs).clk = s.clk ∧
    (pushStores s p xs).mon = s.mon ∧
    (pushStores s p xs).sec = s.sec ∧
    (pushStores s p xs).boot = s.boot ∧
    (pushStores s p xs).faults = s.faults ∧
    (pushStores s p xs).hub = s.hub ∧
    (pushStores s p xs).outbox = s.outbox ∧
    (pushStores s p xs).freeCtr = s.freeCtr ∧
    (∀ i, (pushStores s p xs).eng i = s.eng i) ∧
    (∀ i, (pushStores s p xs).cluster i = s.cluster i) ∧
    (∀ i, (pushStores s p xs).region i = s.region i) ∧
    (∀ i, (pushStores s p xs).die i = s.die i) ∧
    (∀ i, (pushStores s p xs).chan i = s.chan i) ∧
    (∀ i, (pushStores s p xs).seqr i = s.seqr i) ∧
    (∀ i, (pushStores s p xs).fn i = s.fn i) ∧
    (∀ i, (pushStores s p xs).ep i = s.ep i) ∧
    (∀ i, (pushStores s p xs).part i = s.part i) ∧
    (∀ i, (pushStores s p xs).dmaCh i = s.dmaCh i) ∧
    (∀ i, (pushStores s p xs).cmpEng i = s.cmpEng i) ∧
    (∀ i, (pushStores s p xs).vp i = s.vp i) := by
  unfold pushStores; try dsimp only
  repeat' first | (simp; done) | (simp [State.eng, State.cluster, State.region, State.die, State.chan, State.seqr, State.fn, State.ep, State.part, State.dmaCh, State.cmpEng, State.vp]; done) | split

/-- Taking a free value advances its counter and nothing else. -/
@[simp] theorem State.fresh_rest (s : State) :
    s.fresh.2.pending = s.pending ∧
    s.fresh.2.time = s.time ∧
    s.fresh.2.ports = s.ports ∧
    s.fresh.2.engines = s.engines ∧
    s.fresh.2.clusters = s.clusters ∧
    s.fresh.2.regions = s.regions ∧
    s.fresh.2.dies = s.dies ∧
    s.fresh.2.chans = s.chans ∧
    s.fresh.2.mem = s.mem ∧
    s.fresh.2.pcs = s.pcs ∧
    s.fresh.2.fns = s.fns ∧
    s.fresh.2.eps = s.eps ∧
    s.fresh.2.mbox = s.mbox ∧
    s.fresh.2.parts = s.parts ∧
    s.fresh.2.dma = s.dma ∧
    s.fresh.2.cmp = s.cmp ∧
    s.fresh.2.vach = s.vach ∧
    s.fresh.2.pwr = s.pwr ∧
    s.fresh.2.clk = s.clk ∧
    s.fresh.2.mon = s.mon ∧
    s.fresh.2.sec = s.sec ∧
    s.fresh.2.boot = s.boot ∧
    s.fresh.2.faults = s.faults ∧
    s.fresh.2.hub = s.hub ∧
    s.fresh.2.outbox = s.outbox ∧
    (∀ i, s.fresh.2.port i = s.port i) ∧
    (∀ i, s.fresh.2.eng i = s.eng i) ∧
    (∀ i, s.fresh.2.cluster i = s.cluster i) ∧
    (∀ i, s.fresh.2.region i = s.region i) ∧
    (∀ i, s.fresh.2.die i = s.die i) ∧
    (∀ i, s.fresh.2.chan i = s.chan i) ∧
    (∀ i, s.fresh.2.seqr i = s.seqr i) ∧
    (∀ i, s.fresh.2.fn i = s.fn i) ∧
    (∀ i, s.fresh.2.ep i = s.ep i) ∧
    (∀ i, s.fresh.2.part i = s.part i) ∧
    (∀ i, s.fresh.2.dmaCh i = s.dmaCh i) ∧
    (∀ i, s.fresh.2.cmpEng i = s.cmpEng i) ∧
    (∀ i, s.fresh.2.vp i = s.vp i) := by
  and_intros <;> first | rfl | exact fun _ => rfl

@[simp] theorem beginRun_rest (s : State) (p : Nat) (slot : Slot) :
    (beginRun s p slot).pending = s.pending ∧
    (beginRun s p slot).time = s.time ∧
    (beginRun s p slot).engines = s.engines ∧
    (beginRun s p slot).clusters = s.clusters ∧
    (beginRun s p slot).regions = s.regions ∧
    (beginRun s p slot).dies = s.dies ∧
    (beginRun s p slot).chans = s.chans ∧
    (beginRun s p slot).mem = s.mem ∧
    (beginRun s p slot).pcs = s.pcs ∧
    (beginRun s p slot).fns = s.fns ∧
    (beginRun s p slot).eps = s.eps ∧
    (beginRun s p slot).mbox = s.mbox ∧
    (beginRun s p slot).parts = s.parts ∧
    (beginRun s p slot).dma = s.dma ∧
    (beginRun s p slot).cmp = s.cmp ∧
    (beginRun s p slot).vach = s.vach ∧
    (beginRun s p slot).pwr = s.pwr ∧
    (beginRun s p slot).clk = s.clk ∧
    (beginRun s p slot).mon = s.mon ∧
    (beginRun s p slot).sec = s.sec ∧
    (beginRun s p slot).boot = s.boot ∧
    (beginRun s p slot).faults = s.faults ∧
    (beginRun s p slot).hub = s.hub ∧
    (beginRun s p slot).outbox = s.outbox ∧
    (∀ i, (beginRun s p slot).eng i = s.eng i) ∧
    (∀ i, (beginRun s p slot).cluster i = s.cluster i) ∧
    (∀ i, (beginRun s p slot).region i = s.region i) ∧
    (∀ i, (beginRun s p slot).die i = s.die i) ∧
    (∀ i, (beginRun s p slot).chan i = s.chan i) ∧
    (∀ i, (beginRun s p slot).seqr i = s.seqr i) ∧
    (∀ i, (beginRun s p slot).fn i = s.fn i) ∧
    (∀ i, (beginRun s p slot).ep i = s.ep i) ∧
    (∀ i, (beginRun s p slot).part i = s.part i) ∧
    (∀ i, (beginRun s p slot).dmaCh i = s.dmaCh i) ∧
    (∀ i, (beginRun s p slot).cmpEng i = s.cmpEng i) ∧
    (∀ i, (beginRun s p slot).vp i = s.vp i) := by
  unfold beginRun; try dsimp only
  repeat' first | (simp; done) | (simp [State.eng, State.cluster, State.region, State.die, State.chan, State.seqr, State.fn, State.ep, State.part, State.dmaCh, State.cmpEng, State.vp]; done) | split

@[simp] theorem portRecord_rest (s : State) (p : Nat) (slot : Slot) :
    (portRecord s p slot).pending = s.pending ∧
    (portRecord s p slot).time = s.time ∧
    (portRecord s p slot).engines = s.engines ∧
    (portRecord s p slot).clusters = s.clusters ∧
    (portRecord s p slot).regions = s.regions ∧
    (portRecord s p slot).dies = s.dies ∧
    (portRecord s p slot).chans = s.chans ∧
    (portRecord s p slot).mem = s.mem ∧
    (portRecord s p slot).pcs = s.pcs ∧
    (portRecord s p slot).fns = s.fns ∧
    (portRecord s p slot).eps = s.eps ∧
    (portRecord s p slot).mbox = s.mbox ∧
    (portRecord s p slot).parts = s.parts ∧
    (portRecord s p slot).dma = s.dma ∧
    (portRecord s p slot).cmp = s.cmp ∧
    (portRecord s p slot).vach = s.vach ∧
    (portRecord s p slot).pwr = s.pwr ∧
    (portRecord s p slot).clk = s.clk ∧
    (portRecord s p slot).mon = s.mon ∧
    (portRecord s p slot).sec = s.sec ∧
    (portRecord s p slot).boot = s.boot ∧
    (portRecord s p slot).faults = s.faults ∧
    (portRecord s p slot).hub = s.hub ∧
    (portRecord s p slot).outbox = s.outbox ∧
    (portRecord s p slot).freeCtr = s.freeCtr ∧
    (∀ i, (portRecord s p slot).eng i = s.eng i) ∧
    (∀ i, (portRecord s p slot).cluster i = s.cluster i) ∧
    (∀ i, (portRecord s p slot).region i = s.region i) ∧
    (∀ i, (portRecord s p slot).die i = s.die i) ∧
    (∀ i, (portRecord s p slot).chan i = s.chan i) ∧
    (∀ i, (portRecord s p slot).seqr i = s.seqr i) ∧
    (∀ i, (portRecord s p slot).fn i = s.fn i) ∧
    (∀ i, (portRecord s p slot).ep i = s.ep i) ∧
    (∀ i, (portRecord s p slot).part i = s.part i) ∧
    (∀ i, (portRecord s p slot).dmaCh i = s.dmaCh i) ∧
    (∀ i, (portRecord s p slot).cmpEng i = s.cmpEng i) ∧
    (∀ i, (portRecord s p slot).vp i = s.vp i) := by
  unfold portRecord; try dsimp only
  repeat' first | (simp; done) | (simp [State.eng, State.cluster, State.region, State.die, State.chan, State.seqr, State.fn, State.ep, State.part, State.dmaCh, State.cmpEng, State.vp]; done) | split

@[simp] theorem setPortState_rest (s : State) (p : Nat) (st : PortSt) :
    (setPortState s p st).pending = s.pending ∧
    (setPortState s p st).time = s.time ∧
    (setPortState s p st).engines = s.engines ∧
    (setPortState s p st).clusters = s.clusters ∧
    (setPortState s p st).regions = s.regions ∧
    (setPortState s p st).dies = s.dies ∧
    (setPortState s p st).chans = s.chans ∧
    (setPortState s p st).mem = s.mem ∧
    (setPortState s p st).pcs = s.pcs ∧
    (setPortState s p st).eps = s.eps ∧
    (setPortState s p st).mbox = s.mbox ∧
    (setPortState s p st).parts = s.parts ∧
    (setPortState s p st).dma = s.dma ∧
    (setPortState s p st).cmp = s.cmp ∧
    (setPortState s p st).vach = s.vach ∧
    (setPortState s p st).pwr = s.pwr ∧
    (setPortState s p st).clk = s.clk ∧
    (setPortState s p st).mon = s.mon ∧
    (setPortState s p st).sec = s.sec ∧
    (setPortState s p st).boot = s.boot ∧
    (setPortState s p st).faults = s.faults ∧
    (setPortState s p st).hub = s.hub ∧
    (setPortState s p st).freeCtr = s.freeCtr ∧
    (∀ i, (setPortState s p st).eng i = s.eng i) ∧
    (∀ i, (setPortState s p st).cluster i = s.cluster i) ∧
    (∀ i, (setPortState s p st).region i = s.region i) ∧
    (∀ i, (setPortState s p st).die i = s.die i) ∧
    (∀ i, (setPortState s p st).chan i = s.chan i) ∧
    (∀ i, (setPortState s p st).seqr i = s.seqr i) ∧
    (∀ i, (setPortState s p st).ep i = s.ep i) ∧
    (∀ i, (setPortState s p st).part i = s.part i) ∧
    (∀ i, (setPortState s p st).dmaCh i = s.dmaCh i) ∧
    (∀ i, (setPortState s p st).cmpEng i = s.cmpEng i) ∧
    (∀ i, (setPortState s p st).vp i = s.vp i) := by
  unfold setPortState; try dsimp only
  repeat' first | (simp; done) | (simp [State.eng, State.cluster, State.region, State.die, State.chan, State.seqr, State.ep, State.part, State.dmaCh, State.cmpEng, State.vp]; done) | split

@[simp] theorem readHead_rest (s : State) (p : Nat) (dyn : Bool) :
    (readHead s p dyn).pending = s.pending ∧
    (readHead s p dyn).time = s.time ∧
    (readHead s p dyn).engines = s.engines ∧
    (readHead s p dyn).clusters = s.clusters ∧
    (readHead s p dyn).regions = s.regions ∧
    (readHead s p dyn).dies = s.dies ∧
    (readHead s p dyn).chans = s.chans ∧
    (readHead s p dyn).mem = s.mem ∧
    (readHead s p dyn).pcs = s.pcs ∧
    (readHead s p dyn).fns = s.fns ∧
    (readHead s p dyn).eps = s.eps ∧
    (readHead s p dyn).mbox = s.mbox ∧
    (readHead s p dyn).parts = s.parts ∧
    (readHead s p dyn).dma = s.dma ∧
    (readHead s p dyn).cmp = s.cmp ∧
    (readHead s p dyn).vach = s.vach ∧
    (readHead s p dyn).pwr = s.pwr ∧
    (readHead s p dyn).clk = s.clk ∧
    (readHead s p dyn).mon = s.mon ∧
    (readHead s p dyn).sec = s.sec ∧
    (readHead s p dyn).boot = s.boot ∧
    (readHead s p dyn).faults = s.faults ∧
    (readHead s p dyn).hub = s.hub ∧
    (readHead s p dyn).freeCtr = s.freeCtr ∧
    (∀ i, (readHead s p dyn).eng i = s.eng i) ∧
    (∀ i, (readHead s p dyn).cluster i = s.cluster i) ∧
    (∀ i, (readHead s p dyn).region i = s.region i) ∧
    (∀ i, (readHead s p dyn).die i = s.die i) ∧
    (∀ i, (readHead s p dyn).chan i = s.chan i) ∧
    (∀ i, (readHead s p dyn).seqr i = s.seqr i) ∧
    (∀ i, (readHead s p dyn).fn i = s.fn i) ∧
    (∀ i, (readHead s p dyn).ep i = s.ep i) ∧
    (∀ i, (readHead s p dyn).part i = s.part i) ∧
    (∀ i, (readHead s p dyn).dmaCh i = s.dmaCh i) ∧
    (∀ i, (readHead s p dyn).cmpEng i = s.cmpEng i) ∧
    (∀ i, (readHead s p dyn).vp i = s.vp i) := by
  unfold readHead; dsimp only
  and_intros
  all_goals first
    | exact (foldl_same _ _ _ (by intros; rfl) _).trans rfl
    | exact fun i => (foldl_same (State.eng · i) _ _ (by intros; rfl) _).trans rfl
    | exact fun i => (foldl_same (State.cluster · i) _ _ (by intros; rfl) _).trans rfl
    | exact fun i => (foldl_same (State.region · i) _ _ (by intros; rfl) _).trans rfl
    | exact fun i => (foldl_same (State.die · i) _ _ (by intros; rfl) _).trans rfl
    | exact fun i => (foldl_same (State.chan · i) _ _ (by intros; rfl) _).trans rfl
    | exact fun i => (foldl_same (State.seqr · i) _ _ (by intros; rfl) _).trans rfl
    | exact fun i => (foldl_same (State.fn · i) _ _ (by intros; rfl) _).trans rfl
    | exact fun i => (foldl_same (State.ep · i) _ _ (by intros; rfl) _).trans rfl
    | exact fun i => (foldl_same (State.part · i) _ _ (by intros; rfl) _).trans rfl
    | exact fun i => (foldl_same (State.dmaCh · i) _ _ (by intros; rfl) _).trans rfl
    | exact fun i => (foldl_same (State.cmpEng · i) _ _ (by intros; rfl) _).trans rfl
    | exact fun i => (foldl_same (State.vp · i) _ _ (by intros; rfl) _).trans rfl

@[simp] theorem startDescRead_rest (s : State) (p : Nat) :
    (startDescRead s p).pending = s.pending ∧
    (startDescRead s p).time = s.time ∧
    (startDescRead s p).engines = s.engines ∧
    (startDescRead s p).clusters = s.clusters ∧
    (startDescRead s p).regions = s.regions ∧
    (startDescRead s p).dies = s.dies ∧
    (startDescRead s p).chans = s.chans ∧
    (startDescRead s p).mem = s.mem ∧
    (startDescRead s p).pcs = s.pcs ∧
    (startDescRead s p).fns = s.fns ∧
    (startDescRead s p).eps = s.eps ∧
    (startDescRead s p).mbox = s.mbox ∧
    (startDescRead s p).parts = s.parts ∧
    (startDescRead s p).dma = s.dma ∧
    (startDescRead s p).cmp = s.cmp ∧
    (startDescRead s p).vach = s.vach ∧
    (startDescRead s p).pwr = s.pwr ∧
    (startDescRead s p).clk = s.clk ∧
    (startDescRead s p).mon = s.mon ∧
    (startDescRead s p).sec = s.sec ∧
    (startDescRead s p).boot = s.boot ∧
    (startDescRead s p).faults = s.faults ∧
    (startDescRead s p).hub = s.hub ∧
    (startDescRead s p).freeCtr = s.freeCtr ∧
    (∀ i, (startDescRead s p).eng i = s.eng i) ∧
    (∀ i, (startDescRead s p).cluster i = s.cluster i) ∧
    (∀ i, (startDescRead s p).region i = s.region i) ∧
    (∀ i, (startDescRead s p).die i = s.die i) ∧
    (∀ i, (startDescRead s p).chan i = s.chan i) ∧
    (∀ i, (startDescRead s p).seqr i = s.seqr i) ∧
    (∀ i, (startDescRead s p).fn i = s.fn i) ∧
    (∀ i, (startDescRead s p).ep i = s.ep i) ∧
    (∀ i, (startDescRead s p).part i = s.part i) ∧
    (∀ i, (startDescRead s p).dmaCh i = s.dmaCh i) ∧
    (∀ i, (startDescRead s p).cmpEng i = s.cmpEng i) ∧
    (∀ i, (startDescRead s p).vp i = s.vp i) := by
  unfold startDescRead; try dsimp only
  repeat' first | (simp; done) | (simp [State.eng, State.cluster, State.region, State.die, State.chan, State.seqr, State.fn, State.ep, State.part, State.dmaCh, State.cmpEng, State.vp]; done) | split

@[simp] theorem leaveTraining_rest (s : State) (p : Nat) :
    (leaveTraining s p).pending = s.pending ∧
    (leaveTraining s p).time = s.time ∧
    (leaveTraining s p).ports = s.ports ∧
    (leaveTraining s p).engines = s.engines ∧
    (leaveTraining s p).clusters = s.clusters ∧
    (leaveTraining s p).regions = s.regions ∧
    (leaveTraining s p).dies = s.dies ∧
    (leaveTraining s p).chans = s.chans ∧
    (leaveTraining s p).mem = s.mem ∧
    (leaveTraining s p).pcs = s.pcs ∧
    (leaveTraining s p).eps = s.eps ∧
    (leaveTraining s p).parts = s.parts ∧
    (leaveTraining s p).dma = s.dma ∧
    (leaveTraining s p).cmp = s.cmp ∧
    (leaveTraining s p).vach = s.vach ∧
    (leaveTraining s p).clk = s.clk ∧
    (leaveTraining s p).mon = s.mon ∧
    (leaveTraining s p).sec = s.sec ∧
    (leaveTraining s p).boot = s.boot ∧
    (leaveTraining s p).faults = s.faults ∧
    (leaveTraining s p).freeCtr = s.freeCtr ∧
    (∀ i, (leaveTraining s p).port i = s.port i) ∧
    (∀ i, (leaveTraining s p).eng i = s.eng i) ∧
    (∀ i, (leaveTraining s p).cluster i = s.cluster i) ∧
    (∀ i, (leaveTraining s p).region i = s.region i) ∧
    (∀ i, (leaveTraining s p).die i = s.die i) ∧
    (∀ i, (leaveTraining s p).chan i = s.chan i) ∧
    (∀ i, (leaveTraining s p).seqr i = s.seqr i) ∧
    (∀ i, (leaveTraining s p).ep i = s.ep i) ∧
    (∀ i, (leaveTraining s p).part i = s.part i) ∧
    (∀ i, (leaveTraining s p).dmaCh i = s.dmaCh i) ∧
    (∀ i, (leaveTraining s p).cmpEng i = s.cmpEng i) ∧
    (∀ i, (leaveTraining s p).vp i = s.vp i) := by
  unfold leaveTraining; try dsimp only
  repeat' first | (simp; done) | (simp [State.port, State.eng, State.cluster, State.region, State.die, State.chan, State.seqr, State.ep, State.part, State.dmaCh, State.cmpEng, State.vp]; done) | split

@[simp] theorem evRunStop_rest (s : State) (p cause : Nat) (seq : BitVec 36) (slot : Slot) :
    (evRunStop s p cause seq slot).pending = s.pending ∧
    (evRunStop s p cause seq slot).time = s.time ∧
    (evRunStop s p cause seq slot).ports = s.ports ∧
    (evRunStop s p cause seq slot).engines = s.engines ∧
    (evRunStop s p cause seq slot).clusters = s.clusters ∧
    (evRunStop s p cause seq slot).regions = s.regions ∧
    (evRunStop s p cause seq slot).dies = s.dies ∧
    (evRunStop s p cause seq slot).chans = s.chans ∧
    (evRunStop s p cause seq slot).mem = s.mem ∧
    (evRunStop s p cause seq slot).pcs = s.pcs ∧
    (evRunStop s p cause seq slot).eps = s.eps ∧
    (evRunStop s p cause seq slot).mbox = s.mbox ∧
    (evRunStop s p cause seq slot).parts = s.parts ∧
    (evRunStop s p cause seq slot).dma = s.dma ∧
    (evRunStop s p cause seq slot).cmp = s.cmp ∧
    (evRunStop s p cause seq slot).vach = s.vach ∧
    (evRunStop s p cause seq slot).pwr = s.pwr ∧
    (evRunStop s p cause seq slot).clk = s.clk ∧
    (evRunStop s p cause seq slot).mon = s.mon ∧
    (evRunStop s p cause seq slot).sec = s.sec ∧
    (evRunStop s p cause seq slot).boot = s.boot ∧
    (evRunStop s p cause seq slot).faults = s.faults ∧
    (evRunStop s p cause seq slot).hub = s.hub ∧
    (evRunStop s p cause seq slot).freeCtr = s.freeCtr ∧
    (∀ i, (evRunStop s p cause seq slot).port i = s.port i) ∧
    (∀ i, (evRunStop s p cause seq slot).eng i = s.eng i) ∧
    (∀ i, (evRunStop s p cause seq slot).cluster i = s.cluster i) ∧
    (∀ i, (evRunStop s p cause seq slot).region i = s.region i) ∧
    (∀ i, (evRunStop s p cause seq slot).die i = s.die i) ∧
    (∀ i, (evRunStop s p cause seq slot).chan i = s.chan i) ∧
    (∀ i, (evRunStop s p cause seq slot).seqr i = s.seqr i) ∧
    (∀ i, (evRunStop s p cause seq slot).ep i = s.ep i) ∧
    (∀ i, (evRunStop s p cause seq slot).part i = s.part i) ∧
    (∀ i, (evRunStop s p cause seq slot).dmaCh i = s.dmaCh i) ∧
    (∀ i, (evRunStop s p cause seq slot).cmpEng i = s.cmpEng i) ∧
    (∀ i, (evRunStop s p cause seq slot).vp i = s.vp i) := by
  unfold evRunStop; try dsimp only
  repeat' first | (simp; done) | (simp [State.port, State.eng, State.cluster, State.region, State.die, State.chan, State.seqr, State.ep, State.part, State.dmaCh, State.cmpEng, State.vp]; done) | split

end Sys2Proof.Machine
end

