-- ==== Sys2Proof/Laws/Frames.lean ====
section
/-! SUPPORT. What the shared operations leave alone: the queue of waiting commands and capture memory, or memory's
canonical form where an operation writes it. -/
set_option linter.unusedTactic false
set_option linter.unreachableTactic false

namespace Sys2Proof.Machine

/-- An operation leaves the command queue and capture memory alone. -/
def KeepsBoth {α : Type} (f : State → α → State) : Prop :=
  ∀ s x, (f s x).pending = s.pending ∧ (f s x).mem = s.mem

@[simp] theorem keepsBoth_iff {α : Type} (f : State → α → State) :
    KeepsBoth f ↔ ∀ s x, (f s x).pending = s.pending ∧ (f s x).mem = s.mem := Iff.rfl

@[simp] theorem foldl_frame {α : Type} (xs : List α) (f : State → α → State) (s : State) (h : KeepsBoth f) :
    (xs.foldl f s).pending = s.pending ∧ (xs.foldl f s).mem = s.mem := by
  induction xs generalizing s with
  | nil => simp
  | cons x xs ih => rw [List.foldl_cons, (ih _).1, (ih _).2]; exact h s x

@[simp] theorem forEach_frame (ks : List Nat) (f : State → Nat → State) (s : State) (h : KeepsBoth f) :
    (forEach ks f s).pending = s.pending ∧ (forEach ks f s).mem = s.mem := foldl_frame ks f s h

@[simp] theorem State.fresh_frame (s : State) : s.fresh.2.pending = s.pending ∧ s.fresh.2.mem = s.mem :=
  ⟨rfl, rfl⟩

/-- An operation leaves the command queue alone and keeps capture memory canonical. -/
def KeepsForm {α : Type} (f : State → α → State) : Prop :=
  ∀ s x, (f s x).pending = s.pending ∧ (Memory.wf s.mem = true → Memory.wf (f s x).mem = true)

@[simp] theorem keepsForm_iff {α : Type} (f : State → α → State) : KeepsForm f ↔
    ∀ s x, (f s x).pending = s.pending ∧ (Memory.wf s.mem = true → Memory.wf (f s x).mem = true) := Iff.rfl

@[simp] theorem foldl_keeps {α : Type} (xs : List α) (f : State → α → State) (s : State) (h : KeepsForm f) :
    (xs.foldl f s).pending = s.pending ∧
      (Memory.wf s.mem = true → Memory.wf (xs.foldl f s).mem = true) := by
  induction xs generalizing s with
  | nil => simp
  | cons x xs ih =>
    rw [List.foldl_cons, (ih _).1]
    exact ⟨(h s x).1, fun w => (ih _).2 ((h s x).2 w)⟩

@[simp] theorem forEach_keeps (ks : List Nat) (f : State → Nat → State) (s : State) (h : KeepsForm f) :
    (forEach ks f s).pending = s.pending ∧
      (Memory.wf s.mem = true → Memory.wf (forEach ks f s).mem = true) := foldl_keeps ks f s h

@[simp] theorem axaResult_frame (s : State) (w : SharedWrite) (v : BitVec 18) :
    (axaResult s w v).pending = s.pending ∧ (axaResult s w v).mem = s.mem := by
  unfold axaResult; try dsimp only
  repeat' first | simp | split

@[simp] theorem sharedWrite_frame (s : State) (e word : Nat) (val : BitVec 18) (axa : Option Nat) :
    (sharedWrite s e word val axa).pending = s.pending ∧ (sharedWrite s e word val axa).mem = s.mem := by
  have key : ∀ (ws : List SharedWrite) (a : State × BitVec 18),
      (ws.foldl (fun a w => (axaResult a.1 w a.2, w.result a.2)) a).1.pending = a.1.pending ∧
      (ws.foldl (fun a w => (axaResult a.1 w a.2, w.result a.2)) a).1.mem = a.1.mem := by
    intro ws
    induction ws with
    | nil => simp
    | cons w ws ih => intro a; rw [List.foldl_cons, (ih _).1, (ih _).2]; simp
  unfold sharedWrite
  dsimp only
  split <;> simp [key]

@[simp] theorem engWrite_frame (s : State) (e a : Nat) (v : BitVec 18) :
    (engWrite s e a v).pending = s.pending ∧ (engWrite s e a v).mem = s.mem := by
  unfold engWrite; try dsimp only
  repeat' first | simp | split

@[simp] theorem takePacket_frame (c : Cmd) (p : Packet) (s : State) :
    (takePacket c p s).pending = s.pending ∧ (takePacket c p s).mem = s.mem := by
  unfold takePacket; try dsimp only
  repeat' first | simp | split

@[simp] theorem aerNote_frame (s : State) (f : Nat) :
    (aerNote s f).pending = s.pending ∧ (aerNote s f).mem = s.mem := by
  unfold aerNote; try dsimp only
  repeat' first | simp | split

@[simp] theorem silenceDma_frame (s : State) (n : Nat) :
    (silenceDma s n).pending = s.pending ∧ (silenceDma s n).mem = s.mem := by
  unfold silenceDma; try dsimp only
  repeat' first | simp | split

@[simp] theorem rand_frame (s : State) (w : Nat) :
    (rand s w).2.pending = s.pending ∧ (rand s w).2.mem = s.mem := by
  unfold rand; try dsimp only
  repeat' first | simp | split

@[simp] theorem noteUnsealed_frame (s : State) (k role cause : Nat) (x : Session) :
    (noteUnsealed s k role cause x).pending = s.pending ∧ (noteUnsealed s k role cause x).mem = s.mem := by
  unfold noteUnsealed; try dsimp only
  repeat' first | simp | split

@[simp] theorem endUserSession_frame (s : State) (k cause : Nat) :
    (endUserSession s k cause).pending = s.pending ∧ (endUserSession s k cause).mem = s.mem := by
  unfold endUserSession; try dsimp only
  repeat' first | simp | split

@[simp] theorem endCoSession_frame (s : State) (cause : Nat) :
    (endCoSession s cause).pending = s.pending ∧ (endCoSession s cause).mem = s.mem := by
  unfold endCoSession; try dsimp only
  repeat' first | simp | split

@[simp] theorem endSessions_frame (s : State) (cause : Nat) :
    (endSessions s cause).pending = s.pending ∧ (endSessions s cause).mem = s.mem := by
  unfold endSessions; try dsimp only
  repeat' first | simp | split

@[simp] theorem zeroise_frame (s : State) : (zeroise s).pending = s.pending ∧ (zeroise s).mem = s.mem := by
  unfold zeroise; try dsimp only
  repeat' first | simp | split

@[simp] theorem enterError_frame (s : State) (test : BitVec 32) (entropy : Bool) :
    (enterError s test entropy).pending = s.pending ∧ (enterError s test entropy).mem = s.mem := by
  unfold enterError; try dsimp only
  repeat' first | simp | split

@[simp] theorem openSession_frame (s : State) (p : Packet) :
    (openSession s p).2.2.pending = s.pending ∧ (openSession s p).2.2.mem = s.mem := by
  unfold openSession; try dsimp only
  repeat' first | simp | split

@[simp] theorem modSession_frame (s : State) (k : Nat) (f : Session → Session) :
    (modSession s k f).pending = s.pending ∧ (modSession s k f).mem = s.mem := by
  unfold modSession; try dsimp only
  repeat' first | simp | split

@[simp] theorem joinSession_frame (s : State) (k : Nat) (port : Bool) (n : Nat) :
    (joinSession s k port n).pending = s.pending ∧ (joinSession s k port n).mem = s.mem := by
  unfold joinSession; try dsimp only
  repeat' first | simp | split

@[simp] theorem toLifecycle_frame (s : State) (code : Nat) :
    (toLifecycle s code).pending = s.pending ∧ (toLifecycle s code).mem = s.mem := by
  unfold toLifecycle; try dsimp only
  repeat' first | simp | split

@[simp] theorem installImage_frame (s : State) (img : List Byte) :
    (installImage s img).pending = s.pending ∧ (installImage s img).mem = s.mem := by
  unfold installImage; try dsimp only
  repeat' first | simp | split

@[simp] theorem startSelftest_frame (p : Packet) (s : State) :
    (startSelftest p s).1.pending = s.pending ∧ (startSelftest p s).1.mem = s.mem := by
  unfold startSelftest; try dsimp only
  repeat' first | simp | split

@[simp] theorem lateReturn_frame (s : State) (p : Packet) (bs : List Byte) :
    (lateReturn s p bs).1.pending = s.pending ∧ (lateReturn s p bs).1.mem = s.mem := by
  unfold lateReturn; try dsimp only
  repeat' first | simp | split

@[simp] theorem finishIsland_frame (s : State) (op : IslandOp) (p : Packet) :
    (finishIsland s op p).pending = s.pending ∧ (finishIsland s op p).mem = s.mem := by
  unfold finishIsland; try dsimp only
  repeat' first | simp | split

@[simp] theorem clusterReset_frame (s : State) (k : Nat) :
    (clusterReset s k).pending = s.pending ∧ (clusterReset s k).mem = s.mem := by
  unfold clusterReset; try dsimp only
  repeat' first | simp | split

@[simp] theorem dmaHandover_frame (s : State) (n : Nat) :
    (dmaHandover s n).pending = s.pending ∧ (dmaHandover s n).mem = s.mem := by
  unfold dmaHandover; try dsimp only
  repeat' first | simp | split

@[simp] theorem setOwner_frame (s : State) (c i : Nat) (o : Option (BitVec 4)) :
    (setOwner s c i o).pending = s.pending ∧ (setOwner s c i o).mem = s.mem := by
  unfold setOwner; try dsimp only
  repeat' first | simp | split

@[simp] theorem giveBlock_frame (c : Nat) (o : Option (BitVec 4)) (s : State) (i : Nat) :
    (giveBlock c o s i).pending = s.pending ∧ (giveBlock c o s i).mem = s.mem := by
  unfold giveBlock; try dsimp only
  repeat' first | simp | split

@[simp] theorem auditSpan_frame (s : State) (p : Packet) :
    (auditSpan s p).pending = s.pending ∧ (auditSpan s p).mem = s.mem := by
  unfold auditSpan; try dsimp only
  repeat' first | simp | split

@[simp] theorem dropPrefetch_frame (s : State) :
    (dropPrefetch s).pending = s.pending ∧ (dropPrefetch s).mem = s.mem := by
  unfold dropPrefetch; try dsimp only
  repeat' first | simp | split

@[simp] theorem endPartWipe_keeps (s : State) (k cause : Nat) : (endPartWipe s k cause).pending = s.pending ∧
    (Memory.wf s.mem = true → Memory.wf (endPartWipe s k cause).mem = true) := by
  unfold endPartWipe; try dsimp only
  constructor
  · repeat' first | simp | split
  · intro w
    repeat' first | (simp [w]; done) | split

@[simp] theorem settlePartWipe_frame (s : State) (k : Nat) :
    (settlePartWipe s k).pending = s.pending ∧ (settlePartWipe s k).mem = s.mem := by
  unfold settlePartWipe; try dsimp only
  repeat' first | simp | split

@[simp] theorem startWipe_frame (s : State) (kind : WipeKind) (cs : List Nat) :
    (startWipe s kind cs).pending = s.pending ∧ (startWipe s kind cs).mem = s.mem := by
  unfold startWipe; try dsimp only
  repeat' first | simp | split

@[simp] theorem wipeJob_frame (s : State) (m : Nat) :
    (wipeJob s m).pending = s.pending ∧ (wipeJob s m).mem = s.mem := by
  unfold wipeJob; try dsimp only
  repeat' first | simp | split

@[simp] theorem startPartWipe_frame (s : State) (k : Nat) :
    (startPartWipe s k).pending = s.pending ∧ (startPartWipe s k).mem = s.mem := by
  unfold startPartWipe; try dsimp only
  repeat' first | simp | split

@[simp] theorem warmStart_frame (s : State) (c : Nat) :
    (warmStart s c).pending = s.pending ∧ (warmStart s c).mem = s.mem := by
  unfold warmStart; try dsimp only
  repeat' first | simp | split

@[simp] theorem powerUp_frame (s : State) (h : Holder) :
    (powerUp s h).pending = s.pending ∧ (powerUp s h).mem = s.mem := by
  unfold powerUp; try dsimp only
  repeat' first | simp | split

@[simp] theorem ringItem_frame (s : State) (p ring base size wr : Nat) (units : List (List Byte)) (slot :
      Slot) :
    (ringItem s p ring base size wr units slot).1.pending = s.pending ∧
      (ringItem s p ring base size wr units slot).1.mem = s.mem := by
  unfold ringItem; try dsimp only
  repeat' first | simp | split

@[simp] theorem onInputs_frame (s : State) (p src : Nat) (f : Engine → Nat → Stream → Stream) :
    (onInputs s p src f).pending = s.pending ∧ (onInputs s p src f).mem = s.mem := by
  unfold onInputs; try dsimp only
  repeat' first | simp | split

@[simp] theorem offer_frame (s : State) (p src : Nat) (words : List SWord) (cursor : Slot) :
    (offer s p src words cursor).pending = s.pending ∧ (offer s p src words cursor).mem = s.mem := by
  unfold offer; try dsimp only
  repeat' first | simp | split

@[simp] theorem offerGap_frame (s : State) (p src : Nat) :
    (offerGap s p src).pending = s.pending ∧ (offerGap s p src).mem = s.mem := by
  unfold offerGap; try dsimp only
  repeat' first | simp | split

@[simp] theorem statItem_frame (s : State) (p : Nat) (item : List (List Byte)) (slot : Slot) :
    (statItem s p item slot).pending = s.pending ∧ (statItem s p item slot).mem = s.mem := by
  unfold statItem; try dsimp only
  repeat' first | simp | split

@[simp] theorem endInterval_frame (s : State) (p : Nat) (partial' : Bool) (next : Nat) :
    (endInterval s p partial' next).pending = s.pending ∧ (endInterval s p partial' next).mem = s.mem := by
  unfold endInterval; try dsimp only
  repeat' first | simp | split

@[simp] theorem skipFrames_frame (s : State) (p n : Nat) :
    (skipFrames s p n).pending = s.pending ∧ (skipFrames s p n).mem = s.mem := by
  unfold skipFrames; try dsimp only
  repeat' first | simp | split

@[simp] theorem passFrames_frame (s : State) (p from' upTo : Nat) :
    (passFrames s p from' upTo).pending = s.pending ∧ (passFrames s p from' upTo).mem = s.mem := by
  unfold passFrames; try dsimp only
  repeat' first | simp | split

@[simp] theorem statFrame_frame (s : State) (p : Nat) (fr : Frame) (from' : Nat) (evaluated : Bool) :
    (statFrame s p fr from' evaluated).pending = s.pending ∧
      (statFrame s p fr from' evaluated).mem = s.mem := by
  unfold statFrame; try dsimp only
  repeat' first | simp | split

@[simp] theorem settlingRec_frame (s : State) (p : Nat) (slot : Slot) (nTag cause : Nat) :
    (settlingRec s p slot nTag cause).pending = s.pending ∧ (settlingRec s p slot nTag cause).mem = s.mem := by
  unfold settlingRec; try dsimp only
  repeat' first | simp | split

@[simp] theorem writeItem_frame (s : State) (p : Nat) (w : RingWait) :
    (writeItem s p w).pending = s.pending ∧ (writeItem s p w).mem = s.mem := by
  unfold writeItem; try dsimp only
  repeat' first | simp | split

@[simp] theorem flushRing_frame (s : State) (p : Nat) (all : Bool) :
    (flushRing s p all).pending = s.pending ∧ (flushRing s p all).mem = s.mem := by
  unfold flushRing; try dsimp only
  repeat' first | simp | split

@[simp] theorem addWait_frame (s : State) (p : Nat) (w : RingWait) :
    (addWait s p w).pending = s.pending ∧ (addWait s p w).mem = s.mem := by
  unfold addWait; try dsimp only
  repeat' first | simp | split

@[simp] theorem closeGap_frame (s : State) (p i : Nat) (slot : Slot) :
    (closeGap s p i slot).pending = s.pending ∧ (closeGap s p i slot).mem = s.mem := by
  unfold closeGap; try dsimp only
  repeat' first | simp | split

@[simp] theorem dropSettling_frame (s : State) (p : Nat) (slot : Slot) :
    (dropSettling s p slot).pending = s.pending ∧ (dropSettling s p slot).mem = s.mem := by
  unfold dropSettling; try dsimp only
  repeat' first | simp | split

@[simp] theorem endFrames_frame (s : State) (p : Nat) :
    (endFrames s p).pending = s.pending ∧ (endFrames s p).mem = s.mem := by
  unfold endFrames; try dsimp only
  repeat' first | simp | split

@[simp] theorem chainRetune_frame (s : State) (p : Nat) (t : ChainTune) :
    (chainRetune s p t).pending = s.pending ∧ (chainRetune s p t).mem = s.mem := by
  unfold chainRetune; try dsimp only
  repeat' first | simp | split

@[simp] theorem applyTunes_frame (s : State) (p : Nat) (slot : Slot) :
    (applyTunes s p slot).pending = s.pending ∧ (applyTunes s p slot).mem = s.mem := by
  unfold applyTunes; try dsimp only
  repeat' first | simp | split

@[simp] theorem chainReset_frame (s0 : State) (p cause : Nat) (slot : Slot) :
    (chainReset s0 p cause slot).pending = s0.pending ∧ (chainReset s0 p cause slot).mem = s0.mem := by
  unfold chainReset; try dsimp only
  repeat' first | simp | split

@[simp] theorem chainResync_frame (s : State) (p : Nat) (slot : Slot) :
    (chainResync s p slot).pending = s.pending ∧ (chainResync s p slot).mem = s.mem := by
  unfold chainResync; try dsimp only
  repeat' first | simp | split

@[simp] theorem stopChain_frame (s0 : State) (p cause : Nat) (slot : Slot) :
    (stopChain s0 p cause slot).pending = s0.pending ∧ (stopChain s0 p cause slot).mem = s0.mem := by
  unfold stopChain; try dsimp only
  repeat' first | simp | split

@[simp] theorem portDown_frame (s : State) (p : Nat) :
    (portDown s p).pending = s.pending ∧ (portDown s p).mem = s.mem := by
  unfold portDown; try dsimp only
  repeat' first | simp | split

@[simp] theorem degrade_frame (s : State) (p : Nat) (effAt : BitVec 18) :
    (degrade s p effAt).pending = s.pending ∧ (degrade s p effAt).mem = s.mem := by
  unfold degrade; try dsimp only
  repeat' first | simp | split

@[simp] theorem retrainLane_frame (s : State) (p : Nat) :
    (retrainLane s p).pending = s.pending ∧ (retrainLane s p).mem = s.mem := by
  unfold retrainLane; try dsimp only
  repeat' first | simp | split

@[simp] theorem loseInPlace_frame (s : State) (p q : Nat) :
    (loseInPlace s p q).pending = s.pending ∧ (loseInPlace s p q).mem = s.mem := by
  unfold loseInPlace; try dsimp only
  repeat' first | simp | split

@[simp] theorem applyLosses_frame (s : State) (p : Nat) (qs : List Nat) (seq : BitVec 18) :
    (applyLosses s p qs seq).pending = s.pending ∧ (applyLosses s p qs seq).mem = s.mem := by
  unfold applyLosses; try dsimp only
  repeat' first | simp | split

@[simp] theorem quarantine_frame (s : State) (p : Nat) (fail : Nat) :
    (quarantine s p fail).pending = s.pending ∧ (quarantine s p fail).mem = s.mem := by
  unfold quarantine; try dsimp only
  repeat' first | simp | split

@[simp] theorem messageFail_frame (s : State) (p : Nat) :
    (messageFail s p).pending = s.pending ∧ (messageFail s p).mem = s.mem := by
  unfold messageFail; try dsimp only
  repeat' first | simp | split

@[simp] theorem rejoin_frame (s : State) (p : Nat) (mask : BitVec 9) :
    (rejoin s p mask).pending = s.pending ∧ (rejoin s p mask).mem = s.mem := by
  unfold rejoin; try dsimp only
  repeat' first | simp | split

@[simp] theorem applyHappenings_frame (s : State) (p : Nat) (hs : List Happening) (seq : BitVec 18) :
    (applyHappenings s p hs seq).pending = s.pending ∧ (applyHappenings s p hs seq).mem = s.mem := by
  unfold applyHappenings; try dsimp only
  repeat' first
    | simp (disch := (simp only [keepsBoth_iff]; intro s x; repeat' first | simp | split))
    | split

@[simp] theorem happen_frame (s : State) (p : Nat) (h : Happening) :
    (happen s p h).pending = s.pending ∧ (happen s p h).mem = s.mem := by
  unfold happen; try dsimp only
  repeat' first | simp | split

@[simp] theorem startTraining_frame (s : State) (p : Nat) :
    (startTraining s p).pending = s.pending ∧ (startTraining s p).mem = s.mem := by
  unfold startTraining; try dsimp only
  repeat' first | simp | split

@[simp] theorem wantTraining_frame (s : State) (p : Nat) :
    (wantTraining s p).pending = s.pending ∧ (wantTraining s p).mem = s.mem := by
  unfold wantTraining; try dsimp only
  repeat' first | simp | split

@[simp] theorem takeAck_frame (s : State) (p : Nat) (ack : BitVec 8) :
    (takeAck s p ack).pending = s.pending ∧ (takeAck s p ack).mem = s.mem := by
  unfold takeAck; try dsimp only
  repeat' first | simp | split

@[simp] theorem headRecords_frame (s : State) (p : Nat) (slot : Slot) (seq : BitVec 18) (half : Bool) (flow :
      Option (BitVec 18 × BitVec 18)) :
    (headRecords s p slot seq half flow).pending = s.pending ∧
      (headRecords s p slot seq half flow).mem = s.mem := by
  unfold headRecords; try dsimp only
  repeat' first | simp | split

@[simp] theorem loseTraining_frame (s : State) (p : Nat) (qs : List Nat) :
    (loseTraining s p qs).pending = s.pending ∧ (loseTraining s p qs).mem = s.mem := by
  unfold loseTraining; try dsimp only
  repeat' first | simp | split

@[simp] theorem endTraining_frame (s : State) (p : Nat) :
    (endTraining s p).pending = s.pending ∧ (endTraining s p).mem = s.mem := by
  unfold endTraining; try dsimp only
  repeat' first | simp | split

@[simp] theorem nextPhase_frame (s : State) (p : Nat) (m : TrainIn) :
    (nextPhase s p m).pending = s.pending ∧ (nextPhase s p m).mem = s.mem := by
  unfold nextPhase; try dsimp only
  repeat' first | simp | split

@[simp] theorem failInPlace_frame (s : State) (p q : Nat) :
    (failInPlace s p q).pending = s.pending ∧ (failInPlace s p q).mem = s.mem := by
  unfold failInPlace; try dsimp only
  repeat' first | simp | split

@[simp] theorem nextInPlace_frame (s : State) (p q phase : Nat) (m : TrainIn) :
    (nextInPlace s p q phase m).pending = s.pending ∧ (nextInPlace s p q phase m).mem = s.mem := by
  unfold nextInPlace; try dsimp only
  repeat' first | simp | split

@[simp] theorem chooseEff_frame (s : State) (p : Nat) (m : Msg) :
    (chooseEff s p m).2.pending = s.pending ∧ (chooseEff s p m).2.mem = s.mem := by
  unfold chooseEff; try dsimp only
  repeat' first | simp | split

@[simp] theorem eqTick_frame (s : State) (p : Nat) :
    (eqTick s p).pending = s.pending ∧ (eqTick s p).mem = s.mem := by
  unfold eqTick; try dsimp only
  repeat' first | simp | split

@[simp] theorem applyEffect_frame (s : State) (p : Nat) (k : EffectKind) :
    (applyEffect s p k).pending = s.pending ∧ (applyEffect s p k).mem = s.mem := by
  unfold applyEffect; try dsimp only
  repeat' first | simp | split

@[simp] theorem scanPort_frame (s : State) (p : Nat) (fault button : Bool) :
    (scanPort s p fault button).pending = s.pending ∧ (scanPort s p fault button).mem = s.mem := by
  unfold scanPort; try dsimp only
  repeat' first | simp | split

@[simp] theorem answerHead_frame (s : State) (p : Nat) (addr : BitVec 7) (joint ack : Bool) (more : Nat) :
    (answerHead s p addr joint ack more).pending = s.pending ∧
      (answerHead s p addr joint ack more).mem = s.mem := by
  unfold answerHead; try dsimp only
  repeat' first | simp | split

@[simp] theorem closePort_frame (s : State) (p : Nat) :
    (closePort s p).pending = s.pending ∧ (closePort s p).mem = s.mem := by
  unfold closePort; try dsimp only
  repeat' first | simp | split

@[simp] theorem chainLose_frame (s : State) (p : Nat) (slot : Slot) (cause : BitVec 4) :
    (chainLose s p slot cause).pending = s.pending ∧ (chainLose s p slot cause).mem = s.mem := by
  unfold chainLose; try dsimp only
  repeat' first | simp | split

@[simp] theorem settleChain_frame (s : State) (p : Nat) (slot : Slot) :
    (settleChain s p slot).pending = s.pending ∧ (settleChain s p slot).mem = s.mem := by
  unfold settleChain; try dsimp only
  repeat' first | simp | split

@[simp] theorem chainKeep_frame (s : State) (p : Nat) (b : Beat) :
    (chainKeep s p b).1.pending = s.pending ∧ (chainKeep s p b).1.mem = s.mem := by
  unfold chainKeep; try dsimp only
  repeat' first | simp | split

@[simp] theorem chainBeat_frame (s : State) (p : Nat) (b : Beat) (lost : Option (BitVec 4)) :
    (chainBeat s p b lost).1.pending = s.pending ∧ (chainBeat s p b lost).1.mem = s.mem := by
  unfold chainBeat; try dsimp only
  repeat' first | simp | split

@[simp] theorem deliver_frame (s : State) (code : Nat) (d : Nat → Nat) (slot : Slot) :
    (deliver s code d slot).pending = s.pending ∧ (deliver s code d slot).mem = s.mem := by
  unfold deliver; try dsimp only
  repeat' first | simp | split

@[simp] theorem toSeqrs_frame (s : State) (cls idx : Nat) (slot : Slot) :
    (toSeqrs s cls idx slot).pending = s.pending ∧ (toSeqrs s cls idx slot).mem = s.mem := by
  unfold toSeqrs; try dsimp only
  repeat' first | simp | split

@[simp] theorem drive_frame (s : State) (n : Nat) (lead : Slot) :
    (drive s n lead).pending = s.pending ∧ (drive s n lead).mem = s.mem := by
  unfold drive; try dsimp only
  repeat' first | simp | split

@[simp] theorem toTrigOut_frame (s : State) (cls idx k : Nat) (slot : Slot) :
    (toTrigOut s cls idx k slot).pending = s.pending ∧ (toTrigOut s cls idx k slot).mem = s.mem := by
  unfold toTrigOut; try dsimp only
  repeat' first
    | simp (disch := (simp only [keepsBoth_iff]; intro s x; repeat' first | simp | split))
    | split

@[simp] theorem lineFire_frame (s : State) (line : Nat) (slot : Slot) (from' : Option Nat) :
    (lineFire s line slot from').pending = s.pending ∧ (lineFire s line slot from').mem = s.mem := by
  unfold lineFire; try dsimp only
  repeat' first
    | simp (disch := (simp only [keepsBoth_iff]; intro s x; repeat' first | simp | split))
    | split

@[simp] theorem toLines_frame (s : State) (cls idx g : Nat) (slot : Slot) :
    (toLines s cls idx g slot).pending = s.pending ∧ (toLines s cls idx g slot).mem = s.mem := by
  unfold toLines; try dsimp only
  repeat' first | simp | split

@[simp] theorem portFires_frame (s : State) (p : Nat) (slot : Slot) :
    (portFires s p slot).pending = s.pending ∧ (portFires s p slot).mem = s.mem := by
  unfold portFires; try dsimp only
  repeat' first | simp | split

@[simp] theorem seqrFires_frame (s : State) (n : Nat) (slot : Slot) :
    (seqrFires s n slot).pending = s.pending ∧ (seqrFires s n slot).mem = s.mem := by
  unfold seqrFires; try dsimp only
  repeat' first | simp | split

@[simp] theorem edgeFires_frame (s : State) (input : Nat) (rising : Bool) (slot : Slot) :
    (edgeFires s input rising slot).pending = s.pending ∧ (edgeFires s input rising slot).mem = s.mem := by
  unfold edgeFires; try dsimp only
  repeat' first | simp | split

@[simp] theorem storeBeat_frame (s : State) (p : Nat) (b : BeatData) (recs : List Rec) :
    (storeBeat s p b recs).pending = s.pending ∧ (storeBeat s p b recs).mem = s.mem := by
  unfold storeBeat; try dsimp only
  repeat' first | simp | split

@[simp] theorem maskSample_frame (s : State) (p : Nat) (at' : Slot) (k : Nat) (w : SWord) :
    (maskSample s p at' k w).pending = s.pending ∧ (maskSample s p at' k w).mem = s.mem := by
  unfold maskSample; try dsimp only
  repeat' first | simp | split

@[simp] theorem countSamples_frame (s : State) (p n : Nat) :
    (countSamples s p n).pending = s.pending ∧ (countSamples s p n).mem = s.mem := by
  unfold countSamples; try dsimp only
  repeat' first | simp | split

@[simp] theorem maskBeat_frame (s : State) (p : Nat) (trig : Option Slot) (xs : List (Slot × Nat × SWord))
      (tested : Slot → Bool) :
    (maskBeat s p trig xs tested).pending = s.pending ∧ (maskBeat s p trig xs tested).mem = s.mem := by
  unfold maskBeat; try dsimp only
  repeat' first
    | simp (disch := (simp only [keepsBoth_iff]; intro s x; repeat' first | simp | split))
    | split

@[simp] theorem gapMarkers_frame (s : State) (p : Nat) (g : GapRun) :
    (gapMarkers s p g).pending = s.pending ∧ (gapMarkers s p g).mem = s.mem := by
  unfold gapMarkers
  exact foldl_frame _ _ _ fun s k =>
    ⟨(emitRec_rest s p _ _ _).1, (emitRec_rest s p _ _ _).2.2.2.2.2.2.2.1⟩

@[simp] theorem loseUpTo_frame (s : State) (p : Nat) (D : Slot) :
    (loseUpTo s p D).pending = s.pending ∧ (loseUpTo s p D).mem = s.mem := by
  unfold loseUpTo; try dsimp only
  repeat' first | simp | split

@[simp] theorem endGap_frame (s : State) (p : Nat) :
    (endGap s p).pending = s.pending ∧ (endGap s p).mem = s.mem := by
  unfold endGap; try dsimp only
  repeat' first | simp | split

@[simp] theorem closeRun_frame (s0 : State) (p : Nat) (last : Nat) (idle : Bool) :
    (closeRun s0 p last idle).pending = s0.pending ∧ (closeRun s0 p last idle).mem = s0.mem := by
  unfold closeRun; try dsimp only
  repeat' first | simp | split

@[simp] theorem goIdle_frame (s : State) (p : Nat) :
    (goIdle s p).pending = s.pending ∧ (goIdle s p).mem = s.mem := by
  unfold goIdle; try dsimp only
  repeat' first | simp | split

@[simp] theorem writeRecord_frame (s : State) (n : Nat) (r : BitVec 256) :
    (writeRecord s n r).pending = s.pending ∧ (writeRecord s n r).mem = s.mem := by
  unfold writeRecord; try dsimp only
  repeat' first | simp | split

@[simp] theorem putRecord_frame (s : State) (n : Nat) (r : BitVec 256) :
    (putRecord s n r).pending = s.pending ∧ (putRecord s n r).mem = s.mem := by
  unfold putRecord; try dsimp only
  repeat' first | simp | split

@[simp] theorem cmpEnd_frame (s : State) (m outcome status detail : Nat) (st : DmaSt) :
    (cmpEnd s m outcome status detail st).pending = s.pending ∧
      (cmpEnd s m outcome status detail st).mem = s.mem := by
  unfold cmpEnd; try dsimp only
  repeat' first | simp | split

@[simp] theorem dmaHalted_frame (s : State) (n : Nat) (reason : BitVec 8) :
    (dmaHalted s n reason).pending = s.pending ∧ (dmaHalted s n reason).mem = s.mem := by
  unfold dmaHalted; try dsimp only
  repeat' first | simp | split

@[simp] theorem dmaSettleHalt_frame (s : State) (n : Nat) :
    (dmaSettleHalt s n).pending = s.pending ∧ (dmaSettleHalt s n).mem = s.mem := by
  unfold dmaSettleHalt; try dsimp only
  repeat' first | simp | split

@[simp] theorem dmaHalt_frame (s : State) (n reason : Nat) :
    (dmaHalt s n reason).pending = s.pending ∧ (dmaHalt s n reason).mem = s.mem := by
  unfold dmaHalt; try dsimp only
  repeat' first | simp | split

@[simp] theorem recordFail_frame (s : State) (n : Nat) (write : Bool) :
    (recordFail s n write).pending = s.pending ∧ (recordFail s n write).mem = s.mem := by
  unfold recordFail; try dsimp only
  repeat' first | simp | split

@[simp] theorem dmaFail_frame (s : State) (n : Nat) (write : Bool) :
    (dmaFail s n write).pending = s.pending ∧ (dmaFail s n write).mem = s.mem := by
  unfold dmaFail; try dsimp only
  repeat' first | simp | split

@[simp] theorem dmaWell_frame (s : State) (n : Nat) :
    (dmaWell s n).pending = s.pending ∧ (dmaWell s n).mem = s.mem := by
  unfold dmaWell; try dsimp only
  repeat' first | simp | split

@[simp] theorem linkOffload_frame (s : State) (n : Nat) (d : Desc) :
    (linkOffload s n d).pending = s.pending ∧ (linkOffload s n d).mem = s.mem := by
  unfold linkOffload; try dsimp only
  repeat' first | simp | split

@[simp] theorem dmaBetween_frame (s : State) (n : Nat) :
    (dmaBetween s n).pending = s.pending ∧ (dmaBetween s n).mem = s.mem := by
  unfold dmaBetween; try dsimp only
  repeat' first | simp | split

@[simp] theorem dmaComplete_frame (s : State) (n : Nat) (d : Desc) :
    (dmaComplete s n d).pending = s.pending ∧ (dmaComplete s n d).mem = s.mem := by
  unfold dmaComplete; try dsimp only
  repeat' first | simp | split

@[simp] theorem dmaSettle_frame (s : State) (n : Nat) :
    (dmaSettle s n).pending = s.pending ∧ (dmaSettle s n).mem = s.mem := by
  unfold dmaSettle; try dsimp only
  repeat' first | simp | split

@[simp] theorem followEnd_frame (s : State) (p : Nat) :
    (followEnd s p).pending = s.pending ∧ (followEnd s p).mem = s.mem := by
  unfold followEnd; try dsimp only
  repeat' first
    | simp (disch := (simp only [keepsBoth_iff]; intro s x; repeat' first | simp | split))
    | split

@[simp] theorem followArm_frame (s : State) (p : Nat) :
    (followArm s p).pending = s.pending ∧ (followArm s p).mem = s.mem := by
  unfold followArm; try dsimp only
  repeat' first
    | simp (disch := (simp only [keepsBoth_iff]; intro s x; repeat' first | simp | split))
    | split

@[simp] theorem popBeat_frame (s : State) (p : Nat) :
    (popBeat s p).pending = s.pending ∧ (popBeat s p).mem = s.mem := by
  unfold popBeat; try dsimp only
  repeat' first | simp | split

@[simp] theorem loseBeat_frame (s : State) (p : Nat) (b : Beat) (dropped : Bool) :
    (loseBeat s p b dropped).pending = s.pending ∧ (loseBeat s p b dropped).mem = s.mem := by
  unfold loseBeat; try dsimp only
  repeat' first | simp | split

@[simp] theorem noteTrigger_frame (s : State) (p : Nat) (t : Slot) :
    (noteTrigger s p t).pending = s.pending ∧ (noteTrigger s p t).mem = s.mem := by
  unfold noteTrigger; try dsimp only
  repeat' first | simp | split

@[simp] theorem takeRecs_frame (s : State) (p : Nat) (stop : Slot) :
    (takeRecs s p stop).2.pending = s.pending ∧ (takeRecs s p stop).2.mem = s.mem := by
  unfold takeRecs; try dsimp only
  repeat' first | simp | split

@[simp] theorem offerSamples_frame (s : State) (p : Nat) (b : Beat) (stored : BitVec 64) :
    (offerSamples s p b stored).pending = s.pending ∧ (offerSamples s p b stored).mem = s.mem := by
  unfold offerSamples; try dsimp only
  repeat' first | simp | split

@[simp] theorem offerRecs_frame (s : State) (p : Nat) (stop : Slot) :
    (offerRecs s p stop).pending = s.pending ∧ (offerRecs s p stop).mem = s.mem := by
  unfold offerRecs; try dsimp only
  repeat' first | simp | split

@[simp] theorem storeStage_frame (s0 : State) (p : Nat) (b : Beat) (xs : List Samp) (storeAt : BitVec 64) :
    (storeStage s0 p b xs storeAt).pending = s0.pending ∧ (storeStage s0 p b xs storeAt).mem = s0.mem := by
  unfold storeStage; try dsimp only
  repeat' first | simp | split

@[simp] theorem keepBeat_frame (s0 : State) (p : Nat) (b : Beat) (eff : Option (SWord × SWord)) (dc : List
      DcTap) :
    (keepBeat s0 p b eff dc).pending = s0.pending ∧ (keepBeat s0 p b eff dc).mem = s0.mem := by
  unfold keepBeat; try dsimp only
  repeat' first | simp | split

@[simp] theorem poisonEntry_frame (s : State) (p : Nat) (n : BitVec 36) :
    (poisonEntry s p n).pending = s.pending ∧ (poisonEntry s p n).mem = s.mem := by
  unfold poisonEntry; try dsimp only
  repeat' first | simp | split

@[simp] theorem queueTune_frame (s : State) (p : Nat) (gate : Option Nat) (image : Nat) :
    (queueTune s p gate image).1.pending = s.pending ∧ (queueTune s p gate image).1.mem = s.mem := by
  unfold queueTune; try dsimp only
  repeat' first | simp | split

@[simp] theorem refuse_frame (s : State) (l k a : Nat) :
    (refuse s l k a).pending = s.pending ∧ (refuse s l k a).mem = s.mem := by
  unfold refuse; try dsimp only
  repeat' first | simp | split

@[simp] theorem foundBad_frame (s : State) (c b : Nat) :
    (foundBad s c b).pending = s.pending ∧ (foundBad s c b).mem = s.mem := by
  unfold foundBad; try dsimp only
  repeat' first | simp | split

@[simp] theorem putBurst_keeps (s : State) (c b : Nat) (bs : List Byte) :
    (putBurst s c b bs).pending = s.pending ∧
    (Memory.wf s.mem = true → Memory.wf (putBurst s c b bs).mem = true) := by
  unfold putBurst; try dsimp only
  constructor
  · repeat' first | simp | split
  · intro w
    repeat' first | (simp [w]; done) | split

@[simp] theorem corrected_frame (s : State) (c b sym : Nat) (bs : List Byte) (back : Bool) :
    (corrected s c b sym bs back).pending = s.pending ∧ (corrected s c b sym bs back).mem = s.mem := by
  unfold corrected; try dsimp only
  repeat' first | simp | split

@[simp] theorem readBurst_frame (s : State) (c b : Nat) (x : BurstIn) (back : Bool) :
    (readBurst s c b x back).1.pending = s.pending ∧ (readBurst s c b x back).1.mem = s.mem := by
  unfold readBurst; try dsimp only
  repeat' first | simp | split

@[simp] theorem writeBack_keeps (s : State) (c b : Nat) (bs : List Byte) :
    (writeBack s c b bs).pending = s.pending ∧
    (Memory.wf s.mem = true → Memory.wf (writeBack s c b bs).mem = true) := by
  unfold writeBack; try dsimp only
  constructor
  · repeat' first | simp | split
  · intro w
    repeat' first | (simp [w]; done) | split

@[simp] theorem writeBurst_keeps (s : State) (c b lo : Nat) (bs : List Byte) (mark : Bool) (x : BurstIn) :
    (writeBurst s c b lo bs mark x).pending = s.pending ∧
    (Memory.wf s.mem = true → Memory.wf (writeBurst s c b lo bs mark x).mem = true) := by
  unfold writeBurst; try dsimp only
  constructor
  · repeat' first | simp | split
  · intro w
    repeat' first | (simp [w]; done) | split

@[simp] theorem writeBursts_keeps (c : Nat) (mark : Bool) (n : Nat) (s : State) (b lo : Nat) (bs : List Byte)
    (xs : List BurstIn) : (writeBursts c mark n s b lo bs xs).pending = s.pending ∧
      (Memory.wf s.mem = true → Memory.wf (writeBursts c mark n s b lo bs xs).mem = true) := by
  induction n generalizing s b lo bs xs with
  | zero => exact ⟨rfl, id⟩
  | succ n ih =>
    simp only [writeBursts]
    exact ⟨((ih _ _ _ _ _).1).trans (writeBurst_keeps ..).1, fun w => (ih _ _ _ _ _).2 ((writeBurst_keeps ..).2 w)⟩

@[simp] theorem readBursts_frame (c n : Nat) (s : State) (b : Nat) (xs : List BurstIn) :
    (readBursts c n s b xs).1.pending = s.pending ∧ (readBursts c n s b xs).1.mem = s.mem := by
  induction n generalizing s b xs with
  | zero => exact ⟨rfl, rfl⟩
  | succ n ih => simp [readBursts, ih]

/-- Serving a read leaves memory alone. -/
theorem serveReq_frame (s : State) (c i : Nat) (q : MemReq) (xs : List BurstIn) (h : q.write = false) :
    (serveReq s c i q xs).1.pending = s.pending ∧ (serveReq s c i q xs).1.mem = s.mem := by
  simp [serveReq, h]

@[simp] theorem serveReq_keeps (s : State) (c i : Nat) (q : MemReq) (xs : List BurstIn) :
    (serveReq s c i q xs).1.pending = s.pending ∧
      (Memory.wf s.mem = true → Memory.wf (serveReq s c i q xs).1.mem = true) := by
  unfold serveReq
  dsimp only
  constructor
  · repeat' first | simp | split
  · intro w
    repeat' first | (simp [w]; done) | split

@[simp] theorem noteWrite_frame (s : State) (q : MemReq) (part : Option Nat) :
    (noteWrite s q part).pending = s.pending ∧ (noteWrite s q part).mem = s.mem := by
  unfold noteWrite; try dsimp only
  repeat' first | simp | split

theorem direct_frame {s : State} {q : MemReq} {part : Option Nat} {xs : List BurstIn}
    {r : State × List (Byte × Bool) × Bool} (h : direct s q part xs = some r) (hq : q.write = false) :
    r.1.pending = s.pending ∧ r.1.mem = s.mem := by
  unfold direct at h
  dsimp only at h
  split at h
  · cases h; simp
  · split at h
    · cases h; simp [serveReq_frame _ _ _ _ _ hq]
    · cases h

theorem direct_keeps {s : State} {q : MemReq} {part : Option Nat} {xs : List BurstIn}
    {r : State × List (Byte × Bool) × Bool} (h : direct s q part xs = some r) :
    r.1.pending = s.pending ∧ (Memory.wf s.mem = true → Memory.wf r.1.mem = true) := by
  unfold direct at h
  dsimp only at h
  split at h
  · cases h; simp +contextual
  · split at h
    · cases h; simp +contextual
    · cases h

@[simp] theorem entryDone_frame (s : State) (p : Nat) :
    (entryDone s p).pending = s.pending ∧ (entryDone s p).mem = s.mem := by
  unfold entryDone; try dsimp only
  repeat' first | simp | split

@[simp] theorem storeDone_frame (s : State) (q : MemReq) :
    (storeDone s q).pending = s.pending ∧ (storeDone s q).mem = s.mem := by
  unfold storeDone; try dsimp only
  repeat' first | simp | split

@[simp] theorem dmaReturn_frame (s : State) (n off : Nat) (bs : List (Byte × Bool)) :
    (dmaReturn s n off bs).pending = s.pending ∧ (dmaReturn s n off bs).mem = s.mem := by
  unfold dmaReturn; try dsimp only
  repeat' first | simp | split

@[simp] theorem reqDone_frame (s : State) (q : MemReq) (bs : List (Byte × Bool)) :
    (reqDone s q bs).pending = s.pending ∧ (reqDone s q bs).mem = s.mem := by
  unfold reqDone; try dsimp only
  repeat' first | simp | split

@[simp] theorem reqRetired_frame (s0 : State) (q : MemReq) :
    (reqRetired s0 q).pending = s0.pending ∧ (reqRetired s0 q).mem = s0.mem := by
  unfold reqRetired; try dsimp only
  repeat' first | simp | split

@[simp] theorem acceptReq_frame (s : State) (q : MemReq) (part : Option Nat) :
    (acceptReq s q part).pending = s.pending ∧ (acceptReq s q part).mem = s.mem := by
  unfold acceptReq; try dsimp only
  repeat' first | simp | split

@[simp] theorem refuseStore_frame (s : State) (p : Nat) (x : Store) (a : Nat) :
    (refuseStore s p x a).pending = s.pending ∧ (refuseStore s p x a).mem = s.mem := by
  unfold refuseStore; try dsimp only
  repeat' first | simp | split

@[simp] theorem issuePiece_frame (p : Nat) (x : Store) (s : State) (piece : Nat × List Byte) :
    (issuePiece p x s piece).pending = s.pending ∧ (issuePiece p x s piece).mem = s.mem := by
  unfold issuePiece; try dsimp only
  repeat' first | simp | split

@[simp] theorem issueStore_frame (s : State) (p : Nat) (x : Store) (rest : List Store) :
    (issueStore s p x rest).pending = s.pending ∧ (issueStore s p x rest).mem = s.mem := by
  unfold issueStore; try dsimp only
  repeat' first | simp | split

@[simp] theorem waitDie_frame (s : State) (n a : Nat) :
    (waitDie s n a).pending = s.pending ∧ (waitDie s n a).mem = s.mem := by
  unfold waitDie; try dsimp only
  repeat' first | simp | split

theorem dmaGate_passes {s t : State} {n a len : Nat} {write : Bool} (h : dmaGate s n write a len = .passes t) :
    t.pending = s.pending ∧ t.mem = s.mem := by
  unfold dmaGate at h
  dsimp only at h
  repeat' split at h
  all_goals cases h
  all_goals simp

theorem dmaGate_fails {s t : State} {n a len : Nat} {write : Bool} (h : dmaGate s n write a len = .fails t) :
    t.pending = s.pending ∧ t.mem = s.mem := by
  unfold dmaGate at h
  dsimp only at h
  repeat' split at h
  all_goals cases h
  all_goals simp

@[simp] theorem dmaRequest_frame (s : State) (n : Nat) (write : Bool) (a len : Nat) :
    (dmaRequest s n write a len).pending = s.pending ∧ (dmaRequest s n write a len).mem = s.mem := by
  unfold dmaRequest; try dsimp only
  split
  · exact ⟨rfl, rfl⟩
  · split
    · next h => simp [dmaGate_fails h]
    · repeat' first | (simp; done) | split
    · next h => simp [dmaGate_passes h]

/-- The states that a DMA access answers have the waiting commands and the memory of `s`. -/
def accessFrame (s : State) : Access → Prop
  | .fails t | .done t _ => t.pending = s.pending ∧ t.mem = s.mem
  | .waits _ => True

/-- The states that a DMA access answers have the waiting commands of `s`, and its memory stays canonical. -/
def accessKeeps (s : State) : Access → Prop
  | .fails t | .done t _ => t.pending = s.pending ∧ (Memory.wf s.mem = true → Memory.wf t.mem = true)
  | .waits _ => True

theorem accessFrame_trans {s t : State} {y : Access} (h : accessFrame t y)
    (k : t.pending = s.pending ∧ t.mem = s.mem) : accessFrame s y := by
  cases y with
  | waits => trivial
  | fails u => exact ⟨h.1.trans k.1, h.2.trans k.2⟩
  | done u bs => exact ⟨h.1.trans k.1, h.2.trans k.2⟩

theorem accessKeeps_trans {s t : State} {y : Access} (h : accessKeeps t y)
    (k : t.pending = s.pending ∧ (Memory.wf s.mem = true → Memory.wf t.mem = true)) : accessKeeps s y := by
  cases y with
  | waits => trivial
  | fails u => exact ⟨h.1.trans k.1, fun w => h.2 (k.2 w)⟩
  | done u bs => exact ⟨h.1.trans k.1, fun w => h.2 (k.2 w)⟩

/-- A DMA read leaves memory alone. -/
theorem dmaAccess_frame (n age f : Nat) (s : State) (a len : Nat) (bs : List Byte) (xs : List BurstIn) :
    accessFrame s (dmaAccess n false age f s a len bs xs) := by
  induction f generalizing s a len bs xs with
  | zero => exact ⟨rfl, rfl⟩
  | succ f ih =>
    unfold dmaAccess
    dsimp only
    split
    · exact ⟨rfl, rfl⟩
    · split
      · next h => exact dmaGate_fails h
      · trivial
      · next h =>
        have g := dmaGate_passes h
        split
        · trivial
        · next h2 =>
          have d := direct_frame h2 rfl
          exact ⟨d.1.trans g.1, d.2.trans g.2⟩
        · next s2 _ h2 =>
          have d := direct_frame h2 rfl
          have r := fun zs => ih s2 (a + min len (4608 - addrOff a % 4608)) (len - min len (4608 - addrOff a % 4608))
            (bs.drop (min len (4608 - addrOff a % 4608))) zs
          split
          · next h3 =>
            have r := h3 ▸ r _
            exact ⟨r.1.trans (d.1.trans g.1), r.2.trans (d.2.trans g.2)⟩
          · exact accessFrame_trans (r _) ⟨d.1.trans g.1, d.2.trans g.2⟩

/-- A DMA access keeps memory canonical. -/
theorem dmaAccess_keeps (n : Nat) (write : Bool) (age f : Nat) (s : State) (a len : Nat) (bs : List Byte)
    (xs : List BurstIn) : accessKeeps s (dmaAccess n write age f s a len bs xs) := by
  induction f generalizing s a len bs xs with
  | zero => exact ⟨rfl, id⟩
  | succ f ih =>
    unfold dmaAccess
    dsimp only
    split
    · exact ⟨rfl, id⟩
    · split
      · next h =>
        have g := dmaGate_fails h
        exact ⟨g.1, fun w => g.2 ▸ w⟩
      · trivial
      · next h =>
        have g := dmaGate_passes h
        split
        · trivial
        · next h2 =>
          have d := direct_keeps h2
          exact ⟨d.1.trans g.1, fun w => d.2 (g.2 ▸ w)⟩
        · next s2 _ h2 =>
          have d := direct_keeps h2
          have r := fun zs => ih s2 (a + min len (4608 - addrOff a % 4608)) (len - min len (4608 - addrOff a % 4608))
            (bs.drop (min len (4608 - addrOff a % 4608))) zs
          split
          · next h3 =>
            have r := h3 ▸ r _
            exact ⟨r.1.trans (d.1.trans g.1), fun w => r.2 (d.2 (g.2 ▸ w))⟩
          · exact accessKeeps_trans (r _) ⟨d.1.trans g.1, fun w => d.2 (g.2 ▸ w)⟩

@[simp] theorem fencePort_frame (c : Nat) (s : State) (p : Nat) :
    (fencePort c s p).pending = s.pending ∧ (fencePort c s p).mem = s.mem := by
  unfold fencePort; try dsimp only
  repeat' first | simp | split

@[simp] theorem fence_frame (s : State) (c : Nat) (cause : Nat) (injected : Bool) :
    (fence s c cause injected).pending = s.pending ∧ (fence s c cause injected).mem = s.mem := by
  unfold fence; try dsimp only
  repeat' first
    | simp (disch := (simp only [keepsBoth_iff]; intro s x; repeat' first | simp | split))
    | split

@[simp] theorem resumePort_frame (s : State) (p : Nat) :
    (resumePort s p).pending = s.pending ∧ (resumePort s p).mem = s.mem := by
  unfold resumePort; try dsimp only
  repeat' first | simp | split

@[simp] theorem toService_frame (s : State) (c : Nat) :
    (toService s c).pending = s.pending ∧ (toService s c).mem = s.mem := by
  unfold toService; try dsimp only
  repeat' first | simp | split

@[simp] theorem retired_frame (s : State) (c : Nat) :
    (retired s c).pending = s.pending ∧ (retired s c).mem = s.mem := by
  unfold retired; try dsimp only
  repeat' first
    | simp (disch := (simp only [keepsBoth_iff]; intro s x; repeat' first | simp | split))
    | split

@[simp] theorem ageReqs_frame (s : State) : (ageReqs s).pending = s.pending ∧ (ageReqs s).mem = s.mem := by
  unfold ageReqs; try dsimp only
  repeat' first | simp | split

@[simp] theorem armPort_frame (arm : Slot) (s : State) (p : Nat) :
    (armPort arm s p).pending = s.pending ∧ (armPort arm s p).mem = s.mem := by
  unfold armPort; try dsimp only
  repeat' first | simp | split

@[simp] theorem armPorts_frame (p : Packet) (arm : Slot) (s : State) :
    (armPorts p arm s).pending = s.pending ∧ (armPorts p arm s).mem = s.mem := by
  unfold armPorts; try dsimp only
  repeat' first | simp | split

@[simp] theorem evScrub_frame (s : State) (c : Nat) (on : Bool) :
    (evScrub s c on).pending = s.pending ∧ (evScrub s c on).mem = s.mem := by
  unfold evScrub; try dsimp only
  repeat' first | simp | split

@[simp] theorem groomerNext_frame (s : State) (c : Nat) :
    (groomerNext s c).pending = s.pending ∧ (groomerNext s c).mem = s.mem := by
  unfold groomerNext; try dsimp only
  repeat' first | simp | split

theorem groomerTurn_frame {s t : State} {c : Nat} {q : MemReq} (h : groomerTurn s c q = some t) :
    t.pending = s.pending ∧ t.mem = s.mem := by
  unfold groomerTurn at h
  dsimp only at h
  split at h <;> cases h
  simp

@[simp] theorem groomBurst_frame (s : State) (c b : Nat) (first again : BurstIn) :
    (groomBurst s c b first again).pending = s.pending ∧ (groomBurst s c b first again).mem = s.mem := by
  unfold groomBurst; try dsimp only
  repeat' first | simp | split

@[simp] theorem followBegin_frame (s : State) (n : Nat) (d : Desc) :
    (followBegin s n d).pending = s.pending ∧ (followBegin s n d).mem = s.mem := by
  unfold followBegin; try dsimp only
  repeat' first | simp | split

@[simp] theorem haltUnfetched_frame (s : State) (n reason : Nat) (a : BitVec 64) :
    (haltUnfetched s n reason a).pending = s.pending ∧ (haltUnfetched s n reason a).mem = s.mem := by
  unfold haltUnfetched; try dsimp only
  repeat' first | simp | split

@[simp] theorem dmaReadFail_frame (s : State) (c : Nat) :
    (dmaReadFail s c).pending = s.pending ∧ (dmaReadFail s c).mem = s.mem := by
  unfold dmaReadFail; try dsimp only
  repeat' first | simp | split

@[simp] theorem takeData_frame (s : State) (n : Nat) (bs : List (Byte × Bool)) :
    (takeData s n bs).pending = s.pending ∧ (takeData s n bs).mem = s.mem := by
  unfold takeData; try dsimp only
  repeat' first | simp | split

theorem readIndex_frame (s : State) (n : Nat) (d : Desc) (m : MemIn) : accessFrame s (readIndex s n d m) := by
  unfold readIndex
  dsimp only
  split
  · exact dmaAccess_frame ..
  · exact ⟨rfl, rfl⟩

theorem ringRead_frame (s : State) (n : Nat) (area : Nat × Nat) (k u : Nat) (m : MemIn) :
    accessFrame s (ringRead s n area k u m) := by
  unfold ringRead
  dsimp only
  have a := dmaAccess_frame n m.age (min u (area.2 - k % area.2) / 512 + 2) s (area.1 + 9 * (k % area.2))
    (9 * min u (area.2 - k % area.2)) [] m.bursts
  split
  · next s1 bs h =>
    have a := h ▸ a
    have b := dmaAccess_frame n m.age (u / 512 + 2) s1 area.1 (9 * (u - min u (area.2 - k % area.2))) []
      (m.bursts.drop (min u (area.2 - k % area.2) / 8 + 1))
    have b := accessFrame_trans b a
    split
    · next h2 =>
      have b := h2 ▸ b
      exact ⟨b.1, b.2⟩
    · exact b
  · exact a

@[simp] theorem followChunk_frame (s : State) (n : Nat) (d : Desc) (bytes : List Byte) (poison : Bool) (m : MemIn) :
    (followChunk s n d bytes poison m).pending = s.pending ∧ (followChunk s n d bytes poison m).mem = s.mem := by
  unfold followChunk
  dsimp only
  generalize writeCount s d.srcPort _ = w
  split
  · exact ⟨rfl, rfl⟩
  · split
    · simp
    · have r := ringRead_frame s n (followArea s d) (s.dmaCh n).fpos.toNat d.chunk m
      split
      · next h => have r := h ▸ r; simp [r.1, r.2]
      · exact ⟨rfl, rfl⟩
      · simp
      · next h =>
        have r := h ▸ r
        split
        · exact ⟨rfl, rfl⟩
        · simp [r.1, r.2]

@[simp] theorem sendHost_frame (s : State) (n : Nat) (d : Desc) (len : Nat) :
    (sendHost s n d len).pending = s.pending ∧ (sendHost s n d len).mem = s.mem := by
  unfold sendHost; try dsimp only
  repeat' first | simp | split

@[simp] theorem checkPath_frame (s : State) (n m : Nat) :
    (checkPath s n m).pending = s.pending ∧ (checkPath s n m).mem = s.mem := by
  unfold checkPath; try dsimp only
  repeat' first | simp | split

@[simp] theorem unitFires_frame (s : State) (p u : Nat) (fr : Frame) (value : Nat) :
    (unitFires s p u fr value).pending = s.pending ∧ (unitFires s p u fr value).mem = s.mem := by
  unfold unitFires; try dsimp only
  repeat' first | simp | split

@[simp] theorem ringFrame_frame (s : State) (p : Nat) (fr : Frame) :
    (ringFrame s p fr).pending = s.pending ∧ (ringFrame s p fr).mem = s.mem := by
  unfold ringFrame; try dsimp only
  repeat' first | simp | split

@[simp] theorem frameDone_frame (s : State) (p : Nat) (fr : Frame) :
    (frameDone s p fr).pending = s.pending ∧ (frameDone s p fr).mem = s.mem := by
  unfold frameDone; try dsimp only
  repeat' first | simp | split

@[simp] theorem haltEng_frame (s : State) (e ecause : Nat) :
    (haltEng s e ecause).pending = s.pending ∧ (haltEng s e ecause).mem = s.mem := by
  unfold haltEng; try dsimp only
  repeat' first | simp | split

@[simp] theorem takeExc_frame (s : State) (e : Nat) (c : Cause) (epc : BitVec 13) :
    (takeExc s e c epc).pending = s.pending ∧ (takeExc s e c epc).mem = s.mem := by
  unfold takeExc; try dsimp only
  repeat' first | simp | split

@[simp] theorem ringWrite_frame (s : State) (e : Nat) (ws : List (BitVec 18)) :
    (ringWrite s e ws).pending = s.pending ∧ (ringWrite s e ws).mem = s.mem := by
  unfold ringWrite; try dsimp only
  repeat' first | simp | split

@[simp] theorem engEvent_frame (s : State) (e code src : Nat) (slot : Slot) (evtr : Bool) :
    (engEvent s e code src slot evtr).pending = s.pending ∧ (engEvent s e code src slot evtr).mem = s.mem := by
  unfold engEvent; try dsimp only
  repeat' first
    | simp (disch := (simp only [keepsBoth_iff]; intro s x; repeat' first | simp | split))
    | split

@[simp] theorem engTune_frame (s0 : State) (e : Nat) (E0 : Engine) (w : BitVec 36) :
    (engTune s0 e E0 w).pending = s0.pending ∧ (engTune s0 e E0 w).mem = s0.mem := by
  unfold engTune; try dsimp only
  repeat' first | simp | split

@[simp] theorem yEffect_frame (s : State) (e : Nat) (E0 : Engine) (w : BitVec 36) :
    (yEffect s e E0 w).pending = s.pending ∧ (yEffect s e E0 w).mem = s.mem := by
  unfold yEffect; try dsimp only
  repeat' first | simp | split

@[simp] theorem completeBundle_frame (s : State) (e : Nat) (x y : BitVec 36) :
    (completeBundle s e x y).pending = s.pending ∧ (completeBundle s e x y).mem = s.mem := by
  unfold completeBundle; try dsimp only
  repeat' first | simp | split

@[simp] theorem endStall_frame (s : State) (e : Nat) :
    (endStall s e).pending = s.pending ∧ (endStall s e).mem = s.mem := by
  unfold endStall; try dsimp only
  repeat' first | simp | split

@[simp] theorem issueBundle_frame (s : State) (e : Nat) (bundle : BitVec 72) :
    (issueBundle s e bundle).pending = s.pending ∧ (issueBundle s e bundle).mem = s.mem := by
  unfold issueBundle; try dsimp only
  repeat' first | simp | split

@[simp] theorem offerImage_frame (s : State) (p : Nat) :
    (offerImage s p).pending = s.pending ∧ (offerImage s p).mem = s.mem := by
  unfold offerImage; try dsimp only
  repeat' first
    | simp (disch := (simp only [keepsBoth_iff]; intro s x; repeat' first | simp | split))
    | split

@[simp] theorem imageArrive_frame (s : State) (i k : Nat) :
    (imageArrive s i k).pending = s.pending ∧ (imageArrive s i k).mem = s.mem := by
  unfold imageArrive; try dsimp only
  repeat' first | simp | split

@[simp] theorem elementArrive_frame (s : State) (i k : Nat) :
    (elementArrive s i k).pending = s.pending ∧ (elementArrive s i k).mem = s.mem := by
  unfold elementArrive; try dsimp only
  repeat' first | simp | split

@[simp] theorem flagRec_frame (s : State) (e : Nat) (slot : Slot) (phase restarted phys pos : Nat) :
    (flagRec s e slot phase restarted phys pos).pending = s.pending ∧
      (flagRec s e slot phase restarted phys pos).mem = s.mem := by
  unfold flagRec; try dsimp only
  repeat' first | simp | split

@[simp] theorem engFault_frame (s : State) (e : Nat) (injected : Bool) :
    (engFault s e injected).pending = s.pending ∧ (engFault s e injected).mem = s.mem := by
  unfold engFault; try dsimp only
  repeat' first | simp | split

@[simp] theorem reqError_frame (s0 : State) (q : MemReq) :
    (reqError s0 q).pending = s0.pending ∧ (reqError s0 q).mem = s0.mem := by
  unfold reqError; try dsimp only
  repeat' first | simp | split

@[simp] theorem failReqs_frame (s : State) (c : Nat) :
    (failReqs s c).pending = s.pending ∧ (failReqs s c).mem = s.mem := by
  unfold failReqs; try dsimp only
  repeat' first | simp | split

@[simp] theorem resetChans_frame (s : State) (l : Nat) (cs : List Nat) :
    (resetChans s l cs).pending = s.pending ∧ (resetChans s l cs).mem = s.mem := by
  unfold resetChans; try dsimp only
  repeat' first | simp | split

@[simp] theorem frontReset_frame (s : State) (p : Nat) :
    (frontReset s p).pending = s.pending ∧ (frontReset s p).mem = s.mem := by
  unfold frontReset; try dsimp only
  repeat' first | simp | split

@[simp] theorem engineReset_frame (s : State) (e : Nat) :
    (engineReset s e).pending = s.pending ∧ (engineReset s e).mem = s.mem := by
  unfold engineReset; try dsimp only
  repeat' first | simp | split

@[simp] theorem pipeReset_frame (s : State) (f : Nat) :
    (pipeReset s f).pending = s.pending ∧ (pipeReset s f).mem = s.mem := by
  unfold pipeReset; try dsimp only
  repeat' first | simp | split

@[simp] theorem cmpReset_frame (s : State) (m : Nat) :
    (cmpReset s m).pending = s.pending ∧ (cmpReset s m).mem = s.mem := by
  unfold cmpReset; try dsimp only
  repeat' first | simp | split

@[simp] theorem dmaReset_frame (s : State) (n : Nat) :
    (dmaReset s n).pending = s.pending ∧ (dmaReset s n).mem = s.mem := by
  unfold dmaReset; try dsimp only
  repeat' first | simp | split

@[simp] theorem unitReset_frame (s : State) (l : Nat) :
    (unitReset s l).pending = s.pending ∧ (unitReset s l).mem = s.mem := by
  unfold unitReset; try dsimp only
  repeat' first | simp | split

@[simp] theorem dropPort_frame (s : State) (p : Nat) :
    (dropPort s p).pending = s.pending ∧ (dropPort s p).mem = s.mem := by
  unfold dropPort; try dsimp only
  repeat' first | simp | split

@[simp] theorem regionClear_frame (s : State) (r : Nat) :
    (regionClear s r).pending = s.pending ∧ (regionClear s r).mem = s.mem := by
  unfold regionClear; try dsimp only
  repeat' first | simp | split

@[simp] theorem regionReset_frame (s : State) (r : Nat) :
    (regionReset s r).pending = s.pending ∧ (regionReset s r).mem = s.mem := by
  unfold regionReset; try dsimp only
  repeat' first | simp | split

@[simp] theorem dieReset_frame (s : State) (d : Nat) :
    (dieReset s d).pending = s.pending ∧ (dieReset s d).mem = s.mem := by
  unfold dieReset; try dsimp only
  repeat' first | simp | split

@[simp] theorem clusterOff_frame (s : State) (k : Nat) :
    (clusterOff s k).pending = s.pending ∧ (clusterOff s k).mem = s.mem := by
  unfold clusterOff; try dsimp only
  repeat' first | simp | split

@[simp] theorem settleDie_frame (s : State) (d : Nat) :
    (settleDie s d).pending = s.pending ∧ (settleDie s d).mem = s.mem := by
  unfold settleDie; try dsimp only
  repeat' first | simp | split

@[simp] theorem regionOff_frame (s : State) (r : Nat) :
    (regionOff s r).pending = s.pending ∧ (regionOff s r).mem = s.mem := by
  unfold regionOff; try dsimp only
  repeat' first | simp | split

@[simp] theorem patrolRegions_frame (s : State) :
    (patrolRegions s).pending = s.pending ∧ (patrolRegions s).mem = s.mem := by
  unfold patrolRegions; try dsimp only
  repeat' first
    | simp (disch := (simp only [keepsBoth_iff]; intro s x; repeat' first | simp | split))
    | split

@[simp] theorem selfRefresh_frame (s : State) (k : Nat) :
    (selfRefresh s k).pending = s.pending ∧ (selfRefresh s k).mem = s.mem := by
  unfold selfRefresh; try dsimp only
  repeat' first
    | simp (disch := (simp only [keepsBoth_iff]; intro s x; repeat' first | simp | split))
    | split

@[simp] theorem dieOff_frame (s : State) (d : Nat) :
    (dieOff s d).pending = s.pending ∧ (dieOff s d).mem = s.mem := by
  unfold dieOff; try dsimp only
  repeat' first | simp | split

@[simp] theorem dropMailbox_frame (s : State) :
    (dropMailbox s).pending = s.pending ∧ (dropMailbox s).mem = s.mem := by
  unfold dropMailbox; try dsimp only
  repeat' first | simp | split

@[simp] theorem dropGrants_frame (s : State) (f : Nat) :
    (dropGrants s f).pending = s.pending ∧ (dropGrants s f).mem = s.mem := by
  unfold dropGrants; try dsimp only
  repeat' first | simp | split

@[simp] theorem functionReset_frame (s : State) (f : Nat) :
    (functionReset s f).pending = s.pending ∧ (functionReset s f).mem = s.mem := by
  unfold functionReset; try dsimp only
  repeat' first | simp | split

@[simp] theorem linkDown_frame (s : State) (ep : Bool) :
    (linkDown s ep).pending = s.pending ∧ (linkDown s ep).mem = s.mem := by
  unfold linkDown; try dsimp only
  repeat' first | simp | split

@[simp] theorem silencePartition_frame (s : State) (k : Nat) :
    (silencePartition s k).pending = s.pending ∧ (silencePartition s k).mem = s.mem := by
  unfold silencePartition; try dsimp only
  repeat' first | simp | split

@[simp] theorem dropJobs_frame (s : State) (k : Nat) :
    (dropJobs s k).pending = s.pending ∧ (dropJobs s k).mem = s.mem := by
  unfold dropJobs; try dsimp only
  repeat' first | simp | split

@[simp] theorem startFlr_keeps (s : State) (f : Nat) : (startFlr s f).pending = s.pending ∧
    (Memory.wf s.mem = true → Memory.wf (startFlr s f).mem = true) := by
  unfold startFlr; try dsimp only
  constructor
  · repeat' first | simp | split
  · intro w
    repeat' first | (simp [w]; done) | split

@[simp] theorem State.modStack_frame (s : State) (k : Nat) (f : StackRec → StackRec) :
    (State.modStack s k f).pending = s.pending ∧ (State.modStack s k f).mem = s.mem := by
  unfold State.modStack; try dsimp only
  repeat' first | simp | split

@[simp] theorem sweepPass_frame (s : State) (c : Nat) (d : BitVec 128) (clearStrike : Bool) :
    (sweepPass s c d clearStrike).pending = s.pending ∧ (sweepPass s c d clearStrike).mem = s.mem := by
  unfold sweepPass; try dsimp only
  repeat' first | simp | split

@[simp] theorem sweepFixed_frame (s : State) (c : Nat) :
    (sweepFixed s c).pending = s.pending ∧ (sweepFixed s c).mem = s.mem := by
  unfold sweepFixed; try dsimp only
  repeat' first | simp | split

@[simp] theorem serveChan_frame (s : State) (c : Nat) :
    (serveChan s c).pending = s.pending ∧ (serveChan s c).mem = s.mem := by
  unfold serveChan; try dsimp only
  repeat' first | simp | split

@[simp] theorem sweepRetire_frame (s : State) (c : Nat) :
    (sweepRetire s c).pending = s.pending ∧ (sweepRetire s c).mem = s.mem := by
  unfold sweepRetire; try dsimp only
  repeat' first | simp | split

@[simp] theorem sweepFail_frame (s : State) (c : Nat) (strike : BitVec 2) :
    (sweepFail s c strike).pending = s.pending ∧ (sweepFail s c strike).mem = s.mem := by
  unfold sweepFail; try dsimp only
  repeat' first | simp | split

@[simp] theorem trainChan_frame (s : State) (c : Nat) (r : SweepIn) :
    (trainChan s c r).pending = s.pending ∧ (trainChan s c r).mem = s.mem := by
  unfold trainChan; try dsimp only
  repeat' first | simp | split

@[simp] theorem endReSweep_frame (s : State) (c : Nat) (r : SweepIn) :
    (endReSweep s c r).pending = s.pending ∧ (endReSweep s c r).mem = s.mem := by
  unfold endReSweep; try dsimp only
  repeat' first | simp | split

@[simp] theorem trainLodge_frame (s : State) (c errs : Nat) :
    (trainLodge s c errs).pending = s.pending ∧ (trainLodge s c errs).mem = s.mem := by
  unfold trainLodge; try dsimp only
  repeat' first | simp | split

@[simp] theorem stepRecord_frame (s : State) (k outcome l detail : Nat) (t : BitVec 32 × BitVec 32) :
    (stepRecord s k outcome l detail t).pending = s.pending ∧
      (stepRecord s k outcome l detail t).mem = s.mem := by
  unfold stepRecord; try dsimp only
  repeat' first | simp | split

@[simp] theorem packageReset_frame (s0 : State) (cause : Nat) :
    (packageReset s0 cause).pending = s0.pending ∧ (packageReset s0 cause).mem = s0.mem := by
  unfold packageReset; try dsimp only
  repeat' first | simp | split

@[simp] theorem markBad_frame (s : State) (n : Nat) :
    (markBad s n).pending = s.pending ∧ (markBad s n).mem = s.mem := by
  unfold markBad; try dsimp only
  repeat' first | simp | split

@[simp] theorem firmwareStep_frame (s : State) (b : BootIn) :
    (firmwareStep s b).pending = s.pending ∧ (firmwareStep s b).mem = s.mem := by
  unfold firmwareStep; try dsimp only
  repeat' first | simp | split

@[simp] theorem selfTestStep_frame (s : State) (b : BootIn) :
    (selfTestStep s b).pending = s.pending ∧ (selfTestStep s b).mem = s.mem := by
  unfold selfTestStep; try dsimp only
  repeat' first | simp | split

@[simp] theorem bootAudit_frame (s : State) :
    (bootAudit s).pending = s.pending ∧ (bootAudit s).mem = s.mem := by
  unfold bootAudit; try dsimp only
  repeat' first | simp | split

@[simp] theorem bootEarly_frame (s : State) (first : Nat) (b : BootIn) :
    (bootEarly s first b).pending = s.pending ∧ (bootEarly s first b).mem = s.mem := by
  unfold bootEarly; try dsimp only
  repeat' first | simp | split

@[simp] theorem driveIdle_frame (s : State) :
    (driveIdle s).pending = s.pending ∧ (driveIdle s).mem = s.mem := by
  unfold driveIdle; try dsimp only
  repeat' first | simp | split

@[simp] theorem lodgeStep_frame (s : State) (b : BootIn) :
    (lodgeStep s b).pending = s.pending ∧ (lodgeStep s b).mem = s.mem := by
  unfold lodgeStep; try dsimp only
  repeat' first
    | simp (disch := (simp only [keepsBoth_iff]; intro s x; repeat' first | simp | split))
    | split

@[simp] theorem stackStep_frame (s : State) (b : BootIn) :
    (stackStep s b).pending = s.pending ∧ (stackStep s b).mem = s.mem := by
  unfold stackStep; try dsimp only
  repeat' first | simp | split

@[simp] theorem dieStep_frame (s : State) (b : BootIn) :
    (dieStep s b).pending = s.pending ∧ (dieStep s b).mem = s.mem := by
  unfold dieStep; try dsimp only
  repeat' first | simp | split

@[simp] theorem wipeStep_frame (s : State) (b : BootIn) :
    (wipeStep s b).pending = s.pending ∧ (wipeStep s b).mem = s.mem := by
  unfold wipeStep; try dsimp only
  repeat' first | simp | split

@[simp] theorem fitBudget_frame (s : State) (b : Nat) :
    (fitBudget s b).pending = s.pending ∧ (fitBudget s b).mem = s.mem := by
  unfold fitBudget; try dsimp only
  repeat' first
    | simp (disch := (simp only [keepsBoth_iff]; intro s x; repeat' first | simp | split))
    | split

@[simp] theorem startVacheod_frame (s : State) :
    (startVacheod s).pending = s.pending ∧ (startVacheod s).mem = s.mem := by
  unfold startVacheod; try dsimp only
  repeat' first
    | simp (disch := (simp only [keepsBoth_iff]; intro s x; repeat' first | simp | split))
    | split

@[simp] theorem bootDone_frame (s : State) : (bootDone s).pending = s.pending ∧ (bootDone s).mem = s.mem := by
  unfold bootDone; try dsimp only
  repeat' first | simp | split

@[simp] theorem endWipe_keeps (s : State) (w : Wipe) : (endWipe s w).pending = s.pending ∧
    (Memory.wf s.mem = true → Memory.wf (endWipe s w).mem = true) := by
  unfold endWipe; try dsimp only
  constructor
  · repeat' first | simp | split
  · intro w
    repeat' first | (simp [w]; done) | split

@[simp] theorem resume_frame (s : State) (src : Nat) (parked : BitVec 64) :
    (resume s src parked).pending = s.pending ∧ (resume s src parked).mem = s.mem := by
  unfold resume; try dsimp only
  repeat' first
    | simp (disch := (simp only [keepsBoth_iff]; intro s x; repeat' first | simp | split))
    | split

@[simp] theorem dropWakes_frame (s : State) :
    (dropWakes s).pending = s.pending ∧ (dropWakes s).mem = s.mem := by
  unfold dropWakes; try dsimp only
  repeat' first | simp | split

@[simp] theorem wakeUp_frame (s0 : State) (src0 : Nat) (parked : BitVec 64) (b : BootIn) :
    (wakeUp s0 src0 parked b).pending = s0.pending ∧ (wakeUp s0 src0 parked b).mem = s0.mem := by
  unfold wakeUp; try dsimp only
  repeat' first | simp | split

@[simp] theorem noteInput_frame (s : State) (inside : Bool) :
    (noteInput s inside).pending = s.pending ∧ (noteInput s inside).mem = s.mem := by
  unfold noteInput; try dsimp only
  repeat' first | simp | split

@[simp] theorem dieDown_frame (s : State) (d : Nat) :
    (dieDown s d).pending = s.pending ∧ (dieDown s d).mem = s.mem := by
  unfold dieDown; try dsimp only
  repeat' first
    | simp (disch := (simp only [keepsBoth_iff]; intro s x; repeat' first | simp | split))
    | split

@[simp] theorem settlePower_frame (s : State) :
    (settlePower s).pending = s.pending ∧ (settlePower s).mem = s.mem := by
  unfold settlePower; try dsimp only
  repeat' first | simp | split

@[simp] theorem noteAlarms_frame (old : List Bool) (s : State) :
    (noteAlarms old s).pending = s.pending ∧ (noteAlarms old s).mem = s.mem := by
  unfold noteAlarms; try dsimp only
  repeat' first
    | simp (disch := (simp only [keepsBoth_iff]; intro s x; repeat' first | simp | split))
    | split

@[simp] theorem startTrainings_frame (s : State) (ps : List Nat) :
    (startTrainings s ps).pending = s.pending ∧ (startTrainings s ps).mem = s.mem := by
  unfold startTrainings; try dsimp only
  repeat' first
    | simp (disch := (simp only [keepsBoth_iff]; intro s x; repeat' first | simp | split))
    | split

@[simp] theorem grant_frame (s : State) (g : Grant) (cost : Nat) :
    (grant s g cost).pending = s.pending ∧ (grant s g cost).mem = s.mem := by
  unfold grant; try dsimp only
  repeat' first | simp | split

@[simp] theorem grantLoop_frame (n : Nat) (s : State) (w : Bool) :
    (grantLoop n s w).pending = s.pending ∧ (grantLoop n s w).mem = s.mem := by
  induction n generalizing s w with
  | zero => simp [grantLoop]
  | succ n ih =>
    unfold grantLoop; try dsimp only
    repeat' first | (simp [ih]; done) | split

@[simp] theorem sleepStacks_keeps (s : State) (off : Bool) : (sleepStacks s off).pending = s.pending ∧
    (Memory.wf s.mem = true → Memory.wf (sleepStacks s off).mem = true) := by
  unfold sleepStacks; try dsimp only
  constructor
  · repeat' first | simp | split
  · intro w
    repeat' first | (simp [w]; done) | split

@[simp] theorem dieTemp_frame (s : State) (d : Nat) (t : BitVec 16) :
    (dieTemp s d t).pending = s.pending ∧ (dieTemp s d t).mem = s.mem := by
  unfold dieTemp; try dsimp only
  repeat' first
    | simp (disch := (simp only [keepsBoth_iff]; intro s x; repeat' first | simp | split))
    | split

@[simp] theorem modCal_frame (s : State) (i : Nat) (f : Cal → Cal) :
    (modCal s i f).pending = s.pending ∧ (modCal s i f).mem = s.mem := by
  unfold modCal; try dsimp only
  repeat' first | simp | split

@[simp] theorem queueMoves_frame (s : State) (f : Nat) :
    (queueMoves s f).pending = s.pending ∧ (queueMoves s f).mem = s.mem := by
  unfold queueMoves; try dsimp only
  repeat' first | simp | split

@[simp] theorem sqTailWrite_frame (s : State) (f : Nat) (v : BitVec 32) :
    (sqTailWrite s f v).pending = s.pending ∧ (sqTailWrite s f v).mem = s.mem := by
  unfold sqTailWrite; try dsimp only
  repeat' first | simp | split

@[simp] theorem rqHeadWrite_frame (s : State) (f : Nat) (v : BitVec 32) :
    (rqHeadWrite s f v).pending = s.pending ∧ (rqHeadWrite s f v).mem = s.mem := by
  unfold rqHeadWrite; try dsimp only
  repeat' first | simp | split

@[simp] theorem qCtrlWrite_frame (s : State) (f : Nat) (en : Bool) :
    (qCtrlWrite s f en).pending = s.pending ∧ (qCtrlWrite s f en).mem = s.mem := by
  unfold qCtrlWrite; try dsimp only
  repeat' first | simp | split

@[simp] theorem fetchPacket_frame (s : State) (f : Nat) (p : Packet) :
    (fetchPacket s f p).pending = s.pending ∧ (fetchPacket s f p).mem = s.mem := by
  unfold fetchPacket; try dsimp only
  repeat' first | simp | split

@[simp] theorem mboxGo_frame (s : State) : (mboxGo s).pending = s.pending ∧ (mboxGo s).mem = s.mem := by
  unfold mboxGo; try dsimp only
  repeat' first | simp | split

@[simp] theorem mboxCtrlWrite_frame (s : State) (v : Nat) :
    (mboxCtrlWrite s v).pending = s.pending ∧ (mboxCtrlWrite s v).mem = s.mem := by
  unfold mboxCtrlWrite; try dsimp only
  repeat' first | simp | split

@[simp] theorem chutePtrWrite_frame (s : State) (f : Nat) (v : BitVec 64) :
    (chutePtrWrite s f v).pending = s.pending ∧ (chutePtrWrite s f v).mem = s.mem := by
  unfold chutePtrWrite; try dsimp only
  repeat' first | simp | split

@[simp] theorem wideSet_frame (s : State) (f off v : Nat) :
    (wideSet s f off v).pending = s.pending ∧ (wideSet s f off v).mem = s.mem := by
  unfold wideSet; try dsimp only
  repeat' first | simp | split

@[simp] theorem slotCtrlWrite_frame (s : State) (p be v : Nat) :
    (slotCtrlWrite s p be v).pending = s.pending ∧ (slotCtrlWrite s p be v).mem = s.mem := by
  unfold slotCtrlWrite; try dsimp only
  repeat' first | simp | split

@[simp] theorem slotStatusWrite_frame (s : State) (p be v : Nat) :
    (slotStatusWrite s p be v).pending = s.pending ∧ (slotStatusWrite s p be v).mem = s.mem := by
  unfold slotStatusWrite; try dsimp only
  repeat' first | simp | split

@[simp] theorem narrowSet_frame (s : State) (f off be v : Nat) :
    (narrowSet s f off be v).pending = s.pending ∧ (narrowSet s f off be v).mem = s.mem := by
  unfold narrowSet
  dsimp only
  repeat' split
  all_goals simp

@[simp] theorem dwWrite_frame (s : State) (f off be v : Nat) :
    (dwWrite s f off be v).pending = s.pending ∧ (dwWrite s f off be v).mem = s.mem := by
  unfold dwWrite; try dsimp only
  repeat' first | simp | split

@[simp] theorem dwWrites_frame (f : Nat) (s : State) (off : Nat) (xs : List (BitVec 32 × BitVec 4)) :
    (dwWrites f s off xs).pending = s.pending ∧ (dwWrites f s off xs).mem = s.mem := by
  induction xs generalizing s off with
  | nil => exact ⟨rfl, rfl⟩
  | cons x xs ih => simp [dwWrites, ih]

@[simp] theorem bar0Write_frame (s : State) (f off : Nat) (dws : List (BitVec 32 × BitVec 4)) :
    (bar0Write s f off dws).pending = s.pending ∧ (bar0Write s f off dws).mem = s.mem := by
  unfold bar0Write; try dsimp only
  repeat' first | simp | split

@[simp] theorem chuteFlags_frame (s : State) (f : Nat) (bits : BitVec 4) :
    (chuteFlags s f bits).pending = s.pending ∧ (chuteFlags s f bits).mem = s.mem := by
  unfold chuteFlags; try dsimp only
  repeat' first | simp | split

@[simp] theorem chuteAdvance_frame (s : State) (f n : Nat) :
    (chuteAdvance s f n).pending = s.pending ∧ (chuteAdvance s f n).mem = s.mem := by
  unfold chuteAdvance; try dsimp only
  repeat' first | simp | split

@[simp] theorem chuteRefused_frame (s : State) (f : Nat) (xs : List ((Nat × Nat) × Fate)) :
    (chuteRefused s f xs).pending = s.pending ∧ (chuteRefused s f xs).mem = s.mem := by
  unfold chuteRefused; try dsimp only
  repeat' first | simp | split

theorem chuteGet_frame {s : State} {f : Nat} {x : Nat × Nat} {fate : Fate} {m : MemIn}
    {r : State × List Byte × Bool} (h : chuteGet s f x fate m = some r) :
    r.1.pending = s.pending ∧ r.1.mem = s.mem := by
  unfold chuteGet at h
  split at h
  · cases h; exact ⟨rfl, rfl⟩
  · obtain ⟨y, hy, rfl⟩ := Option.map_eq_some_iff.mp h
    exact direct_frame hy rfl

theorem chuteGets_frame {f : Nat} {s : State} {xs : List ((Nat × Nat) × Fate)} {m : MemIn}
    {r : State × List Byte × Bool} (h : chuteGets f s xs m = some r) :
    r.1.pending = s.pending ∧ r.1.mem = s.mem := by
  induction xs generalizing s m r with
  | nil => cases h; exact ⟨rfl, rfl⟩
  | cons x xs ih =>
    unfold chuteGets at h
    split at h
    · cases h
    · next h1 =>
      obtain ⟨y, hy, rfl⟩ := Option.map_eq_some_iff.mp h
      exact ⟨(ih hy).1.trans (chuteGet_frame h1).1, (ih hy).2.trans (chuteGet_frame h1).2⟩

theorem chutePut_keeps {s : State} {f : Nat} {mark : Bool} {x : Nat × Nat} {fate : Fate} {bs : List Byte} {m : MemIn}
    {r : State × Bool} (h : chutePut s f mark x fate bs m = some r) :
    r.1.pending = s.pending ∧ (Memory.wf s.mem = true → Memory.wf r.1.mem = true) := by
  unfold chutePut at h
  split at h
  · cases h; exact ⟨rfl, id⟩
  · obtain ⟨y, hy, rfl⟩ := Option.map_eq_some_iff.mp h
    exact direct_keeps hy

theorem chutePuts_keeps {f : Nat} {mark : Bool} {s : State} {xs : List ((Nat × Nat) × Fate)} {bs : List Byte}
    {m : MemIn} {r : State × Bool} (h : chutePuts f mark s xs bs m = some r) :
    r.1.pending = s.pending ∧ (Memory.wf s.mem = true → Memory.wf r.1.mem = true) := by
  induction xs generalizing s bs m r with
  | nil => cases h; exact ⟨rfl, id⟩
  | cons x xs ih =>
    unfold chutePuts at h
    split at h
    · cases h
    · next h1 =>
      obtain ⟨y, hy, rfl⟩ := Option.map_eq_some_iff.mp h
      exact ⟨(ih hy).1.trans (chutePut_keeps h1).1, fun w => (ih hy).2 ((chutePut_keeps h1).2 w)⟩

@[simp] theorem prefetchGets_frame (f : Nat) (s : State) (xs : List (Nat × Nat)) :
    (prefetchGets f s xs).1.pending = s.pending ∧ (prefetchGets f s xs).1.mem = s.mem := by
  induction xs generalizing s with
  | nil => exact ⟨rfl, rfl⟩
  | cons x xs ih =>
    unfold prefetchGets
    dsimp only
    split
    · split
      · next h =>
        have g := chuteGet_frame h
        exact ⟨(ih _).1.trans g.1, (ih _).2.trans g.2⟩
      · exact ⟨rfl, rfl⟩
    · exact ⟨rfl, rfl⟩

@[simp] theorem chutePrefetch_frame (s : State) (f : Nat) :
    (chutePrefetch s f).pending = s.pending ∧ (chutePrefetch s f).mem = s.mem := by
  unfold chutePrefetch; try dsimp only
  repeat' first | simp | split

theorem chuteReadMem_frame {s : State} {f a n : Nat} {m : MemIn} {r : State × List Byte × Bool}
    (h : chuteReadMem s f a n m = some r) : r.1.pending = s.pending ∧ r.1.mem = s.mem := by
  unfold chuteReadMem at h
  dsimp only at h
  split at h
  · cases h; simp
  · split at h
    · cases h; exact ⟨rfl, rfl⟩
    · split at h
      · cases h
      · obtain ⟨y, hy, rfl⟩ := Option.map_eq_some_iff.mp h
        simp [(chuteGets_frame hy).1, (chuteGets_frame hy).2]

theorem chuteRead_frame {s : State} {f n : Nat} {m : MemIn} {r : State × List Byte × Bool}
    (h : chuteRead s f n m = some r) : r.1.pending = s.pending ∧ r.1.mem = s.mem := by
  unfold chuteRead at h
  obtain ⟨x, hx, rfl⟩ := Option.map_eq_some_iff.mp h
  have key : x.1.pending = s.pending ∧ x.1.mem = s.mem := by
    repeat' split at hx
    all_goals first | exact chuteReadMem_frame hx | (cases hx; simp)
  simp [key.1, key.2]

theorem chuteWrite_keeps {s t : State} {f : Nat} {bs : List Byte} {ep : Bool} {m : MemIn}
    (h : chuteWrite s f bs ep m = some t) :
    t.pending = s.pending ∧ (Memory.wf s.mem = true → Memory.wf t.mem = true) := by
  unfold chuteWrite at h
  obtain ⟨x, hx, rfl⟩ := Option.map_eq_some_iff.mp h
  have key : x.pending = s.pending ∧ (Memory.wf s.mem = true → Memory.wf x.mem = true) := by
    dsimp only at hx
    split at hx
    · split at hx
      · cases hx
      · obtain ⟨y, hy, rfl⟩ := Option.map_eq_some_iff.mp hx
        have k := chutePuts_keeps hy
        exact ⟨by simp [k.1], fun w => by simpa using k.2 (by simpa using w)⟩
    · split at hx
      · cases hx; simp +contextual
      · cases hx; split <;> simp +contextual
  exact ⟨by simp [key.1], fun w => by simp [key.2 w]⟩

@[simp] theorem drainReplies_frame (s : State) (f : Nat) :
    (drainReplies s f).pending = s.pending ∧ (drainReplies s f).mem = s.mem := by
  unfold drainReplies; try dsimp only
  repeat' first | simp | split

@[simp] theorem dmaGoOn_frame (s : State) (k : Nat) :
    (dmaGoOn s k).pending = s.pending ∧ (dmaGoOn s k).mem = s.mem := by
  unfold dmaGoOn; try dsimp only
  repeat' first | simp | split

@[simp] theorem rebase_frame (s : State) (d : Slot) :
    (rebase s d).pending = s.pending ∧ (rebase s d).mem = s.mem := by
  unfold rebase; try dsimp only
  repeat' first | simp | split

@[simp] theorem loadEpoch_frame (s : State) (at' load : Slot) (frac : BitVec 8) (vacheod : Bool) :
    (loadEpoch s at' load frac vacheod).pending = s.pending ∧
      (loadEpoch s at' load frac vacheod).mem = s.mem := by
  unfold loadEpoch; try dsimp only
  repeat' first | simp | split

@[simp] theorem edgeLoad_frame (s : State) (onSync : Bool) (slot : Slot) :
    (edgeLoad s onSync slot).pending = s.pending ∧ (edgeLoad s onSync slot).mem = s.mem := by
  unfold edgeLoad; try dsimp only
  repeat' first | simp | split

@[simp] theorem timebaseRec_frame (s : State) (slot : Slot) (step : Bool) :
    (timebaseRec s slot step).pending = s.pending ∧ (timebaseRec s slot step).mem = s.mem := by
  unfold timebaseRec; try dsimp only
  repeat' first | simp | split

@[simp] theorem oneStep_frame (s : State) (later : Bool) :
    (oneStep s later).pending = s.pending ∧ (oneStep s later).mem = s.mem := by
  unfold oneStep; try dsimp only
  repeat' first | simp | split

@[simp] theorem evLink_frame (s : State) (kind port dev : Nat) (extra : Nat) :
    (evLink s kind port dev extra).pending = s.pending ∧ (evLink s kind port dev extra).mem = s.mem := by
  unfold evLink; try dsimp only
  repeat' first | simp | split

@[simp] theorem setVp_frame (s : State) (v : Nat) (st : VpSt) :
    (setVp s v st).pending = s.pending ∧ (setVp s v st).mem = s.mem := by
  unfold setVp; try dsimp only
  repeat' first | simp | split

@[simp] theorem breakTree_frame (s : State) (v : Nat) :
    (breakTree s v).pending = s.pending ∧ (breakTree s v).mem = s.mem := by
  unfold breakTree; try dsimp only
  repeat' first | simp | split

@[simp] theorem loseVp_frame (s : State) (v : Nat) (st : VpSt) :
    (loseVp s v st).pending = s.pending ∧ (loseVp s v st).mem = s.mem := by
  unfold loseVp; try dsimp only
  repeat' first | simp | split

@[simp] theorem sendSide_frame (s : State) (v : Nat) :
    (sendSide s v).pending = s.pending ∧ (sendSide s v).mem = s.mem := by
  unfold sendSide; try dsimp only
  repeat' first | simp | split

@[simp] theorem queueSide_frame (s : State) (v : Nat) (f : BitVec 192) :
    (queueSide s v f).pending = s.pending ∧ (queueSide s v f).mem = s.mem := by
  unfold queueSide; try dsimp only
  repeat' first | simp | split

@[simp] theorem flood_frame (s : State) (from' : Option Nat) (f : BitVec 192) :
    (flood s from' f).pending = s.pending ∧ (flood s from' f).mem = s.mem := by
  unfold flood; try dsimp only
  repeat' first | simp | split

@[simp] theorem deliverMsg_frame (s : State) (f : BitVec 192) (broadcast : Bool) :
    (deliverMsg s f broadcast).pending = s.pending ∧ (deliverMsg s f broadcast).mem = s.mem := by
  unfold deliverMsg; try dsimp only
  repeat' first | simp | split

@[simp] theorem syncChains_frame (s : State) (slot : Slot) :
    (syncChains s slot).pending = s.pending ∧ (syncChains s slot).mem = s.mem := by
  unfold syncChains; try dsimp only
  repeat' first | simp | split

@[simp] theorem phaseError_frame (s : State) :
    (phaseError s).pending = s.pending ∧ (phaseError s).mem = s.mem := by
  unfold phaseError; try dsimp only
  repeat' first | simp | split

@[simp] theorem syncDividers_frame (s : State) (slot : Slot) :
    (syncDividers s slot).pending = s.pending ∧ (syncDividers s slot).mem = s.mem := by
  unfold syncDividers; try dsimp only
  repeat' first | simp | split

@[simp] theorem disciplinePps_frame (s : State) (tm : Timemark) :
    (disciplinePps s tm).pending = s.pending ∧ (disciplinePps s tm).mem = s.mem := by
  unfold disciplinePps; try dsimp only
  repeat' first | simp | split

@[simp] theorem applyEnable_frame (s : State) (v : Nat) :
    (applyEnable s v).pending = s.pending ∧ (applyEnable s v).mem = s.mem := by
  unfold applyEnable; try dsimp only
  repeat' first | simp | split

@[simp] theorem applyJoin_frame (s : State) :
    (applyJoin s).pending = s.pending ∧ (applyJoin s).mem = s.mem := by
  unfold applyJoin; try dsimp only
  repeat' first | simp | split

@[simp] theorem takeRecords_frame (s : State) (v : Nat) (flit : BitVec 192) :
    (takeRecords s v flit).pending = s.pending ∧ (takeRecords s v flit).mem = s.mem := by
  unfold takeRecords; try dsimp only
  repeat' first | simp | split

@[simp] theorem sideFailed_frame (s : State) (v : Nat) :
    (sideFailed s v).pending = s.pending ∧ (sideFailed s v).mem = s.mem := by
  unfold sideFailed; try dsimp only
  repeat' first | simp | split

@[simp] theorem takePiece_frame (s : State) (v : Nat) (start : Bool) (x : BitVec 12) :
    (takePiece s v start x).pending = s.pending ∧ (takePiece s v start x).mem = s.mem := by
  unfold takePiece; try dsimp only
  repeat' first | simp | split

@[simp] theorem takeReady_frame (s : State) (v : Nat) (lstate : Nat) :
    (takeReady s v lstate).pending = s.pending ∧ (takeReady s v lstate).mem = s.mem := by
  unfold takeReady; try dsimp only
  repeat' first | simp | split

@[simp] theorem reportTree_frame (s : State) (V : Vach) :
    (reportTree s V).pending = s.pending ∧ (reportTree s V).mem = s.mem := by
  unfold reportTree; try dsimp only
  repeat' first | simp | split

@[simp] theorem persistentFault_frame (s : State) (p : Nat) (injected : Bool) :
    (persistentFault s p injected).pending = s.pending ∧ (persistentFault s p injected).mem = s.mem := by
  unfold persistentFault; try dsimp only
  repeat' first | simp | split

@[simp] theorem mismatch_frame (s : State) (p : Nat) (injected : Bool) :
    (mismatch s p injected).pending = s.pending ∧ (mismatch s p injected).mem = s.mem := by
  unfold mismatch; try dsimp only
  repeat' first | simp | split

@[simp] theorem failOnCore_frame (core : Nat) (s : State) (p : Packet) :
    (failOnCore core s p).pending = s.pending ∧ (failOnCore core s p).mem = s.mem := by
  unfold failOnCore; try dsimp only
  repeat' first | simp | split

@[simp] theorem broken_frame (s : State) (l : Nat) :
    (broken s l).pending = s.pending ∧ (broken s l).mem = s.mem := by
  unfold broken; try dsimp only
  repeat' first | simp | split

@[simp] theorem failLink_frame (s : State) (d : Nat) :
    (failLink s d).pending = s.pending ∧ (failLink s d).mem = s.mem := by
  unfold failLink; try dsimp only
  repeat' first | simp | split

@[simp] theorem breakTune_frame (s : State) (e : Nat) (bundle : BitVec 72) :
    (breakTune s e bundle).pending = s.pending ∧ (breakTune s e bundle).mem = s.mem := by
  unfold breakTune; try dsimp only
  repeat' first | simp | split

/-- What an outcome keeps: the command queue, and the canonical form of capture memory. -/
def Outcome.Keeps (s : State) (o : Host.Outcome State Fault Refusal) : Prop :=
  ∀ t, o = .next t → t.pending = s.pending ∧ (Memory.wf s.mem = true → Memory.wf t.mem = true)

theorem Outcome.keeps_next {s t : State} (h : t.pending = s.pending ∧
    (Memory.wf s.mem = true → Memory.wf t.mem = true)) : Outcome.Keeps s (.next t) := by
  intro u hu; cases hu; exact h

theorem Outcome.keeps_self (s : State) : Outcome.Keeps s (.next s) := Outcome.keeps_next ⟨rfl, id⟩

theorem Outcome.keeps_ok {s t : State} (h : t.pending = s.pending ∧
    (Memory.wf s.mem = true → Memory.wf t.mem = true)) : Outcome.Keeps s (ok t) :=
  Outcome.keeps_next (by simpa using h)

/-- A host command keeps the queue and the form of memory when its effect does. -/
theorem Cmd.run_keeps (c : Cmd) (p : Packet) (s : State) (params state : List (Option Fail))
    (eff : State → State × Rep) (h : ∀ s, (eff s).1.pending = s.pending ∧
      (Memory.wf s.mem = true → Memory.wf (eff s).1.mem = true)) :
    Outcome.Keeps s (Cmd.run c p s params state eff) := by
  unfold Cmd.run
  split
  · dsimp only
    split
    · exact Outcome.keeps_ok (by simp)
    · have := h (takePacket c p s)
      refine Outcome.keeps_ok ?_
      simpa using this
  · exact Outcome.keeps_self s

theorem Cmd.runPowered_keeps (c : Cmd) (p : Packet) (s : State) (ready : Bool) (hs : List Holder) (cap : Bool)
    (params state : List (Option Fail)) (eff : State → State × Rep)
    (h : ∀ s, (eff s).1.pending = s.pending ∧ (Memory.wf s.mem = true → Memory.wf (eff s).1.mem = true)) :
    Outcome.Keeps s (Cmd.runPowered c p s ready hs cap params state eff) := by
  unfold Cmd.runPowered
  dsimp only
  split
  · exact Cmd.run_keeps _ _ _ _ _ _ h
  · split
    · exact Outcome.keeps_ok (by simp)
    · exact Outcome.keeps_self s

end Sys2Proof.Machine
end

