-- ==== Sys2Proof/Laws/Ports.lean ====
section
/-! SUPPORT. Lanes of a port, and what a record, a change of state or a message leaves of a port. -/
namespace Sys2Proof.Machine

/-! ### Lanes -/

@[simp] theorem lane_modLane (P : Port) (q r : Nat) (f : Lane → Lane) :
    (P.modLane q f).lane r = if r = q then f (P.lane q) else P.lane r := by simp [Port.lane, Port.modLane]

/-- Writing lanes leaves every other field of the port. -/
theorem setLanes_eq (qs : List Nat) (f : Lane → Lane) (P : Port) :
    P.setLanes qs f = { P with lanes := (P.setLanes qs f).lanes } := by
  unfold Port.setLanes
  induction qs generalizing P with
  | nil => rfl
  | cons q qs ih => rw [List.foldl_cons, ih (P.modLane q f)]; rfl

theorem lane_setLanes (qs : List Nat) (hq : qs.Nodup) (f : Lane → Lane) (P : Port) (r : Nat) :
    (P.setLanes qs f).lane r = if r ∈ qs then f (P.lane r) else P.lane r := by
  unfold Port.setLanes
  induction qs generalizing P with
  | nil => simp
  | cons q qs ih =>
    have hn := List.nodup_cons.mp hq
    rw [List.foldl_cons, ih hn.2]
    by_cases e : r = q
    · subst e; simp [hn.1]
    · simp [e]

/-- Every lane of the nine is written. -/
theorem lane_setLanes_positions (f : Lane → Lane) (P : Port) (r : Nat) (hr : r < 9) :
    (P.setLanes positions f).lane r = f (P.lane r) := by
  rw [lane_setLanes _ (by simp [positions, List.nodup_range])]; simp [positions, hr]

theorem lane_congr {P Q : Port} (h : P.lanes = Q.lanes) (r : Nat) : P.lane r = Q.lane r := by
  simp [Port.lane, h]

/-! ### Records, states and messages -/

theorem emitRec_port (s : State) (p : Nat) (slot : Slot) (a b : Nat) :
    (emitRec s p slot a b).port p = { s.port p with run := ((emitRec s p slot a b).port p).run } := by
  unfold emitRec; split
  · rw [State.port_modPort, if_pos rfl]
  · rfl

theorem emitRec_port_other (s : State) (p q : Nat) (h : q ≠ p) (slot : Slot) (a b : Nat) :
    (emitRec s p slot a b).port q = s.port q := by
  unfold emitRec; split
  · rw [State.port_modPort, if_neg h]
  · rfl

/-- A change of the port's state (R51, R63). -/
theorem setPortState_port (s : State) (p : Nat) (st : PortSt) (h : (s.port p).state ≠ st) :
    (setPortState s p st).port p = { s.port p with
      state := st
      slotStatus := put (put (s.port p).slotStatus 6 1 1) 8 1 (b2n (st == .quarantined))
      badBlocks := if (s.port p).state == .down then 0 else (s.port p).badBlocks
      gapBlocks := if (s.port p).state == .down then 0 else (s.port p).gapBlocks
      calBlocks := if (s.port p).state == .down then 0 else (s.port p).calBlocks
      run := ((setPortState s p st).port p).run } := by
  unfold setPortState
  have h' : ((s.port p).state == st) = false := by simpa using h
  simp only [h', portRecord, Bool.false_eq_true, if_false, evOwner_rest]
  rw [emitRec_port, State.port_modPort, if_pos rfl]

theorem setPortState_same (s : State) (p : Nat) : setPortState s p (s.port p).state = s := by
  simp [setPortState]

theorem setPortState_port_other (s : State) (p q : Nat) (h : q ≠ p) (st : PortSt) :
    (setPortState s p st).port q = s.port q := by
  unfold setPortState; dsimp only; split
  · rfl
  · simp only [portRecord, evOwner_rest]
    rw [emitRec_port_other _ _ _ h, State.port_modPort, if_neg h]

/-- An acknowledgement changes the messages that wait for it, and the measured loop delay (R45, R48). -/
theorem send_eq (P : Port) (ty : Nat) (body : List Nat) (e : Option EffectKind) (a : Option (BitVec 18)) :
    P.send ty body e a = { P with
      txQueue := P.txQueue ++ [⟨P.txSeq, BitVec.ofNat 5 ty, body.map (BitVec.ofNat 18), e, a, 0⟩]
      txSeq := if P.txSeq = 255 then 1 else P.txSeq + 1 } := rfl

end Sys2Proof.Machine
end

