-- ==== Sys2Proof/Laws/Replies.lean ====
section
/-! SUPPORT. What posting an entry or a reply may change: nothing but the queues it is posted to and the lines
they raise (SameButReplies), one lemma for each operation that posts. -/

open Sys2Proof.Machine

namespace Sys2Proof.Laws

theorem sameButReplies_trans {a b c : State} (h : SameButReplies a b) (k : SameButReplies b c) : SameButReplies a c := by
  unfold SameButReplies at *; rw [k]; rw [h]

theorem sameButReplies_refl (a : State) : SameButReplies a a := rfl

theorem putEntry_sameButReplies (s f e) : SameButReplies s (putEntry s f e) := by
  unfold putEntry; try dsimp only
  repeat' first | rfl | split

theorem evalFn_sameButReplies (s f) : SameButReplies s (evalFn s f) := by
  unfold evalFn; try dsimp only
  repeat' first | rfl | split

theorem settle_sameButReplies (s) : SameButReplies s (settle s) := by
  unfold settle
  generalize s.fns.map (·.1) = l
  induction l generalizing s with
  | nil => rfl
  | cons a l ih => exact sameButReplies_trans (evalFn_sameButReplies s a) (ih _)

theorem replyQueue_sameButReplies (s f e) : SameButReplies s (replyQueue s f e) := by
  unfold replyQueue; dsimp only; split
  · exact sameButReplies_trans (by rfl) (putEntry_sameButReplies _ _ _)
  · split <;> rfl

theorem drainBad_sameButReplies (n s f) : SameButReplies s (drainBad n s f) := by
  induction n generalizing s with
  | zero => rfl
  | succ n ih =>
    unfold drainBad; split
    · split
      · exact sameButReplies_trans (sameButReplies_trans (by rfl) (replyQueue_sameButReplies _ _ _)) (ih _)
      · rfl
    · rfl

theorem replyTo_sameButReplies (s b p st d r x) : SameButReplies s (replyTo s b p st d r x) := by
  unfold replyTo; dsimp only; split
  · split <;> rfl
  · split
    · rfl
    · refine sameButReplies_trans ?_ (replyQueue_sameButReplies _ _ _)
      split <;> rfl

theorem conclude_sameButReplies (c p) (x : State × Rep) : SameButReplies x.1 (conclude c p x) := by
  unfold conclude; split
  · refine sameButReplies_trans ?_ (replyTo_sameButReplies _ _ _ _ _ _ _)
    unfold dropSecond; split <;> rfl
  · dsimp only; split
    · rfl
    · exact sameButReplies_trans (by rfl) (replyQueue_sameButReplies _ _ _)
  · rfl

theorem takePacket_sameButReplies (c p s) : SameButReplies s (takePacket c p s) := by
  unfold takePacket; split <;> rfl
end Sys2Proof.Laws
end

