-- ==== Sys2Proof/Tests/Slice0.lean ====
section
/-! SUPPORT. The model's own tests: ill-formed commands that WellFormed refuses, states that meet the hypotheses of
every statement (one theorem for each statement, one part for each clause), and small checks against the spec. -/
set_option Elab.async false
namespace Sys2Proof.Machine.Slice0

/-! ### Helpers -/

/-- A packet of function 0 with its inline parameters as bytes 0, 1, … of a number, and its data area. -/
def pk (op inl : Nat) (area : List Byte := []) : Packet :=
  { emptyPacket with opcode := BitVec.ofNat 16 op, cells := 1, inl := BitVec.ofNat 128 inl, area := area }

/-- A packet that returns through a valid buffer of 8 KiB. -/
def pb (op inl : Nat) (area : List Byte := []) : Packet :=
  { pk op inl area with ret := BitVec.ofNat 128 (0x10000 + 8192 * 2 ^ 64) }

/-- A session whose command key is 0. -/
def ses : Session := { Session.reset with kcmd := 0 }

/-- The packet with the tag of a session whose key is 0. -/
def sg (c : Cmd) (p : Packet) : Packet :=
  { p with auth := true, authTag := Config.hmac (bytesOf 48 0) ({ p with auth := true }.bytes c.buffer) }

/-- The state with the packet fetched, and nothing before it, in the ACTIVE queue of its function. -/
def go (p : Packet) (s : State) : State :=
  s.modFn p.fn.toNat fun F => { F with
    qState := .active, fetched := [⟨p.core, none, []⟩], begun := [], rqLog2 := 8 }

theorem ready_of {c : Cmd} {p : Packet} {s : State}
    (h : (begins c p s && (allChecks c p s [] []).isNone) = true) : Ready c p s := by
  simp at h; exact h

theorem passes_of {fs : List (Option Fail)} (h : (firstFail fs).isNone = true) : Passes fs :=
  (firstFail_none_iff fs).mp (by simpa using h)

/-- Every check of a signed packet but its tag's. -/
def signOk (c : Cmd) (p : Packet) (s : State) : Bool :=
  let P := sg c p
  let S := go P s
  let F := S.fn p.fn.toNat
  p.opcode.toNat == c.opcode && !held c P S && !p.mbox && !p.fence && !p.afterDma && !F.flr &&
  decide ((if c.accepts then 2 else 1) ≤ F.freeEntries) &&
  (match keySession c P S with
    | some k => k.kcmd == 0
    | none => false) &&
  (firstFail ([need (!(S.part P.part).wiping) ⟨0x60, 0⟩] ++ (frontChecks c P S).eraseIdx 5 ++ paramChecks c P ++
    (if c.mgmt || c.cls.isNone then [] else [ownsTarget S P]) ++
    (if c.cls.isNone then [] else [bootBusy S P.target]) ++
    [need (!(c.buffer && P.retFail && !P.mbox)) (stFault (locEndpoint P.part) 1),
      need (!c.accepts || P.mbox || acceptedCount S P < 64) (stBusy 0xA000)])).isNone

theorem ready_signed {c : Cmd} {p : Packet} {s : State} (h : signOk c p s = true) :
    Ready c (sg c p) (go (sg c p) s) := by
  unfold signOk at h
  simp only [Bool.and_eq_true, firstFail_none_iff, Option.isNone_iff_eq_none, passes_append] at h
  obtain ⟨⟨⟨⟨⟨⟨⟨⟨h1, h2⟩, h3⟩, h4⟩, h5⟩, h6⟩, h7⟩, h8⟩, h9⟩ := h
  have hf : ((go (sg c p) s).fn (sg c p).fn.toNat).fetched = [⟨(sg c p).core, none, []⟩] := by simp [go]
  have hb : ((go (sg c p) s).fn (sg c p).fn.toNat).begun = [] := by simp [go]
  have hq : ((go (sg c p) s).fn (sg c p).fn.toNat).qState = .active := by simp [go]
  have e1 : (sg c p).core.fn = (sg c p).fn := rfl
  have e2 : (sg c p).core.fence = false := by simpa [sg, Packet.core] using h4
  have e3 : (sg c p).core.afterDma = false := by simpa [sg, Packet.core] using h5
  have e4 : (sg c p).mbox = false := by simpa [sg] using h3
  refine ⟨?_, ?_⟩
  · have e5 : (sg c p).fn = p.fn := rfl
    have e6 : (sg c p).opcode.toNat = c.opcode := by simpa [sg] using h1
    rw [e5] at hf hb hq
    simp at h2 h6 h7
    unfold begins findFetched
    simp [e4, h2, e6, mayBegin, e1, e5, hf, hb, hq, before, e2, e3, show (sg c p).core.core = (sg c p).core from rfl]
    exact ⟨h6, h7⟩
  · unfold allChecks
    rw [firstFail_none_iff]
    simp only [passes_append, passes_nil, and_true] at *
    have ha : authCheck c (sg c p) (go (sg c p) s) = none := by
      unfold authCheck
      split at h8
      next k hk =>
        have hk0 : k.kcmd = 0 := beq_iff_eq.mp h8
        simp only [hk, hk0]
        have : (sg c p).auth = true := rfl
        simp only [this]
        simp [need]
        rfl
      next => simp at h8
    refine ⟨⟨⟨⟨⟨h9.1.1.1.1.1, ?_⟩, h9.1.1.1.2⟩, h9.1.1.2⟩, by simpa using h9.1.2⟩, h9.2⟩
    have := h9.1.1.1.1.2
    intro x hx
    by_cases hc : x = authCheck c (sg c p) (go (sg c p) s)
    · rw [hc, ha]
    · apply this
      simp only [frontChecks, List.eraseIdx, List.mem_cons] at hx ⊢
      tauto

/-! ### A package at work: die 0 with its first region, cluster, port, engine, channels and DMA channels -/

def w0 : State := { State.reset with
  time := { TimeSt.reset with counting := true, slotCount := 6400 }
  ports := [(0, { Port.reset with state := .live, desc := BitVec.ofNat 256 (2 ^ 64 - 1), prsnt := true })]
  clusters := [(0, { Cluster.reset with powered := true })]
  regions := [(0, { Region.reset with powered := true })]
  dies := [(0, { Die.reset with pwr := 2 })]
  chans := [(0, { Chan.reset with st := .service }), (8, { Chan.reset with st := .service })]
  eps := [(0, { Endpoint.reset with up := true, perst := false }),
    (1, { Endpoint.reset with up := true, perst := false })]
  fns := [(0, Fn.reset)]
  parts := [(0, { Part.reset with session := some ses })]
  mbox := { Mbox.reset with ready := true }
  sec := { Sec.reset with coSession := some ses }
  boot := { Boot.reset with step := 11, lodgeOn := true }
  pwr := { Pwr.reset with state := 2 }
  clk := { Clk.reset with dclkLock := true, refclkOk := true, hclkLock := true, monLock := true }
  hub := { Hub.reset with
    pairOwner := [(0, some 0)], dmaOwner := [(0, some 0)], pcsOwner := [(0, some 0)] } }

/-- The package at work with its port 0 changed. -/
def wp (f : Port → Port) : State := w0.modPort 0 f

/-- Nine lanes in use. -/
def nine : Tab Lane := (List.range 9).map fun q => (q, { Lane.reset with st := .live, laneId := BitVec.ofNat 4 q })

/-- A window of 4,608 bytes at the bottom of region 0, of partition 0. -/
def win0 : BitVec 128 := BitVec.ofNat 128 (2 ^ 45 + 4608 * 2 ^ 64)

/-- A PART_WINDOW_SET of that window. -/
def qWin : Packet := sg cmdPartWindowSet (pk 0x0204 (2 ^ 64) (bytesOf 16 win0.toNat))
def sWin : State := go qWin w0
theorem newEntries_qWin : newEntries qWin = [win0] := by decide +kernel
theorem newWindows_qWin : newWindows qWin sWin = [(0, win0)] := by decide +kernel

/-- A slalom table that meets R110: `lift_beats` = 96 and nothing else. -/
def table0 : List Byte := List.replicate 14 0 ++ [96] ++ List.replicate 1329 0
/-- A table whose state 0 has a branch 2 that is always true, to state 3. -/
def br2 : Slalom := BitVec.ofNat 10752 ((0xFFFF * 2 ^ 32 + 3 * 2 ^ 48 + 2 ^ 55) * 2 ^ (8 * (64 + 48)))
/-- A sequencer at work whose state 0 has a branch that is always true, with output. -/
def seqr0 : Pcs := { Pcs.reset with
  beat := 64, table := BitVec.ofNat 3072 (2 ^ 359 + (0xFFFF * 2 ^ 20 + 2 ^ 39 + 2 ^ 40) * 2 ^ 576) }
/-- The package with port 0 ready to be armed: records of 192 units at byte 72, in a window of partition 0. -/
def armable : State :=
  let s := wp fun P => { P with run := { P.run with cfg := BitVec.ofNat 512 (192 * 2 ^ 288 + 72 * 2 ^ 192) } }
  { s.modHub (fun H => { H with windows := [(0, BitVec.ofNat 128 (2 ^ 45 + 2 ^ 44 + 4608 * 2 ^ 64))] }) with
    chans := s.chans.set 7 { Chan.reset with st := .service } }

/-- The package at work with its engine 0 changed. -/
def we (f : Engine → Engine) : State := w0.modEng 0 f
/-- Engine 0 runs, with the bundle of two slots at its pc. -/
def sEng (x y : BitVec 36) (f : Engine → Engine := id) : State :=
  we fun E => f { E with st := .running, imem := [(0, bundleOf x y)] }
/-- A chain that transforms 64 real samples into each frame, and its first frame. -/
def chain0 : Chain := { Chain.reset with
  st := .running, cfg := BitVec.ofNat 512 (3 * 2 ^ 128 + 6 * 2 ^ 136 + 64 * 2 ^ 152 + 2 ^ 384) }
def frame0 : Frame := ⟨0, 0, 0, false, [], [], (1, 1)⟩
/-- The chain once the 64 samples of that frame have arrived. -/
def chain1 : Chain := { chain0 with
  passed := 4096
  pipes := [(0, { PipeSt.reset with hist := (List.range 64).map fun i => (i, (0, 0), false) })] }
/-- The operands of g3 = g1 op g2. -/
def x312 : XOps := ⟨3, 1, 2, 0⟩
def y0 : YOps := ⟨0, 0, false, 0, 0⟩
theorem only_die0 {s : State} {k : Nat} (hk : clusterHolders k = clusterHolders 0) (h : dieForbidden s 0 = false) :
    ∀ d, Holder.die d ∈ clusterHolders k → dieForbidden s d = false := by
  rw [hk]
  intro d hd
  have : d = 0 := by simpa [clusterHolders, regionHolders] using hd
  exact this ▸ h
/-- The package at work with its channel 0, its function 0, its DMA channel 0 or its compression engine 0 changed. -/
def wch (f : Chan → Chan) : State := w0.modChan 0 f
def wf (f : Fn → Fn) : State := w0.modFn 0 f
def wdma (f : Dma → Dma) : State := w0.modDma 0 f
def wcmp (f : Cmp → Cmp) : State := w0.modCmp 0 f
/-- A descriptor of 64 bytes. -/
def bits64 : BitVec 512 := BitVec.ofNat 512 (64 * 2 ^ 256)
def desc64 : Desc := { Desc.reset with bits := bits64, total := 64 }
/-- A memory configuration with another select field than the one at reset. -/
def memCfg1 : List Byte := List.replicate 12 0 ++ [0, 2, 1, 0, 1] ++ List.replicate 15 0
/-- The package at work with its own Vacheod port 0, or its state, changed. -/
def wvp (f : Vp → Vp) : State := w0.modVp 0 f
def wv (f : Vach → Vach) : State := w0.modVach f
/-- The package at work in a life cycle: `lc` sensed fuses. -/
def wlc (lc : Nat) (rest : Nat := 0) : State := w0.modSec fun S => { S with
  sensed := BitVec.ofNat 1024 (lc + rest), fuses := BitVec.ofNat 1024 (lc + rest) }
/-- The packet with its data by reference. -/
def byRef (p : Packet) (bs : List Byte) : Packet := { p with
  dataRef := true, refData := bs, area := bytesOf 16 (0x10000 + bs.length * 2 ^ 64) }
/-- The mailbox holds SEC_FW_UPDATE op 0 with a chunk of zeros, in the recovery service. -/
def mboxFw : Mbox := { Mbox.reset with ready := true, busy := true, cmd := [(0, 6), (1, 0x0F), (4, 1)] }
def sFw : State := { w0 with mbox := mboxFw, boot := { w0.boot with recovery := true } }
def qFw : Packet := mailboxPacket false (mboxFw.cmd.toList 0 4096)
/-- The mailbox holds DEV_STATUS, in the recovery service. -/
def mboxStatus : Mbox := { Mbox.reset with ready := true, busy := true, cmd := [(0, 2), (1, 1), (4, 1)] }
def sStatus : State := { w0 with mbox := mboxStatus, boot := { w0.boot with recovery := true } }
def qStatus : Packet := mailboxPacket true (mboxStatus.cmd.toList 0 4096)
def boot0 : BootIn :=
  ⟨none, false, [0, 0], ⟨List.replicate 5 0, List.replicate 5 0, 0, 0⟩, [], [], List.replicate 10 (0, 0), false⟩
/-- The package at work with a window of partition 0 that may be read and written. -/
def sWinAll : State := w0.modHub fun H => { H with
  windows := [(0, BitVec.ofNat 128 (2 ^ 45 + 2 ^ 44 + 2 ^ 43 + 4608 * 2 ^ 64))] }
/-- DMA channel 0 at a descriptor that reads 64 bytes there. -/
def sDma : State := sWinAll.modDma 0 fun D => { D with
  st := .running, cur := some { desc64 with bits := BitVec.ofNat 512 (64 * 2 ^ 256 + 2 ^ 304) } }
/-- The state that a request passes with. -/
def passed : Passage → State
  | .passes s => s
  | _ => w0
/-- The link of the die that holds the window is down. -/
def sChute : State := sWinAll.modDie 0 fun D => { D with linkUp := false }
/-- Engine 0 waits with a TUNE for the fenced front end of port 0. -/
def sTune : State := (wp fun P => { P with trig := { P.trig with fenced := some 0 } }).modEng 0 fun E => { E with
  stall := some (bundleOf 0 (yWord 0x15 y0)) }
def isl0 : IslandIn := ⟨none, false⟩

/-! ### Witnesses -/

theorem witness_StepRunsTheFrontCommand :
    ∃ (c : Instr), ∃ (cs : List Instr), ∃ (s : State), (s.pending = c :: cs) :=
  ⟨.devInfo emptyPacket, [], { State.reset with pending := [.devInfo emptyPacket] }, by decide +kernel⟩

theorem witness_IdleStepIsOneBeat :
    ∃ (s : State), (s.pending = []) :=
  ⟨State.reset, by decide +kernel⟩

theorem witness_EveryStepKeepsMemoryCanonical :
    ∃ (s : State), ∃ t, (CaptureCanonical s) ∧ (step s = .next t) :=
  ⟨w0, _, by unfold CaptureCanonical; decide +kernel, rfl⟩

theorem witness_OnlyTwelveRowsChangeMemory :
    ∃ (i : Instr), ∃ (s : State), ∃ t, (exec i s = .next t) ∧ (writesMemory i = false) :=
  ⟨.portGet emptyPacket, State.reset, _, rfl, rfl⟩

theorem witness_StepNeverStops :
    ∃ (s : State), ∃ t, (step s = .next t) :=
  ⟨w0, _, rfl⟩

theorem witness_FailingCommandHasNoEffect :
    (∃ (c : Cmd), ∃ (p : Packet), ∃ (s : State), ∃ (params : List (Option Fail)), ∃ (state : List (Option Fail)), ∃ (eff : State → State × Rep), ∃ (f : Fail), (begins c p s = true) ∧ (allChecks c p s params state = some f) ∧ (f.status ≠ 0x31)) ∧
    (∃ (c : Cmd), ∃ (p : Packet), ∃ (s : State), ∃ (params : List (Option Fail)), ∃ (state : List (Option Fail)), ∃ (eff : State → State × Rep), ∃ (f : Fail), (begins c p s = true) ∧ (allChecks c p s params state = some f) ∧ (f.status = 0x31)) ∧
    (∃ (c : Cmd), ∃ (p : Packet), ∃ (s : State), ∃ (params : List (Option Fail)), ∃ (state : List (Option Fail)), ∃ (eff : State → State × Rep), (begins c p s = false)) ∧
    (∃ (c : Cmd), ∃ (p : Packet), ∃ (s : State), ∃ (params : List (Option Fail)), ∃ (state : List (Option Fail)), ((s.part p.part).wiping = true)) ∧
    (∃ (c : Cmd), ∃ (p : Packet), ∃ (s : State), ∃ (params : List (Option Fail)), ∃ (state : List (Option Fail)), ((s.part p.part).wiping = false) ∧ (s.boot.recovery = false) ∧ (s.sec.error = false) ∧ (p.reserved = 0) ∧ (p.fence = false) ∧ (c.mgmt = true) ∧ (p.fn ≠ 0)) ∧
    (∃ (c : Cmd), ∃ (p : Packet), ∃ (s : State), ∃ (params : List (Option Fail)), ∃ (state : List (Option Fail)), ((s.part p.part).wiping = false) ∧ (s.boot.recovery = false) ∧ (s.sec.error = false) ∧ (p.reserved = 0) ∧ (p.fence = false) ∧ (c.mgmt = false) ∧ (c.partField = false) ∧ (p.partition ≠ p.fn)) :=
  ⟨⟨cmdDevInfo, pb 0x0101 0, go (pb 0x0101 0) (w0.modPart 0 fun P => { P with wiping := true }), [], [], fun s => (s, .ok), ⟨0x60, 0⟩, by decide +kernel, rfl, by decide⟩,
   ⟨cmdDevReset, pk 0x0103 0, go (pk 0x0103 0) w0, [], [], fun s => (s, .ok), ⟨0x31, 1⟩, by decide +kernel, rfl, rfl⟩,
   ⟨cmdDevInfo, pb 0x0101 0, w0, [], [], fun s => (s, .ok), by decide +kernel⟩,
   ⟨cmdDevInfo, pb 0x0101 0, w0.modPart 0 fun P => { P with wiping := true }, [], [], by decide +kernel⟩,
   ⟨cmdDevReset, { pk 0x0103 0 with fn := 1 }, w0, [], [], by decide +kernel⟩,
   ⟨cmdDevInfo, { pk 0x0101 0 with partition := 1 }, w0, [], [], by decide +kernel⟩⟩

theorem witness_AnAnswerOnlyReplies :
    ∃ (c : Cmd), ∃ (p : Packet), ∃ (s : State), ∃ (result : Nat), (p.mbox = true) ∧ (s.mbox.begun = true) ∧ (c.buffer = false) :=
  ⟨cmdPortOpen, { pk 0x0301 0 with mbox := true }, { w0 with mbox := { Mbox.reset with begun := true } }, 0, by decide +kernel⟩

theorem witness_PortCommandFrame :
    ∃ row ∈ portRows, ∃ (p : Packet), ∃ (s : State), ∃ t, (exec (row p) s = .next t) :=
  ⟨.portGet, by simp [portRows], emptyPacket, State.reset, _, rfl⟩

theorem witness_DeviceAndLogCommandsComplete :
    (∃ (p : Packet), ∃ (s : State), (Ready cmdDevInfo p s)) ∧
    (∃ (p : Packet), ∃ (s : State), (Ready cmdDevStatus p s) ∧ (s.boot.recovery = false)) ∧
    (∃ (p : Packet), ∃ (s : State), (Ready cmdDevStatus p s) ∧ (s.boot.recovery = true)) ∧
    (∃ (p : Packet), ∃ (s : State), (Ready cmdDevReset p s)) ∧
    (∃ (p : Packet), ∃ (s : State), (Ready cmdDevEcho p s) ∧ (p.inb 4 2 ≤ 4032) ∧ (p.inb 4 2 ≤ p.data.length)) ∧
    (∃ (p : Packet), ∃ (s : State), (Ready cmdLogRead p s) ∧ (1 ≤ p.inb 12 4) ∧ (p.inb 12 4 ≤ 1024)) ∧
    (∃ (p : Packet), ∃ (s : State), (Ready cmdLogInfo p s)) ∧
    (∃ (s : State), (s.faults.logNew ≠ 0)) ∧
    (∃ (p : Packet), ∃ (s : State), (Ready cmdLedger p s) ∧ (p.target = 0) ∧ (p.subv = 0)) ∧
    (∃ (p : Packet), ∃ (s : State), (Ready cmdLedger p s) ∧ (locOk p.target = true) ∧ (p.target / 0x1000 = 0xB) ∧ (p.subv = 1)) ∧
    (∃ (p : Packet), ∃ (s : State), (Ready cmdLedger p s) ∧ (p.target = 0) ∧ (p.subv = 2) ∧ (p.inb 4 1 ≤ 1)) :=
  ⟨⟨pb 0x0101 0, go (pb 0x0101 0) (w0), ready_of (by decide +kernel)⟩,
   ⟨pb 0x0102 0, go (pb 0x0102 0) (w0), ready_of (by decide +kernel), by decide +kernel⟩,
   ⟨qStatus, sStatus, ready_of (by decide +kernel), by decide +kernel⟩,
   ⟨sg cmdDevReset (pk 0x0103 0), go (sg cmdDevReset (pk 0x0103 0)) (w0), ready_signed (by decide +kernel)⟩,
   ⟨pb 0x0104 (2 * 2 ^ 32) [1, 2, 3], go (pb 0x0104 (2 * 2 ^ 32) [1, 2, 3]) (w0), ready_of (by decide +kernel), by decide +kernel⟩,
   ⟨pb 0x1001 (2 ^ 96), go (pb 0x1001 (2 ^ 96)) (w0), ready_of (by decide +kernel), by decide +kernel⟩,
   ⟨pk 0x1002 0, go (pk 0x1002 0) (w0), ready_of (by decide +kernel)⟩,
   ⟨w0.modFaults fun F => { F with logNew := 1 }, by decide +kernel⟩,
   ⟨pb 0x1003 0, go (pb 0x1003 0) (w0), ready_of (by decide +kernel), by decide +kernel⟩,
   ⟨pb 0x1003 (0xB000 + 2 ^ 16), go (pb 0x1003 (0xB000 + 2 ^ 16)) (w0), ready_of (by decide +kernel), by decide +kernel⟩,
   ⟨pb 0x1003 (2 * 2 ^ 16 + 2 ^ 32), go (pb 0x1003 (2 * 2 ^ 16 + 2 ^ 32)) (w0), ready_of (by decide +kernel), by decide +kernel⟩⟩

theorem witness_PartitionCommandsComplete :
    (∃ (p : Packet), ∃ (s : State), (Ready cmdPartAssign p s) ∧ (Passes (spanChecks p)) ∧ ((∀ i ∈ spanOf p, blockOwner s (p.inb 4 1) i = none ∨ blockOwner s (p.inb 4 1) i = some p.partition))) ∧
    (∃ (p : Packet), ∃ (s : State), (Ready cmdPartRelease p s) ∧ (Passes (spanChecks p)) ∧ ((∀ i ∈ spanOf p, blockOwner s (p.inb 4 1) i = none ∨
      (blockOwner s (p.inb 4 1) i = some p.partition ∧ blockBusy s (p.inb 4 1) i = false)))) ∧
    (∃ (p : Packet), ∃ (s : State), (Ready cmdPartWipe p s) ∧ (partChans s p.partition.toNat = []) ∧ (wipesLeft s p.partition.toNat = false)) ∧
    (∃ (p : Packet), ∃ (s : State), (Ready cmdPartWipe p s) ∧ (partChans s p.partition.toNat ≠ [])) ∧
    (∃ (p : Packet), ∃ (s : State), (Ready cmdPartWindowSet p s) ∧ (1 ≤ p.inb 8 4) ∧ (p.inb 4 4 + p.inb 8 4 ≤ 1024) ∧ (16 * p.inb 8 4 ≤ p.data.length) ∧ ((∀ e ∈ newEntries p, zeros e [(47, 17), (103, 25)] = true ∧ (winValid e = true → winShape e = true) ∧
      overlapsOther (newWindows p s) e = false)) ∧ ((∀ i < p.inb 8 4, winValid ((newEntries p).getD i 0) = true → winValid (s.window (p.inb 4 4 + i)) = true →
      winPart (s.window (p.inb 4 4 + i)) = winPart ((newEntries p).getD i 0))) ∧ (takesDirty s (newWindows p s) = false)) ∧
    (∃ (p : Packet), ∃ (s : State), (Ready cmdPartWindowInval p s) ∧ (p.inb 4 4 + p.inb 8 4 ≤ 1024)) ∧
    (∃ (p : Packet), ∃ (s : State), (Ready cmdPartGet p s)) ∧
    (∃ (p : Packet), ∃ (s : State), (Ready cmdPartEvents p s) ∧ (p.inb 8 4 ≤ 1000000)) ∧
    (∃ (k : BitVec 4), ∃ (s : State), ((s.part k.toNat).evInterval ≠ 0) ∧ (notAfter (s.part k.toNat).evT0 s.time.slotCount = true) ∧ (((s.part k.toNat).evIdx + 1) * trigInterval (s.part k.toNat).evInterval.toNat ≤
      slotsTo (s.part k.toNat).evT0 s.time.slotCount)) :=
  ⟨⟨sg cmdPartAssign (pk 0x0201 (2 ^ 32 + 0 * 2 ^ 48 + 2 * 2 ^ 64)), go (sg cmdPartAssign (pk 0x0201 (2 ^ 32 + 0 * 2 ^ 48 + 2 * 2 ^ 64))) (w0), ready_signed (by decide +kernel), passes_of (by decide +kernel), by decide +kernel⟩,
   ⟨pk 0x0202 (2 * 2 ^ 32 + 2 ^ 64), go (pk 0x0202 (2 * 2 ^ 32 + 2 ^ 64)) (w0), ready_of (by decide +kernel), passes_of (by decide +kernel), by decide +kernel⟩,
   ⟨pk 0x0203 0, go (pk 0x0203 0) (w0), ready_of (by decide +kernel), by decide +kernel⟩,
   ⟨pk 0x0203 0, go (pk 0x0203 0) (w0.modHub fun H => { H with windows := [(0, win0)] }), ready_of (by decide +kernel), by decide +kernel⟩,
   ⟨qWin, sWin, ready_signed (by decide +kernel), by decide +kernel, by decide +kernel, by decide +kernel, by rw [newEntries_qWin, newWindows_qWin]; exact List.forall_mem_singleton.mpr (by decide +kernel), by rw [newEntries_qWin]; decide +kernel, by rw [newWindows_qWin]; decide +kernel⟩,
   ⟨pk 0x0205 (4 * 2 ^ 64), go (pk 0x0205 (4 * 2 ^ 64)) (w0), ready_of (by decide +kernel), by decide +kernel⟩,
   ⟨pb 0x0206 0, go (pb 0x0206 0) (w0), ready_of (by decide +kernel)⟩,
   ⟨pk 0x0207 (3 * 2 ^ 32 + 1000 * 2 ^ 64), go (pk 0x0207 (3 * 2 ^ 32 + 1000 * 2 ^ 64)) (w0), ready_of (by decide +kernel), by decide +kernel⟩,
   ⟨0, { w0.modPart 0 fun P => { P with evInterval := 5 } with time := { w0.time with slotCount := 2 ^ 60 } }, by decide +kernel⟩⟩

theorem witness_PortCommandsComplete :
    (∃ (p : Packet), ∃ (s : State), (Ready cmdPortOpen p s) ∧ ((s.port p.idx).state = .powered) ∧ (dieForbidden s (portDie p.idx) = false) ∧ ((s.port p.idx).trig.heldOut = false) ∧ ((s.die (portDie p.idx)).bootOk = true)) ∧
    (∃ (p : Packet), ∃ (s : State), (Ready cmdPortClose p s) ∧ ((s.port p.idx).trig.armed = false)) ∧
    (∃ (p : Packet), ∃ (s : State), (Ready cmdPortRetrain p s) ∧ ((s.port p.idx).streams = true) ∧ (dieForbidden s (portDie p.idx) = false)) ∧
    (∃ (p : Packet), ∃ (s : State), (Ready cmdPortFmt p s) ∧ (bit (s.port p.idx).desc (48 + p.inb 4 1 % 16) = true) ∧ ((s.port p.idx).trig.armed = false) ∧ ((s.port p.idx).streams = true)) ∧
    (∃ (p : Packet), ∃ (s : State), (Ready cmdPortHold p s) ∧ ((s.port p.idx).trig.armed = false) ∧ ((s.port p.idx).state = .live)) ∧
    (∃ (p : Packet), ∃ (s : State), (Ready cmdPortPass p s) ∧ (1 ≤ p.inb 4 1) ∧ (p.inb 4 1 ≤ 11) ∧ (4 * p.inb 4 1 ≤ p.data.length) ∧ ((∀ k < p.inb 4 1, p.dat (4 * k) 4 < 2 ^ 18)) ∧ ((s.port p.idx).streams = true)) ∧
    (∃ (p : Packet), ∃ (s : State), (Ready cmdPortGet p s)) :=
  ⟨⟨pk 0x0301 0, go (pk 0x0301 0) (wp fun P => { P with state := .powered }), ready_of (by decide +kernel), by decide +kernel⟩,
   ⟨pk 0x0302 0, go (pk 0x0302 0) (w0), ready_of (by decide +kernel), by decide +kernel⟩,
   ⟨pk 0x0303 0, go (pk 0x0303 0) (w0), ready_of (by decide +kernel), by decide +kernel⟩,
   ⟨pk 0x0304 (0x12 * 2 ^ 32), go (pk 0x0304 (0x12 * 2 ^ 32)) (w0), ready_of (by decide +kernel), by decide +kernel⟩,
   ⟨pk 0x0305 0, go (pk 0x0305 0) (w0), ready_of (by decide +kernel), by decide +kernel⟩,
   ⟨pk 0x0306 (11 * 2 ^ 32) ((List.range 11).flatMap fun _ => [1, 2, 3, 0]), go (pk 0x0306 (11 * 2 ^ 32) ((List.range 11).flatMap fun _ => [1, 2, 3, 0])) (wp fun P => { P with state := .degraded }), ready_of (by decide +kernel), by decide +kernel⟩,
   ⟨pb 0x0307 0, go (pb 0x0307 0) (w0), ready_of (by decide +kernel)⟩⟩

theorem witness_PortHappeningsAreKept :
    (∃ (p : BitVec 7), ∃ (q : BitVec 4), ∃ (c : LossCause), ∃ (s : State), ((s.port p.toNat).streams = true) ∧ (q.toNat < 9) ∧ (((s.port p.toNat).lane q.toNat).usable = true)) ∧
    (∃ (p : BitVec 7), ∃ (s : State), ∃ m, ∃ (ms : List Msg), ((s.port p.toNat).unacked = m :: ms) ∧ (8 ≤ m.sends) ∧ ((s.port p.toNat).streams = true)) ∧
    (∃ (p : BitVec 7), ∃ (s : State), ∃ m, ∃ (ms : List Msg), ((s.port p.toNat).unacked = m :: ms) ∧ (m.sends < 8)) ∧
    (∃ (p : BitVec 7), ∃ (s : State), ((s.port p.toNat).state = .live) ∧ ((s.port p.toNat).trig.armed = false) ∧ (fld s.pwr.cfg 16 16 ≠ 0)) ∧
    (∃ (p : BitVec 7), ∃ (s : State), ((s.port p.toNat).prsnt = true) ∧ ((s.port p.toNat).streams = true)) ∧
    (∃ (p : BitVec 7), ∃ (more : List Byte), ∃ (joint : Bool), ∃ (s : State), (sidebandOpen s p.toNat = true) ∧ ((s.port p.toNat).streams = true)) ∧
    (∃ (p : BitVec 7), ∃ (joint : Bool), ∃ (s : State), (sidebandOpen s p.toNat = true) ∧ ((s.port p.toNat).streams = true)) :=
  ⟨⟨0, 8, .lossOfLock, wp fun P => { P with lanes := nine }, by decide +kernel⟩,
   ⟨0, wp fun P => { P with unacked := [{ Msg.reset with sends := 8 }] }, { Msg.reset with sends := 8 }, [], by decide +kernel⟩,
   ⟨0, wp fun P => { P with unacked := [{ Msg.reset with sends := 7 }] }, { Msg.reset with sends := 7 }, [], by decide +kernel⟩,
   ⟨0, { w0 with pwr := { Pwr.reset with state := 2, cfg := BitVec.ofNat 256 (2 ^ 16) } }, by decide +kernel⟩,
   ⟨0, w0, by decide +kernel⟩,
   ⟨0, [], false, w0, by decide +kernel⟩,
   ⟨0, false, w0, by decide +kernel⟩⟩

theorem witness_PortEventsComplete :
    (∃ (p : BitVec 7), ∃ (bs : List (List (BitVec 2))), ∃ (as : List (Nat × Int)), ∃ (s : State), ((s.port p.toNat).streams = true) ∧ ((s.port p.toNat).pending = []) ∧ ((∀ q < 9, ((s.port p.toNat).lane q).usable = true ∨ ((s.port p.toNat).lane q).st = .block →
       ((readBlocks (s.port p.toNat) bs as).getD q noBlock).good = true))) ∧
    (∃ (p : BitVec 7), ∃ (s : State), ((s.port p.toNat).transmits = true) ∧ ((s.port p.toNat).equalising = []) ∧ ((s.port p.toNat).frames < 1023) ∧ ((s.port p.toNat).txQueue = [])) ∧
    (∃ (p : BitVec 7), ∃ (s : State), ∃ m, ∃ (ms : List Msg), ((s.port p.toNat).transmits = true) ∧ ((s.port p.toNat).equalising = []) ∧ ((s.port p.toNat).frames < 1023) ∧ ((s.port p.toNat).txQueue = m :: ms) ∧ ((s.port p.toNat).unacked.length < 8) ∧ (m.eff = none) ∧ (m.mtype ≠ 1) ∧ ((s.port p.toNat).streams = true)) ∧
    (∃ (p : BitVec 7), ∃ (s : State), ((s.port p.toNat).effects = [⟨(s.port p.toNat).seqExp, .warmHold⟩]) ∧ ((s.port p.toNat).state = .live)) ∧
    (∃ (p : BitVec 7), ∃ (s : State), ∃ f, ((s.port p.toNat).effects = [⟨(s.port p.toNat).seqExp, .streamCtrl true f⟩]) ∧ ((s.port p.toNat).state = .warm) ∧ ((s.port p.toNat).fmt = f)) ∧
    (∃ (p : BitVec 7), ∃ (m : TrainIn), ∃ (s : State), ∃ t, ((s.port p.toNat).training = some t) ∧ (m.failed = []) ∧ (t.failed.length ≤ 2) ∧ (1 ≤ t.phase) ∧ (t.phase ≤ 4) ∧ ((t.phase = 3 → locksOf m (positions.filter fun q => !t.failed.contains q) ≠ none))) ∧
    (∃ (p : BitVec 7), ∃ (ls : List (BitVec 4)), ∃ (s : State), ∃ t, ((s.port p.toNat).training = some t)) ∧
    (∃ (p : BitVec 7), ∃ d, ∃ (s : State), ((s.port p.toNat).descRead = true) ∧ ((s.port p.toNat).state = .down) ∧ ((s.port p.toNat).powerOut = true) ∧ ((s.port p.toNat).selfTrain = false) ∧ (descGood d = true)) ∧
    (∃ (p : BitVec 7), ∃ (s : State), ((s.port p.toNat).descRead = true) ∧ ((s.port p.toNat).state = .down)) ∧
    (∃ (p : BitVec 7), ∃ (s : State), ((s.port p.toNat).prsnt = false)) ∧
    (∃ (n : BitVec 2), ∃ (inputs : BitVec 64), ∃ (s : State), ((∀ j < 32, (s.port (32 * n.toNat + j)).streams = true))) :=
  ⟨⟨0, [], [], wp fun P => { P with state := .warm, seqExp := 7 }, by decide +kernel⟩,
   ⟨0, w0, by decide +kernel⟩,
   ⟨0, wp fun P => { P with txQueue := [{ Msg.reset with mtype := 8 }] }, { Msg.reset with mtype := 8 }, [], by decide +kernel⟩,
   ⟨0, wp fun P => { P with lanes := nine, effects := [⟨0, .warmHold⟩] }, by decide +kernel⟩,
   ⟨0, wp fun P => { P with state := .warm, lanes := nine, effects := [⟨0, .streamCtrl true 0⟩] }, 0, by decide +kernel⟩,
   ⟨0, ⟨[], [], [], 0, 0⟩, wp fun P => { P with state := .training, training := some { Training.reset with phase := 4 } }, { Training.reset with phase := 4 }, by decide +kernel⟩,
   ⟨0, [1, 2, 3], wp fun P => { P with state := .training, training := some { Training.reset with phase := 2 } }, { Training.reset with phase := 2 }, by decide +kernel⟩,
   ⟨0, BitVec.ofNat 256 (2 ^ 32 + 9 * 2 ^ 40), wp fun P => { P with state := .down, descRead := true, slotStatus := 2 }, by decide +kernel⟩,
   ⟨0, wp fun P => { P with state := .down, descRead := true }, by decide +kernel⟩,
   ⟨0, wp fun P => { P with prsnt := false, slotCtrl := 2 }, by decide +kernel⟩,
   ⟨0, 1, { w0 with ports := (List.range 32).map fun p => (p, { Port.reset with state := .live }) }, by decide +kernel⟩⟩

theorem witness_SweepLaneRebuildsAnyLane :
    ∃ (sent : List (List (BitVec 18))), ∃ (n : Nat), ∃ (k : Nat), ((∀ w ∈ sent, w.length = n)) ∧ (k < sent.length) :=
  ⟨[[1, 2], [3, 4]], 2, 1, by decide +kernel⟩

theorem witness_LineCodeTurnsBack :
    ∃ (rseq : BitVec 18), ∃ (ty : BitVec 5), ∃ (seq : BitVec 8), ∃ (body : List (BitVec 18)), (body.length ≤ 11) :=
  ⟨1, 2, 3, [4], by decide +kernel⟩

theorem witness_GateAndSlalomCommandsComplete :
    (∃ (p : Packet), ∃ (s : State), (Ready cmdGateSet p s) ∧ (p.subv < 32) ∧ (gateOk (p.blk 512) = true) ∧ (gateLinks (s.port p.idx) (p.blk 512) = true) ∧ (gateOwned s p.fn (p.blk 512) = true) ∧ ((s.port p.idx).trig.armed = false)) ∧
    (∃ (p : Packet), ∃ (s : State), (Ready cmdGateGet p s) ∧ (p.subv < 32)) ∧
    (∃ (p : Packet), ∃ (s : State), (Ready cmdGateTune p s) ∧ (p.subv < 32) ∧ (gateOk (tunedGate (s.port p.idx) p.subv (p.dat 0 48)) = true) ∧ ((s.port p.idx).trig.armed = true)) ∧
    (∃ (p : Packet), ∃ (s : State), (Ready cmdSlalomSet p s) ∧ (slalomOk (p.blk 10752) = true) ∧ ((s.port p.idx).trig.armed = false)) ∧
    (∃ (p : Packet), ∃ (s : State), (Ready cmdSlalomGet p s) ∧ (p.subv = 0)) ∧
    (∃ (p : Packet), ∃ (s : State), (Ready cmdSlalomGet p s) ∧ (p.subv = 1)) ∧
    (∃ (p : Packet), ∃ (s : State), (Ready cmdSlalomTune p s) ∧ ((s.port p.idx).trig.armed = true)) ∧
    (∃ (p : Packet), ∃ (s : State), (Ready cmdSlalomPcsSet p s) ∧ (p.subv < 16) ∧ (pcsOk (p.blk 3072) = true) ∧ (s.pcsOwner p.subv = some p.fn) ∧ (pcsOwned s p.fn (p.blk 3072) = true) ∧ (((s.seqr p.subv).en = false ∨ bit (p.blk 3072) 359 = false))) ∧
    (∃ (p : Packet), ∃ (s : State), (Ready cmdSlalomPcsGet p s) ∧ (p.subv < 16) ∧ (s.pcsOwner p.subv = some p.fn)) :=
  ⟨⟨pk 0x0401 0 (List.replicate 64 0), go (pk 0x0401 0 (List.replicate 64 0)) (w0), ready_of (by decide +kernel), by decide +kernel⟩,
   ⟨pb 0x0402 0, go (pb 0x0402 0) (w0), ready_of (by decide +kernel), by decide +kernel⟩,
   ⟨pk 0x0403 0 (List.replicate 48 0), go (pk 0x0403 0 (List.replicate 48 0)) (wp fun P => { P with trig := { P.trig with armed := true } }), ready_of (by decide +kernel), by decide +kernel⟩,
   ⟨pk 0x0501 0 table0, go (pk 0x0501 0 table0) (w0), ready_of (by decide +kernel), by decide +kernel⟩,
   ⟨pb 0x0502 0, go (pb 0x0502 0) (w0), ready_of (by decide +kernel), by decide +kernel⟩,
   ⟨pb 0x0502 (2 ^ 16), go (pb 0x0502 (2 ^ 16)) (w0), ready_of (by decide +kernel), by decide +kernel⟩,
   ⟨pk 0x0503 0 (List.replicate 36 1), go (pk 0x0503 0 (List.replicate 36 1)) (wp fun P => { P with trig := { P.trig with armed := true } }), ready_of (by decide +kernel), by decide +kernel⟩,
   ⟨pk 0x0504 0xA000 (List.replicate 384 0), go (pk 0x0504 0xA000 (List.replicate 384 0)) (w0), ready_of (by decide +kernel), by decide +kernel⟩,
   ⟨pb 0x0505 0xA000, go (pb 0x0505 0xA000) (w0), ready_of (by decide +kernel), by decide +kernel⟩⟩

theorem witness_LowestTrueBranchIsTaken :
    (∃ (T : Slalom), ∃ (c : SlalomCore), ∃ (slot : Slot), ∃ (row : Nat), ∃ (b : Nat), (b < 4) ∧ 
let c0 := if c.gapSeen && T.gapPolicy then slalomRestart T c else c
(branchTrue T c0 row (T.branch c0.st.toNat b) = true) ∧ ((∀ a < b, branchTrue T c0 row (T.branch c0.st.toNat a) = false))) ∧
    (∃ (T : Slalom), ∃ (c : SlalomCore), ∃ (slot : Slot), ∃ (row : Nat), 
let c0 := if c.gapSeen && T.gapPolicy then slalomRestart T c else c
((∀ a < 4, branchTrue T c0 row (T.branch c0.st.toNat a) = false))) ∧
    (∃ (from' : Nat), ∃ (to' : Nat), ∃ (brTrue : Nat), ∃ (taken : Option (Nat × Branch)), ∃ (row : Nat), (from' < 16) ∧ (to' < 16) ∧ (brTrue < 16) ∧ (row < 2 ^ 32) ∧ ((∀ x, taken = some x → x.1 < 4))) :=
  ⟨⟨br2, { SlalomCore.reset with phase := .hunt }, 0, 1, 2, by dsimp only; exact by decide +kernel⟩,
   ⟨0, { SlalomCore.reset with phase := .hunt }, 0, 1, by dsimp only; exact by decide +kernel⟩,
   ⟨1, 2, 3, some (3, 5), 7, by decide, by decide, by decide, by decide, by rintro x ⟨⟩; decide⟩⟩

theorem witness_CounterRules :
    (∃ (v : Nat), (v + 2 < 2 ^ 48)) ∧
    (∃ (v : Nat), (v + 1 < 2 ^ 48)) ∧
    (∃ (T : Slalom), ∃ (c : SlalomCore), ∃ (slot : Slot), ∃ (row : Nat), ∃ (k : Nat), (k < 4)) ∧
    (∃ (T : Slalom), ∃ (c : SlalomCore), ∃ (row : Nat), ∃ (k : Nat), (k < 4)) ∧
    (∃ (hit : Bool), ∃ (op : Nat), ∃ (v : Nat), (op < 4) ∧ (v < 2 ^ 48)) :=
  ⟨⟨5, by decide +kernel⟩,
   ⟨5, by decide +kernel⟩,
   ⟨0, SlalomCore.reset, 0, 1, 3, by decide +kernel⟩,
   ⟨0, SlalomCore.reset, 1, 3, by decide +kernel⟩,
   ⟨true, 3, 5, by decide +kernel⟩⟩

theorem witness_TimerRules :
    (∃ (v : Nat), ∃ (run : Bool), ∃ (k : Nat), (1 ≤ k) ∧ (k < 2 ^ 48)) ∧
    (∃ (T : Slalom), ∃ (c : SlalomCore), ∃ (row : Nat), ∃ (n : Nat), (n < 2)) ∧
    (∃ (T : Slalom), ∃ (c : SlalomCore), ∃ (base : Slot), ∃ (hits : List (BitVec 64)), (c.phase = .hunt)) :=
  ⟨⟨5, true, 2 ^ 48 - 1, by decide +kernel⟩,
   ⟨0, SlalomCore.reset, 1, 1, by decide +kernel⟩,
   ⟨0, { SlalomCore.reset with phase := .hunt }, 0, [], by decide +kernel⟩⟩

theorem witness_PatternGateHitsTheWholeSample :
    ∃ (g : Gate), ∃ (st : GateSt), ∃ (x : Samp), ∃ (j : Nat), (g.type = 1) ∧ (j < 64) ∧ (x.pos + x.len ≤ 64) :=
  ⟨BitVec.ofNat 512 1, GateSt.reset, ⟨62, 2, [1, 2]⟩, 63, by decide +kernel⟩

theorem witness_TriggerEventsComplete :
    (∃ (n : BitVec 4), ∃ (b : BitVec 64), ∃ (s : State), ((s.seqr n.toNat).en = true) ∧ ((s.seqr n.toNat).beat = b) ∧ (pcsReady s (s.seqr n.toNat) b = true) ∧ ((pcsStep (s.seqr n.toNat) b).2 = none)) ∧
    (∃ (n : BitVec 4), ∃ (b : BitVec 64), ∃ (s : State), ∃ j, ((s.seqr n.toNat).en = true) ∧ ((s.seqr n.toNat).beat = b) ∧ (pcsReady s (s.seqr n.toNat) b = true) ∧ ((pcsStep (s.seqr n.toNat) b).2 = some j)) ∧
    (∃ (p : BitVec 7), ∃ (s : State), ∃ (t : Tune), ((s.port p.toNat).trig.tunes = [t]) ∧ ((s.port p.toNat).due t.effect = true)) ∧
    (∃ (p : BitVec 7), ∃ (s : State), ∃ (a : BitVec 64), ((s.port p.toNat).trig.armBeat = some a) ∧ ((s.port p.toNat).due a = true) ∧ ((s.port p.toNat).trig.disarmAt = none)) ∧
    (∃ (p : BitVec 7), ∃ (s : State), ((s.port p.toNat).trig.sl.phase = .lift) ∧ ((s.port p.toNat).due (s.port p.toNat).trig.sl.liftEnd = true) ∧ ((s.port p.toNat).trig.fenced = none)) ∧
    (∃ (p : BitVec 7), ∃ (s : State), ((s.port p.toNat).ended (s.port p.toNat).pos = true) ∧ ((s.port p.toNat).trig.fenced = none) ∧ ((s.port p.toNat).trig.stopCause = none) ∧ ((s.port p.toNat).run.fillsDir = false)) ∧
    (∃ (p : BitVec 7), ∃ (s : State), ∃ (d : BitVec 64), ((s.port p.toNat).trig.disarmAt = some d) ∧ ((s.port p.toNat).due d = true) ∧ ((s.port p.toNat).ended d = false) ∧ ((s.port p.toNat).trig.sl.phase ≠ .runout) ∧ ((s.port p.toNat).run.refused = none)) ∧
    (∃ (p : BitVec 7), ∃ (s : State), ∃ (b : Beat), ∃ (bs : List Beat), ((s.port p.toNat).deskew = b :: bs) ∧ ((s.port p.toNat).blocked b.slot = false) ∧ ((s.port p.toNat).trig.sl.phase = .idle) ∧ ((s.port p.toNat).trig.armed = false) ∧ (b.lost = false) ∧ (((s.port p.toNat).wouldStore b.slot && (s.port p.toNat).drops) = false)) ∧
    (∃ (p : BitVec 7), ∃ (s : State), ∃ (b : Beat), ∃ (bs : List Beat), ((s.port p.toNat).deskew = b :: bs) ∧ ((s.port p.toNat).blocked b.slot = false) ∧ ((s.port p.toNat).trig.sl.phase = .idle) ∧ ((s.port p.toNat).trig.armed = false) ∧ (b.lost = true)) ∧
    (∃ (p : BitVec 7), ∃ (s : State), ∃ (b : Beat), ∃ (bs : List Beat), ((s.port p.toNat).deskew = b :: bs) ∧ ((s.port p.toNat).blocked b.slot = false) ∧ ((s.port p.toNat).trig.heldOut = false) ∧ ((s.port p.toNat).trig.sl.phase ≠ .idle) ∧ (b.lost = true)) ∧
    (∃ (p : BitVec 7), ∃ (s : State), ∃ (b : Beat), ∃ (bs : List Beat), ((s.port p.toNat).deskew = b :: bs) ∧ ((s.port p.toNat).blocked b.slot = false) ∧ ((s.port p.toNat).trig.heldOut = false) ∧ ((s.port p.toNat).trig.sl.phase ≠ .idle) ∧ (b.lost = false) ∧ ((s.port p.toNat).wouldStore b.slot = false)) :=
  ⟨⟨0, 64, { w0 with pcs := [(0, { Pcs.reset with table := BitVec.ofNat 3072 (2 ^ 359), beat := 64 })] }, by decide +kernel⟩,
   ⟨0, 64, { w0 with pcs := [(0, seqr0)] }, 0, by decide +kernel⟩,
   ⟨0, wp fun P => { P with trig := { P.trig with tunes := [⟨none, 5, 0⟩] } }, ⟨none, 5, 0⟩, by decide +kernel⟩,
   ⟨0, wp fun P => { P with trig := { P.trig with armBeat := some 0, armed := true } }, 0, by decide +kernel⟩,
   ⟨0, wp fun P => { P with trig := { P.trig with armed := true, sl := { P.trig.sl with phase := .lift } } }, by decide +kernel⟩,
   ⟨0, wp fun P => { P with nextBeat := 64, trig := { P.trig with armed := true, sl := { P.trig.sl with phase := .runout } } }, by decide +kernel⟩,
   ⟨0, wp fun P => { P with trig := { P.trig with armed := true, disarmAt := some 0, sl := { P.trig.sl with phase := .hunt } } }, 0, by decide +kernel⟩,
   ⟨0, wp fun P => { P with deskew := [Beat.reset] }, Beat.reset, [], by decide +kernel⟩,
   ⟨0, wp fun P => { P with deskew := [{ Beat.reset with lost := true, cause := 1 }] }, { Beat.reset with lost := true, cause := 1 }, [], by decide +kernel⟩,
   ⟨0, wp fun P => { P with deskew := [{ Beat.reset with lost := true, cause := 1 }], trig := { P.trig with armed := true, sl := { P.trig.sl with phase := .lift, liftEnd := 640 } } }, { Beat.reset with lost := true, cause := 1 }, [], by decide +kernel⟩,
   ⟨0, wp fun P => { P with deskew := [Beat.reset], trig := { P.trig with armed := true, sl := { P.trig.sl with phase := .lift, liftEnd := 640 } } }, Beat.reset, [], by decide +kernel⟩⟩

theorem witness_RunCommandsComplete :
    (∃ (p : Packet), ∃ (s : State), (Ready cmdRunSet p s) ∧ (runCfgOk (p.blk 512) = true) ∧ ((s.port p.idx).trig.armed = false)) ∧
    (∃ (p : Packet), ∃ (s : State), (Ready cmdRunGet p s)) ∧
    (∃ (p : Packet), ∃ (s : State), (Ready cmdRunArm p s) ∧ (maskPorts p ≠ []) ∧ (beatFieldOk p 0 = true) ∧ (Passes (armChecks p s (loadBeat s (maskPorts p)))) ∧ ((∀ q ∈ maskPorts p, (s.port q).state ≠ .warm))) ∧
    (∃ (p : Packet), ∃ (s : State), (Ready cmdRunDisarm p s) ∧ (maskPorts p ≠ []) ∧ (beatFieldOk p 0 = true) ∧ ((∀ q ∈ maskPorts p, s.portOwner q = some p.fn)) ∧ (11 ≤ s.boot.step) ∧ ((beatImm p 0 = true ∨ notAfter (lastBeatOf s (maskPorts p)) (beatAt p 0) = true))) ∧
    (∃ (p : Packet), ∃ (s : State), (Ready cmdRunRelease p s) ∧ (p.inb 4 5 < 2 ^ 36) ∧ ((BitVec.ofNat 36 (p.inb 4 5) - (s.port p.idx).run.relSeq).toNat <
      ((s.port p.idx).run.nextSeq - (s.port p.idx).run.relSeq).toNat)) ∧
    (∃ (p : Packet), ∃ (s : State), (Ready cmdRunStatus p s)) ∧
    (∃ (p : Packet), ∃ (s : State), (Ready cmdRunMaskSet p s) ∧ (p.inb 4 2 + p.inb 6 2 ≤ 65536) ∧ (9 * ((p.inb 6 2 + 1) / 2) ≤ p.data.length) ∧ ((s.port p.idx).trig.armed = false)) :=
  ⟨⟨pk 0x0601 0 (bytesOf 64 (192 * 2 ^ 288 + 72 * 2 ^ 192)), go (pk 0x0601 0 (bytesOf 64 (192 * 2 ^ 288 + 72 * 2 ^ 192))) (w0), ready_of (by decide +kernel), by decide +kernel⟩,
   ⟨pb 0x0602 0, go (pb 0x0602 0) (w0), ready_of (by decide +kernel)⟩,
   ⟨pk 0x0603 1 (List.replicate 9 0 ++ [1]), go (pk 0x0603 1 (List.replicate 9 0 ++ [1])) (armable), ready_of (by decide +kernel), by decide +kernel, by decide +kernel, passes_of (by decide +kernel), by decide +kernel⟩,
   ⟨pk 0x0604 1 (List.replicate 9 0 ++ [1]), go (pk 0x0604 1 (List.replicate 9 0 ++ [1])) (w0), ready_of (by decide +kernel), by decide +kernel⟩,
   ⟨pk 0x0605 (2 * 2 ^ 32), go (pk 0x0605 (2 * 2 ^ 32)) (wp fun P => { P with run := { P.run with nextSeq := 5, relSeq := 1 } }), ready_of (by decide +kernel), by decide +kernel⟩,
   ⟨pb 0x0606 0, go (pb 0x0606 0) (w0), ready_of (by decide +kernel)⟩,
   ⟨pk 0x0607 (2 * 2 ^ 48) (List.replicate 9 1), go (pk 0x0607 (2 * 2 ^ 48) (List.replicate 9 1)) (w0), ready_of (by decide +kernel), by decide +kernel⟩⟩

theorem witness_RunDirectoryComplete :
    (∃ (p : BitVec 7), ∃ (s : State), ((s.port p.toNat).trig.sl.phase = .lift) ∧ ((s.port p.toNat).due (s.port p.toNat).trig.sl.liftEnd = true) ∧ ((s.port p.toNat).trig.fenced = none)) ∧
    (∃ (p : BitVec 7), ∃ (s : State), ∃ c, ∃ (cs : List Closing), ((s.port p.toNat).run.closing = c :: cs) ∧ (runPieces s p.toNat c.seq = false)) ∧
    (∃ (p : BitVec 7), ∃ (n : BitVec 36), ∃ (s : State), ∃ (x : Option Nat), ((p.toNat, n, x) ∈ s.hub.marks)) :=
  ⟨⟨0, wp fun P => { P with trig := { P.trig with armed := true, sl := { P.trig.sl with phase := .lift } } }, by decide +kernel⟩,
   ⟨0, wp fun P => { P with run := { P.run with closing := [{ Closing.reset with seq := 3 }] } }, { Closing.reset with seq := 3 }, [], by decide +kernel⟩,
   ⟨0, 3, w0.modHub fun H => { H with marks := [(0, 3, none)] }, none, by decide +kernel⟩⟩

theorem witness_RunBounds :
    (∃ (P : Port), (RunCfg.src P.run.cfg ≠ 2) ∧ (P.run.overAt = none)) ∧
    (∃ (e : BitVec 36), ∃ (w : BitVec 18), (fbv e 0 18 = 0o400000#18) ∧ (fbv e 18 18 = 0o377777#18)) ∧
    (∃ (e : BitVec 36), ∃ (w : BitVec 18), ((fbv e 18 18).toInt < (fbv e 0 18).toInt)) :=
  ⟨⟨Port.reset, by decide +kernel⟩,
   ⟨BitVec.ofNat 36 (0o377777400000), 5, by decide +kernel⟩,
   ⟨BitVec.ofNat 36 5, 7, by decide +kernel⟩⟩

theorem witness_SpectralRowsComplete :
    (∃ (p : Packet), ∃ (s : State), (Ready cmdSpecSet p s) ∧ (specOk (p.blk 512) = true) ∧ ((s.port p.idx).chain.active = false)) ∧
    (∃ (p : Packet), ∃ (s : State), (Ready cmdSpecGet p s) ∧ (p.subv = 0)) ∧
    (∃ (p : Packet), ∃ (s : State), (Ready cmdSpecGet p s) ∧ (p.subv = 2)) ∧
    (∃ (p : Packet), ∃ (s : State), (Ready cmdSpecStart p s) ∧ (beatImm p 0 = true) ∧ (beatFieldOk p 0 = true) ∧ (clusterUsable s (portPair p.idx) = true) ∧ ((∀ d, Holder.die d ∈ clusterHolders (portPair p.idx) →
       dieForbidden s d = false)) ∧ ((s.port p.idx).chain.active = false) ∧ (fmtLogic (s.port p.idx).fmt.toNat = false) ∧ ((s.port p.idx).state = .live) ∧ ((s.port p.idx).dens.hold = .none) ∧ (startOk (s.port p.idx) = true) ∧ (densFits (s.port p.idx) = true)) ∧
    (∃ (p : Packet), ∃ (s : State), (Ready cmdSpecStop p s)) ∧
    (∃ (p : Packet), ∃ (s : State), (Ready cmdSpecSync p s) ∧ (beatImm p 0 = true) ∧ (beatFieldOk p 0 = true) ∧ ((s.port p.idx).chain.active = true)) ∧
    (∃ (p : Packet), ∃ (s : State), (Ready cmdSpecTune p s) ∧ (p.dat 12 1 = 1) ∧ ((s.port p.idx).chain.active = true)) ∧
    (∃ (p : Packet), ∃ (s : State), (Ready cmdSpecCoefSet p s) ∧ (p.subv ≤ 1) ∧ (p.inb 4 1 = 1) ∧ ((s.port p.idx).chain.active = false)) ∧
    (∃ (p : Packet), ∃ (s : State), (Ready cmdSpecCoefSet p s) ∧ (p.subv = 0) ∧ (p.inb 4 1 = 0) ∧ (72 ≤ p.data.length) ∧ ((s.port p.idx).chain.active = false)) ∧
    (∃ (p : Packet), ∃ (s : State), ∃ (n : Nat), (Ready cmdSpecWindowSet p s) ∧ (p.subv = 0) ∧ (n = pipeN ((s.port p.idx).chain.pipe 0)) ∧ (9 * ((n + 3) / 4) ≤ p.data.length) ∧ ((s.port p.idx).chain.active = false)) ∧
    (∃ (p : Packet), ∃ (s : State), (Ready cmdSpecTrigSet p s) ∧ (p.subv < 4) ∧ (trigUnitOk (s.port p.idx) (p.blk 256) = true) ∧ ((s.port p.idx).chain.active = false)) ∧
    (∃ (p : Packet), ∃ (s : State), (Ready cmdSpecTrigTune p s) ∧ (p.subv < 4) ∧ (trigUnitOk (s.port p.idx)
       (put ((s.port p.idx).chain.units.get TrigUnit.reset p.subv).desc 64 96 (p.blk 96).toNat) = true)) ∧
    (∃ (p : Packet), ∃ (s : State), (Ready cmdSpecMaskSet p s) ∧ (p.inb 4 2 + p.inb 6 3 ≤ 65536) ∧ (9 * ((p.inb 6 3 + 1) / 2) ≤ p.data.length) ∧ ((s.port p.idx).chain.active = true)) ∧
    (∃ (p : BitVec 7), ∃ (s : State), ∃ (e : ChainEv), ((s.port p.toNat).chain.sched = [e]) ∧ ((s.port p.toNat).due e.beat = true) ∧ ((s.port p.toNat).chain.st ≠ .stopped ∨ e.cause = 1) ∧ (e.cause.toNat < 15) ∧ ((∀ q ∈ (s.port p.toNat).chain.seqList, (s.port p.toNat).readyFrame q = none))) ∧
    (∃ (p : BitVec 7), ∃ (q : Bool), ∃ (f : Nat), ∃ (s : State), ((s.port p.toNat).readyFrame (b2n q) = some f) ∧ ((s.port p.toNat).chain.st ≠ .stopped) ∧ (b2n q ∈ (s.port p.toNat).chain.seqList) ∧ ((s.port p.toNat).dens.decayDue = false) ∧ ((s.port p.toNat).dens.snapReq = none)) :=
  ⟨⟨pk 0x0701 0 (List.replicate 64 0), go (pk 0x0701 0 (List.replicate 64 0)) (w0), ready_of (by decide +kernel), by decide +kernel⟩,
   ⟨pb 0x0702 0, go (pb 0x0702 0) (w0), ready_of (by decide +kernel), by decide +kernel⟩,
   ⟨pb 0x0702 (2 * 2 ^ 16), go (pb 0x0702 (2 * 2 ^ 16)) (w0), ready_of (by decide +kernel), by decide +kernel⟩,
   ⟨pk 0x0703 0 (List.replicate 9 0 ++ [1]), go (pk 0x0703 0 (List.replicate 9 0 ++ [1])) (w0), ready_of (by decide +kernel), by decide +kernel, by decide +kernel, by decide +kernel, only_die0 (by decide +kernel) (by decide +kernel), by decide +kernel⟩,
   ⟨pk 0x0704 0, go (pk 0x0704 0) (w0), ready_of (by decide +kernel)⟩,
   ⟨pk 0x0705 0 (List.replicate 9 0 ++ [1]), go (pk 0x0705 0 (List.replicate 9 0 ++ [1])) (wp fun P => { P with chain := { P.chain with sched := [⟨6400, 2⟩] } }), ready_of (by decide +kernel), by decide +kernel⟩,
   ⟨pk 0x0706 0 (List.replicate 12 0 ++ [1]), go (pk 0x0706 0 (List.replicate 12 0 ++ [1])) (wp fun P => { P with chain := { P.chain with sched := [⟨6400, 2⟩] } }), ready_of (by decide +kernel), by decide +kernel⟩,
   ⟨pk 0x0707 (2 ^ 32), go (pk 0x0707 (2 ^ 32)) (w0), ready_of (by decide +kernel), by decide +kernel⟩,
   ⟨pk 0x0707 0 (List.replicate 72 1), go (pk 0x0707 0 (List.replicate 72 1)) (w0), ready_of (by decide +kernel), by decide +kernel⟩,
   ⟨pk 0x0708 0 (List.replicate 9 1), go (pk 0x0708 0 (List.replicate 9 1)) (w0), 1, ready_of (by decide +kernel), by decide +kernel⟩,
   ⟨pk 0x0709 0 (List.replicate 32 0), go (pk 0x0709 0 (List.replicate 32 0)) (w0), ready_of (by decide +kernel), by decide +kernel⟩,
   ⟨pk 0x070A 0 (List.replicate 12 0), go (pk 0x070A 0 (List.replicate 12 0)) (w0), ready_of (by decide +kernel), by decide +kernel⟩,
   ⟨pk 0x070B (2 * 2 ^ 48) (List.replicate 9 1), go (pk 0x070B (2 * 2 ^ 48) (List.replicate 9 1)) (wp fun P => { P with chain := { P.chain with sched := [⟨6400, 2⟩] } }), ready_of (by decide +kernel), by decide +kernel⟩,
   ⟨0, wp fun P => { P with chain := { P.chain with sched := [⟨0, 1⟩] } }, ⟨0, 1⟩, by decide +kernel⟩,
   ⟨0, false, 0, wp fun P => { P with chain := chain1 }, by decide +kernel⟩⟩

theorem witness_PhaseAndFramesAfterReset :
    ∃ (c : Chain), ∃ (samp : Nat), ∃ (k : Nat), (0 < samp) ∧ (samp * k < 2 ^ 64) :=
  ⟨Chain.reset, 8, 3, by decide +kernel⟩

theorem witness_SettlingAndBandPower :
    ∃ (d : Dens), ∃ (mask : Tab (BitVec 36)), ∃ (u : TrigUnit), ∃ (fr : Frame), ∃ (bp : Nat), (u.ttype = 2) ∧ (u.tune = none) :=
  ⟨Dens.reset, [], { TrigUnit.reset with desc := 2 }, frame0, 7, by decide +kernel⟩

theorem witness_DensityCompletes :
    (∃ (p : Packet), ∃ (s : State), (Ready cmdDensSet p s) ∧ (densOk (p.blk 512) = true) ∧ ((s.port p.idx).chain.active = false)) ∧
    (∃ (p : Packet), ∃ (s : State), (Ready cmdDensGet p s) ∧ (p.subv = 0)) ∧
    (∃ (p : Packet), ∃ (s : State), (Ready cmdDensGet p s) ∧ (p.subv = 1)) ∧
    (∃ (p : Packet), ∃ (s : State), (Ready cmdDensSnap p s) ∧ ((s.port p.idx).dens.hold = .none) ∧ ((s.port p.idx).dens.snapReq = none)) ∧
    (∃ (p : Packet), ∃ (s : State), (Ready cmdDensReleaseClear p s) ∧ (p.inb 4 1 = 1) ∧ ((s.port p.idx).dens.hold = .frozen) ∧ ((s.port p.idx).dens.releasing = false) ∧ (imageClaimed s p.idx = false)) ∧
    (∃ (p : Packet), ∃ (s : State), (Ready cmdDensReleaseMerge p s) ∧ (p.inb 4 1 = 0) ∧ ((s.port p.idx).dens.hold = .frozen) ∧ ((s.port p.idx).dens.releasing = false) ∧ (imageClaimed s p.idx = false)) ∧
    (∃ (p : Packet), ∃ (s : State), (Ready cmdDensClear p s) ∧ ((s.port p.idx).dens.hold = .none)) ∧
    (∃ (p : BitVec 7), ∃ (s : State), ((s.port p.toNat).dens.decayDue = true) ∧ ((s.port p.toNat).dens.hold = .none)) ∧
    (∃ (p : BitVec 7), ∃ (s : State), ∃ q, ((s.port p.toNat).dens.snapReq = some q) ∧ ((s.port p.toNat).dens.decayDue = false)) ∧
    (∃ (p : BitVec 7), ∃ (s : State), ((s.port p.toNat).dens.hold = .merging)) :=
  ⟨⟨pk 0x0801 0 (List.replicate 64 0), go (pk 0x0801 0 (List.replicate 64 0)) (w0), ready_of (by decide +kernel), by decide +kernel⟩,
   ⟨pb 0x0802 0, go (pb 0x0802 0) (w0), ready_of (by decide +kernel), by decide +kernel⟩,
   ⟨pb 0x0802 (2 ^ 16), go (pb 0x0802 (2 ^ 16)) (w0), ready_of (by decide +kernel), by decide +kernel⟩,
   ⟨pk 0x0803 0, go (pk 0x0803 0) (w0), ready_of (by decide +kernel), by decide +kernel⟩,
   ⟨pk 0x0804 (2 ^ 32), go (pk 0x0804 (2 ^ 32)) (wp fun P => { P with dens := { P.dens with hold := .frozen } }), ready_of (by decide +kernel), by decide +kernel⟩,
   ⟨pk 0x0804 0, go (pk 0x0804 0) (wp fun P => { P with dens := { P.dens with hold := .frozen } }), ready_of (by decide +kernel), by decide +kernel⟩,
   ⟨pk 0x0805 0, go (pk 0x0805 0) (w0), ready_of (by decide +kernel), by decide +kernel⟩,
   ⟨0, wp fun P => { P with dens := { P.dens with decayDue := true } }, by decide +kernel⟩,
   ⟨0, wp fun P => { P with dens := { P.dens with snapReq := some (pk 0x0803 0) } }, pk 0x0803 0, by decide +kernel⟩,
   ⟨0, wp fun P => { P with dens := { P.dens with hold := .merging } }, by decide +kernel⟩⟩

theorem witness_DensityCounters :
    ∃ (d : Dens), ∃ (i : Nat), (d.hold = .none) ∧ (d.live.get 0 i < 2 ^ 24) :=
  ⟨Dens.reset, 5, by decide +kernel⟩

theorem witness_XSlotInstructionsComplete :
    (∃ op, ∃ i, (XInstr op i) ∧ ∃ (e : BitVec 9), ∃ (x : XOps), ∃ (o : BitVec 36), ∃ (s : State), (MayIssue s e.toNat (xWord op x) o)) ∧
    (∃ (e : BitVec 9), ∃ (o : BitVec 36), ∃ (s : State), (MayIssue s e.toNat o 0)) ∧
    (∃ (e : BitVec 9), ∃ (o : BitVec 36), ∃ (s : State), (MayIssue s e.toNat 0 o)) :=
  ⟨⟨0x01, .iAdd, by simp [XInstr], 0, x312, 0, sEng (xWord 0x01 x312) 0, ⟨by decide +kernel, by decide +kernel, rfl, by decide +kernel⟩⟩,
   ⟨0, 0, sEng 0 0, ⟨by decide +kernel, by decide +kernel, rfl, by decide +kernel⟩⟩,
   ⟨0, 0, sEng 0 0, ⟨by decide +kernel, by decide +kernel, rfl, by decide +kernel⟩⟩⟩

theorem witness_YSlotInstructionsComplete :
    ∃ op, ∃ i, (YInstr op i) ∧ ∃ (e : BitVec 9), ∃ (y : YOps), ∃ (o : BitVec 36), ∃ (s : State), (MayIssue s e.toNat o (yWord op y)) :=
  ⟨0x17, .iSwait, by simp [YInstr], 0, y0, 0, (sEng 0 (yWord 0x17 y0)).modCluster 0 (fun C => { C with sync := [(0, 1)] }), ⟨by decide +kernel, by decide +kernel, rfl, by decide +kernel⟩⟩

theorem witness_TrapAndReturn :
    (∃ (e : BitVec 9), ∃ (y : YOps), ∃ (s : State), 
let n := e.toNat

let w := yWord 0x1B y
((s.eng n).runs = true) ∧ (Tab.get 0 (s.eng n).imem (s.eng n).pc.toNat = bundleOf 0 w) ∧ (yOk w = true) ∧ ((s.eng n).branch = none) ∧ (loopTail (s.eng n) (s.eng n).pc.toNat = false) ∧ ((s.eng n).inHandler = false) ∧ ((s.eng n).tvecEn = true) ∧ ((s.eng n).modePend = none) ∧ (interlocked (s.eng n) s.time.slotCount 0 w = false)) ∧
    (∃ (e : BitVec 9), ∃ (y : YOps), ∃ (s : State), 
let n := e.toNat
(MayIssue s n 0 (yWord 0x1C y)) ∧ ((s.eng n).branch = none)) :=
  ⟨⟨0, { y0 with imm := 5 }, sEng 0 (yWord 0x1B { y0 with imm := 5 }) fun E => { E with cfg := BitVec.ofNat 512 (2 ^ 13 * 0 + 2 ^ 29) }, by dsimp only; exact by decide +kernel⟩,
   ⟨0, y0, sEng 0 (yWord 0x1C y0) fun E => { E with st := .handler, inHandler := true }, by dsimp only; exact ⟨⟨by decide +kernel, by decide +kernel, rfl, by decide +kernel⟩, by decide +kernel⟩⟩⟩

theorem witness_ExceptionLeavesNoEffect :
    ∃ (s : State) (e : Nat) (x y : BitVec 36) (c : Cause), lowest (bundleCauses (s.eng e) e x y) = some c ∧ c.code ≠ 8 :=
  ⟨sEng 0x3F 0, 0, 0x3FFFFFFFF, 0, ⟨1, false, 0⟩, rfl, by decide⟩

theorem witness_XSlotFrame :
    ∃ op i, XInstr op i ∧ ∃ (e : BitVec 9) (x : XOps) (s : State) (t : State), MayIssue s e.toNat (xWord op x) 0 ∧ exec (i e x 0) s = .next t :=
  ⟨0x01, .iAdd, by simp [XInstr], 0, x312, sEng (xWord 0x01 x312) 0, _, ⟨by decide +kernel, by decide +kernel, rfl, by decide +kernel⟩, rfl⟩

theorem witness_ArithmeticResults :
    ∃ (m : BitVec 18), ∃ (n : Nat), ∃ (v : Int), (1 ≤ n) :=
  ⟨0, 18, 5, by decide +kernel⟩

theorem witness_SlotFieldsReadBack :
    (∃ (op : Nat), ∃ (x : XOps), (op < 64)) ∧
    (∃ (op : Nat), ∃ (y : YOps), (op < 64)) :=
  ⟨⟨0x3F, ⟨15, 14, 13, 0x3FFFF⟩, by decide +kernel⟩,
   ⟨0x3F, ⟨15, 7, true, 3, 0xFFFFF⟩, by decide +kernel⟩⟩

theorem witness_InnerLoopFirst :
    ∃ (E : Engine), ∃ (b : BitVec 13), ∃ (c0 : BitVec 18), ∃ (c1 : BitVec 18), (E.inHandler = false) ∧ (E.lc = [c0, c1]) :=
  ⟨{ Engine.reset with lc := [2, 3] }, 5, 2, 3, by decide +kernel⟩

theorem witness_ModeTakesEffectAfterItsShadow :
    ∃ (E : Engine), ∃ (e : Nat), ∃ (x : BitVec 36), (xOk x = true) ∧ (slotsConflict x 0 = false) :=
  ⟨Engine.reset, 0, xWord 0x01 x312, by decide +kernel⟩

theorem witness_EngineCommandsComplete :
    (∃ (p : Packet), ∃ (s : State), (Ready cmdEngLoad p s) ∧ (p.subv = 0) ∧ (p.inb 4 4 + p.inb 8 4 ≤ 8192) ∧ (9 * p.inb 8 4 ≤ p.data.length) ∧ (engBusy s p.idx = false) ∧ (clusterUsable s (engCluster p.idx) = true) ∧ ((∀ d, Holder.die d ∈ clusterHolders (engCluster p.idx) →
      dieForbidden s d = false))) ∧
    (∃ (p : Packet), ∃ (s : State), (Ready cmdEngSet p s) ∧ (engCfgOk s p.idx (p.blk 512) = true) ∧ (engBusy s p.idx = false)) ∧
    (∃ (p : Packet), ∃ (s : State), (Ready cmdEngGet p s) ∧ (p.subv = 0)) ∧
    (∃ (p : Packet), ∃ (s : State), (Ready cmdEngGet p s) ∧ (p.subv = 1)) ∧
    (∃ (p : Packet), ∃ (s : State), (Ready cmdEngStart p s) ∧ (p.inb 4 1 = 0) ∧ (beatImm p 0 = true) ∧ (beatFieldOk p 0 = true) ∧ (streamsOk s p.idx = true) ∧ (((s.eng p.idx).st = .stopped ∨ (s.eng p.idx).st = .halted)) ∧ ((s.eng p.idx).startAt = none) ∧ (clusterUsable s (engCluster p.idx) = true) ∧ ((∀ d, Holder.die d ∈ clusterHolders (engCluster p.idx) → dieForbidden s d = false))) ∧
    (∃ (p : Packet), ∃ (s : State), (Ready cmdEngStart p s) ∧ (p.inb 4 1 = 1) ∧ (beatImm p 0 = true) ∧ (beatFieldOk p 0 = true) ∧ (streamsOk s p.idx = true) ∧ ((s.eng p.idx).st = .stopped) ∧ ((s.eng p.idx).resumable = true) ∧ ((s.eng p.idx).startAt = none) ∧ (clusterUsable s (engCluster p.idx) = true) ∧ ((∀ d, Holder.die d ∈ clusterHolders (engCluster p.idx) → dieForbidden s d = false))) ∧
    (∃ (p : Packet), ∃ (s : State), (Ready cmdEngStop p s) ∧ ((s.eng p.idx).startAt = none) ∧ ((s.eng p.idx).st = .running)) ∧
    (∃ (p : Packet), ∃ (s : State), (Ready cmdEngRingAck p s) ∧ ((BitVec.ofNat 48 (p.inb 4 6) - (s.eng p.idx).outRd).toNat ≤
      ((s.eng p.idx).outWr - (s.eng p.idx).outRd).toNat)) :=
  ⟨⟨pk 0x0901 (0x2000 + 2 * 2 ^ 64) (List.replicate 18 1), go (pk 0x0901 (0x2000 + 2 * 2 ^ 64) (List.replicate 18 1)) (w0), ready_of (by decide +kernel), by decide +kernel, by decide +kernel, by decide +kernel, by decide +kernel, by decide +kernel, only_die0 (by decide +kernel) (by decide +kernel)⟩,
   ⟨pk 0x0902 0x2000 (List.replicate 64 0), go (pk 0x0902 0x2000 (List.replicate 64 0)) (w0), ready_of (by decide +kernel), by decide +kernel⟩,
   ⟨pb 0x0903 0x2000, go (pb 0x0903 0x2000) (w0), ready_of (by decide +kernel), by decide +kernel⟩,
   ⟨pb 0x0903 (0x2000 + 2 ^ 16), go (pb 0x0903 (0x2000 + 2 ^ 16)) (w0), ready_of (by decide +kernel), by decide +kernel⟩,
   ⟨pk 0x0904 0x2000 (List.replicate 9 0 ++ [1]), go (pk 0x0904 0x2000 (List.replicate 9 0 ++ [1])) (we fun E => { E with st := .stopped }), ready_of (by decide +kernel), by decide +kernel, by decide +kernel, by decide +kernel, by decide +kernel, by decide +kernel, by decide +kernel, by decide +kernel, only_die0 (by decide +kernel) (by decide +kernel)⟩,
   ⟨pk 0x0904 (0x2000 + 2 ^ 32) (List.replicate 9 0 ++ [1]), go (pk 0x0904 (0x2000 + 2 ^ 32) (List.replicate 9 0 ++ [1])) (we fun E => { E with st := .stopped, resumable := true }), ready_of (by decide +kernel), by decide +kernel, by decide +kernel, by decide +kernel, by decide +kernel, by decide +kernel, by decide +kernel, by decide +kernel, by decide +kernel, only_die0 (by decide +kernel) (by decide +kernel)⟩,
   ⟨pk 0x0905 0x2000, go (pk 0x0905 0x2000) (we fun E => { E with st := .running }), ready_of (by decide +kernel), by decide +kernel⟩,
   ⟨pk 0x0906 (0x2000 + 2 * 2 ^ 32), go (pk 0x0906 (0x2000 + 2 * 2 ^ 32)) (we fun E => { E with outWr := 5, outRd := 1 }), ready_of (by decide +kernel), by decide +kernel⟩⟩

theorem witness_EngineEventsComplete :
    (∃ (e : BitVec 9), ∃ (s : State), ∃ b, ((s.eng e.toNat).startAt = some b) ∧ (notAfter b s.time.slotCount = true) ∧ ((s.eng e.toNat).startResume = false)) ∧
    (∃ (e : BitVec 9), ∃ (s : State), ∃ b, ((s.eng e.toNat).stall = some b) ∧ ((s.eng e.toNat).runs = true) ∧ (bundleWaits s e.toNat (xSlot b) (ySlot b) = false)) ∧
    (∃ (e : BitVec 9), ∃ (n : BitVec 2), ∃ (el : Elem), ∃ (rest : List Elem), ∃ (s : State), ((s.eng e.toNat).runs = true) ∧ ((s.eng e.toNat).startAt = none) ∧ ((s.eng e.toNat).bindSrc n.toNat ≠ 0) ∧ ((s.eng e.toNat).bindSrc n.toNat ≠ 6) ∧ (((s.eng e.toNat).stream n.toNat).due = el :: rest) ∧ (notAfter (s.eng e.toNat).effSlot el.cursor = true)) ∧
    (∃ (e : BitVec 9), ∃ (s : State), ((s.eng e.toNat).runs = true)) ∧
    (∃ (e : BitVec 9), ∃ (s : State), ((s.eng e.toNat).st = .restarting) ∧ ((s.eng e.toNat).noPhys = false)) ∧
    (∃ (e : BitVec 9), ∃ (s : State), ∃ w, ((s.eng e.toNat).warmEnd = some w) ∧ (notAfter (beatSlot w) s.time.slotCount = true)) :=
  ⟨⟨0, we fun E => { E with st := .running, startAt := some 0 }, 0, by decide +kernel⟩,
   ⟨0, we (fun E => { E with st := .running, stall := some 0 }), 0, by decide +kernel⟩,
   ⟨0, 0, { Elem.reset with words := [5] }, [], we fun E => { E with st := .running, cfg := BitVec.ofNat 512 (2 ^ 32), streams := [(0, { Stream.reset with due := [{ Elem.reset with words := [5] }] })] }, by decide +kernel⟩,
   ⟨0, we fun E => { E with st := .running }, by decide +kernel⟩,
   ⟨0, we fun E => { E with st := .restarting }, by decide +kernel⟩,
   ⟨0, we (fun E => { E with st := .running, warmEnd := some 7 }), 7, by decide +kernel⟩⟩

theorem witness_MemoryCommandsComplete :
    (∃ (p : Packet), ∃ (s : State), (Ready cmdMemCfgSet p s) ∧ (memCfgOk (p.blk 256) = true) ∧ (11 ≤ s.boot.step) ∧ (s.ports.any (fun x => x.2.trig.armed) = false) ∧ (s.hub.wipes.any (fun w => w.kind == .memCfg && w.chans.isEmpty) = false) ∧ (fbv (p.blk 256) 0 80 = fbv s.hub.memCfg 0 80)) ∧
    (∃ (p : Packet), ∃ (s : State), (Ready cmdMemCfgSet p s) ∧ (memCfgOk (p.blk 256) = true) ∧ (11 ≤ s.boot.step) ∧ (s.ports.any (fun x => x.2.trig.armed) = false) ∧ (s.hub.wipes.any (fun w => w.kind == .memCfg && w.chans.isEmpty) = false) ∧ (fbv (p.blk 256) 0 80 ≠ fbv s.hub.memCfg 0 80) ∧ (wipeable s captureChans ≠ [])) ∧
    (∃ (p : Packet), ∃ (s : State), (Ready cmdMemCfgSet p s) ∧ (memCfgOk (p.blk 256) = true) ∧ (11 ≤ s.boot.step) ∧ (s.ports.any (fun x => x.2.trig.armed) = false) ∧ (fbv (p.blk 256) 0 80 ≠ fbv s.hub.memCfg 0 80) ∧ (wipeable s captureChans = [])) ∧
    (∃ (p : Packet), ∃ (s : State), (Ready cmdMemCfgGet p s)) ∧
    (∃ (p : Packet), ∃ (s : State), (Ready cmdMemStatus p s)) ∧
    (∃ (p : Packet), ∃ (s : State), (Ready cmdMemDelayGet p s)) ∧
    (∃ (p : Packet), ∃ (s : State), (Ready cmdMemTest p s) ∧ ((regionPorts (chanRegion p.idx)).any (fun q => (s.port q).trig.armed) = false) ∧ ((s.chan p.idx).st = .service)) ∧
    (∃ (p : Packet), ∃ (s : State), (Ready cmdMemRetire p s) ∧ (isLodge p.idx = false) ∧ (chanServes s p.idx = true)) :=
  ⟨⟨pk 0x0A01 0 (bytesOf 32 State.reset.hub.memCfg.toNat), go (pk 0x0A01 0 (bytesOf 32 State.reset.hub.memCfg.toNat)) (w0), ready_of (by decide +kernel), by decide +kernel⟩,
   ⟨pk 0x0A01 0 memCfg1, go (pk 0x0A01 0 memCfg1) (w0), ready_of (by decide +kernel), by decide +kernel⟩,
   ⟨pk 0x0A01 0 memCfg1, go (pk 0x0A01 0 memCfg1) ({ w0 with chans := captureChans.map fun c => (c, { Chan.reset with st := .retired }) }), ready_of (by decide +kernel), by decide +kernel⟩,
   ⟨pb 0x0A02 0, go (pb 0x0A02 0) (w0), ready_of (by decide +kernel)⟩,
   ⟨pb 0x0A03 0x4000, go (pb 0x0A03 0x4000) (w0), ready_of (by decide +kernel)⟩,
   ⟨pb 0x0A04 0x4000, go (pb 0x0A04 0x4000) (w0), ready_of (by decide +kernel)⟩,
   ⟨pk 0x0A05 0x4000, go (pk 0x0A05 0x4000) (w0), ready_of (by decide +kernel), by decide +kernel⟩,
   ⟨pk 0x0A06 0x4000, go (pk 0x0A06 0x4000) (w0), ready_of (by decide +kernel), by decide +kernel⟩⟩

theorem witness_MemoryEventsComplete :
    (∃ (c : BitVec 7), ∃ (age : Nat), ∃ (x : BurstIn), ∃ (y : BurstIn), ∃ (s : State), ∃ s1, 
let b := (s.chan c.toNat).scrubPos.toNat
(chanServes s c.toNat = true) ∧ (groomerTurn s c.toNat { MemReq.reset with
      cls := .scrub, addr := 72 * b, inChan := some c.toNat, len := 72, age := age } = some s1)) ∧
    (∃ (c : BitVec 7), ∃ (s : State), (chanServes s c.toNat = true) ∧ ((s.chan c.toNat).scrubOverdue = false) ∧ (24 * hourSlots ≤ passSlots s (s.chan c.toNat))) ∧
    (∃ (c : BitVec 7), ∃ (l : BitVec 3), ∃ (s : State), ((s.chan c.toNat).st = .service) ∧ (l.toNat < 5) ∧ (isLodge c.toNat = false) ∧ (64 < ((s.chan c.toNat).laneCe.filter fun x =>
      x.2 == l.toNat && decide (slotsTo x.1 s.time.slotCount < nsSlots 1000000)).length)) ∧
    (∃ (c : BitVec 7), ∃ (r : SweepIn), ∃ (s : State), (isLodge c.toNat = false) ∧ ((s.chan c.toNat).st = .training)) ∧
    (∃ (c : BitVec 7), ∃ (r : SweepIn), ∃ (s : State), (isLodge c.toNat = true) ∧ ((s.chan c.toNat).st = .training)) ∧
    (∃ (c : BitVec 7), ∃ (r : SweepIn), ∃ (s : State), (isLodge c.toNat = false) ∧ ((s.chan c.toNat).st = .inOrder) ∧ ((s.chan c.toNat).reSweep.isSome = true)) ∧
    (∃ (c : BitVec 7), ∃ (s : State), (isLodge c.toNat = false) ∧ (chanServes s c.toNat = true)) ∧
    (∃ (c : BitVec 7), ∃ (s : State), (isLodge c.toNat = false) ∧ (chanServes s c.toNat = true) ∧ (bit s.hub.memCfg 120 = true) ∧ (fld s.hub.memCfg 128 8 ≤ (lastSecond s.time.slotCount (s.chan c.toNat).ueTimes).length)) ∧
    (∃ (c : BitVec 7), ∃ (s : State), ((s.chan c.toNat).st = .fenced) ∧ ((s.hub.marks.any fun m => m.2.2 == some c.toNat) = false)) ∧
    (∃ (r : BitVec 4), ∃ (s : State), ((s.region r.toNat).recover = true) ∧ (nsSlots 1000000 ≤ slotsTo (s.region r.toNat).recoverFrom s.time.slotCount)) ∧
    (∃ (c : BitVec 7), ∃ (l : Nat), ∃ (s : State), ((s.chan c.toNat).wiping = true) ∧ (s.hub.wipes = [⟨.scope l, [c.toNat]⟩])) ∧
    (∃ (c : BitVec 7), ∃ (w : Wipe), ∃ (s : State), ((s.chan c.toNat).wiping = true) ∧ (s.hub.wipes = [w]) ∧ (w.chans.filter (· != c.toNat) ≠ [])) :=
  ⟨⟨0, 0, {}, {}, w0, (groomerTurn w0 0 { MemReq.reset with cls := .scrub, addr := 0, inChan := some 0, len := 72, age := 0 }).get (by decide +kernel), by dsimp only; exact ⟨by decide +kernel, (Option.some_get _).symm⟩⟩,
   ⟨0, { wch fun C => { C with passStart := some 0 } with time := { w0.time with slotCount := 2 ^ 60 } }, by decide +kernel⟩,
   ⟨0, 1, wch fun C => { C with laneCe := List.replicate 65 (6400, 1) }, by decide +kernel⟩,
   ⟨0, ⟨[], [], 0, 0⟩, wch fun C => { C with st := .training }, by decide +kernel⟩,
   ⟨7, ⟨[], [], 0, 0⟩, { w0 with chans := [(7, { Chan.reset with st := .training })] }, by decide +kernel⟩,
   ⟨0, ⟨[], [], 0, 0⟩, wch fun C => { C with st := .inOrder, reSweep := some 1 }, by decide +kernel⟩,
   ⟨0, w0, by decide +kernel⟩,
   ⟨0, (wch fun C => { C with ueTimes := List.replicate 255 6400 }).modHub fun H => { H with memCfg := H.memCfg ||| BitVec.ofNat 256 (2 ^ 120) }, by decide +kernel⟩,
   ⟨0, wch fun C => { C with st := .fenced }, by decide +kernel⟩,
   ⟨0, { w0.modRegion 0 fun R => { R with recover := true } with time := { w0.time with slotCount := 2 ^ 60 } }, by decide +kernel⟩,
   ⟨0, 0, (wch fun C => { C with wiping := true }).modHub fun H => { H with wipes := [⟨.scope 0, [0]⟩] }, by decide +kernel⟩,
   ⟨0, ⟨.memCfg, [0, 8]⟩, (wch fun C => { C with wiping := true }).modHub fun H => { H with wipes := [⟨.memCfg, [0, 8]⟩] }, by decide +kernel⟩⟩

theorem witness_AddressAndBankMaps :
    (∃ a, (backed a = true)) ∧
    (∃ (cfg : BitVec 256), ∃ (v : Nat), ∃ (w : Nat), (v / 32 = w / 32) ∧ (bankKey cfg v = bankKey cfg w)) :=
  ⟨⟨4608, by decide +kernel⟩,
   ⟨State.reset.hub.memCfg, 5, 5, by decide +kernel⟩⟩

theorem witness_RetiredAndBadReads :
    (∃ (p : BitVec 7), ∃ (s : State), ∃ (x : Store), ∃ (rest : List Store), ((s.port p.toNat).run.fifo = x :: rest) ∧ ((s.port p.toNat).run.storesHeld = false) ∧ (clearing s p.toNat = false) ∧ ((storePieces x).any (fun y => (s.chan (addrChan y.1)).st == .fenced) = false)) ∧
    (∃ (n : BitVec 5), ∃ (w : Bool), ∃ (a : Nat), ∃ (len : Nat), ∃ (s : State), ∃ (off : Nat), ∃ (bs : List (Byte × Bool)), ∃ (s1 : State), (dmaWants s n.toNat w a len = some (off, bs)) ∧ (dmaGate s n.toNat w a len = .passes s1)) ∧
    (∃ (w : Bool), ∃ (hi : Bool), ∃ (a : Nat), ∃ (bs : List Byte), ∃ (len : Nat), ∃ (s : State), 
let q : MemReq := { MemReq.reset with
       cls := .control, write := w, addr := a, inChan := some (if hi then 15 else 7), data := bs, len := len }
(0 < q.size) ∧ (a + q.size ≤ reservedFrom) ∧ (a / 4608 = (a + q.size - 1) / 4608)) ∧
    (∃ (c : BitVec 7), ∃ (i : Nat), ∃ (xs : List BurstIn), ∃ (s : State), ∃ q, ((s.chan c.toNat).queue[i]? = some q) ∧ (mayServe s c.toNat i = true) ∧ (q.write = false)) ∧
    (∃ (c : BitVec 7), ∃ (i : Nat), ∃ (xs : List BurstIn), ∃ (s : State), ∃ q, ((s.chan c.toNat).queue[i]? = some q) ∧ (mayServe s c.toNat i = true) ∧ (q.write = true) ∧ (q.cls ≠ .scrub)) ∧
    (∃ (c : BitVec 7), ∃ (w : Bool), ∃ (s : State), (chanServes s c.toNat = true)) ∧
    (∃ (c : BitVec 7), ∃ (w : Bool), ∃ (s : State), (chanServes s c.toNat = true) ∧ ((s.chan c.toNat).queue.any (fun q => q.urgency == 2) = true) ∧ ((s.chan c.toNat).postponed < 8)) ∧
    (∃ (c : BitVec 7), ∃ (who : Nat), ∃ (row : Nat), ∃ (b : BitVec 64), ∃ (s : State), ((s.chan c.toNat).hammerDue = [(who, row, b)]) ∧ (who < 161)) ∧
    (∃ (c : BitVec 7), ∃ (who : Nat), ∃ (x : Nat × BitVec 64), ∃ (s : State), ((s.chan c.toNat).throttled = [(who, x)])) ∧
    (∃ (c : BitVec 7), ∃ (r : Bool), ∃ (s : State), (chanServes s c.toNat = true) ∧ (fld s.hub.memCfg 80 16 ≠ 0) ∧ ((s.chan c.toNat).rankDown.getD (b2n r) false = false) ∧ ((s.chan c.toNat).queue = [])) ∧
    (∃ (s : State), ∃ (q : MemReq), ((s.chan q.chan).st = .retired) ∧ (q.cls = .dma)) :=
  ⟨⟨0, wp fun P => { P with run := { P.run with fifo := [{ Store.reset with data := [1], words := 1 }] } }, { Store.reset with data := [1], words := 1 }, [], by decide +kernel⟩,
   ⟨0, false, 0, 64, sDma, 0, [], passed (dmaGate sDma 0 false 0 64), by decide +kernel, rfl⟩,
   ⟨false, false, 0, [], 72, w0, by dsimp only; exact by decide +kernel⟩,
   ⟨0, 0, [], wch (fun C => { C with queue := [{ MemReq.reset with cls := .dma, len := 64 }] }), { MemReq.reset with cls := .dma, len := 64 }, by decide +kernel⟩,
   ⟨0, 0, [], wch (fun C => { C with queue := [{ MemReq.reset with cls := .dma, len := 64, write := true, data := List.replicate 64 1 }] }), { MemReq.reset with cls := .dma, len := 64, write := true, data := List.replicate 64 1 }, by decide +kernel⟩,
   ⟨0, true, w0, by decide +kernel⟩,
   ⟨0, true, wch fun C => { C with queue := [{ MemReq.reset with cls := .dma, len := 64, age := 100000 }] }, by decide +kernel⟩,
   ⟨0, 1, 2, 3, wch fun C => { C with hammerDue := [(1, 2, 3)] }, by decide +kernel⟩,
   ⟨0, 1, (2, 3), wch fun C => { C with throttled := [(1, 2, 3)] }, by decide +kernel⟩,
   ⟨0, false, w0.modHub fun H => { H with memCfg := H.memCfg ||| BitVec.ofNat 256 (2 ^ 80) }, by decide +kernel⟩,
   ⟨wch (fun C => { C with st := .retired }), { MemReq.reset with cls := .dma, len := 64 }, by decide +kernel⟩⟩

theorem witness_HostEventsComplete :
    (∃ (f : BitVec 4), ∃ (v : BitVec 32), ∃ (s : State), (reach s f.toNat = true) ∧ ((s.fn f.toNat).qState = .active) ∧ ((v - (s.fn f.toNat).sqHead).toNat ≤ 2 ^ (s.fn f.toNat).sqLog2.toNat)) ∧
    (∃ (f : BitVec 4), ∃ (v : BitVec 32), ∃ (s : State), (reach s f.toNat = true) ∧ ((s.fn f.toNat).qState = .active) ∧ (2 ^ (s.fn f.toNat).sqLog2.toNat < (v - (s.fn f.toNat).sqHead).toNat)) ∧
    (∃ (p : Packet), ∃ (s : State), 
let F := s.fn p.fn.toNat
(p.mbox = false) ∧ (F.active = true) ∧ ((s.ep (p.fn.toNat / 8)).up = true) ∧ (F.fetched.length < 16) ∧ (1 ≤ p.cells.toNat) ∧ (p.cells.toNat ≤ 64) ∧ (p.cells.toNat ≤ (F.sqTail - F.sqHead).toNat) ∧ (p.seq = F.qSeq)) ∧
    (∃ (p : Packet), ∃ (s : State), 
let F := s.fn p.fn.toNat
(p.mbox = false) ∧ (F.active = true) ∧ ((s.ep (p.fn.toNat / 8)).up = true) ∧ (F.fetched.length < 16) ∧ (1 ≤ (F.sqTail - F.sqHead).toNat)) ∧
    (∃ (f : BitVec 4), ∃ (v : BitVec 32), ∃ (s : State), (reach s f.toNat = true) ∧ ((s.fn f.toNat).qState = .active) ∧ (((s.fn f.toNat).rqTail - v).toNat ≤ 2 ^ (s.fn f.toNat).rqLog2.toNat)) ∧
    (∃ (f : BitVec 4), ∃ (s : State), 
let F := s.fn f.toNat
(reach s f.toNat = true) ∧ (F.qState = .disabled) ∧ (ringOk F.sqBase F.sqLog2 = true) ∧ (ringOk F.rqBase F.rqLog2 = true)) ∧
    (∃ (f : BitVec 4), ∃ (s : State), (reach s f.toNat = true) ∧ ((s.fn f.toNat).qState = .active)) ∧
    (∃ (f : BitVec 4), ∃ (s : State), ((s.fn f.toNat).qState = .draining) ∧ ((s.fn f.toNat).begun = []) ∧ ((s.fn f.toNat).doneWait = [])) ∧
    (∃ (s : State), 
let p := mailboxPacket false (s.mbox.cmd.toList 0 4096)
(reach s 0 = true) ∧ (s.mbox.ready = true) ∧ (s.mbox.busy = false) ∧ (mboxFail s p = none)) ∧
    (∃ (f : BitVec 4), ∃ (v : BitVec 64), ∃ (s : State), (reach s f.toNat = true)) ∧
    (∃ (p : BitVec 7), ∃ (v : BitVec 32), ∃ (be : BitVec 4), ∃ (s : State), (reach s 0 = true)) ∧
    (∃ (f : BitVec 4), ∃ (off : BitVec 16), ∃ (dws : List (BitVec 32 × BitVec 4)), ∃ (s : State), (reach s f.toNat = true)) ∧
    (∃ (f : BitVec 4), ∃ (lanes : List Bool), ∃ (m : MemIn), ∃ (s : State), ∃ x, (reach s f.toNat = true) ∧ (chuteRead s f.toNat (lanes.count true) m = some x) ∧ (chuteSpace s f.toNat = 0) ∧ (0 < lanes.count true)) ∧
    (∃ (f : BitVec 4), ∃ (bytes : List (Option Byte)), ∃ (ep : Bool), ∃ (m : MemIn), ∃ (s : State), ∃ x, (reach s f.toNat = true) ∧ (chuteWrite s f.toNat (bytes.filterMap id) ep m = some x)) ∧
    (∃ (f : BitVec 4), ∃ (s : State), ((s.ep (f.toNat / 8)).up = true) ∧ ((s.fn f.toNat).flr = false) ∧ ((s.fn f.toNat).pm ≠ .d3cold)) ∧
    (∃ (f : BitVec 4), ∃ (s : State), ((s.fn f.toNat).flr = true) ∧ ((s.fn f.toNat).flrWiped = true) ∧ (f ≠ 0) ∧ ((s.fn f.toNat).pm = .d0)) ∧
    (∃ (f : BitVec 4), ∃ (pme : Bool), ∃ (s : State), ((s.ep (f.toNat / 8)).up = true) ∧ ((s.fn f.toNat).pm = .d0) ∧ ((s.fn f.toNat).flr = false)) ∧
    (∃ (f : BitVec 4), ∃ (s : State), ((s.ep (f.toNat / 8)).up = true) ∧ ((s.fn f.toNat).pm = .d3hot) ∧ ((s.fn f.toNat).flr = false)) ∧
    (∃ (g : BitVec 6), ∃ (s : State), (s.fns.any (fun x => x.2.holdRun.getLsbD g.toNat) = true)) ∧
    (∃ (s : State), ((s.ep 0).perst = false) ∧ (edgeLatched s = false)) ∧
    (∃ (s : State), ((s.ep 1).perst = false)) ∧
    (∃ (s : State), ((s.ep 1).perst = true)) ∧
    (∃ (ep : Bool), ∃ (s : State), ((s.ep (b2n ep)).up = true)) ∧
    (∃ (ep : Bool), ∃ (s : State), ((s.ep (b2n ep)).up = true)) ∧
    (∃ (ep : Bool), ∃ (s : State), ((s.ep (b2n ep)).up = false) ∧ ((s.ep (b2n ep)).perst = false) ∧ (7 ≤ s.boot.step) ∧ (asleep s = false)) :=
  ⟨⟨0, 0, wf fun F => { F with qState := .active, sqLog2 := 8, rqLog2 := 8 }, by decide +kernel⟩,
   ⟨0, 5000, wf fun F => { F with qState := .active, sqLog2 := 8, rqLog2 := 8 }, by decide +kernel⟩,
   ⟨pk 0x0101 0, wf fun F => { F with qState := .active, sqLog2 := 8, rqLog2 := 8, sqTail := 1 }, by dsimp only; exact by decide +kernel⟩,
   ⟨pk 0x0101 0, wf fun F => { F with qState := .active, sqLog2 := 8, rqLog2 := 8, sqTail := 1 }, by dsimp only; exact by decide +kernel⟩,
   ⟨0, 0, wf fun F => { F with qState := .active, sqLog2 := 8, rqLog2 := 8 }, by decide +kernel⟩,
   ⟨0, wf fun F => { F with sqLog2 := 6, rqLog2 := 6 }, by dsimp only; exact by decide +kernel⟩,
   ⟨0, wf fun F => { F with qState := .active, sqLog2 := 8, rqLog2 := 8 }, by decide +kernel⟩,
   ⟨0, wf fun F => { F with qState := .draining }, by decide +kernel⟩,
   ⟨{ w0 with mbox := { w0.mbox with cmd := [(0, 1), (1, 1), (4, 1)] } }, by dsimp only; exact by decide +kernel⟩,
   ⟨0, 5, w0, by decide +kernel⟩,
   ⟨0, 1, 3, w0, by decide +kernel⟩,
   ⟨0, 0x40, [(5, 15)], w0, by decide +kernel⟩,
   ⟨0, [true], {}, w0, (chuteRead w0 0 1 {}).get (by decide +kernel), by decide +kernel, (Option.some_get _).symm, by decide +kernel⟩,
   ⟨0, [some 5], false, {}, w0, (chuteWrite w0 0 [5] false {}).get (by decide +kernel), by decide +kernel, (Option.some_get _).symm⟩,
   ⟨0, w0, by decide +kernel⟩,
   ⟨1, w0.modFn 1 fun F => { F with flr := true, flrWiped := true }, by decide +kernel⟩,
   ⟨0, false, w0, by decide +kernel⟩,
   ⟨0, wf fun F => { F with pm := .d3hot }, by decide +kernel⟩,
   ⟨0, wf fun F => { F with holdRun := 1 }, by decide +kernel⟩,
   ⟨w0, by decide +kernel⟩,
   ⟨w0, by decide +kernel⟩,
   ⟨w0.modEp 1 fun E => { E with perst := true }, by decide +kernel⟩,
   ⟨false, w0, by decide +kernel⟩,
   ⟨true, w0, by decide +kernel⟩,
   ⟨false, w0.modEp 0 fun E => { E with up := false }, by decide +kernel⟩⟩

theorem witness_IntaFollowsTheGroups :
    (∃ (s : State), ∃ (f : Nat), (f ∈ s.fns.map (·.1))) ∧
    (∃ (s : State), ∃ (f : Nat), ∃ (g : Nat), (g ∈ routed f) ∧ (f < 16)) :=
  ⟨⟨w0, 0, by decide +kernel⟩,
   ⟨w0, 0, 40, by decide +kernel⟩⟩

theorem witness_ChuteTransfers :
    (∃ (f : BitVec 4), ∃ (lanes : List Bool), ∃ (m : MemIn), ∃ (s : State), ∃ t, (reach s f.toNat = true) ∧ ((∃ x, chuteRead s f.toNat (lanes.count true) m = some x)) ∧ (exec (.chuteRead f lanes m) s = .next t)) ∧
    (∃ (f : BitVec 4), ∃ (bytes : List (Option Byte)), ∃ (ep : Bool), ∃ (m : MemIn), ∃ (s : State), ∃ t, (exec (.chuteWrite f bytes ep m) s = .next t)) :=
  ⟨⟨0, [true], {}, w0, _, by decide +kernel, ⟨_, rfl⟩, rfl⟩,
   ⟨0, [some 5], false, {}, w0, _, rfl⟩⟩

theorem witness_DmaRowsComplete :
    (∃ (p : Packet), ∃ (s : State), (Ready cmdDmaSet p s) ∧ (p.target ≠ locPackage) ∧ (dmaCfgOk (p.blk 512) = true) ∧ (dmaStopped s p.idx = true)) ∧
    (∃ (p : Packet), ∃ (s : State), (Ready cmdDmaSetTwinMask p s) ∧ (p.target = locPackage)) ∧
    (∃ (p : Packet), ∃ (s : State), (Ready cmdDmaGet p s) ∧ (p.target ≠ locPackage)) ∧
    (∃ (p : Packet), ∃ (s : State), (Ready cmdDmaGetTwin p s) ∧ (p.target = locPackage)) ∧
    (∃ (p : Packet), ∃ (s : State), (Ready cmdDmaStart p s) ∧ (p.inb 4 8 % 64 = 0) ∧ (dmaStopped s p.idx = true)) ∧
    (∃ (p : Packet), ∃ (s : State), (Ready cmdDmaHalt p s) ∧ ((s.dmaCh p.idx).st = .running)) ∧
    (∃ (p : Packet), ∃ (s : State), (Ready cmdDmaStatus p s)) ∧
    (∃ (p : Packet), ∃ (s : State), ∃ (m : Nat), (Ready cmdCmpJob p s) ∧ (jobOk (p.blk 512) = true) ∧ (encrypts s p.part = false) ∧ (dmaStopped s p.idx = true) ∧ (freeCmp s = some m) ∧ (fld (p.blk 512) 262 1 = 0)) ∧
    (∃ (p : Packet), ∃ (s : State), (Ready cmdCmpResume p s) ∧ (1 ≤ p.dat 0 8) ∧ (p.dat 0 8 ≤ 2 ^ 40) ∧ (encrypts s p.part = false) ∧ ((s.cmpEng p.idx).st = 2)) ∧
    (∃ (p : Packet), ∃ (s : State), (Ready cmdCmpCancel p s) ∧ ((s.cmpEng p.idx).st = 1)) ∧
    (∃ (p : Packet), ∃ (s : State), (Ready cmdCmpCancel p s) ∧ ((s.cmpEng p.idx).st = 2)) ∧
    (∃ (p : Packet), ∃ (s : State), (Ready cmdCmpStatus p s)) ∧
    (∃ (n : BitVec 5), ∃ (bits : BitVec 512), ∃ (m : MemIn), ∃ (s : State), ∃ (a : BitVec 64), ((s.dmaCh n.toNat).st = .running) ∧ ((s.dmaCh n.toNat).nextDesc = some a) ∧ ((s.dmaCh n.toNat).cur = none) ∧ ((s.dmaCh n.toNat).recWait = none) ∧ ((s.dmaCh n.toNat).recent.contains a = false) ∧ (((s.dmaCh n.toNat).fetched = 0 ∨ a ≠ (s.dmaCh n.toNat).head)) ∧ ((s.dmaCh n.toNat).fetched < (s.dmaCh n.toNat).budget) ∧ (descOk { Desc.reset with bits := bits } false = true) ∧ (descMine s n.toNat { Desc.reset with bits := bits } = true) ∧ (bit bits 312 = false) ∧ (fld bits 304 4 ≤ 3)) ∧
    (∃ (n : BitVec 5), ∃ (bytes : List Byte), ∃ (poison : Bool), ∃ (m : MemIn), ∃ (s : State), ∃ (d : Desc), ((s.dmaCh n.toNat).cur = some d) ∧ ((s.dmaCh n.toNat).recWait = none) ∧ ((s.dmaCh n.toNat).st = .running) ∧ (bytes ≠ []) ∧ (d.read + bytes.length ≤ d.total) ∧ (d.srcSpace = 0) ∧ (bufRoom s n.toNat bytes.length = true)) ∧
    (∃ (n : BitVec 5), ∃ (w : BitVec 64), ∃ (s : State), ∃ (d : Desc), ((s.dmaCh n.toNat).cur = some d) ∧ (d.follows = true) ∧ ((s.dmaCh n.toNat).followW ≤ w.toNat) ∧ (w.toNat ≤ writeCount s d.srcPort (if d.srcSpace = 4 then 1 else 2))) ∧
    (∃ (n : BitVec 5), ∃ (len : Nat), ∃ (s : State), ∃ (d : Desc), ((s.dmaCh n.toNat).cur = some d) ∧ ((s.dmaCh n.toNat).recWait = none) ∧ ((s.dmaCh n.toNat).job = none) ∧ ((s.dmaCh n.toNat).st = .running) ∧ (0 < len) ∧ (d.dstSpace = 0) ∧ (len ≤ d.held.length) ∧ ((∀ x ∈ d.held.take len, x.2 = false)) ∧ (d.sent + len ≤ d.total)) ∧
    (∃ (n : BitVec 5), ∃ (v : BitVec 32), ∃ (s : State), ∃ r, ((s.dmaCh n.toNat).recWait = some r) ∧ (2 ^ (s.dmaCh n.toNat).cqLog2 ≤ ((s.dmaCh n.toNat).recCount - v).toNat)) ∧
    (∃ (n : BitVec 5), ∃ (v : BitVec 32), ∃ (s : State), ∃ r, ((s.dmaCh n.toNat).recWait = some r) ∧ ((s.dmaCh n.toNat).st = .running) ∧ (((s.dmaCh n.toNat).recCount - v).toNat < 2 ^ (s.dmaCh n.toNat).cqLog2)) ∧
    (∃ (n : BitVec 5), ∃ (s : State), (dmaCanFail (s.dmaCh n.toNat) true = true)) ∧
    (∃ (n : BitVec 5), ∃ (s : State), ∃ (d : Desc), (dmaCanFail (s.dmaCh n.toNat) false = true) ∧ ((s.dmaCh n.toNat).cur = some d)) ∧
    (∃ (n : BitVec 5), ∃ (s : State), (dmaCanFail (s.dmaCh n.toNat) true = true) ∧ ((s.dmaCh n.toNat).dieWait = none)) ∧
    (∃ (m : BitVec 4), ∃ (r : CmpIn), ∃ (x : MemIn), ∃ (s : State), ((s.cmpEng m.toNat).st = 1) ∧ ((s.dmaCh (s.cmpEng m.toNat).channel.toNat).st = .job) ∧ (r.outcome = 4) ∧ (r.output = []) ∧ (outcomeOk s m.toNat 4 [] = true)) :=
  ⟨⟨pk 0x0B01 0x6000 (List.replicate 16 0 ++ [4, 0, 64] ++ List.replicate 45 0), go (pk 0x0B01 0x6000 (List.replicate 16 0 ++ [4, 0, 64] ++ List.replicate 45 0)) (w0), ready_of (by decide +kernel), by decide +kernel⟩,
   ⟨pk 0x0B01 (locPackage + 3 * 2 ^ 32), go (pk 0x0B01 (locPackage + 3 * 2 ^ 32)) (w0), ready_of (by decide +kernel), by decide +kernel⟩,
   ⟨pb 0x0B02 0x6000, go (pb 0x0B02 0x6000) (w0), ready_of (by decide +kernel), by decide +kernel⟩,
   ⟨pb 0x0B02 locPackage, go (pb 0x0B02 locPackage) (w0), ready_of (by decide +kernel), by decide +kernel⟩,
   ⟨pk 0x0B03 (0x6000 + 64 * 2 ^ 32), go (pk 0x0B03 (0x6000 + 64 * 2 ^ 32)) (w0), ready_of (by decide +kernel), by decide +kernel⟩,
   ⟨pk 0x0B04 0x6000, go (pk 0x0B04 0x6000) (wdma fun D => { D with st := .running }), ready_of (by decide +kernel), by decide +kernel⟩,
   ⟨pb 0x0B05 0x6000, go (pb 0x0B05 0x6000) (w0), ready_of (by decide +kernel)⟩,
   ⟨pk 0x0C01 0x6000 (List.replicate 16 0 ++ [1] ++ List.replicate 47 0), go (pk 0x0C01 0x6000 (List.replicate 16 0 ++ [1] ++ List.replicate 47 0)) (w0), 0, ready_of (by decide +kernel), by decide +kernel⟩,
   ⟨pk 0x0C02 0x5000 [1, 0, 0, 0, 0, 0, 0, 0], go (pk 0x0C02 0x5000 [1, 0, 0, 0, 0, 0, 0, 0]) (wcmp fun C => { C with st := 2 }), ready_of (by decide +kernel), by decide +kernel⟩,
   ⟨pk 0x0C03 0x5000, go (pk 0x0C03 0x5000) (wcmp fun C => { C with st := 1 }), ready_of (by decide +kernel), by decide +kernel⟩,
   ⟨pk 0x0C03 0x5000, go (pk 0x0C03 0x5000) (wcmp fun C => { C with st := 2 }), ready_of (by decide +kernel), by decide +kernel⟩,
   ⟨pb 0x0C04 0x5000, go (pb 0x0C04 0x5000) (w0), ready_of (by decide +kernel)⟩,
   ⟨0, bits64, {}, wdma (fun D => { D with st := .running, nextDesc := some 64 }), 64, by decide +kernel⟩,
   ⟨0, [1, 2], false, {}, wdma fun D => { D with st := .running, cur := some desc64 }, desc64, by decide +kernel⟩,
   ⟨0, 0, wdma fun D => { D with st := .running, cur := some { desc64 with bits := BitVec.ofNat 512 (64 * 2 ^ 256 + 4 * 2 ^ 304) } }, { desc64 with bits := BitVec.ofNat 512 (64 * 2 ^ 256 + 4 * 2 ^ 304) }, by decide +kernel⟩,
   ⟨0, 1, wdma fun D => { D with st := .running, cur := some { desc64 with held := [(1, false)] } }, { desc64 with held := [(1, false)] }, by decide +kernel⟩,
   ⟨0, 0, wdma (fun D => { D with recWait := some 7, recCount := 65536 }), 7, by decide +kernel⟩,
   ⟨0, 0, wdma (fun D => { D with st := .running, recWait := some 7 }), 7, by decide +kernel⟩,
   ⟨0, wdma fun D => { D with st := .running, cur := some { desc64 with held := [(1, false)] } }, by decide +kernel⟩,
   ⟨0, wdma fun D => { D with st := .running, cur := some desc64 }, desc64, by decide +kernel⟩,
   ⟨0, wdma fun D => { D with st := .running, cur := some { desc64 with held := [(1, false)] } }, by decide +kernel⟩,
   ⟨0, ⟨4, []⟩, {}, (wcmp fun C => { C with st := 1, block := BitVec.ofNat 512 (2 ^ 256) }).modDma 0 fun D => { D with st := .job }, by decide +kernel⟩⟩

theorem witness_BusErrorsAreRetriedThenHalt :
    ∃ (s : State), ∃ (n : Nat), ∃ (w : Bool), ((s.dmaCh n).st = .running) ∧ ((s.dmaCh n).recWait = none) :=
  ⟨wdma (fun D => { D with st := .running }), 0, true, by decide +kernel⟩

theorem witness_LoopedChainHalts :
    (∃ (n : BitVec 5), ∃ (bits : BitVec 512), ∃ (idx : List (BitVec 64)), ∃ (m : MemIn), ∃ (s : State), ∃ (a : BitVec 64), ((s.dmaCh n.toNat).st = .running) ∧ ((s.dmaCh n.toNat).nextDesc = some a) ∧ ((s.dmaCh n.toNat).cur = none) ∧ ((s.dmaCh n.toNat).recWait = none) ∧ ((s.dmaCh n.toNat).job = none) ∧ (((s.dmaCh n.toNat).cqBase = 0 ∨ (s.dmaCh n.toNat).cqRoom = true)) ∧ ((s.dmaCh n.toNat).resetting = false) ∧ (((s.dmaCh n.toNat).recent.contains a = true ∨
      (0 < (s.dmaCh n.toNat).fetched ∧ a = (s.dmaCh n.toNat).head)))) ∧
    (∃ (n : BitVec 5), ∃ (bits : BitVec 512), ∃ (idx : List (BitVec 64)), ∃ (m : MemIn), ∃ (s : State), ∃ (a : BitVec 64), ((s.dmaCh n.toNat).st = .running) ∧ ((s.dmaCh n.toNat).nextDesc = some a) ∧ ((s.dmaCh n.toNat).cur = none) ∧ ((s.dmaCh n.toNat).recWait = none) ∧ ((s.dmaCh n.toNat).job = none) ∧ (((s.dmaCh n.toNat).cqBase = 0 ∨ (s.dmaCh n.toNat).cqRoom = true)) ∧ ((s.dmaCh n.toNat).recent.contains a = false) ∧ (((s.dmaCh n.toNat).fetched = 0 ∨ a ≠ (s.dmaCh n.toNat).head)) ∧ ((s.dmaCh n.toNat).resetting = false) ∧ ((s.dmaCh n.toNat).budget ≤ (s.dmaCh n.toNat).fetched)) ∧
    (∃ (n : BitVec 5), ∃ (bits : BitVec 512), ∃ (m : MemIn), ∃ (s : State), ∃ (a : BitVec 64), ((s.dmaCh n.toNat).nextDesc = some a) ∧ ((s.dmaCh n.toNat).cur = none) ∧ ((s.dmaCh n.toNat).recWait = none) ∧ ((s.dmaCh n.toNat).st = .running) ∧ ((s.dmaCh n.toNat).recent.contains a = false) ∧ (((s.dmaCh n.toNat).fetched = 0 ∨ a ≠ (s.dmaCh n.toNat).head)) ∧ ((s.dmaCh n.toNat).fetched < (s.dmaCh n.toNat).budget) ∧ (fld bits 304 4 ≤ 3) ∧ (descOk { Desc.reset with bits := bits } false = true) ∧ (descMine s n.toNat { Desc.reset with bits := bits } = true) ∧ (bit bits 312 = false)) :=
  ⟨⟨0, 0, [], {}, wdma (fun D => { D with st := .running, nextDesc := some 64, recent := [64] }), 64, by decide +kernel⟩,
   ⟨0, 0, [], {}, wdma (fun D => { D with st := .running, nextDesc := some 64, head := 128, fetched := 65536 }), 64, by decide +kernel⟩,
   ⟨0, bits64, {}, wdma (fun D => { D with st := .running, nextDesc := some 64, head := 128, fetched := 1 }), 64, by decide +kernel⟩⟩

theorem witness_SystemCommandsComplete :
    (∃ (p : Packet), ∃ (s : State), (Ready cmdSysEpochSet p s) ∧ (p.dat 1 8 % 64 = 0) ∧ (p.dat 1 8 < 2 ^ 64) ∧ (p.dat 9 1 = 0) ∧ (anyArmed s = false) ∧ (follows s = false) ∧ ((s.vach.role ≠ 3 ∨ ∀ v < 4, (s.vp v).peerArmed = false)) ∧ (s.time.wait = none)) ∧
    (∃ (p : Packet), ∃ (s : State), (Ready cmdSysEpochSet p s) ∧ (p.dat 1 8 % 64 = 0) ∧ (p.dat 1 8 < 2 ^ 64) ∧ ((p.dat 9 1 = 1 ∨ p.dat 9 1 = 2)) ∧ (anyArmed s = false) ∧ (follows s = false) ∧ ((s.vach.role ≠ 3 ∨ ∀ v < 4, (s.vp v).peerArmed = false)) ∧ (s.time.wait = none)) ∧
    (∃ (p : Packet), ∃ (s : State), (Ready cmdSysTimeGet p s)) ∧
    (∃ (p : Packet), ∃ (s : State), (Ready cmdSysTrigOutSet p s) ∧ (p.subv ≤ 1) ∧ (fld (p.blk 32) 16 8 ≠ 0) ∧ (selOk (fld (p.blk 32) 0 12) 5 = true) ∧ (zeros (p.blk 32) [(13, 3), (24, 8)] = true)) ∧
    (∃ (p : Packet), ∃ (s : State), (Ready cmdSysTrigOutGet p s) ∧ (p.subv ≤ 1)) ∧
    (∃ (p : Packet), ∃ (s : State), (Ready cmdSysLinkSet p s) ∧ (vachCfgOk (p.blk 512) = true) ∧ ((∀ k < 12, routeOwned s (p.blk 512) k = true)) ∧ (anyArmed s = false) ∧ ((s.vach.role ≠ 3 ∨ ∀ v < 4, (s.vp v).peerArmed = false))) ∧
    (∃ (p : Packet), ∃ (s : State), (Ready cmdSysLinkStatus p s) ∧ (p.subv = 0)) ∧
    (∃ (p : Packet), ∃ (s : State), (Ready cmdSysLinkStatus p s) ∧ (p.subv = 1)) ∧
    (∃ (p : Packet), ∃ (s : State), (Ready cmdSysMsgSend p s) ∧ (p.inb 4 2 < 4096) ∧ (p.inb 6 1 < 16) ∧ (2 ≤ s.vach.role.toNat) ∧ (p.inb 4 2 ≠ s.vach.devId)) ∧
    (∃ (p : Packet), ∃ (s : State), (Ready cmdSysPhaseStep p s) ∧ (follows s = false) ∧ ((s.vach.role ≠ 3 ∨ s.vach.ppsLock = false)) ∧ (s.vach.stepOrigin = none) ∧ 
let n := (BitVec.ofNat 16 (p.inb 4 2)).toInt
(n.natAbs ≤ 1023) ∧ (n ≠ 0) ∧ ((s.time.epochSet = false ∨ (0 ≤ s.time.fraction.toNat + 16 * n ∧ s.time.fraction.toNat + 16 * n ≤ 255)))) :=
  ⟨⟨pk 0x0D01 0 (List.replicate 10 0), go (pk 0x0D01 0 (List.replicate 10 0)) (w0), ready_of (by decide +kernel), by decide +kernel⟩,
   ⟨pk 0x0D01 0 (List.replicate 9 0 ++ [1]), go (pk 0x0D01 0 (List.replicate 9 0 ++ [1])) (w0), ready_of (by decide +kernel), by decide +kernel⟩,
   ⟨pk 0x0D02 0, go (pk 0x0D02 0) (w0), ready_of (by decide +kernel)⟩,
   ⟨pk 0x0D03 0 [0, 0, 1, 0], go (pk 0x0D03 0 [0, 0, 1, 0]) (w0), ready_of (by decide +kernel), by decide +kernel⟩,
   ⟨pk 0x0D04 0, go (pk 0x0D04 0) (w0), ready_of (by decide +kernel), by decide +kernel⟩,
   ⟨pk 0x0D05 0 (List.replicate 64 0), go (pk 0x0D05 0 (List.replicate 64 0)) (w0), ready_of (by decide +kernel), by decide +kernel⟩,
   ⟨pb 0x0D06 0, go (pb 0x0D06 0) (w0), ready_of (by decide +kernel), by decide +kernel⟩,
   ⟨pb 0x0D06 (2 ^ 16), go (pb 0x0D06 (2 ^ 16)) (w0), ready_of (by decide +kernel), by decide +kernel⟩,
   ⟨pk 0x0D07 (5 * 2 ^ 32 + 2 ^ 48) (List.replicate 16 7), go (pk 0x0D07 (5 * 2 ^ 32 + 2 ^ 48) (List.replicate 16 7)) (wv fun V => { V with role := 3 }), ready_of (by decide +kernel), by decide +kernel⟩,
   ⟨pk 0x0D08 (2 ^ 32), go (pk 0x0D08 (2 ^ 32)) (w0), by dsimp only; exact ⟨ready_of (by decide +kernel), by decide +kernel⟩⟩⟩

theorem witness_TimeAndVacheodEventsComplete :
    (∃ (slot : BitVec 64), ∃ (s : State), (s.time.wait = none) ∧ (s.vach.divArm = true) ∧ ((∀ x ∈ s.ports, x.2.state = .down ∨ x.2.state = .powered))) ∧
    (∃ (s : State), ∃ (w : EpochWait), (s.time.wait = some w)) ∧
    (∃ (tm : BitVec 72), ∃ (s : State), (s.vach.ppsSlot = none)) ∧
    (∃ (s : State), (s.vach.ppsOk = true)) ∧
    (∃ (r : Bool), ∃ (s : State), (s.time.coast = false) ∧ (s.clk.dclkLock = true)) ∧
    (∃ (s : State), (s.vach.stepsDue ≠ 0) ∧ (stepFree s = true) ∧ (s.vach.stepOrigin = none)) ∧
    (∃ (s : State), (follows s = true) ∧ ((s.vp s.vach.upstream.toNat).theta ≠ []) ∧ (s.vach.stepsDue = 0) ∧ (s.vach.stepOrigin = none) ∧ (s.vach.epochOk = true)) ∧
    (∃ (slot : BitVec 64), ∃ (frac : BitVec 8), ∃ (s : State), (follows s = true) ∧ (s.vach.epochOk = false) ∧ (anyArmed s = false) ∧ (s.vach.exchanges = 64) ∧ (s.vach.stepsDue = 0) ∧ (s.vach.stepOrigin = none) ∧ (slot.toNat % 64 = 0) ∧ (frac.toNat ≤ 15) ∧ (s.time.coast = false)) ∧
    (∃ (v : BitVec 2), ∃ (flit : BitVec 192), ∃ (s : State), ((s.vp v.toNat).trained = true) ∧ ((s.vp v.toNat).laneLost = none) ∧ ((s.vp v.toNat).pieces = [])) ∧
    (∃ (v : BitVec 2), ∃ (flit : BitVec 192), ∃ (s : State), ((s.vp v.toNat).trained = true) ∧ (fld flit 0 2 = 2)) ∧
    (∃ (v : BitVec 2), ∃ (frame : BitVec 192), ∃ (tm : BitVec 72), ∃ (s : State), ((s.vp v.toNat).st = .tree ∨ (s.vp v.toNat).st = .standby) ∧ (sideOk frame = true) ∧ (fld frame 0 4 = 1) ∧ ((s.vp v.toNat).ttSent = [])) ∧
    (∃ (v : BitVec 2), ∃ (frame : BitVec 192), ∃ (s : State), ((s.vp v.toNat).st = .tree) ∧ (sideOk frame = true) ∧ (fld frame 0 4 = 2) ∧ (fld frame 4 12 ≠ s.vach.devId)) ∧
    (∃ (v : BitVec 2), ∃ (frame : BitVec 192), ∃ (s : State), ((s.vp v.toNat).st = .tree) ∧ (sideOk frame = true) ∧ (fld frame 0 4 = 2) ∧ (fld frame 4 12 = s.vach.devId)) ∧
    (∃ (v : BitVec 2), ∃ (frame : BitVec 192), ∃ (s : State), ((s.vp v.toNat).st = .tree) ∧ (sideOk frame = true) ∧ (fld frame 0 4 = 3)) ∧
    (∃ (v : BitVec 2), ∃ (frame : BitVec 192), ∃ (s : State), ((s.vp v.toNat).trained = true) ∧ (sideOk frame = true) ∧ (fld frame 0 4 = 4)) ∧
    (∃ (v : BitVec 2), ∃ (r : XtRec), ∃ (rest : List XtRec), ∃ (s : State), ((s.vp v.toNat).elastic = r :: rest) ∧ (r.late = true)) ∧
    (∃ (v : BitVec 2), ∃ (r : XtRec), ∃ (rest : List XtRec), ∃ (s : State), ((s.vp v.toNat).elastic = r :: rest) ∧ (r.late = false) ∧ (notAfter r.entry s.time.slotCount = true)) ∧
    (∃ (v : BitVec 2), ∃ (lane : BitVec 2), ∃ (s : State), ((s.vp v.toNat).trained = true) ∧ ((s.vp v.toNat).laneLost = none)) ∧
    (∃ (v : BitVec 2), ∃ (lane : BitVec 2), ∃ (s : State), ∃ (k : Nat), ((s.vp v.toNat).trained = true) ∧ ((s.vp v.toNat).laneLost = some k) ∧ (k ≠ lane.toNat)) ∧
    (∃ (v : BitVec 2), ∃ (s : State), ((s.vp v.toNat).st = .train)) ∧
    (∃ (v : BitVec 2), ∃ (d : BitVec 16), ∃ (s : State), ((s.vp v.toNat).st = .train)) ∧
    (∃ (v : BitVec 2), ∃ (s : State), ((s.vp v.toNat).st = .down)) ∧
    (∃ (s : State), (s.vach.join = true) ∧ (s.boot.step = 11) ∧ ((∀ v < 4, (s.vp v).trained = false)) ∧ (s.vach.prio ≠ 0) ∧ (s.vach.role ≠ 2) ∧ (s.vach.role ≠ 4)) :=
  ⟨⟨0, { w0 with ports := [], vach := { w0.vach with cfg := BitVec.ofNat 512 (2 ^ 24) } }, by decide +kernel⟩,
   ⟨{ w0 with time := { w0.time with wait := some ⟨true, 0, 0, .none⟩ } }, ⟨true, 0, 0, .none⟩, by decide +kernel⟩,
   ⟨5, w0, by decide +kernel⟩,
   ⟨wv fun V => { V with ppsOk := true }, by decide +kernel⟩,
   ⟨true, w0, by decide +kernel⟩,
   ⟨wv fun V => { V with stepsDue := 2 }, by decide +kernel⟩,
   ⟨(wv fun V => { V with role := 4, upstream := 0, epochOk := true }).modVp 0 fun P => { P with theta := [3] }, by decide +kernel⟩,
   ⟨64, 3, wv fun V => { V with role := 4, upstream := 0, epochOk := false, exchanges := 64 }, by decide +kernel⟩,
   ⟨0, 0, wvp fun P => { P with st := .tree }, by decide +kernel⟩,
   ⟨0, 2, wvp fun P => { P with st := .tree }, by decide +kernel⟩,
   ⟨0, sideFrame 1, 7, wvp fun P => { P with st := .tree }, by decide +kernel⟩,
   ⟨0, sideFrame (2 + 5 * 16), wvp fun P => { P with st := .tree }, by decide +kernel⟩,
   ⟨0, sideFrame 2, wvp fun P => { P with st := .tree }, by decide +kernel⟩,
   ⟨0, sideFrame 3, wvp fun P => { P with st := .tree }, by decide +kernel⟩,
   ⟨0, sideFrame 4, wvp fun P => { P with st := .tree }, by decide +kernel⟩,
   ⟨0, { XtRec.reset with late := true }, [], wvp fun P => { P with st := .tree, elastic := [{ XtRec.reset with late := true }] }, by decide +kernel⟩,
   ⟨0, XtRec.reset, [], wvp fun P => { P with st := .tree, elastic := [XtRec.reset] }, by decide +kernel⟩,
   ⟨0, 1, wvp fun P => { P with st := .tree }, by decide +kernel⟩,
   ⟨0, 1, wvp (fun P => { P with st := .tree, laneLost := some 2 }), 2, by decide +kernel⟩,
   ⟨0, wvp fun P => { P with st := .train }, by decide +kernel⟩,
   ⟨0, 5, wvp fun P => { P with st := .train }, by decide +kernel⟩,
   ⟨0, wvp fun P => { P with st := .down }, by decide +kernel⟩,
   ⟨wv fun V => { V with cfg := BitVec.ofNat 512 (2 ^ 20 + 5 * 2 ^ 4) }, by decide +kernel⟩⟩

theorem witness_PowerCommandsComplete :
    (∃ (p : Packet), ∃ (s : State), (Ready cmdPwrCapSet p s) ∧ (pwrCfgOk (p.blk 256) = true) ∧ (tokensInUse s ≤ fld (p.blk 256) 0 11 * 2600 / 1550)) ∧
    (∃ (p : Packet), ∃ (s : State), (Ready cmdState p s) ∧ (p.inb 4 1 = 0) ∧ (p.inb 0 4 = 0) ∧ (mayPark s = true)) ∧
    (∃ (p : Packet), ∃ (s : State), (Ready cmdState p s) ∧ (p.inb 4 1 = 1) ∧ (p.inb 0 4 = 0) ∧ (mayPark s = true)) ∧
    (∃ (p : Packet), ∃ (s : State), (Ready cmdState p s) ∧ (p.inb 4 1 = 2) ∧ (p.inb 0 4 = 0) ∧ ((∀ d < 4, newPolicy p d = 1 → dieInUse s d = false))) ∧
    (∃ (p : Packet), ∃ (s : State), (Ready cmdPwrStatus p s)) ∧
    (∃ (p : Packet), ∃ (s : State), (Ready cmdClkStatus p s)) ∧
    (∃ (p : Packet), ∃ (s : State), 
let n := p.dat 0 4 % 64

let es := (List.range n).map fun i => BitVec.ofNat 32 (p.dat (4 + 4 * i) 4)
(Ready cmdMonSeqSet p s) ∧ (monSeqOk (p.dat 0 4) es = true) ∧ (4 + 4 * n ≤ p.data.length) ∧ (s.mon.running = false)) ∧
    (∃ (p : Packet), ∃ (s : State), 
let n := p.dat 0 4 % 64

let es := (List.range n).map fun i => BitVec.ofNat 32 (p.dat (4 + 4 * i) 4)
(Ready cmdMonSeqSet p s) ∧ (monSeqOk (p.dat 0 4) es = true) ∧ (4 + 4 * n ≤ p.data.length) ∧ (s.mon.running = true)) ∧
    (∃ (p : Packet), ∃ (s : State), (Ready cmdMonRead p s)) ∧
    (∃ (p : Packet), ∃ (s : State), (Ready cmdMonCal p s) ∧ (p.inb 4 1 ≤ 23) ∧ (p.inb 5 1 = 0) ∧ (s.mon.calBusy = none)) ∧
    (∃ (p : Packet), ∃ (s : State), (Ready cmdMonCal p s) ∧ (p.inb 4 1 ≤ 23) ∧ (p.inb 5 1 = 1) ∧ (s.mon.calBusy = none)) :=
  ⟨⟨pk 0x0E01 0 (bytesOf 32 1550), go (pk 0x0E01 0 (bytesOf 32 1550)) (w0), ready_of (by decide +kernel), by decide +kernel⟩,
   ⟨pk 0x0E02 0, go (pk 0x0E02 0) (w0), ready_of (by decide +kernel), by decide +kernel⟩,
   ⟨pk 0x0E02 (2 ^ 32), go (pk 0x0E02 (2 ^ 32)) (w0), ready_of (by decide +kernel), by decide +kernel⟩,
   ⟨pk 0x0E02 (2 * 2 ^ 32), go (pk 0x0E02 (2 * 2 ^ 32)) (w0), ready_of (by decide +kernel), by decide +kernel⟩,
   ⟨pb 0x0E03 0, go (pb 0x0E03 0) (w0), ready_of (by decide +kernel)⟩,
   ⟨pb 0x0E04 0, go (pb 0x0E04 0) (w0), ready_of (by decide +kernel)⟩,
   ⟨pk 0x0E05 0 [1, 0, 0, 0, 3, 0, 0, 0], go (pk 0x0E05 0 [1, 0, 0, 0, 3, 0, 0, 0]) (w0), by dsimp only; exact ⟨ready_of (by decide +kernel), by decide +kernel⟩⟩,
   ⟨pk 0x0E05 0 [1, 0, 0, 0, 3, 0, 0, 0], go (pk 0x0E05 0 [1, 0, 0, 0, 3, 0, 0, 0]) ({ w0 with mon := { w0.mon with running := true } }), by dsimp only; exact ⟨ready_of (by decide +kernel), by decide +kernel⟩⟩,
   ⟨pb 0x0E06 0, go (pb 0x0E06 0) (w0), ready_of (by decide +kernel)⟩,
   ⟨pk 0x0E07 0, go (pk 0x0E07 0) (w0), ready_of (by decide +kernel), by decide +kernel⟩,
   ⟨pk 0x0E07 (2 ^ 40), go (pk 0x0E07 (2 ^ 40)) (w0), ready_of (by decide +kernel), by decide +kernel⟩⟩

theorem witness_PowerEventsComplete :
    (∃ (s : State), (2 ≤ s.pwr.state.toNat)) ∧
    (∃ (i : Nat), ∃ (s : State), ∃ (g : Grant), ∃ (p : Packet), (s.pwr.queue[i]? = some g) ∧ (g.packet = some p) ∧ (p.mbox = false)) ∧
    (∃ (d : BitVec 2), ∃ (s : State), ((s.die d.toNat).powering = true)) ∧
    (∃ (k : Nat), ∃ (s : State), (k < 64) ∧ ((s.cluster k).powering = true) ∧ (regionUsable s (k / 4) = true)) ∧
    (∃ (r : Nat), ∃ (s : State), (r < 16) ∧ ((s.region r).powering = true) ∧ ((s.die (r / 4)).pwr ≠ 0) ∧ ((s.die (r / 4)).powering = false)) ∧
    (∃ (k : BitVec 6), ∃ (s : State), (fld s.pwr.cfg 32 16 ≠ 0) ∧ (clusterUsable s k.toNat = true) ∧ (clusterInUse s k.toNat = false) ∧ (densHeld s k.toNat = false)) ∧
    (∃ (d : BitVec 2), ∃ (s : State), 
let a := patrolRegions s
(fld s.pwr.cfg 48 16 ≠ 0) ∧ ((a.die d.toNat).pwr ≠ 0) ∧ ((a.die d.toNat).powering = false) ∧ ((a.die d.toNat).policy.toNat < 2) ∧ (dieWorks a d.toNat = false) ∧ (dieWanted a d.toNat = false) ∧ ((∀ r ∈ dieRegions d.toNat, regionOn (a.region r) = false))) ∧
    (∃ (s : State), ∃ (st : BitVec 2), ∃ (timer : BitVec 32), (s.pwr.target = some (st, timer)) ∧ ((∀ p < 128, (s.port p).state = .down ∨ (s.port p).state = .powered ∨ (s.port p).state = .quarantined)) ∧ (stillStoring s = false)) ∧
    (∃ (v : BitVec 2), ∃ (parked : BitVec 64), ∃ (b : BootIn), ∃ (s : State), (s.boot.lodgeOn = true) ∧ (s.boot.step = 11) ∧ (s.pwr.state = 1) ∧ (bit s.pwr.cfg 67 = true) ∧ ((∀ i < 3, (wakeEnabled s i && wakeLatched s i) = false))) ∧
    (∃ (parked : BitVec 64), ∃ (b : BootIn), ∃ (s : State), ∃ (n : BitVec 32), (s.boot.lodgeOn = true) ∧ (s.boot.step = 11) ∧ (s.pwr.state = 1) ∧ (s.pwr.wakeTimer = some n) ∧ ((∀ i < 4, (wakeEnabled s i && wakeLatched s i) = false))) ∧
    (∃ (mv : BitVec 16), ∃ (ma : BitVec 32), ∃ (p10 : BitVec 16), ∃ (s : State), (s.boot.lodgeOn = true) ∧ (2 ≤ s.pwr.state.toNat)) ∧
    (∃ (t0 : BitVec 16), ∃ (t1 : BitVec 16), ∃ (t2 : BitVec 16), ∃ (t3 : BitVec 16), ∃ (hub : BitVec 16), ∃ (s : State), (2 ≤ s.pwr.state.toNat) ∧ (t0.toInt < 1520) ∧ (t1.toInt < 1520) ∧ (t2.toInt < 1520) ∧ (t3.toInt < 1520)) ∧
    (∃ (mean : BitVec 16), ∃ (s : State), (s.mon.running = true) ∧ (s.mon.next = none) ∧ (fld (s.mon.entries.get 0 s.mon.cur) 5 2 = 0)) ∧
    (∃ (raw : BitVec 16), ∃ (s : State), ∃ (i : Nat), ∃ (target : BitVec 16), ∃ (o : Origin), (s.mon.calBusy = some (i, false, target, o)) ∧ (i < 16)) ∧
    (∃ (s : State), (fld s.pwr.cfg 0 11 = 1550)) ∧
    (∃ (s : State), (fld s.pwr.cfg 0 11 ≤ 1550)) ∧
    (∃ (P : Port), (P.liveGrant = false)) :=
  ⟨⟨w0, by decide +kernel⟩,
   ⟨0, { w0 with pwr := { w0.pwr with queue := [⟨[], false, some (pk 0x0301 0)⟩] } }, ⟨[], false, some (pk 0x0301 0)⟩, pk 0x0301 0, by decide +kernel⟩,
   ⟨0, w0.modDie 0 fun D => { D with powering := true }, by decide +kernel⟩,
   ⟨0, w0.modCluster 0 fun C => { C with powering := true }, by decide +kernel⟩,
   ⟨0, w0.modRegion 0 fun R => { R with powering := true }, by decide +kernel⟩,
   ⟨0, { w0 with pwr := { w0.pwr with cfg := BitVec.ofNat 256 (2 ^ 32) } }, by decide +kernel⟩,
   ⟨1, ({ w0 with pwr := { w0.pwr with cfg := BitVec.ofNat 256 (2 ^ 48) } }).modDie 1 fun D => { D with pwr := 1 }, by dsimp only; exact by decide +kernel⟩,
   ⟨{ w0 with ports := [], chans := [], pwr := { w0.pwr with target := some (1, 5) } }, 1, 5, by decide +kernel⟩,
   ⟨0, 0, boot0, { w0 with pwr := { w0.pwr with state := 1, cfg := BitVec.ofNat 256 (2 ^ 67) } }, by decide +kernel⟩,
   ⟨0, boot0, { w0 with pwr := { w0.pwr with state := 1, wakeTimer := some 9 } }, 9, by decide +kernel⟩,
   ⟨11900, 5, 7, w0, by decide +kernel⟩,
   ⟨0, 0, 0, 0, 0, w0, by decide +kernel⟩,
   ⟨5, { w0 with mon := { w0.mon with running := true, entries := [] } }, by decide +kernel⟩,
   ⟨5, { w0 with mon := { w0.mon with calBusy := some (3, false, 9, .none) } }, 3, 9, .none, by decide +kernel⟩,
   ⟨{ w0 with pwr := { w0.pwr with cfg := BitVec.ofNat 256 1550 } }, by decide +kernel⟩,
   ⟨{ w0 with pwr := { w0.pwr with cfg := BitVec.ofNat 256 1000 } }, by decide +kernel⟩,
   ⟨Port.reset, by decide +kernel⟩⟩

theorem witness_SecurityRowsComplete :
    (∃ (p : Packet), ∃ (s : State), (Ready cmdAttestReport p s) ∧ (p.subv = 0) ∧ (canSign s = true)) ∧
    (∃ (p : Packet), ∃ (s : State), (Ready cmdAttest p s) ∧ (p.subv = 1)) ∧
    (∃ (p : Packet), ∃ (s : State), (Ready cmdAttest p s) ∧ (p.subv = 2)) ∧
    (∃ (p : Packet), ∃ (s : State), 
let r := p.refData

let cl := le (slice r 2 2)
(Ready cmdSecSessionOpen p s) ∧ (p.dataRef = true) ∧ (9216 + cl ≤ r.length) ∧ (reqReserved r = true) ∧ ((cl = 0 ∨ cl = 7504)) ∧ ((le (slice r 0 1) = 0 ∧ (lifecycle s = 1 ∨ lifecycle s = 2) ∧ (s.part p.part).session = none ∨
       le (slice r 0 1) = 1 ∧ p.fn = 0 ∧ s.sec.coSession = none))) ∧
    (∃ (p : Packet), ∃ (s : State), (Ready cmdSecSessionClose p s) ∧ ((p.inb 4 1 = 0 ∧ (s.part p.part).session.isSome = true ∨ p.inb 4 1 = 1 ∧ s.sec.coSession.isSome = true)) ∧ ((∀ n ∈ s.partPorts p.part, (s.port n).trig.armed = false)) ∧ ((∀ n ∈ s.partDma p.part, (s.dmaCh n).st ≠ .running ∧ (s.dmaCh n).st ≠ .halting ∧ (s.dmaCh n).st ≠ .job)) ∧ (partCompressing s p.part = false)) ∧
    (∃ (p : Packet), ∃ (s : State), (Ready cmdApproved p s) ∧ (p.inb 4 1 = 1) ∧ (lifecycle s = 2) ∧ (otherSession s = false)) ∧
    (∃ (p : Packet), ∃ (s : State), (Ready cmdApproved p s) ∧ (p.inb 4 1 = 0) ∧ (lifecycle s = 2) ∧ (bit s.sec.sensed 8 = false) ∧ (otherSession s = false)) ∧
    (∃ (p : Packet), ∃ (s : State), (Ready cmdLifecycle p s) ∧ (p.inb 4 1 = 1) ∧ (lifecycle s = 0)) ∧
    (∃ (p : Packet), ∃ (s : State), (Ready cmdLifecycle p s) ∧ (p.inb 4 1 = 2) ∧ (lifecycle s = 1) ∧ (p.dataRef = true)) ∧
    (∃ (p : Packet), ∃ (s : State), (Ready cmdLifecycle p s) ∧ (p.inb 4 1 = 3) ∧ (lifecycle s = 1) ∧ (p.dataRef = true) ∧ (2689 ≤ p.refData.length) ∧ (s.sec.certs ≠ [])) ∧
    (∃ (p : Packet), ∃ (s : State), (Ready cmdLifecycle p s) ∧ (p.inb 4 1 = 4) ∧ (lifecycle s = 2)) ∧
    (∃ (p : Packet), ∃ (s : State), (Ready cmdLifecycle p s) ∧ (p.inb 4 1 = 5) ∧ (lifecycle s ≠ 4)) ∧
    (∃ (p : Packet), ∃ (s : State), (Ready cmdDebugUnlock p s) ∧ (p.inb 4 1 = 6) ∧ (fld s.sec.sensed 4 2 = 1) ∧ ((lifecycle s = 1 ∨ lifecycle s = 3))) ∧
    (∃ (p : Packet), ∃ (s : State), (Ready cmdFw p s) ∧ (p.inb 4 1 = 0) ∧ (p.mbox = false) ∧ (p.dataRef = true)) ∧
    (∃ (p : Packet), ∃ (s : State), (Ready cmdFw p s) ∧ (p.inb 4 1 = 0) ∧ (p.mbox = true) ∧ (p.data.length ≤ 4016) ∧ (p.inb 5 1 % 2 = 0) ∧ ((p.inb 8 4 = 0 ∨ p.inb 8 4 = s.sec.chunks.length))) ∧
    (∃ (p : Packet), ∃ (s : State), (Ready cmdFw p s) ∧ (p.inb 4 1 = 1) ∧ ((runningFw s).booted = true)) ∧
    (∃ (p : Packet), ∃ (s : State), (Ready cmdZeroise p s) ∧ (p.subv = 0)) ∧
    (∃ (p : Packet), ∃ (s : State), (Ready cmdZeroise p s) ∧ (p.subv = 1)) ∧
    (∃ (p : Packet), ∃ (s : State), (Ready cmdSelftest p s) ∧ (p.inb 4 1 % 2 = 0)) ∧
    (∃ (p : Packet), ∃ (s : State), (Ready cmdFaultInsert p s) ∧ (p.inb 4 1 % 2 = 1)) ∧
    (∃ (p : Packet), ∃ (s : State), ∃ (e : AuditEnt), ∃ (es : List AuditEnt), (Ready cmdSecAuditRead p s) ∧ (s.sec.audit = e :: es)) ∧
    (∃ (r : IslandIn), ∃ (s : State), ∃ (op : IslandOp), ∃ (p : Packet), ∃ (js : List (IslandOp × Packet)), (s.sec.islandJob = (op, p) :: js) ∧ (r.fail = none) ∧ (s.sec.error = false) ∧ ((op ≠ .sessionOpen ∨ reseedDue s = false))) ∧
    (∃ (r : IslandIn), ∃ (s : State), ∃ (op : IslandOp), ∃ (p : Packet), ∃ (js : List (IslandOp × Packet)), ∃ (n : BitVec 32), (s.sec.islandJob = (op, p) :: js) ∧ (r.fail = some n)) ∧
    (∃ (s : State), (reseedDue s = true)) ∧
    (∃ (s : State), (reseedDue s = true)) :=
  ⟨⟨pb 0x0F01 0 (List.replicate 32 0), go (pb 0x0F01 0 (List.replicate 32 0)) (w0.modSec fun S => { S with identity := true, kek := true }), ready_of (by decide +kernel), by decide +kernel⟩,
   ⟨pb 0x0F01 (2 ^ 16), go (pb 0x0F01 (2 ^ 16)) (w0), ready_of (by decide +kernel), by decide +kernel⟩,
   ⟨pb 0x0F01 (2 * 2 ^ 16), go (pb 0x0F01 (2 * 2 ^ 16)) (w0), ready_of (by decide +kernel), by decide +kernel⟩,
   ⟨byRef (pb 0x0F02 0) (List.replicate 9216 0), go (byRef (pb 0x0F02 0) (List.replicate 9216 0)) ((wlc 1).modPart 0 fun P => { P with session := none }), by dsimp only; exact ⟨ready_of (by decide +kernel), by decide +kernel⟩⟩,
   ⟨sg cmdSecSessionClose (pb 0x0F03 0), go (sg cmdSecSessionClose (pb 0x0F03 0)) (w0), ready_signed (by decide +kernel), by decide +kernel⟩,
   ⟨sg cmdApproved (pk 0x0F04 (2 ^ 32)), go (sg cmdApproved (pk 0x0F04 (2 ^ 32))) ((wlc 3).modPart 0 fun P => { P with session := none }), ready_signed (by decide +kernel), by decide +kernel⟩,
   ⟨sg cmdApproved (pk 0x0F04 0), go (sg cmdApproved (pk 0x0F04 0)) ((wlc 3).modPart 0 fun P => { P with session := none }), ready_signed (by decide +kernel), by decide +kernel⟩,
   ⟨sg cmdLifecycle (pk 0x0F05 (2 ^ 32)), go (sg cmdLifecycle (pk 0x0F05 (2 ^ 32))) (wlc 0), ready_signed (by decide +kernel), by decide +kernel⟩,
   ⟨sg cmdLifecycle (byRef (pk 0x0F05 (2 * 2 ^ 32)) [1]), go (sg cmdLifecycle (byRef (pk 0x0F05 (2 * 2 ^ 32)) [1])) (wlc 1), ready_signed (by decide +kernel), by decide +kernel⟩,
   ⟨sg cmdLifecycle (byRef (pk 0x0F05 (3 * 2 ^ 32)) (List.replicate 2689 0)), go (sg cmdLifecycle (byRef (pk 0x0F05 (3 * 2 ^ 32)) (List.replicate 2689 0))) ((wlc 1).modSec fun S => { S with certs := [1] }), ready_signed (by decide +kernel), by decide +kernel⟩,
   ⟨sg cmdLifecycle (pk 0x0F05 (4 * 2 ^ 32)), go (sg cmdLifecycle (pk 0x0F05 (4 * 2 ^ 32))) (wlc 3), ready_signed (by decide +kernel), by decide +kernel⟩,
   ⟨sg cmdLifecycle (pk 0x0F05 (5 * 2 ^ 32)), go (sg cmdLifecycle (pk 0x0F05 (5 * 2 ^ 32))) (wlc 1), ready_signed (by decide +kernel), by decide +kernel⟩,
   ⟨sg cmdDebugUnlock (pk 0x0F05 (6 * 2 ^ 32)), go (sg cmdDebugUnlock (pk 0x0F05 (6 * 2 ^ 32))) (wlc 1 16), ready_signed (by decide +kernel), by decide +kernel⟩,
   ⟨sg cmdFw (byRef (pk 0x0F06 0) [1]), go (sg cmdFw (byRef (pk 0x0F06 0) [1])) (w0), ready_signed (by decide +kernel), by decide +kernel⟩,
   ⟨qFw, sFw, ready_of (by decide +kernel), by decide +kernel⟩,
   ⟨sg cmdFw (pk 0x0F06 (2 ^ 32)), go (sg cmdFw (pk 0x0F06 (2 ^ 32))) (w0.modSec fun S => { S with slots := S.slots.set S.fwSlot { Fw.reset with booted := true } }), ready_signed (by decide +kernel), by decide +kernel⟩,
   ⟨sg cmdZeroise (pk 0x0F07 0), go (sg cmdZeroise (pk 0x0F07 0)) (w0), ready_signed (by decide +kernel), by decide +kernel⟩,
   ⟨sg cmdZeroise (pk 0x0F07 (2 ^ 16)), go (sg cmdZeroise (pk 0x0F07 (2 ^ 16))) (w0), ready_signed (by decide +kernel), by decide +kernel⟩,
   ⟨pk 0x0F08 0, go (pk 0x0F08 0) (w0), ready_of (by decide +kernel), by decide +kernel⟩,
   ⟨pk 0x0F08 (2 ^ 32), go (pk 0x0F08 (2 ^ 32)) (w0), ready_of (by decide +kernel), by decide +kernel⟩,
   ⟨pb 0x0F09 0, go (pb 0x0F09 0) (w0.modSec fun S => { S with audit := [AuditEnt.reset] }), AuditEnt.reset, [], ready_of (by decide +kernel), by decide +kernel⟩,
   ⟨isl0, w0.modSec (fun S => { S with islandJob := [(.selfTest, emptyPacket)] }), .selfTest, emptyPacket, [], by decide +kernel⟩,
   ⟨{ isl0 with fail := some 3 }, w0.modSec (fun S => { S with islandJob := [(.selfTest, emptyPacket)] }), .selfTest, emptyPacket, [], 3, by decide +kernel⟩,
   ⟨w0.modSec fun S => { S with drbgReq := 2 ^ 20 }, by decide +kernel⟩,
   ⟨w0.modSec fun S => { S with drbgReq := 2 ^ 20 }, by decide +kernel⟩⟩

theorem witness_ZeroisationAndFuses :
    ∃ (s : State), ∃ (code : Nat), (code ≤ 4) :=
  ⟨w0, 3, by decide +kernel⟩

theorem witness_BootResetAndFaultsComplete :
    (∃ (b : BootIn), ∃ (s : State), (s.boot.lodgeOn = false)) ∧
    (∃ (c : BitVec 4), ∃ (b : BootIn), ∃ (s : State), (s.hub.resetDue = some c)) ∧
    (∃ (c : BitVec 4), ∃ (b : BootIn), ∃ (s : State), (s.hub.resetDue = some c)) ∧
    (∃ (s : State), (s.boot.step = 5)) ∧
    (∃ (b : BootIn), ∃ (s : State), (s.boot.step = 6) ∧ (s.mbox.ready = false) ∧ (b.perstA = false) ∧ (s.boot.recovery = true)) ∧
    (∃ (b : BootIn), ∃ (s : State), (s.boot.step = 6) ∧ (s.mbox.ready = false) ∧ (b.perstA = false) ∧ (s.boot.recovery = false) ∧ (s.hub.wipes = []) ∧ (b.lodgeErrs = [0, 0])) ∧
    (∃ (cause : BitVec 4), ∃ (b : BootIn), ∃ (s : State), (s.boot.lodgeOn = true) ∧ (1 ≤ cause.toNat) ∧ (cause.toNat ≤ 3)) ∧
    (∃ (l : BitVec 16), ∃ (s : State), (coveredReset s l.toNat = false)) ∧
    (∃ (k : BitVec 6), ∃ (s : State), (coveredReset s (loc 7 k.toNat) = false)) ∧
    (∃ (r : BitVec 4), ∃ (s : State), (coveredReset s (loc 8 r.toNat) = false)) ∧
    (∃ (d : BitVec 2), ∃ (s : State), (coveredReset s (loc 9 d.toNat) = false)) ∧
    (∃ (e : Nat), ∃ (s : State), (e < 512)) ∧
    (∃ (p : Packet), ∃ (s : State), (Ready cmdInject p s) ∧ (p.inb 4 1 = 1) ∧ (locOk p.target = true) ∧ (p.target / 0x1000 = 0) ∧ (p.subv = 0)) ∧
    (∃ (p : Packet), ∃ (s : State), (Ready cmdInject p s) ∧ (p.inb 4 1 = 2) ∧ (locOk p.target = true) ∧ (p.target / 0x1000 = 0) ∧ (p.subv = 0)) ∧
    (∃ (p : Packet), ∃ (s : State), (Ready cmdInject p s) ∧ (p.inb 4 1 = 3) ∧ (locOk p.target = true) ∧ (p.target / 0x1000 = 2) ∧ (p.subv = 0)) ∧
    (∃ (p : Packet), ∃ (s : State), (Ready cmdInject p s) ∧ (p.inb 4 1 = 4) ∧ (locOk p.target = true) ∧ (p.target / 0x1000 = 4) ∧ (p.subv = 0)) ∧
    (∃ (p : Packet), ∃ (s : State), (Ready cmdInject p s) ∧ (p.inb 4 1 = 5) ∧ (locOk p.target = true) ∧ (p.target / 0x1000 = 0) ∧ (p.subv ≤ 8)) ∧
    (∃ (p : BitVec 7), ∃ (beat : BitVec 64), ∃ (s : State), 
let P := s.port p.toNat
(P.deskew ≠ []) ∧ (P.pos = beat) ∧ (P.trig.sl.phase ≠ .idle) ∧ (P.trig.heldOut = false) ∧ (P.trig.fenced = none) ∧ (P.trig.replaying = none) ∧ ((recentMismatches P).length < 3)) ∧
    (∃ (p : BitVec 7), ∃ (beat : BitVec 64), ∃ (s : State), 
let P := s.port p.toNat
(P.deskew ≠ []) ∧ (P.pos = beat) ∧ (P.trig.sl.phase ≠ .idle) ∧ (P.trig.heldOut = false) ∧ (P.trig.fenced = none) ∧ ((P.trig.replaying.isSome = true ∨ 3 ≤ (recentMismatches P).length)) ∧ (spareTaken s (portRegion p.toNat) = false)) ∧
    (∃ (p : BitVec 7), ∃ (s : State), ((s.port p.toNat).trig.replaying.isSome = true) ∧ ((s.port p.toNat).trig.fenced = none)) ∧
    (∃ (p : BitVec 7), ∃ (tr : BitVec 64), ∃ (s : State), ∃ (f : BitVec 64), ((s.port p.toNat).trig.fenced = some f) ∧ (notAfter f tr = true) ∧ (tr.toNat % 64 = 0) ∧ ((s.port p.toNat).blockEdge tr = true)) ∧
    (∃ (core : BitVec 2), ∃ (b : BootIn), ∃ (s : State), (s.faults.cores.getLsbD core.toNat = true) ∧ (put s.faults.cores core.toNat 1 0 ≠ 0)) ∧
    (∃ (core : BitVec 2), ∃ (b : BootIn), ∃ (s : State), (s.faults.cores.getLsbD core.toNat = true) ∧ (put s.faults.cores core.toNat 1 0 = 0)) ∧
    (∃ (p : Packet), ∃ (l : BitVec 16), ∃ (s : State), (p.mbox = false) ∧ ((s.fn p.fn.toNat).begun.contains p.core = true)) ∧
    (∃ (d : BitVec 2), ∃ (s : State), ((s.die d.toNat).pwr ≠ 0) ∧ ((s.die d.toNat).linkUp = true)) ∧
    (∃ (f : BitVec 4), ∃ (lanes : List Bool), ∃ (s : State), (reach s f.toNat = true) ∧ (chuteRead s f.toNat (lanes.count true) ⟨msBeats, []⟩ = none)) ∧
    (∃ (e : BitVec 9), ∃ (s : State), ∃ (b : BitVec 72), ((s.eng e.toNat).stall = some b) ∧ (opOf (ySlot b) = 0x15) ∧ ((s.port (tuneTarget (s.eng e.toNat) e.toNat (ySlot b)).2).trig.fenced.isSome = true)) ∧
    (∃ (d : BitVec 2), ∃ (s : State), ((s.die d.toNat).pwr ≠ 0) ∧ ((s.die d.toNat).linkUp = true)) ∧
    (∃ (d : BitVec 2), ∃ (s : State), ((s.die d.toNat).linkUp = false)) ∧
    (∃ (d : BitVec 2), ∃ (s : State), ((s.die d.toNat).linkUp = false) ∧ (coveredReset s (loc 9 d.toNat) = false)) :=
  ⟨⟨boot0, State.reset, by decide +kernel⟩,
   ⟨2, boot0, w0.modHub fun H => { H with resetDue := some 2 }, by decide +kernel⟩,
   ⟨2, boot0, w0.modHub fun H => { H with resetDue := some 2 }, by decide +kernel⟩,
   ⟨{ w0 with boot := { w0.boot with step := 5 } }, by decide +kernel⟩,
   ⟨boot0, { w0 with boot := { w0.boot with step := 6, recovery := true }, mbox := Mbox.reset }, by decide +kernel⟩,
   ⟨boot0, { w0 with boot := { w0.boot with step := 6 }, mbox := Mbox.reset }, by decide +kernel⟩,
   ⟨1, boot0, w0, by decide +kernel⟩,
   ⟨0, w0, by decide +kernel⟩,
   ⟨0, w0, by decide +kernel⟩,
   ⟨0, w0, by decide +kernel⟩,
   ⟨0, w0, by decide +kernel⟩,
   ⟨5, w0, by decide +kernel⟩,
   ⟨pk 0x1004 (0 + 1 * 2 ^ 32), go (pk 0x1004 (0 + 1 * 2 ^ 32)) (w0), ready_of (by decide +kernel), by decide +kernel⟩,
   ⟨pk 0x1004 (0 + 2 * 2 ^ 32), go (pk 0x1004 (0 + 2 * 2 ^ 32)) (w0), ready_of (by decide +kernel), by decide +kernel⟩,
   ⟨pk 0x1004 (0x2000 + 3 * 2 ^ 32), go (pk 0x1004 (0x2000 + 3 * 2 ^ 32)) (w0), ready_of (by decide +kernel), by decide +kernel⟩,
   ⟨pk 0x1004 (0x4000 + 4 * 2 ^ 32), go (pk 0x1004 (0x4000 + 4 * 2 ^ 32)) (w0), ready_of (by decide +kernel), by decide +kernel⟩,
   ⟨pk 0x1004 (0 + 5 * 2 ^ 32), go (pk 0x1004 (0 + 5 * 2 ^ 32)) (w0), ready_of (by decide +kernel), by decide +kernel⟩,
   ⟨0, 0, wp fun P => { P with deskew := [Beat.reset], trig := { P.trig with sl := { P.trig.sl with phase := .hunt } } }, by dsimp only; exact by decide +kernel⟩,
   ⟨0, 0, wp fun P => { P with deskew := [Beat.reset], trig := { P.trig with sl := { P.trig.sl with phase := .hunt }, replaying := some 0 } }, by dsimp only; exact by decide +kernel⟩,
   ⟨0, wp fun P => { P with trig := { P.trig with replaying := some 0 } }, by decide +kernel⟩,
   ⟨0, 960, wp (fun P => { P with trig := { P.trig with fenced := some 0 } }), 0, by decide +kernel⟩,
   ⟨1, boot0, { w0 with faults := { w0.faults with cores := 15 } }, by decide +kernel⟩,
   ⟨1, boot0, { w0 with faults := { w0.faults with cores := 2 } }, by decide +kernel⟩,
   ⟨pk 0x0301 0, 0, wf fun F => { F with begun := [(pk 0x0301 0).core] }, by decide +kernel⟩,
   ⟨0, w0, by decide +kernel⟩,
   ⟨0, [true], sChute, by decide +kernel⟩,
   ⟨0, sTune, bundleOf 0 (yWord 0x15 y0), by decide +kernel⟩,
   ⟨0, w0, by decide +kernel⟩,
   ⟨0, w0.modDie 0 fun D => { D with linkUp := false }, by decide +kernel⟩,
   ⟨0, w0.modDie 0 fun D => { D with linkUp := false }, by decide +kernel⟩⟩

/-! ### Ill-formed commands, one for each check of WellFormed -/

/-- A well-formed DEV_INFO: one cell, with 32 bytes of data area. -/
def goodInfo : Packet := { emptyPacket with opcode := 0x0101, cells := 1, area := List.replicate 32 0 }
theorem test_wf_accepts_dev_info : (Instr.devInfo goodInfo).wf = true := by decide
theorem test_wf_refuses_no_cell : (Instr.devInfo { goodInfo with cells := 0 }).wf = false := by decide
theorem test_wf_refuses_65_cells :
    (Instr.devInfo { goodInfo with cells := 65, area := List.replicate 4128 0 }).wf = false := by decide +kernel
theorem test_wf_refuses_short_area :
    (Instr.devInfo { goodInfo with area := List.replicate 31 0 }).wf = false := by decide
theorem test_wf_refuses_area_over_tag : (Instr.devInfo { goodInfo with auth := true }).wf = false := by decide
theorem test_wf_refuses_return_without_buffer : (Instr.devInfo { goodInfo with ret := 1 }).wf = false := by decide
theorem test_wf_refuses_tag_without_auth :
    (Instr.devInfo { goodInfo with authTag := 1 }).wf = false := by decide
theorem test_wf_refuses_data_without_reference :
    (Instr.devInfo { goodInfo with refData := [1] }).wf = false := by decide
theorem test_wf_refuses_mailbox_of_function_1 :
    (Instr.devInfo { goodInfo with mbox := true, fn := 1 }).wf = false := by decide
theorem test_wf_refuses_opcode_of_another_row : (Instr.devReset goodInfo).wf = false := by decide
theorem test_wf_refuses_mailbox_fetch :
    (Instr.packetFetch { goodInfo with mbox := true } false).wf = false := by decide
theorem test_wf_refuses_empty_chute_read : (Instr.chuteRead 0 [] {}).wf = false := by decide
theorem test_wf_refuses_long_chute_write :
    (Instr.chuteWrite 0 (List.replicate 4097 none) false {}).wf = false := by decide +kernel
theorem test_wf_refuses_misaligned_register : (Instr.registerWrite 0 2 [(0, 15)]).wf = false := by decide
theorem test_wf_refuses_17_dws :
    (Instr.registerWrite 0 4 (List.replicate 17 (0, 15))).wf = false := by decide
theorem test_wf_refuses_boot_without_times : (Instr.powerOn { boot0 with times := [] }).wf = false := by decide
theorem test_wf_accepts_boot : (Instr.powerOn boot0).wf = true := by decide
theorem test_wf_refuses_boot_of_die_4 :
    (Instr.packageReset 2 { boot0 with dieFail := [4] }).wf = false := by decide
theorem test_wf_refuses_eight_blocks : (Instr.blockPeriod 0 (List.replicate 8 []) []).wf = false := by decide
theorem test_wf_refuses_short_block : (Instr.blockPeriod 0 (List.replicate 9 [1]) []).wf = false := by decide
theorem test_wf_refuses_lane_9 : (Instr.laneLost 0 9 .badBlocks).wf = false := by decide
theorem test_wf_refuses_training_of_lane_9 :
    (Instr.trainingPhaseExit 0 ⟨[(9, [])], [], [], 0, 0⟩).wf = false := by decide
theorem test_wf_refuses_nine_ibi_bytes : (Instr.ibiReceive 0 1 (List.replicate 9 0) false).wf = false := by decide
theorem test_wf_refuses_request_past_the_end :
    (Instr.memRequest (.dma 0 true (2 ^ 39) 1)).wf = false := by decide
theorem test_wf_refuses_short_firmware_write :
    (Instr.memRequest (.firmware true 0 [1] 2)).wf = false := by decide
theorem test_wf_refuses_symbol_40 : (Instr.memAccessComplete 0 0 [⟨[(40, 1)], []⟩]).wf = false := by decide
theorem test_wf_refuses_groomer_symbol_40 : (Instr.groomerRead 0 0 {} ⟨[], [(40, 1)]⟩).wf = false := by decide
theorem test_wf_refuses_sweep_of_four_lanes :
    (Instr.sweepDone 0 ⟨List.replicate 4 0, List.replicate 5 0, 0, 0⟩).wf = false := by decide
theorem test_wf_refuses_index_read_of_symbol_40 :
    (Instr.descFetch 0 0 [] ⟨0, [⟨[(40, 1)], []⟩]⟩).wf = false := by decide
theorem test_wf_refuses_dram_lane_5 : (Instr.laneResweep 0 5).wf = false := by decide
theorem test_wf_refuses_completion_of_symbol_40 :
    (Instr.dmaReadCompletion 0 [] false ⟨0, [⟨[(40, 1)], []⟩]⟩).wf = false := by decide
theorem test_wf_refuses_empty_write : (Instr.dmaWriteResponse 0 0).wf = false := by decide
theorem test_wf_refuses_wake_source_5 :
    (Instr.wakeEdge 5 0 0 boot0).wf = false := by decide
theorem test_wf_refuses_environment_cause_0 :
    (Instr.environmentalFailure 0 boot0).wf = false := by decide

/-! ### Values of the spec's worked examples -/

/-- The state after a command. -/
def after (i : Instr) (s : State) : State :=
  match exec i s with
  | .next t => t
  | _ => s

/-- 01, "where port 77 lives". -/
theorem test_port_77 :
    portDie 77 = 2 ∧ portRegion 77 = 9 ∧ portPair 77 = 38 ∧ engPort 308 = 77 ∧ engPort 311 = 77 ∧
    regionChans 9 = [72, 73, 74, 75, 76, 77, 78, 79] := by decide

/-- 11, "where address 0x48_029D_BDE8 lives". -/
theorem test_address : addrRegion 0x48029DBDE8 = 9 ∧ addrChan 0x48029DBDE8 = 77 ∧
    addrLocal 0x48029DBDE8 = 5484520 ∧ addrBurst 0x48029DBDE8 % 64 = 13 ∧
    bankOf State.reset.hub.memCfg 1190 = (37, false, 2) := by decide +kernel

/-- 03, "the timemark of an L32 sample". -/
theorem test_timemark : bytesOf 9 (w0.tmOf 5000000012).toNat = [0x00, 0x0C, 0xF2, 0x05, 0x2A, 0x01, 0, 0, 0] ∧
    [0, 18, 36, 54].map (fld (w0.tmOf 5000000012) · 18) = [0o406000, 0o500574, 0o22, 0] := by decide +kernel

/-- 04, "a pulse that spans beats": gate type 5, inside 100 to 200 slots; the hit stands at slot_count 64,158. -/
def pulse : Gate := BitVec.ofNat 512 (5 + 20 * 2 ^ 8 + 100 * 2 ^ 64 + 200 * 2 ^ 96)
theorem test_pulse_width :
    let a := (followSlot pulse { GateSt.reset with level := some false } 64052 true).1
    (followSlot pulse a 64158 false).2 = true ∧ (followSlot pulse a 64253 false).2 = false ∧
    gateOk pulse = true := by decide +kernel

/-- 04, "hysteresis on an A1 range gate in enter mode". -/
def range9 : Gate := BitVec.ofNat 512 (9 + 2 * 2 ^ 17 + 0o40000 * 2 ^ 64 + 0o377777 * 2 ^ 96 + 0o1000 * 2 ^ 128)
theorem test_hysteresis :
    ((([16000, 16400, 16100, 15900, 16500] : List Int).foldl (fun (y : GateSt × List Bool) x =>
      let r := analogueValue range9 y.1 0 x
      (r.1, y.2 ++ [r.2.1])) ({ GateSt.reset with inside := some false }, [])).2) =
      [false, true, false, false, false] := by decide +kernel

/-- 04, "a timeout that ends inside a sample": the hit stands at slot 35. -/
theorem test_timeout :
    (followBeat (BitVec.ofNat 512 (7 + 2 ^ 17 + 3 * 2 ^ 8 + 20 * 2 ^ 64)) 0
      ((List.range 8).map fun j => ⟨8 * j, 8, [if j < 2 then 8 else 0, 0, 0, 0, 0, 0, 0, 0]⟩) 0
      { GateSt.reset with level := some true, start := some 0, timedOut := true }).2 = 1 <<< 35 := by decide +kernel

/-- 05, "after three rising edges on gate 2": the table. -/
def exTable : Slalom := BitVec.ofNat 10752 (
  1000 * 2 ^ 64 + 96 * 2 ^ 112 + 3 * 2 ^ 192 + 200 * 2 ^ 384 + (2 + 2 ^ 7) * 2 ^ 512 +
  (0x20 + 0x7F7F7F00 + 0xAAAA * 2 ^ 32 + 2 ^ 48 + 2 ^ 55 + 2 ^ 64 + 2 ^ 72) * 2 ^ (512 + 128) +
  (0x07 + 0x7F7F7F00 + 0xAAAA * 2 ^ 32 + 2 ^ 55 + 2 ^ 56) * 2 ^ (512 + 640 + 128) +
  (0x24 + 0x7F7F7F00 + 0xAAAA * 2 ^ 32 + 2 ^ 55 + 3 * 2 ^ 72) * 2 ^ (512 + 640 + 256))
/-- The beat with hits of gate 2 at slots 5, 12 and 20 ends in state 1, with one event word, of slot 21. -/
theorem test_slalom_counts :
    let o := slalomBeat exTable { SlalomCore.reset with phase := .hunt, first := true } 0 false
      [0, 0, 1 <<< 5 ||| 1 <<< 12 ||| 1 <<< 20, 0, 0, 0, 0, 1 <<< 20]
    o.core.st = 1 ∧ o.core.ctr = [0, 0, 0, 0] ∧ o.core.tmr = [43, 0] ∧ o.events.map (·.1) = [21] := by
  decide +kernel
/-- Slot 221 of the example: both branches are true, branch 0 triggers, and the state becomes 0. -/
theorem test_slalom_triggers :
    let h := huntSlot exTable { SlalomCore.reset with phase := .hunt, st := 1, tmr := [200, 0], run := [true, false] }
      221 (2 ^ 7)
    h.brTrue = 3 ∧ h.core.phase = .runout ∧ h.core.trig = 221 ∧ h.core.st = 0 ∧ slalomOk exTable = true := by
  decide +kernel

/-- 06, "bounds and addresses of the run": run 1,029 uses index 5. -/
theorem test_run_addresses :
    let c : RunCfg := BitVec.ofNat 512 (1 + 10 * 2 ^ 3 + 400 * 2 ^ 256 + 192 * 2 ^ 288)
    c.segUnits = 600 ∧ c.entryAddr 1029 = 0x87 ∧ c.segBase 1029 = 27000 ∧ runCfgOk c = true := by decide +kernel
/-- The first beat is B, the last is B + 19, and the pre-trigger part is short. -/
theorem test_run_bounds :
    let P : Port := { Port.reset with
      run := { PortRun.reset with cfg := BitVec.ofNat 512 (1 + 500 * 2 ^ 32 + 1000 * 2 ^ 64) }
      trig := { PortTrig.reset with sl := { SlalomCore.reset with trig := 221 } } }
    runFirst P = (0, true) ∧ runLast P = 19 * 64 := by decide +kernel

/-- 08: rows of a density field with row_base = 65,536 and q = 9. -/
theorem test_density_rows :
    let d : Dens := { Dens.reset with cfg := BitVec.ofNat 512 (65536 * 2 ^ 32 + 9 * 2 ^ 50) }
    d.row 65535 = none ∧ d.row 65536 = some 0 ∧ d.row 196607 = some 255 ∧ d.row 196608 = none := by decide +kernel

/-- 09, "a mode change with a division by zero": under SAT without dz_trap, +100 and −100 over 0 saturate. -/
def divSt (d a : BitVec 4) : State :=
  sEng (xWord 0x15 ⟨d, a, 7, 0⟩) 0 fun E => { E with
    mode := 1, g := [0, 0, 0, 0o21, 0, 0, 0o144, 0, 0, 0o777634, 0, 0, 0, 0, 0, 0] }
theorem test_div_by_zero :
    ((after (.iDiv 0 ⟨5, 6, 7, 0⟩ 0) (divSt 5 6)).eng 0).gr 5 = 0o377777 ∧
    ((after (.iDiv 0 ⟨8, 9, 7, 0⟩ 0) (divSt 8 9)).eng 0).gr 8 = 0o400000 := by decide +kernel
/-- With dz_trap the division leaves the engine's registers, and halts an engine without a handler. -/
theorem test_div_traps :
    let E := (after (.iDiv 0 ⟨10, 6, 7, 0⟩ 0) ((divSt 10 6).modEng 0 fun E => { E with mode := 0o21 })).eng 0
    E.gr 10 = 0 ∧ E.st = .halted := by decide +kernel

/-- 10: D from port 12 to port 77 is 13 beats; ports of one pair are 4 apart. -/
theorem test_path_delays : pathD 12 77 = 13 ∧ pathD 76 77 = 4 := by decide

/-- 15: C of links of 4.90 ns and of 12.10 ns. -/
theorem test_link_cycles : clOf 1225 = 8 ∧ clOf 3025 = 18 := by decide

/-- 16, "calibrating AUX_AIN[5] and reading it". -/
theorem test_calibration :
    let s := { w0 with mon := { w0.mon with cals := [(5, { Cal.reset with
      rawZero := 412, gain := BitVec.ofNat 32 (nearest (63715 * 2 ^ 30) (64201 - 412)), done := true })] } }
    calibrated s 5 32000 = 31551 := by decide +kernel

/-- 12: the inline mask of RUN_ARM names ports 76 and 77. -/
theorem test_arm_mask : maskPorts (pk 0x0603 (0x30 * 2 ^ 72)) = [76, 77] := by decide +kernel

/-- CRC-32 and CRC-32C of the digits 1 to 9 are the well-known check values of their polynomials (R341, R353). -/
theorem test_crcs : crc32 [49, 50, 51, 52, 53, 54, 55, 56, 57] = 0xCBF43926 ∧
    crc32c 0xFFFFFFFF [49, 50, 51, 52, 53, 54, 55, 56, 57] ^^^ 0xFFFFFFFF = 0xE3069283 := by decide +kernel

/-! ### One step -/

/-- PORT_HOLD at the front of the queue sends a WARM_HOLD message, and the queue's rest stays. -/
theorem test_step_port_hold :
    (match step { (go (pk 0x0305 0) w0) with pending := [.portHold (pk 0x0305 0), .mboxGo] } with
     | .next t => decide (t.pending = [.mboxGo]) && decide ((t.port 0).txQueue.map (·.mtype) = [9]) &&
         decide (t.outbox ≠ [])
     | _ => false) = true := by decide +kernel
/-- A partition's command on a port of another partition is denied, and the port stays (R287). -/
theorem test_denied :
    let p := { pk 0x0305 0 with fn := 1, partition := 1 }
    let t := after (.portHold p) (go p w0)
    (t.port 0).txQueue = [] ∧ t.outbox ≠ [] := by decide +kernel
/-- A write that the windows refuse leaves memory as it was; one byte written through a window
stands in it. -/
theorem test_chute_refused : (after (.chuteWrite 0 [some 5] false {}) w0).mem = [] := by decide +kernel
theorem test_chute_writes : (after (.chuteWrite 0 [some 5] false {}) sWinAll).mem = [(0, 5)] := by decide +kernel

end Sys2Proof.Machine.Slice0
end

section
/-! The hits of a pattern gate (R89), slot by slot of the beat. -/
namespace Sys2Proof.Machine

/-- Within a beat, the hit bits of a span stand at the slots of the span and at no other slot. -/
theorem slotBits_getLsbD {pos len : Nat} (h : pos + len ≤ 64) (j : Nat) :
    (slotBits pos len).getLsbD j = (decide (pos ≤ j) && decide (j < pos + len)) := by
  have span : (decide (j < 64) && (decide (pos ≤ j) && decide (j - pos < len))) =
      (decide (pos ≤ j) && decide (j < pos + len)) := by
    rw [← Bool.decide_and, ← Bool.decide_and, ← Bool.decide_and, decide_eq_decide]
    omega
  rw [slotBits, BitVec.getLsbD_ofNat, Nat.testBit_mul_two_pow, Nat.testBit_two_pow_sub_one, span]

/-- A pattern gate hits the whole sample or nothing: its comparison has no history. -/
theorem logicSample_hits_of_pattern {g : Gate} (hg : g.type = 1) (st : GateSt) (x : Samp) :
    (logicSample g st x).2 = if (x.view ^^^ g.val) &&& g.msk = 0 then slotBits x.pos x.len else 0 := by
  simp only [logicSample, hg, beq_iff_eq]

/-- Settles O21: a matching sample contributes the bits of its own span (`slotBits_getLsbD`), any other
sample none. -/
theorem patternGateHitsTheWholeSample : Obligations.PatternGateHitsTheWholeSample := by
  unfold Obligations.PatternGateHitsTheWholeSample
  intro g st x j hg _ hfit
  rw [logicSample_hits_of_pattern hg]
  by_cases hmatch : (x.view ^^^ g.val) &&& g.msk = 0
  · rw [if_pos hmatch, slotBits_getLsbD hfit, decide_eq_true hmatch, Bool.true_and]
  · rw [if_neg hmatch, decide_eq_false hmatch, Bool.false_and, Bool.false_and]
    exact BitVec.getLsbD_zero

end Sys2Proof.Machine
end

section
/-! The slalom's table and event words: the width of a field, and the fields of a packed value. -/
namespace Sys2Proof.Machine

theorem fld_lt {n : Nat} (x : BitVec n) (lo len : Nat) : fld x lo len < 2 ^ len :=
  Nat.mod_lt _ (Nat.two_pow_pos len)

/-- A branch of zeros, which stands for no branch at all, leaves every counter to its source. -/
theorem cntOp_zero (k : Nat) : Branch.cntOp 0 k = 0 := by
  simp [Branch.cntOp, fld]

/-- Field `i` of a packed value stands above the widths of the fields before it. -/
theorem pack_field {fs : List (Nat × Nat)} {i w v : Nat} (hi : fs[i]? = some (w, v)) :
    pack fs / 2 ^ ((fs.take i).map Prod.fst).sum % 2 ^ w = v % 2 ^ w := by
  induction fs generalizing i with
  | nil => cases hi
  | cons f fs ih =>
    cases i with
    | zero =>
      obtain rfl : f = (w, v) := Option.some.inj hi
      simp [pack]
    | succ i =>
      have hdrop : pack (f :: fs) / 2 ^ f.1 = pack fs := by
        rw [pack, Nat.add_mul_div_left _ _ (Nat.two_pow_pos _), Nat.div_eq_of_lt (Nat.mod_lt _ (Nat.two_pow_pos _)),
          Nat.zero_add]
      rw [List.take_succ_cons, List.map_cons, List.sum_cons, pow_add, ← Nat.div_div_eq_div_mul, hdrop]
      exact ih hi

/-- The true branches of an event word stand in bits 8 to 11 of its body, taken or not (R79). -/
theorem eventBody_brTrue (from' to' brTrue : Nat) (taken : Option (Nat × Branch)) (row : Nat) :
    eventBody from' to' brTrue taken row / 2 ^ 8 % 2 ^ 4 = brTrue % 2 ^ 4 := by
  cases taken <;> exact pack_field (i := 2) rfl

/-- The hits of an event word stand in bits 22 to 53 of its body: ten bits lie between br_true and gate_hits,
those of the taken branch (thirteenth field) or ten zero bits (fifth field). -/
theorem eventBody_gateHits (from' to' brTrue : Nat) (taken : Option (Nat × Branch)) (row : Nat) :
    eventBody from' to' brTrue taken row / 2 ^ 22 % 2 ^ 32 = row % 2 ^ 32 := by
  cases taken with
  | none => exact pack_field (i := 4) rfl
  | some t => exact pack_field (i := 12) rfl

/-- The sum of the powers of the numbers below `n` that pass a test has the bits of exactly those numbers. -/
theorem testBit_sum_two_pow_filter (p : Nat → Bool) (n k : Nat) :
    (((List.range n).filter p).foldl (fun m b => m + 2 ^ b) 0).testBit k = (decide (k < n) && p k) := by
  induction n generalizing k with
  | zero => simp
  | succ n ih =>
    have hlt : ((List.range n).filter p).foldl (fun m b => m + 2 ^ b) 0 < 2 ^ n :=
      Nat.lt_pow_two_of_testBit _ fun j hj => by rw [ih, decide_eq_false (by omega), Bool.false_and]
    have hsum : ((List.range (n + 1)).filter p).foldl (fun m b => m + 2 ^ b) 0 =
        2 ^ n * (p n).toNat + ((List.range n).filter p).foldl (fun m b => m + 2 ^ b) 0 := by
      rw [List.range_succ, List.filter_append, List.foldl_append]
      cases hp : p n <;> simp [hp, Nat.add_comm]
    rw [hsum, Nat.testBit_two_pow_mul_add _ hlt, ih]
    rcases Nat.lt_trichotomy k n with hk | rfl | hk
    · simp [hk, Nat.lt_succ_of_lt hk]
    · cases hp : p k <;> simp
    · rw [if_neg (by omega), decide_eq_false (by omega), Bool.false_and]
      exact Nat.testBit_lt_two_pow ((Bool.toNat_lt _).trans_le (Nat.le_self_pow (by omega) 2))

end Sys2Proof.Machine
end

section
/-! One slot of HUNT (R114): the core it starts from, the branch it takes and, field by field, the core it
leaves. -/
namespace Sys2Proof.Machine

/-- The core that a slot of HUNT starts from: after lost slots under gap_policy 1 it restarts (R114, R120). -/
def slotStart (T : Slalom) (c : SlalomCore) : SlalomCore :=
  if c.gapSeen && T.gapPolicy then slalomRestart T c else c

theorem slotStart_phase (T : Slalom) (c : SlalomCore) : (slotStart T c).phase = c.phase :=
  (apply_ite SlalomCore.phase _ _ _).trans (ite_self _)

theorem slotStart_ctrSat (T : Slalom) (c : SlalomCore) : (slotStart T c).ctrSat = c.ctrSat :=
  (apply_ite SlalomCore.ctrSat _ _ _).trans (ite_self _)

/-- Branch `b` of the state the slot begins in is true. -/
def slotTrue (T : Slalom) (c : SlalomCore) (row b : Nat) : Bool :=
  branchTrue T (slotStart T c) row (T.branch (slotStart T c).st.toNat b)

/-- The branch whose operations the slot applies; a branch of zeros where none is true. -/
def slotBranch (T : Slalom) (c : SlalomCore) (slot : Slot) (row : Nat) : Branch :=
  match (huntSlot T c slot row).taken with
  | some t => t.2
  | none => 0

/-- The count source of counter `k`, that of the state the slot begins in, hits (R107, R116). -/
def sourceHit (T : Slalom) (c : SlalomCore) (row k : Nat) : Bool :=
  bit (T.control (slotStart T c).st.toNat) (8 * k + 7) &&
    row.testBit (fld (T.control (slotStart T c).st.toNat) (8 * k) 5)

/-- The counters after the slot. -/
def slotCtr (T : Slalom) (c : SlalomCore) (slot : Slot) (row : Nat) : List Nat :=
  (List.range 4).map fun k =>
    counterStep (sourceHit T c row k) ((slotBranch T c slot row).cntOp k) ((slotStart T c).ctr.getD k 0)

/-- Timer `n` after the slot, and whether it runs. -/
def slotTimer (T : Slalom) (c : SlalomCore) (slot : Slot) (row n : Nat) : Nat × Bool :=
  timerStep ((slotBranch T c slot row).tmrOp n) ((slotStart T c).tmr.getD n 0) ((slotStart T c).run.getD n false)

/-- The core after the slot, but for what a trigger writes. -/
def slotCore (T : Slalom) (c : SlalomCore) (slot : Slot) (row : Nat) : SlalomCore :=
  { slotStart T c with
    ctr := slotCtr T c slot row
    ctrSat := (List.range 4).map fun k =>
      (slotStart T c).ctrSat.getD k false || (slotCtr T c slot row).getD k 0 == 2 ^ 48 - 1
    tmr := (List.range 2).map fun n => (slotTimer T c slot row n).1
    run := (List.range 2).map fun n => (slotTimer T c slot row n).2
    first := false
    gapSeen := false
    store := ((slotStart T c).store || (slotBranch T c slot row).storeOn) && !(slotBranch T c slot row).storeOff
    st := if (huntSlot T c slot row).taken.isSome then BitVec.ofNat 4 (slotBranch T c slot row).next
      else (slotStart T c).st }

variable {T : Slalom} {c : SlalomCore} {slot : Slot} {row : Nat}

/-! The branch taken. -/

theorem huntSlot_taken : (huntSlot T c slot row).taken =
    ((List.range 4).find? (slotTrue T c row)).map fun b => (b, T.branch (slotStart T c).st.toNat b) := by
  rw [← List.head?_filter]
  rfl

theorem huntSlot_taken_of_lowest {b : Nat} (hb : b < 4) (htrue : slotTrue T c row b = true)
    (hlow : ∀ a < b, slotTrue T c row a = false) :
    (huntSlot T c slot row).taken = some (b, T.branch (slotStart T c).st.toNat b) := by
  have hfind : (List.range 4).find? (slotTrue T c row) = some b :=
    List.find?_range_eq_some.mpr ⟨htrue, List.mem_range.mpr hb, fun a ha => by rw [hlow a ha, Bool.not_false]⟩
  rw [huntSlot_taken, hfind, Option.map_some]

theorem huntSlot_taken_of_no_true (hnone : ∀ a < 4, slotTrue T c row a = false) :
    (huntSlot T c slot row).taken = none := by
  have hfind : (List.range 4).find? (slotTrue T c row) = none :=
    List.find?_range_eq_none.mpr fun a ha => by rw [hnone a ha, Bool.not_false]
  rw [huntSlot_taken, hfind, Option.map_none]

theorem slotBranch_of_taken {b : Nat} {br : Branch} (h : (huntSlot T c slot row).taken = some (b, br)) :
    slotBranch T c slot row = br := by
  rw [slotBranch, h]

theorem slotBranch_of_not_taken (h : (huntSlot T c slot row).taken = none) : slotBranch T c slot row = 0 := by
  rw [slotBranch, h]

theorem huntSlot_brTrue_testBit (k : Nat) :
    (huntSlot T c slot row).brTrue.testBit k = (decide (k < 4) && slotTrue T c row k) :=
  testBit_sum_two_pow_filter (slotTrue T c row) 4 k

/-- No bit of br_true is set where no branch is true. -/
theorem huntSlot_brTrue_of_no_true (hnone : ∀ a < 4, slotTrue T c row a = false) :
    (huntSlot T c slot row).brTrue = 0 := by
  refine Nat.zero_of_testBit_eq_false fun k => ?_
  rw [huntSlot_brTrue_testBit]
  by_cases hk : k < 4
  · rw [hnone k hk, Bool.and_false]
  · rw [decide_eq_false hk, Bool.false_and]

/-! The core left. -/

theorem huntSlot_core : (huntSlot T c slot row).core =
    if (slotBranch T c slot row).trigger then
      { slotCore T c slot row with phase := .runout, trig := slot, roHits := 0, roDone := none }
    else slotCore T c slot row := rfl

/-- A trigger writes the phase, the trigger slot and the run-out's count, and no other field of the core. -/
theorem huntSlot_core_field {α : Type} (field : SlalomCore → α)
    (hfield : ∀ x : SlalomCore, field { x with phase := .runout, trig := slot, roHits := 0, roDone := none } = field x) :
    field (huntSlot T c slot row).core = field (slotCore T c slot row) := by
  rw [huntSlot_core, apply_ite field, hfield, ite_self]

theorem huntSlot_phase : (huntSlot T c slot row).core.phase =
    if (slotBranch T c slot row).trigger then .runout else c.phase := by
  rw [huntSlot_core, apply_ite SlalomCore.phase, ← slotStart_phase T c]
  rfl

theorem huntSlot_phase_of_not_taken (h : (huntSlot T c slot row).taken = none) :
    (huntSlot T c slot row).core.phase = c.phase := by
  have hno : ¬ Branch.trigger 0 = true := by decide
  rw [huntSlot_phase, slotBranch_of_not_taken h, if_neg hno]

theorem huntSlot_trig_of_trigger (h : (slotBranch T c slot row).trigger = true) :
    (huntSlot T c slot row).core.trig = slot := by
  rw [huntSlot_core, if_pos h]

theorem huntSlot_st_of_taken {b : Nat} {br : Branch} (h : (huntSlot T c slot row).taken = some (b, br)) :
    (huntSlot T c slot row).core.st = BitVec.ofNat 4 br.next := by
  rw [huntSlot_core_field SlalomCore.st fun _ => rfl, slotCore, slotBranch_of_taken h, h, Option.isSome_some,
    if_pos rfl]

theorem huntSlot_st_of_not_taken (h : (huntSlot T c slot row).taken = none) :
    (huntSlot T c slot row).core.st = (slotStart T c).st := by
  rw [huntSlot_core_field SlalomCore.st fun _ => rfl, slotCore, h, Option.isSome_none, if_neg Bool.false_ne_true]

theorem huntSlot_store : (huntSlot T c slot row).core.store =
    (((slotStart T c).store || (slotBranch T c slot row).storeOn) && !(slotBranch T c slot row).storeOff) :=
  huntSlot_core_field SlalomCore.store fun _ => rfl

theorem huntSlot_store_of_not_taken (h : (huntSlot T c slot row).taken = none) :
    (huntSlot T c slot row).core.store = (slotStart T c).store := by
  have hon : Branch.storeOn 0 = false := by decide
  have hoff : Branch.storeOff 0 = false := by decide
  rw [huntSlot_store, slotBranch_of_not_taken h, hon, hoff, Bool.or_false, Bool.not_false, Bool.and_true]

theorem getD_map_range {α : Type} (f : Nat → α) (d : α) {n k : Nat} (hk : k < n) :
    ((List.range n).map f).getD k d = f k := by
  simp [List.getD_eq_getElem?_getD, hk]

theorem huntSlot_ctr_getD {k : Nat} (hk : k < 4) : (huntSlot T c slot row).core.ctr.getD k 0 =
    counterStep (sourceHit T c row k) ((slotBranch T c slot row).cntOp k) ((slotStart T c).ctr.getD k 0) := by
  rw [huntSlot_core_field SlalomCore.ctr fun _ => rfl]
  exact getD_map_range _ _ hk

/-- A counter's ctr_sat bit stays set, and is set where the slot leaves the count at 2^48 − 1. -/
theorem huntSlot_ctrSat_getD {k : Nat} (hk : k < 4) : (huntSlot T c slot row).core.ctrSat.getD k false =
    (c.ctrSat.getD k false || (huntSlot T c slot row).core.ctr.getD k 0 == 2 ^ 48 - 1) := by
  rw [huntSlot_core_field SlalomCore.ctrSat fun _ => rfl, huntSlot_core_field SlalomCore.ctr fun _ => rfl,
    ← slotStart_ctrSat T c]
  exact getD_map_range _ _ hk

theorem huntSlot_timer_getD {n : Nat} (hn : n < 2) :
    ((huntSlot T c slot row).core.tmr.getD n 0, (huntSlot T c slot row).core.run.getD n false) =
      slotTimer T c slot row n := by
  rw [huntSlot_core_field SlalomCore.tmr fun _ => rfl, huntSlot_core_field SlalomCore.run fun _ => rfl]
  exact Prod.ext (getD_map_range _ _ hn) (getD_map_range _ _ hn)

end Sys2Proof.Machine
end

section
/-! The steps of a counter and of a timer, the operands that read them, and the slots of a lost beat (R109, R116,
R117, R120). -/
namespace Sys2Proof.Machine

theorem satAdd_lt (w x d : Nat) : satAdd w x d < 2 ^ w :=
  (Nat.min_le_right ..).trans_lt (Nat.sub_lt (Nat.two_pow_pos w) Nat.one_pos)

/-- A count that fits in its counter still fits after a slot, whatever hits and whatever the branch does. -/
theorem counterStep_lt (hit : Bool) (op : Nat) {v : Nat} (hv : v < 2 ^ 48) : counterStep hit op v < 2 ^ 48 := by
  have hhit : (if hit then satAdd 48 v 1 else v) < 2 ^ 48 := by
    split
    · exact satAdd_lt ..
    · exact hv
  unfold counterStep
  dsimp only
  split
  · exact Nat.two_pow_pos 48
  · exact satAdd_lt ..
  · exact (Nat.sub_le ..).trans_lt hhit
  · exact hhit

theorem operand_counterReached (T : Slalom) (c : SlalomCore) (row : Nat) {k : Nat} (hk : k < 4) :
    operand T c row (0x20 + k) = decide (T.ctrThr k ≤ c.ctr.getD k 0) := by
  rw [operand, if_neg (by omega), if_pos (by omega), Nat.add_sub_cancel_left]

theorem operand_timerReached (T : Slalom) (c : SlalomCore) (row : Nat) {n : Nat} (hn : n < 2) :
    operand T c row (0x24 + n) = decide (T.tmrLim n ≤ c.tmr.getD n 0) := by
  rw [operand, if_neg (by omega), if_neg (by omega), if_pos (by omega), Nat.add_sub_cancel_left]

/-- A slot in which the branch leaves the timer alone, on the timer's value and whether it runs. -/
def timerTick (x : Nat × Bool) : Nat × Bool := timerStep 0 x.1 x.2

/-- A running timer counts the slots and saturates at 2^48 − 1. -/
theorem timerTick_iterate_running {v : Nat} (hv : v < 2 ^ 48) (k : Nat) :
    timerTick^[k] (v, true) = (satAdd 48 v k, true) := by
  induction k with
  | zero =>
    have hfits : satAdd 48 v 0 = v := Nat.min_eq_left (by omega)
    rw [hfits, Function.iterate_zero_apply]
  | succ k ih =>
    have hnext : satAdd 48 (satAdd 48 v k) 1 = satAdd 48 v (k + 1) := by
      simp only [satAdd]
      omega
    rw [Function.iterate_succ_apply', ih, ← hnext]
    rfl

/-- A stopped timer holds its value. -/
theorem timerTick_iterate_stopped (v k : Nat) : timerTick^[k] (v, false) = (v, false) :=
  Function.iterate_fixed rfl k

/-- A lost slot of HUNT marks the gap and leaves everything else but the record of the store qualification
(R120). -/
theorem beatSlotStep_of_lost {o : BeatOut} (ho : o.core.phase = .hunt) (T : Slalom) (base : Slot)
    (hits : List (BitVec 64)) (j : Nat) :
    beatSlotStep T base true hits o j = { o with
      core := { o.core with gapSeen := true }
      storeAt := (beatSlotStep T base true hits o j).storeAt } := by
  simp only [beatSlotStep, ho, if_true]

/-- Lost slots of HUNT, however many, do what one of them does. -/
theorem foldl_beatSlotStep_of_lost (T : Slalom) (base : Slot) (hits : List (BitVec 64)) (js : List Nat)
    {o : BeatOut} (ho : o.core.phase = .hunt) :
    ∃ q, js.foldl (beatSlotStep T base true hits) o = { o with
      core := { o.core with gapSeen := o.core.gapSeen || !js.isEmpty }
      storeAt := q } := by
  induction js generalizing o with
  | nil => exact ⟨o.storeAt, by simp⟩
  | cons j js ih =>
    rw [List.foldl_cons, beatSlotStep_of_lost ho]
    obtain ⟨q, hq⟩ := ih (o := { o with
      core := { o.core with gapSeen := true }
      storeAt := (beatSlotStep T base true hits o j).storeAt }) ho
    exact ⟨q, by simpa using hq⟩

end Sys2Proof.Machine
end

section
/-! The lowest true branch, the counters and the timers of the slalom (R115 to R117). -/
namespace Sys2Proof.Machine

/-- Settles O18: the branch taken is the first true one of the four, and every field the slot leaves is a
function of that branch alone. -/
theorem lowestTrueBranchIsTaken : Obligations.LowestTrueBranchIsTaken := by
  unfold Obligations.LowestTrueBranchIsTaken
  refine ⟨?_, ?_, ?_⟩
  · intro T c slot row b hb c0 htrue hlow br h
    have htaken : h.taken = some (b, br) := huntSlot_taken_of_lowest hb htrue hlow
    have hbr : slotBranch T c slot row = br := slotBranch_of_taken htaken
    rw [← hbr]
    refine ⟨hbr ▸ htaken, hbr ▸ huntSlot_st_of_taken htaken, huntSlot_store, huntSlot_phase,
      huntSlot_trig_of_trigger, fun k hk => huntSlot_ctr_getD hk, fun n hn => huntSlot_timer_getD hn, fun k hk => ?_⟩
    exact (huntSlot_brTrue_testBit k).trans (by rw [decide_eq_true hk, Bool.true_and]; rfl)
  · intro T c slot row c0 hnone h
    have htaken : h.taken = none := huntSlot_taken_of_no_true hnone
    exact ⟨htaken, huntSlot_brTrue_of_no_true hnone, huntSlot_st_of_not_taken htaken,
      huntSlot_store_of_not_taken htaken, huntSlot_phase_of_not_taken htaken⟩
  · intro from' to' brTrue taken row _ _ hbrTrue hrow _
    exact ⟨(eventBody_brTrue ..).trans (Nat.mod_eq_of_lt hbrTrue),
      (eventBody_gateHits ..).trans (Nat.mod_eq_of_lt hrow)⟩

/-- Settles O19: a slot steps each counter once, by `counterStep`, which applies the hit before the operation of
the branch taken, of which there may be none. That ctr_sat is set where the slot leaves 2^48 − 1 is log entry 504. -/
theorem counterRules : Obligations.CounterRules := by
  unfold Obligations.CounterRules
  refine ⟨fun v hv => ?_, fun v hv => ?_, fun v => rfl, ?_, fun T c row k => operand_counterReached T c row,
    fun hit op v _ => counterStep_lt hit op, rfl, rfl⟩
  · simp only [counterStep, satAdd, if_true]
    omega
  · simp only [counterStep, satAdd, if_true]
    omega
  · intro T c slot row k hk c0 h op
    have hop : (slotBranch T c slot row).cntOp k = op := by
      cases htaken : h.taken with
      | none => simp only [op, htaken, slotBranch_of_not_taken htaken, cntOp_zero]
      | some t => simp only [op, htaken, slotBranch_of_taken htaken]
    exact ⟨hop ▸ huntSlot_ctr_getD hk, huntSlot_ctrSat_getD hk⟩

/-- Settles O20: the slot that starts a timer leaves it running at 1, so the slots after it count on from there
(`timerTick_iterate_running`); and 64 lost slots do what one does (`foldl_beatSlotStep_of_lost`). -/
theorem timerRules : Obligations.TimerRules := by
  unfold Obligations.TimerRules
  refine ⟨fun v run k hk hlt => ?_, fun T c row n => operand_timerReached T c row,
    fun v k run => timerTick_iterate_stopped v k, fun v => rfl, fun k => ?_,
    fun T n => Nat.le_sub_one_of_lt (fld_lt ..), fun T c base hits hhunt => ?_⟩
  · have hcount : satAdd 48 1 (k - 1) = k := by
      simp only [satAdd]
      omega
    exact (timerTick_iterate_running (v := 1) (by omega) (k - 1)).trans (by rw [hcount])
  · have hsat : satAdd 48 (2 ^ 48 - 1) k = 2 ^ 48 - 1 := Nat.min_eq_right (Nat.le_add_right ..)
    exact (timerTick_iterate_running (v := 2 ^ 48 - 1) (by omega) k).trans (by rw [hsat])
  · obtain ⟨q, hq⟩ := foldl_beatSlotStep_of_lost T base hits (List.range 64) (o := ⟨c, [], none, none, 0⟩) hhunt
    rw [slalomBeat, hq]
    exact ⟨by simp, rfl, rfl, rfl⟩

end Sys2Proof.Machine
end

section
/-! The mode shadow (R216): what an MTC to MODE leaves pending, how each bundle after it steps the shadow, which
writes raise ILL_MODE, and what an X slot alone in its bundle raises. -/
namespace Sys2Proof.Machine

/-- The old mode stands while its successor waits. -/
theorem ctlWrite_mode (E : Engine) (v : BitVec 18) :
    ctlWrite E 0 v = { E with modePend := some v, shadow := 2 } := rfl

/-- The bundle of the MTC does not count. -/
theorem shadowStep_fresh (E : Engine) : shadowStep E true = E := by
  unfold shadowStep
  split <;> rfl

theorem shadowStep_of_more {E : Engine} {v : BitVec 18} (hpend : E.modePend = some v) (hmore : 1 < E.shadow) :
    shadowStep E false = { E with shadow := E.shadow - 1 } := by
  simp [shadowStep, hpend, Nat.not_le.mpr hmore]

theorem shadowStep_of_last {E : Engine} {v : BitVec 18} (hpend : E.modePend = some v) (hlast : E.shadow ≤ 1) :
    shadowStep E false = { E with mode := v, modePend := none, shadow := 0 } := by
  simp [shadowStep, hpend, hlast]

theorem modeOk_eq_false_iff (v : BitVec 18) : modeOk v = false ↔ fld v 1 2 = 3 ∨ 64 ≤ v.toNat := by
  simp only [modeOk, Bool.and_eq_false_iff, decide_eq_false_iff_not, bne_eq_false_iff_eq, not_lt]
  exact or_comm

theorem ctlWriteCause_mode (E : Engine) (v : BitVec 18) : ctlWriteCause E 0 v =
    if modeOk v = false ∨ E.modePend.isSome = true ∨ E.inHandler = true then some 3 else none := by
  simp [ctlWriteCause, or_assoc]

theorem yOk_nop : yOk 0 = true := by decide

theorem yCauses_nop (E : Engine) (e : Nat) : yCauses E e 0 = [] := rfl

/-- The causes of a defined X slot beside a NOP: its own one under the mode in effect, if any. -/
theorem bundleCauses_of_nopY (E : Engine) (e : Nat) {x : BitVec 36} (hx : xOk x = true)
    (hfree : slotsConflict x 0 = false) :
    bundleCauses E e x 0 = (match (xEval E E.mode x).cause E.mode with
      | some c => [⟨c, false, 0⟩]
      | none => []) := by
  have hdefined : ¬(!xOk x || !yOk 0 || slotsConflict x 0) = true := by
    rw [hx, yOk_nop, hfree]
    decide
  rw [bundleCauses, if_neg hdefined, yCauses_nop]
  exact List.append_nil _

/-- Settles O40: the MTC leaves the mode as it was and two bundles to count; the first of them counts one, the
second installs the new mode. -/
theorem modeTakesEffectAfterItsShadow : Obligations.ModeTakesEffectAfterItsShadow := by
  unfold Obligations.ModeTakesEffectAfterItsShadow
  refine ⟨fun E v => ?_, fun E e x hx hfree => bundleCauses_of_nopY E e hx hfree, fun E v => ?_⟩
  · intro E1 E2 E3
    have h1 : E1 = { E with modePend := some v, shadow := 2 } :=
      (shadowStep_fresh _).trans (ctlWrite_mode E v)
    have h2 : E2 = { E with modePend := some v, shadow := 1 } := by
      simp only [E2, h1]
      exact shadowStep_of_more rfl Nat.one_lt_two
    have h3 : E3 = { E with mode := v, modePend := none, shadow := 0 } := by
      simp only [E3, h2]
      exact shadowStep_of_last rfl le_rfl
    rw [h1, h2, h3]
    exact ⟨rfl, rfl, rfl, rfl⟩
  · rw [ctlWriteCause_mode]
    simp only [modeOk_eq_false_iff, or_assoc]

end Sys2Proof.Machine
end

section
/-! The halt of a running DMA channel with nothing left to write (R346). -/
namespace Sys2Proof.Machine

/-- Every byte read has been sent, and its write has been answered. -/
structure Desc.AllWritten (d : Desc) : Prop where
  held : d.held = []
  back : d.back = []
  written : d.written = d.sent

/-- Nothing delays the halt of the channel once its data are written, or adds to it: no record waits, there is
room for the halt record or no queue, no job ends with it and no unit reset waits for it. -/
structure Dma.HaltsFreely (D : Dma) : Prop where
  noRecord : D.recWait = none
  room : D.cqBase = 0 ∨ D.cqRoom = true
  noJob : D.job = none
  noReset : D.resetting = false

/-- The descriptor of a channel that enters HALTING, as `dmaHalt_of_running` has it. -/
def Desc.cutOff (drop : Bool) (d : Desc) : Desc :=
  { d with
    issued := d.read, resp := [], held := if drop then [] else d.held, back := if drop then [] else d.back
    sent := if drop then d.written else d.sent, total := d.read }

/-- The channel as it enters HALTING, as `dmaHalt_of_running` has it. -/
def Dma.halting (reason : BitVec 8) (drop : Bool) (D : Dma) : Dma :=
  { D with st := .halting, haltPend := some reason, dieWait := none, cur := D.cur.map (Desc.cutOff drop) }

/-- The channel as it reaches HALTED, as `dmaHalted_dmaCh` has it. -/
def Dma.halted (reason : BitVec 8) (D : Dma) : Dma :=
  { D with
    st := .halted, haltReason := reason, haltPend := none, cur := none, nextDesc := none, recWait := none
    dieWait := none, tries := 0, haltWait := [] }

theorem Desc.AllWritten.cutOff {d : Desc} (h : d.AllWritten) (drop : Bool) : (d.cutOff drop).AllWritten := by
  cases drop
  · exact ⟨h.held, h.back, h.written⟩
  · exact ⟨rfl, rfl, rfl⟩

theorem Dma.HaltsFreely.halting {D : Dma} (h : D.HaltsFreely) (reason : BitVec 8) (drop : Bool) :
    (D.halting reason drop).HaltsFreely := ⟨h.noRecord, h.room, h.noJob, h.noReset⟩

theorem dmaHalted_dmaCh {s : State} {n : Nat} (reason : BitVec 8) (hjob : (s.dmaCh n).job = none)
    (hreset : (s.dmaCh n).resetting = false) :
    (dmaHalted s n reason).dmaCh n = (s.dmaCh n).halted reason := by
  have hreplies (ps : List Packet) (t : State) :
      (ps.foldl (fun s p => replyTo s false p 0 0 0 []) t).dmaCh n = t.dmaCh n :=
    foldl_same (State.dmaCh · n) ps _ (by simp) t
  simp [dmaHalted, Dma.halted, hjob, hreset, hreplies]

/-- A record that need not wait moves the channel's record count at most. -/
theorem putRecord_dmaCh {s : State} {n : Nat} (r : BitVec 256) (hD : (s.dmaCh n).HaltsFreely) :
    ∃ count, (putRecord s n r).dmaCh n = { s.dmaCh n with recCount := count } := by
  by_cases hqueue : (s.dmaCh n).cqBase = 0
  · exact ⟨(s.dmaCh n).recCount, by rw [putRecord, if_pos hqueue]⟩
  · refine ⟨(s.dmaCh n).recCount + 1, ?_⟩
    rw [putRecord, if_neg hqueue, if_pos (hD.room.resolve_left hqueue)]
    simp [writeRecord, ← hD.noRecord]

/-- A channel in HALTING that has written everything is HALTED at once. -/
theorem dmaSettleHalt_dmaCh {s : State} {n : Nat} {d : Desc} {reason : BitVec 8}
    (hst : (s.dmaCh n).st = .halting) (hpend : (s.dmaCh n).haltPend = some reason)
    (hcur : (s.dmaCh n).cur = some d) (hd : d.AllWritten) (hD : (s.dmaCh n).HaltsFreely) :
    ∃ count, (dmaSettleHalt s n).dmaCh n = Dma.halted reason { s.dmaCh n with recCount := count } := by
  obtain ⟨count, hput⟩ := putRecord_dmaCh (recordBits (s.dmaCh n) n d reason.toNat) hD
  refine ⟨count, ?_⟩
  have hsettle : dmaSettleHalt s n =
      dmaHalted (putRecord s n (recordBits (s.dmaCh n) n d reason.toNat)) n reason := by
    simp [dmaSettleHalt, hst, hpend, hcur, hd.held, hd.back, hd.written, hD.noRecord, hput]
  rw [hsettle, ← hput]
  exact dmaHalted_dmaCh reason (by rw [hput, hD.noJob]) (by rw [hput, hD.noReset])

/-- Reason 8 silences the channel instead, and reason 10 asks whether the endpoint is up. -/
theorem dmaHalt_of_running {s : State} {n reason : Nat} (hrun : (s.dmaCh n).st = .running) (h8 : reason ≠ 8)
    (h10 : reason ≠ 10) : dmaHalt s n reason =
      dmaSettleHalt (s.modDma n (Dma.halting (BitVec.ofNat 8 reason) (decide (reason = 3)))) n := by
  unfold Dma.halting Desc.cutOff
  simp [dmaHalt, hrun, h8, h10]

/-- A running channel that has written everything is HALTED in the step of the halt's cause. -/
theorem dmaHalt_dmaCh {s : State} {n reason : Nat} {d : Desc} (hrun : (s.dmaCh n).st = .running)
    (hcur : (s.dmaCh n).cur = some d) (hd : d.AllWritten) (hD : (s.dmaCh n).HaltsFreely) (h8 : reason ≠ 8)
    (h10 : reason ≠ 10) : ∃ count, (dmaHalt s n reason).dmaCh n =
      Dma.halted (BitVec.ofNat 8 reason) { s.dmaCh n with recCount := count } := by
  have hch : (s.modDma n (Dma.halting (BitVec.ofNat 8 reason) (decide (reason = 3)))).dmaCh n =
      (s.dmaCh n).halting (BitVec.ofNat 8 reason) (decide (reason = 3)) := by
    rw [State.dmaCh_modDma, if_pos rfl]
  obtain ⟨count, hsettle⟩ := dmaSettleHalt_dmaCh (by rw [hch]; rfl) (by rw [hch]; rfl)
    (by rw [hch, Dma.halting, hcur]; rfl) (hd.cutOff (decide (reason = 3))) (hch ▸ hD.halting _ _)
  exact ⟨count, by rw [dmaHalt_of_running hrun h8 h10, hsettle, hch]; rfl⟩

end Sys2Proof.Machine
end

section
/-! The fetch of a descriptor: the checks before it (R344), and what it leaves of the channel. -/
namespace Sys2Proof.Machine

/-- R344's match: the address is among the 8 fetched most recently, or is the chain head once the head has been
fetched. -/
abbrev Dma.repeats (D : Dma) (a : BitVec 64) : Bool :=
  D.recent.contains a || (decide (0 < D.fetched) && a == D.head)

theorem Dma.repeats_eq_true_iff {D : Dma} {a : BitVec 64} :
    D.repeats a = true ↔ D.recent.contains a = true ∨ (0 < D.fetched ∧ a = D.head) := by
  simp [Dma.repeats]

theorem Dma.repeats_eq_false_iff {D : Dma} {a : BitVec 64} :
    D.repeats a = false ↔ D.recent.contains a = false ∧ (D.fetched = 0 ∨ a ≠ D.head) := by
  rw [← Bool.not_eq_true, Dma.repeats_eq_true_iff, not_or, Bool.not_eq_true, not_and_or, Nat.pos_iff_ne_zero,
    not_not]

/-- The channel is about to fetch the descriptor at an address. -/
structure Dma.Fetches (D : Dma) (a : BitVec 64) : Prop where
  next : D.nextDesc = some a
  idle : D.cur = none
  noRecord : D.recWait = none
  running : D.st = .running

/-- The guard of `execDescFetch`. -/
theorem Dma.Fetches.guard {D : Dma} {a : BitVec 64} (h : D.Fetches a) :
    ¬(D.cur.isSome || D.recWait.isSome || !(D.st == .running || D.st == .job)) = true := by
  rw [h.idle, h.noRecord, h.running]
  decide

section
variable {n : BitVec 5} {bits : BitVec 512} {index : List (BitVec 64)} {m : MemIn} {s : State} {a : BitVec 64}

theorem execDescFetch_of_repeats (hD : (s.dmaCh n.toNat).Fetches a) (hmatch : (s.dmaCh n.toNat).repeats a = true) :
    execDescFetch n bits index m s = ok (haltUnfetched s n.toNat 5 a) := by
  simp only [execDescFetch, hD.next]
  rw [if_neg hD.guard, if_pos hmatch]

theorem execDescFetch_of_budget (hD : (s.dmaCh n.toNat).Fetches a) (hmatch : (s.dmaCh n.toNat).repeats a = false)
    (hspent : (s.dmaCh n.toNat).budget ≤ (s.dmaCh n.toNat).fetched) :
    execDescFetch n bits index m s = ok (haltUnfetched s n.toNat 6 a) := by
  simp only [execDescFetch, hD.next]
  rw [if_neg hD.guard, if_neg (Bool.eq_false_iff.mp hmatch), if_pos hspent]

/-- The descriptor that a channel takes from the 64 bytes at an address, as `execDescFetch_of_takes` has it. -/
def Dma.descriptor (D : Dma) (a : BitVec 64) (bits : BitVec 512) (index : List (BitVec 64)) : Desc :=
  let d : Desc := { Desc.reset with
    addr := a, bits := bits, seq := D.fetchSeq, retries := D.tries, index := index.map (·.toNat) }
  { d with total := d.len }

/-- The channel that has fetched a descriptor, as `execDescFetch_of_takes` has it. -/
def Dma.fetchedDesc (d : Desc) (D : Dma) : Dma :=
  { D with
    fetched := D.fetched + 1, fetchSeq := D.fetchSeq + 1
    recent := (D.recent ++ [d.addr]).drop (D.recent.length - 7), descAddr := d.addr, tries := 0, cur := some d
    crc := if d.crcReset then 0xFFFFFFFF else D.crc }

theorem descriptor_follows_of_space (D : Dma) (hspace : fld bits 304 4 ≤ 3) :
    (D.descriptor a bits index).follows = false := by
  have h4 : fld bits 304 4 ≠ 4 := by omega
  have h5 : fld bits 304 4 ≠ 5 := by omega
  simp [Desc.follows, Desc.srcSpace, Dma.descriptor, h4, h5]

/-- A descriptor without an index table reads nothing more. -/
theorem readIndex_of_not_gather {c : Nat} {d : Desc} (hd : d.gather = false) : readIndex s c d m = .done s [] := by
  simp [readIndex, hd]

theorem indexIs_of_not_gather {d : Desc} {ks : List Nat} {bs : List (Byte × Bool)} (hd : d.gather = false) :
    indexIs d ks bs = true := by
  simp [indexIs, hd]

@[simp] theorem takeCtr_dmaCh (c i : Nat) (d : Desc) : (execDescFetch.takeCtr s c d).dmaCh i = s.dmaCh i := by
  unfold execDescFetch.takeCtr
  split
  · exact State.modPart_dmaCh_get ..
  · rfl

theorem execDescFetch_of_takes {d : Desc} (hD : (s.dmaCh n.toNat).Fetches a)
    (hmatch : (s.dmaCh n.toNat).repeats a = false) (hbudget : (s.dmaCh n.toNat).fetched < (s.dmaCh n.toNat).budget)
    (hd : d = (s.dmaCh n.toNat).descriptor a bits index) (hok : descOk d false = true)
    (hmine : descMine s n.toNat d = true) (hgather : d.gather = false) (hfollows : d.follows = false) :
    execDescFetch n bits index m s =
      ok ((execDescFetch.takeCtr (s.modDma n.toNat (Dma.fetchedDesc d)) n.toNat d).modDma n.toNat fun D =>
        { D with cur := some { d with ctr := execDescFetch.ctrOf s n.toNat d } }) := by
  subst hd
  have hjob : ((s.dmaCh n.toNat).st == .job) = false := by
    rw [hD.running]
    rfl
  dsimp only [Dma.descriptor] at hok hmine hgather hfollows
  simp only [execDescFetch, hD.next]
  rw [if_neg hD.guard, if_neg (Bool.eq_false_iff.mp hmatch), if_neg (Nat.not_le.mpr hbudget)]
  simp only [hjob, hok, if_true, readIndex_of_not_gather hgather, indexIs_of_not_gather hgather, hmine, hfollows]
  rfl

end

/-- A halt at a fetch names the address and counts no fetch. -/
theorem haltUnfetched_dmaCh {s : State} {n reason : Nat} (a : BitVec 64) (hrun : (s.dmaCh n).st = .running)
    (hD : (s.dmaCh n).HaltsFreely) (h8 : reason ≠ 8) (h10 : reason ≠ 10) :
    ∃ count, (haltUnfetched s n reason a).dmaCh n =
      Dma.halted (BitVec.ofNat 8 reason) { s.dmaCh n with descAddr := a, recCount := count } := by
  have hch : (s.fresh.2.modDma n fun D => { D with
      descAddr := a, cur := some { Desc.reset with addr := a, bits := put 0 384 64 s.fresh.1 } }).dmaCh n =
      { s.dmaCh n with
        descAddr := a, cur := some { Desc.reset with addr := a, bits := put 0 384 64 s.fresh.1 } } := by
    simp
  obtain ⟨count, hhalt⟩ := dmaHalt_dmaCh (by rw [hch]; exact hrun) (by rw [hch]) ⟨rfl, rfl, rfl⟩
    (by rw [hch]; exact ⟨hD.noRecord, hD.room, hD.noJob, hD.noReset⟩) h8 h10
  exact ⟨count, by rw [haltUnfetched, hhalt, hch]; rfl⟩

/-- DESC_FETCH where it halts the channel without a fetch: all of the channel's next state but its record count,
which moves with the halt record. -/
theorem descFetch_halts {n : BitVec 5} {bits : BitVec 512} {index : List (BitVec 64)} {m : MemIn} {s : State}
    {a : BitVec 64} {reason : Nat} (hD : (s.dmaCh n.toNat).Fetches a) (hfree : (s.dmaCh n.toNat).HaltsFreely)
    (h8 : reason ≠ 8) (h10 : reason ≠ 10)
    (hexec : execDescFetch n bits index m s = ok (haltUnfetched s n.toNat reason a)) :
    GivesNext (.descFetch n bits index m) s fun t =>
      t.mem = s.mem ∧ ∃ count, t.dmaCh n.toNat =
        Dma.halted (BitVec.ofNat 8 reason) { s.dmaCh n.toNat with descAddr := a, recCount := count } := by
  obtain ⟨count, hch⟩ := haltUnfetched_dmaCh a hD.running hfree h8 h10
  exact ⟨_, hexec, by simp, count, by simp [hch]⟩

/-- Settles O52: both halts go through `haltUnfetched`, which counts no fetch (`descFetch_halts`); a fetch that passes
the checks of R344 puts its address into the list of the last 8 (`execDescFetch_of_takes`). -/
theorem loopedChainHalts : Obligations.LoopedChainHalts := by
  unfold Obligations.LoopedChainHalts
  refine ⟨?_, ?_, ?_⟩
  · intro n bits idx m s a hrun hnext hcur hwait hjob hroom hreset hmatch
    have hD : (s.dmaCh n.toNat).Fetches a := ⟨hnext, hcur, hwait, hrun⟩
    obtain ⟨t, hexec, hmem, count, hch⟩ := descFetch_halts (reason := 5) hD ⟨hwait, hroom, hjob, hreset⟩ (by decide)
      (by decide) (execDescFetch_of_repeats (bits := bits) (index := idx) (m := m) hD
        (Dma.repeats_eq_true_iff.mpr hmatch))
    exact ⟨t, hexec, by simp [hch, hmem, Dma.halted]⟩
  · intro n bits idx m s a hrun hnext hcur hwait hjob hroom hrecent hhead hreset hspent
    have hD : (s.dmaCh n.toNat).Fetches a := ⟨hnext, hcur, hwait, hrun⟩
    obtain ⟨t, hexec, hmem, count, hch⟩ := descFetch_halts (reason := 6) hD ⟨hwait, hroom, hjob, hreset⟩ (by decide)
      (by decide) (execDescFetch_of_budget (bits := bits) (index := idx) (m := m) hD
        (Dma.repeats_eq_false_iff.mpr ⟨hrecent, hhead⟩) hspent)
    exact ⟨t, hexec, by simp [hch, hmem, Dma.halted]⟩
  · intro n bits m s a hnext hcur hwait hrun hrecent hhead hbudget hspace hok hmine hgather
    have hexec := execDescFetch_of_takes (m := m) (index := []) ⟨hnext, hcur, hwait, hrun⟩
      (Dma.repeats_eq_false_iff.mpr ⟨hrecent, hhead⟩) hbudget rfl hok hmine hgather
      (descriptor_follows_of_space _ hspace)
    exact ⟨_, hexec, by simp [Dma.fetchedDesc, Dma.descriptor]⟩

end Sys2Proof.Machine
end

section
/-! What a row leaves: every row has a next state, in which the queue of waiting commands stands, and capture memory
with it unless the row is one that writes it. -/
namespace Sys2Proof.Machine

/-- The outcome is a next state with the queue of waiting commands and capture memory as they were. -/
def Outcome.Leaves (s : State) (o : Host.Outcome State Fault Refusal) : Prop :=
  ∃ t, o = .next t ∧ t.pending = s.pending ∧ t.mem = s.mem

/-- The outcome is a next state with the queue of waiting commands as it was and, from a canonical capture memory, a
canonical one. -/
def Outcome.LeavesForm (s : State) (o : Host.Outcome State Fault Refusal) : Prop :=
  ∃ t, o = .next t ∧ t.pending = s.pending ∧ (Memory.wf s.mem = true → Memory.wf t.mem = true)

theorem Outcome.Leaves.form {s : State} {o : Host.Outcome State Fault Refusal} (h : Outcome.Leaves s o) :
    Outcome.LeavesForm s o := by
  obtain ⟨t, hnext, hpending, hmem⟩ := h
  exact ⟨t, hnext, hpending, fun hwf => by rw [hmem]; exact hwf⟩

@[simp] theorem Outcome.leaves_next_iff (s t : State) :
    Outcome.Leaves s (.next t) ↔ t.pending = s.pending ∧ t.mem = s.mem := by
  simp [Outcome.Leaves]

@[simp] theorem Outcome.leaves_ok_iff (s a : State) :
    Outcome.Leaves s (ok a) ↔ a.pending = s.pending ∧ a.mem = s.mem := by
  simp [ok]

@[simp] theorem Outcome.leaves_ite (s : State) (c : Prop) [Decidable c] (a b : Host.Outcome State Fault Refusal) :
    Outcome.Leaves s (if c then a else b) ↔ (c → Outcome.Leaves s a) ∧ (¬c → Outcome.Leaves s b) := by
  split <;> simp_all

@[simp] theorem Outcome.leavesForm_next_iff (s t : State) : Outcome.LeavesForm s (.next t) ↔
    t.pending = s.pending ∧ (Memory.wf s.mem = true → Memory.wf t.mem = true) := by
  simp [Outcome.LeavesForm]

@[simp] theorem Outcome.leavesForm_ok_iff (s a : State) : Outcome.LeavesForm s (ok a) ↔
    a.pending = s.pending ∧ (Memory.wf s.mem = true → Memory.wf a.mem = true) := by
  simp [ok]

@[simp] theorem Outcome.leavesForm_ite (s : State) (c : Prop) [Decidable c]
    (a b : Host.Outcome State Fault Refusal) :
    Outcome.LeavesForm s (if c then a else b) ↔
      (c → Outcome.LeavesForm s a) ∧ (¬c → Outcome.LeavesForm s b) := by
  split <;> simp_all

/-- A host command leaves the queue and capture memory when its effect does. -/
@[simp] theorem Cmd.run_leaves (c : Cmd) (p : Packet) (s : State) (params state : List (Option Fail))
    (eff : State → State × Rep) (h : ∀ a, (eff a).1.pending = a.pending ∧ (eff a).1.mem = a.mem) :
    Outcome.Leaves s (Cmd.run c p s params state eff) := by
  unfold Cmd.run
  split
  · rw [Outcome.leaves_ok_iff]
    split <;> simp [h]
  · simp

@[simp] theorem Cmd.runPowered_leaves (c : Cmd) (p : Packet) (s : State) (ready : Bool) (hs : List Holder)
    (cap : Bool) (params state : List (Option Fail)) (eff : State → State × Rep)
    (h : ∀ a, (eff a).1.pending = a.pending ∧ (eff a).1.mem = a.mem) :
    Outcome.Leaves s (Cmd.runPowered c p s ready hs cap params state eff) := by
  unfold Cmd.runPowered
  dsimp only
  split
  · exact Cmd.run_leaves _ _ _ _ _ _ h
  · split <;> simp

@[simp] theorem issue_leaves (e : Nat) (bundle : BitVec 72) (s : State) :
    Outcome.Leaves s (issue e bundle s) := by
  simp [issue]

@[simp] theorem seenFaults_frame (s : State) : (seenFaults s).pending = s.pending ∧ (seenFaults s).mem = s.mem := by
  unfold seenFaults
  split <;> simp

@[simp] theorem markRead_frame (es : List LogEnt) (s : State) :
    (markRead es s).pending = s.pending ∧ (markRead es s).mem = s.mem := by
  unfold markRead
  split <;> simp

@[simp] theorem engStart_leaves (p : Packet) (s : State) (resume : Bool) : Outcome.Leaves s (engStart p s resume) := by
  simp [engStart]

@[simp] theorem setSleep_leaves (p : Packet) (s : State) (target : BitVec 2) :
    Outcome.Leaves s (setSleep p s target) := by
  simp [setSleep]

@[simp] theorem monCal_leaves (p : Packet) (s : State) (full : Bool) : Outcome.Leaves s (monCal p s full) := by
  simp [monCal]

@[simp] theorem setApproved_leaves (p : Packet) (s : State) (on : Bool) : Outcome.Leaves s (setApproved p s on) := by
  simp [setApproved]

theorem inject_leaves (p : Packet) (s : State) (kind cls : Nat) (eff : State → State)
    (h : ∀ a, (eff a).pending = a.pending ∧ (eff a).mem = a.mem) : Outcome.Leaves s (inject p s kind cls eff) := by
  simp [inject, h]

theorem execMemCfgSet_leaves (p : Packet) (s : State) : Outcome.Leaves s (execMemCfgSet p s) := by
  unfold execMemCfgSet
  extract_lets c same r
  have hrun : Outcome.Leaves s r := Cmd.run_leaves _ _ _ _ _ _ fun a => by split <;> simp
  obtain ⟨t, hnext, ht⟩ := hrun
  simp [hnext, ht]

theorem execMemRequest_leaves (r : ReqIn) (s : State) : Outcome.Leaves s (execMemRequest r s) := by
  cases r with
  | store port => simp only [execMemRequest]; split <;> simp
  | dma n write a len => simp [execMemRequest]
  | firmware write a bs len => simp [execMemRequest]
  | lodge write hi a bs len => simp [execMemRequest]

theorem execGroomerRead_leaves (c : BitVec 7) (age : Nat) (first again : BurstIn) (s : State) :
    Outcome.Leaves s (execGroomerRead c age first again s) := by
  simp only [execGroomerRead, Outcome.leaves_ite]
  refine ⟨fun _ => by simp, fun _ => ?_⟩
  split
  · simp
  · next hturn => simpa using groomerTurn_frame hturn

theorem execChuteRead_leaves (f : BitVec 4) (lanes : List Bool) (m : MemIn) (s : State) :
    Outcome.Leaves s (execChuteRead f lanes m s) := by
  simp only [execChuteRead, Outcome.leaves_ite]
  refine ⟨fun _ => by simp, fun _ => ?_⟩
  split
  · simp
  · next hread => simpa using chuteRead_frame hread

theorem execPhaseStep_leaves (s : State) : Outcome.Leaves s (execPhaseStep s) := by
  simp only [execPhaseStep, Outcome.leaves_ite]
  refine ⟨fun _ => by simp, fun _ => ?_⟩
  split <;> simp

theorem execTokenWaitTimeout_leaves (i : Nat) (s : State) : Outcome.Leaves s (execTokenWaitTimeout i s) := by
  unfold execTokenWaitTimeout
  split
  · simp
  · split <;> simp

theorem execContainerPowerUpDone_leaves (l : BitVec 16) (s : State) :
    Outcome.Leaves s (execContainerPowerUpDone l s) := by
  simp only [execContainerPowerUpDone, Outcome.leaves_ite]
  refine ⟨fun _ => by simp, fun _ => ?_⟩
  split <;> simp

theorem execMonCalMeasurementDone_leaves (raw : BitVec 16) (s : State) :
    Outcome.Leaves s (execMonCalMeasurementDone raw s) := by
  unfold execMonCalMeasurementDone
  split
  · simp
  · simp only [Outcome.leaves_ite]
    refine ⟨fun _ => by simp, fun _ => ⟨fun _ => by simp, fun _ => ?_⟩⟩
    split <;> simp

theorem execIslandOperationDone_leaves (r : IslandIn) (s : State) :
    Outcome.Leaves s (execIslandOperationDone r s) := by
  unfold execIslandOperationDone
  split
  · simp
  · split <;> simp

theorem execWatchdogBreak_leaves (w : WaitKind) (s : State) : Outcome.Leaves s (execWatchdogBreak w s) := by
  cases w with
  | firmware p l => simp [execWatchdogBreak]
  | linkCredit d => simp [execWatchdogBreak]
  | chute f lanes => simp [execWatchdogBreak]
  | tune e => simp only [execWatchdogBreak]; split <;> simp

theorem execBlockPeriod_leaves (port : BitVec 7) (blocks : List (List (BitVec 2))) (arrivals : List (Nat × Int))
    (s : State) : Outcome.Leaves s (execBlockPeriod port blocks arrivals s) := by
  unfold execBlockPeriod
  extract_lets p P bs s0 slot d cause beats s1
  have hack : s0.pending = s.pending ∧ s0.mem = s.mem := by
    unfold s0
    split <;> simp
  have hrecords : s1.pending = s.pending ∧ s1.mem = s.mem := by
    simp [s1, hack]
  simp [hack, hrecords]

theorem execReturnFrame_leaves (port : BitVec 7) (s : State) : Outcome.Leaves s (execReturnFrame port s) := by
  simp only [execReturnFrame, Outcome.leaves_ite]
  refine ⟨fun _ => by simp, fun _ => ?_⟩
  split
  · simp only [Outcome.leaves_ite]
    exact ⟨fun _ => by simp, fun _ => by simp⟩
  · simp

theorem execDescriptorReadDone_leaves (port : BitVec 7) (desc : Option (BitVec 256)) (s : State) :
    Outcome.Leaves s (execDescriptorReadDone port desc s) := by
  simp only [execDescriptorReadDone, Outcome.leaves_ite]
  refine ⟨fun _ => by simp, fun _ => ?_⟩
  split <;> simp

theorem execRunoutEnd_leaves (port : BitVec 7) (s : State) : Outcome.Leaves s (execRunoutEnd port s) := by
  simp only [execRunoutEnd, Outcome.leaves_ite]
  refine ⟨fun _ => ?_, fun _ => by simp⟩
  split <;> simp

theorem execPcsStep_leaves (n : BitVec 4) (beat : BitVec 64) (s : State) : Outcome.Leaves s (execPcsStep n beat s) := by
  simp only [execPcsStep, Outcome.leaves_ite]
  refine ⟨fun _ => ?_, fun _ => by simp⟩
  split <;> simp

theorem execEvTrigInterval_leaves (part : BitVec 4) (s : State) : Outcome.Leaves s (execEvTrigInterval part s) := by
  simp only [execEvTrigInterval, Outcome.leaves_ite]
  refine ⟨fun _ => by simp, fun _ => ?_⟩
  split <;> simp

theorem execEngStallEnd_leaves (e : BitVec 9) (s : State) : Outcome.Leaves s (execEngStallEnd e s) := by
  unfold execEngStallEnd
  dsimp only
  split <;> simp

@[simp] theorem takeCtr_frame (s : State) (c : Nat) (d : Desc) :
    (execDescFetch.takeCtr s c d).pending = s.pending ∧ (execDescFetch.takeCtr s c d).mem = s.mem := by
  unfold execDescFetch.takeCtr
  split <;> simp

theorem execDescFetch_leaves (n : BitVec 5) (bits : BitVec 512) (index : List (BitVec 64)) (m : MemIn) (s : State) :
    Outcome.Leaves s (execDescFetch n bits index m s) := by
  unfold execDescFetch
  extract_lets c D
  split
  · simp
  · rw [Outcome.leaves_ite, Outcome.leaves_ite, Outcome.leaves_ite]
    refine ⟨fun _ => by simp, fun _ => ⟨fun _ => by simp, fun _ => ⟨fun _ => by simp, fun _ => ?_⟩⟩⟩
    extract_lets d0 d
    have hread : accessFrame s (if descOk d (D.st == .job) then readIndex s c d m else .done s []) := by
      split
      · exact readIndex_frame ..
      · exact ⟨rfl, rfl⟩
    split <;> next hindex => rw [hindex] at hread; simp_all [accessFrame]

theorem execDmaReadCompletion_leaves (n : BitVec 5) (bytes : List (BitVec 8)) (poison : Bool) (m : MemIn) (s : State) :
    Outcome.Leaves s (execDmaReadCompletion n bytes poison m s) := by
  unfold execDmaReadCompletion
  dsimp only
  split
  · simp
  · simp only [Outcome.leaves_ite]
    refine ⟨fun _ => by simp, fun _ => ⟨fun _ => by simp, fun _ => ⟨fun _ => by simp, fun _ => ?_⟩⟩⟩
    split
    · simp
    · split <;> simp
    · simp
    · simp
    · simp

theorem execWakeEdge_leaves (src : BitVec 3) (v : BitVec 2) (parked : BitVec 64) (b : BootIn) (s : State) :
    Outcome.Leaves s (execWakeEdge src v parked b s) := by
  unfold execWakeEdge
  extract_lets k s1 clear
  clear_value k
  have hlatch : s1.pending = s.pending ∧ s1.mem = s.mem := by
    unfold s1
    split <;> simp
  have hclear : (clear s1).pending = s1.pending ∧ (clear s1).mem = s1.mem := by
    unfold clear
    split <;> simp
  simp [hlatch, hclear]

theorem execTimeTransfer_leaves (v : BitVec 2) (frame : BitVec 192) (arrival : BitVec 72) (s : State) :
    Outcome.Leaves s (execTimeTransfer v frame arrival s) := by
  simp only [execTimeTransfer, Outcome.leaves_ite]
  refine ⟨fun _ => by simp, fun _ => ?_⟩
  split <;> simp

theorem execTreeReform_leaves (s : State) : Outcome.Leaves s (execTreeReform s) := by
  simp only [execTreeReform, Outcome.leaves_ite]
  refine ⟨fun _ => by simp, fun _ => ?_⟩
  split <;> simp

theorem execMemAccessComplete_leavesForm (c : BitVec 7) (i : Nat) (bursts : List BurstIn) (s : State) :
    Outcome.LeavesForm s (execMemAccessComplete c i bursts s) := by
  unfold execMemAccessComplete
  dsimp only
  split <;> simp +contextual

theorem execChuteWrite_leavesForm (f : BitVec 4) (bytes : List (Option (BitVec 8))) (ep : Bool) (m : MemIn)
    (s : State) : Outcome.LeavesForm s (execChuteWrite f bytes ep m s) := by
  simp only [execChuteWrite, Outcome.leavesForm_ite]
  refine ⟨fun _ => by simp, fun _ => ?_⟩
  split
  · simp
  · next hwrite => simpa using chuteWrite_keeps hwrite

theorem execWipeDone_leavesForm (c : BitVec 7) (s : State) : Outcome.LeavesForm s (execWipeDone c s) := by
  unfold execWipeDone
  extract_lets k mine s1 ws s2
  rw [Outcome.leavesForm_ite, Outcome.leavesForm_ok_iff]
  refine ⟨fun _ => by simp, fun _ => ?_⟩
  have hwipe : s2.pending = s.pending ∧ (Memory.wf s.mem = true → Memory.wf s2.mem = true) := by
    simp only [s2, s1]
    split <;> simp +contextual
    split <;> simp +contextual
  have hend := foldl_keeps (ws.filter fun w => w.chans.isEmpty) endWipe s2 endWipe_keeps
  simpa [hend.1, hwipe.1] using fun hwf => hend.2 (hwipe.2 hwf)

theorem execPartWipe_leavesForm (p : Packet) (s : State) : Outcome.LeavesForm s (execPartWipe p s) := by
  unfold execPartWipe
  have hrun : Outcome.Leaves s (Cmd.run cmdPartWipe p s [] [] fun s =>
      (startPartWipe s p.partition.toNat, .accept (.partWipe p.partition.toNat) 0)) :=
    Cmd.run_leaves _ _ _ _ _ _ fun a => by simp
  obtain ⟨t, hnext, hpending, hmem⟩ := hrun
  simp +contextual [hnext, hpending, hmem]

theorem execFlr_leavesForm (f : BitVec 4) (s : State) : Outcome.LeavesForm s (execFlr f s) := by
  simp +contextual [execFlr]

theorem writeOutput_keeps (s : State) (k : Nat) (bs : List Byte) (m : MemIn) :
    accessKeeps s (writeOutput s k bs m) := by
  unfold writeOutput
  dsimp only
  split
  · exact ⟨rfl, id⟩
  · split
    · simp [accessKeeps]
    · exact dmaAccess_keeps ..

theorem execCmpJobEnd_leavesForm (e : BitVec 4) (r : CmpIn) (m : MemIn) (s : State) :
    Outcome.LeavesForm s (execCmpJobEnd e r m s) := by
  simp only [execCmpJobEnd, Outcome.leavesForm_ite]
  refine ⟨fun _ => by simp, fun _ => ?_⟩
  have hwrite : accessKeeps s (writeOutput s e.toNat r.output m) := writeOutput_keeps ..
  split
  · next haccess => rw [haccess] at hwrite; simpa [accessKeeps] using hwrite
  · simp
  · simp
  · next haccess =>
    rw [haccess] at hwrite
    split <;> simpa [accessKeeps] using hwrite

theorem execParkTransition_leavesForm (s : State) : Outcome.LeavesForm s (execParkTransition s) := by
  unfold execParkTransition
  split
  · simp
  · simp +contextual

/-- A row that writes no capture memory leaves it, and the queue of waiting commands. -/
theorem exec_leaves (i : Instr) (s : State) (h : writesMemory i = false) : Outcome.Leaves s (exec i s) := by
  cases i
  case devInfo | devReset | devEcho | logInfo | diagLedgerRead | diagLedgerClearStrike | diagLedgerClearSlot |
      evLog =>
    simp [exec, execDevInfo, execDevReset, execDevEcho, execLogInfo, execDiagLedgerRead,
      execDiagLedgerClearStrike, execDiagLedgerClearSlot, execEvLog]
  case partAssign | partRelease | partWindowSet | partWindowInval | partGet | partEvents =>
    simp [exec, execPartAssign, execPartRelease, execPartWindowSet, execPartWindowInval, execPartGet,
      execPartEvents]
  case portOpen | portClose | portRetrain | portFmt | portHold | portPass | portGet =>
    simp [exec, execPortOpen, execPortClose, execPortRetrain, execPortFmt, execPortHold, execPortPass,
      execPortGet]
  case gateSet | gateGet | gateTune =>
    simp [exec, execGateSet, execGateGet, execGateTune]
  case slalomSet | slalomGet | slalomTune | slalomPcsSet | slalomPcsGet | trigInEdge =>
    simp [exec, execSlalomSet, execSlalomGet, execSlalomTune, execSlalomPcsSet, execSlalomPcsGet,
      execTrigInEdge]
  case runSet | runGet | runArm | runDisarm | runRelease | runStatus | runMaskSet =>
    simp [exec, execRunSet, execRunGet, execRunArm, execRunDisarm, execRunRelease, execRunStatus,
      execRunMaskSet]
  case specSet | specGet | specStart | specStop | specSync | specTune | specCoefSet | specWindowSet |
      specTrigSet | specTrigTune | specMaskSet | densSet | densGet | densSnap | densReleaseClear |
      densReleaseMerge | densClear | densDecayStep | densMergeDone =>
    simp [exec, execSpecSet, execSpecGet, execSpecStart, execSpecStop, execSpecSync, execSpecTune,
      execSpecCoefSet, execSpecWindowSet, execSpecTrigSet, execSpecTrigTune, execSpecMaskSet, execDensSet,
      execDensGet, execDensSnap, execDensReleaseClear, execDensReleaseMerge, execDensClear, execDensDecayStep,
      execDensMergeDone]
  case engLoad | engSet | engGet | engStop | engRingAck | streamElementArrive | engineFault | engineRestart =>
    simp [exec, execEngLoad, execEngSet, execEngGet, execEngStop, execEngRingAck, execStreamElementArrive,
      execEngineFault, execEngineRestart]
  case memCfgGet | memStatus | memDelayGet | memTest | refresh | scrubOverdue | rankPowerDown | laneResweep |
      retirementResume | inOrderRecoveryEnd =>
    simp [exec, execMemCfgGet, execMemStatus, execMemDelayGet, execMemTest, execRefresh, execScrubOverdue,
      execRankPowerDown, execLaneResweep, execRetirementResume, execInOrderRecoveryEnd]
  case dmaSet | dmaSetTwinMask | dmaGet | dmaStart | dmaHalt | dmaStatus | dmaBusError | dmaCompletionTimeout =>
    simp [exec, execDmaSet, execDmaSetTwinMask, execDmaGet, execDmaStart, execDmaHalt, execDmaStatus,
      execDmaBusError, execDmaCompletionTimeout]
  case cmpJob | cmpResume | cmpStatus =>
    simp [exec, execCmpJob, execCmpResume, execCmpStatus]
  case sysTimeGet | sysTrigOutSet | sysTrigOutGet | syncInEdge | ppsEdge | ppsMissing | refclkLossCoast |
      pllLock =>
    simp [exec, execSysTimeGet, execSysTrigOutSet, execSysTrigOutGet, execSyncInEdge, execPpsEdge,
      execPpsMissing, execRefclkLossCoast, execPllLock]
  case sysLinkSet | sysLinkStatus | sysMsgSend | flitReceive | message | messageBroadcast | linkControl |
      vpLaneLost | vpTrainTimeout | vpDownRetrain | steerUpdate | followerEpochLoad | vpTrainDone =>
    simp [exec, execSysLinkSet, execSysLinkStatus, execSysMsgSend, execFlitReceive, execMessage,
      execMessageBroadcast, execLinkControl, execVpLaneLost, execVpTrainTimeout, execVpDownRetrain,
      execSteerUpdate, execFollowerEpochLoad, execVpTrainDone]
  case pwrCapSet | pwrStatus | clkStatus | monSeqSet | monRead | dieFabricReady | tokenGrant | clusterIdleOff |
      dieIdleOff | telemetrySample | temperatureRead | monEntryDone | urgentConversion =>
    simp [exec, execPwrCapSet, execPwrStatus, execClkStatus, execMonSeqSet, execMonRead, execDieFabricReady,
      execTokenGrant, execClusterIdleOff, execDieIdleOff, execTelemetrySample, execTemperatureRead,
      execMonEntryDone, execUrgentConversion]
  case secAttestReport | secAttestCerts | secAttestCal | secSessionOpen | secSessionClose | secLifecycleFactory
      | secLifecycleCerts | secLifecycleField | secLifecycleReturn | secLifecycleVoid | secLifecycleDebugUnlock
      | secFwUpdateCommit | secZeroise | secZeroiseVoid | secSelftest | secSelftestFaultInsert | secAuditRead |
      drbgReseed =>
    simp [exec, execSecAttestReport, execSecAttestCerts, execSecAttestCal, execSecSessionOpen,
      execSecSessionClose, execSecLifecycleFactory, execSecLifecycleCerts, execSecLifecycleField,
      execSecLifecycleReturn, execSecLifecycleVoid, execSecLifecycleDebugUnlock, execSecFwUpdateCommit,
      execSecZeroise, execSecZeroiseVoid, execSecSelftest, execSecSelftestFaultInsert, execSecAuditRead,
      execDrbgReseed]
  case sqTailDoorbell | packetFetch | rqHeadDoorbell | qEnable | qDisable | queueDrained | mboxGo |
      chutePtrWrite | slotCtrlWrite | registerWrite | flrComplete | d3hotEntry | d0Return | holdoffExpire |
      perstAAssert | perstBAssert | hotReset | linkDown | endpointLinkUp | perstBDeassert =>
    simp [exec, execSqTailDoorbell, execPacketFetch, execRqHeadDoorbell, execQEnable, execQDisable,
      execQueueDrained, execMboxGo, execChutePtrWrite, execSlotCtrlWrite, execRegisterWrite, execFlrComplete,
      execD3hotEntry, execD0Return, execHoldoffExpire, execPerstAAssert, execPerstBAssert, execHotReset,
      execLinkDown, execEndpointLinkUp, execPerstBDeassert]
  case powerOn | hubPllLock | hostEndpointsUp | packageReset | unitReset | clusterReset | regionReset | dieReset
      | wakeTimer | environmentalFailure =>
    simp [exec, execPowerOn, execHubPllLock, execHostEndpointsUp, execPackageReset, execUnitReset,
      execClusterReset, execRegionReset, execDieReset, execWakeTimer, execEnvironmentalFailure]
  case prsntEdge | presenceReport | pscScan | indicatorBlink | ibiReceive | hotJoin | laneLost | autoWarmHold =>
    simp [exec, execPrsntEdge, execPresenceReport, execPscScan, execIndicatorBlink, execIbiReceive, execHotJoin,
      execLaneLost, execAutoWarmHold]
  case trainingPhaseExit | trainingPhaseTimeout | effectSeqReached | messageResend | messageFailure =>
    simp only [exec, execTrainingPhaseExit, execTrainingPhaseTimeout, execEffectSeqReached, execMessageResend,
      execMessageFailure]; split <;> simp
  case armBeat | beatDecide | disarmEffect | directoryEntryWrite =>
    simp only [exec, execArmBeat, execBeatDecide, execDisarmEffect, execDirectoryEntryWrite]; split <;> simp
  case tuneApply | reArm =>
    simp [exec, execTuneApply, execReArm]
  case frameComplete | densFreeze | synchronisingResetBeat =>
    simp only [exec, execFrameComplete, execDensFreeze, execSynchronisingResetBeat]; split <;> simp
  case epochLoadTimeout =>
    simp only [exec, execEpochLoadTimeout]; split <;> simp
  case warmSlotsEnd | engineStartBeat =>
    simp only [exec, execWarmSlotsEnd, execEngineStartBeat]; split <;> simp
  case hammerThreshold | throttleEnd =>
    simp only [exec, execHammerThreshold, execThrottleEnd]; split <;> simp
  case followWriteCount | dmaWriteResponse | cqHeadPoll =>
    simp only [exec, execFollowWriteCount, execDmaWriteResponse, execCqHeadPoll]; split <;> simp
  case xtrigRecordEntry =>
    simp only [exec, execXtrigRecordEntry]; split <;> simp
  case lockstepMismatch | replayCatchUp | heartbeatMiss | d2dLinkFailure | d2dRetrainTimeout | d2dLinkRetrained
      =>
    simp [exec, execLockstepMismatch, execReplayCatchUp, execHeartbeatMiss, execD2dLinkFailure,
      execD2dRetrainTimeout, execD2dLinkRetrained]
  case spareTakeover =>
    simp only [exec, execSpareTakeover]; split <;> simp
  case devStatus | logRead => simp [exec, execDevStatus, execLogRead]
  case engStartFresh | engStartResume => simp [exec, execEngStartFresh, execEngStartResume]
  case engStallEnd => exact execEngStallEnd_leaves ..
  case memCfgSet => exact execMemCfgSet_leaves ..
  case memRequest => exact execMemRequest_leaves ..
  case groomerRead => exact execGroomerRead_leaves ..
  case cmpCancel => simp [exec, execCmpCancel, apply_ite Prod.fst]
  case sysEpochSet | sysPhaseStep => simp [exec, execSysEpochSet, execSysPhaseStep, apply_ite Prod.fst]
  case phaseStep => exact execPhaseStep_leaves ..
  case pwrStateSetOff | pwrStateSetParked => simp [exec, execPwrStateSetOff, execPwrStateSetParked]
  case pwrStateSetReady => simp [exec, execPwrStateSetReady, apply_ite Prod.fst]
  case monCalZero | monCalFullScale => simp [exec, execMonCalZero, execMonCalFullScale]
  case tokenWaitTimeout => exact execTokenWaitTimeout_leaves ..
  case containerPowerUpDone => exact execContainerPowerUpDone_leaves ..
  case monCalMeasurementDone => exact execMonCalMeasurementDone_leaves ..
  case secApprovedEnter | secApprovedLeave => simp [exec, execSecApprovedEnter, execSecApprovedLeave]
  case secFwUpdateWrite => simp [exec, execSecFwUpdateWrite, apply_ite Prod.fst]
  case islandOperationDone => exact execIslandOperationDone_leaves ..
  case diagInjectMismatch | diagInjectPersistent | diagInjectEngine | diagInjectLaneLoss =>
    exact inject_leaves _ _ _ _ _ fun a => by simp
  case watchdogBreak => exact execWatchdogBreak_leaves ..
  case chuteRead => exact execChuteRead_leaves ..
  case blockPeriod => exact execBlockPeriod_leaves ..
  case returnFrame => exact execReturnFrame_leaves ..
  case descriptorReadDone => exact execDescriptorReadDone_leaves ..
  case runoutEnd => exact execRunoutEnd_leaves ..
  case pcsStep => exact execPcsStep_leaves ..
  case evTrigInterval => exact execEvTrigInterval_leaves ..
  case iNop => simp [exec, execINop]
  case descFetch => exact execDescFetch_leaves ..
  case dmaReadCompletion => exact execDmaReadCompletion_leaves ..
  case wakeEdge => exact execWakeEdge_leaves ..
  case timeTransfer => exact execTimeTransfer_leaves ..
  case treeReform => exact execTreeReform_leaves ..
  case iAdd | iSub | iAddi | iNeg | iAbs | iAnd | iOr | iXor | iAndi | iMovi | iMov | iMin | iMax | iShl | iSar
      | iShr | iShi | iCmp | iCmpi | iMul | iDiv | iRem | iPopc | iNorm | iFfs | iMac | iMsu | iMpa | iAclr |
      iAld | iAadd | iAsr | iExt | iLd | iSt | iLdq | iStq | iAxa | iMovp | iPadd | iMtp | iMfp | iB | iCall |
      iJr | iLoop | iLoopi | iSin | iSinq | iOut | iOutq | iEvt | iEvtr | iTune | iSpost | iSwait | iFence |
      iMtc | iMfc | iTrap | iRete | iHalt =>
    exact issue_leaves ..
  all_goals simp [writesMemory] at h

/-- Every row leaves the queue of waiting commands, and capture memory in its canonical form. -/
theorem exec_leavesForm (i : Instr) (s : State) : Outcome.LeavesForm s (exec i s) := by
  cases h : writesMemory i with
  | false => exact (exec_leaves i s h).form
  | true =>
    unfold writesMemory at h
    split at h
    · exact execMemAccessComplete_leavesForm ..
    · exact execChuteWrite_leavesForm ..
    · exact execWipeDone_leavesForm ..
    · exact execPartWipe_leavesForm ..
    · exact execFlr_leavesForm ..
    · exact execCmpJobEnd_leavesForm ..
    · exact execParkTransition_leavesForm ..
    · exact Outcome.Leaves.form (by simp [exec, execRunPoisonMark])
    · exact Outcome.Leaves.form (by simp [exec, execMemRetire])
    · exact Outcome.Leaves.form (by simp [exec, execChannelRetire])
    · exact Outcome.Leaves.form (inject_leaves _ _ _ _ _ fun a => by simp)
    · exact Outcome.Leaves.form (by simp [exec, execSweepDone])
    · cases h

/-- Settles O5: the rows outside `writesMemory` are exactly those of `exec_leaves`. -/
theorem onlyTwelveRowsChangeMemory : Obligations.OnlyTwelveRowsChangeMemory := by
  unfold Obligations.OnlyTwelveRowsChangeMemory
  intro i s t hexec hwrites
  obtain ⟨u, hnext, _, hmem⟩ := exec_leaves i s hwrites
  obtain rfl : u = t := by simpa [hexec] using hnext.symm
  exact hmem

/-- A step leaves the commands behind the front one, and capture memory in its canonical form. -/
theorem step_leavesForm (s : State) : Outcome.LeavesForm { s with pending := s.pending.tail } (step s) := by
  unfold step
  split
  · next hempty => simp [hempty, idle]
  · next c cs hfront => simpa [hfront] using exec_leavesForm c { s with pending := cs }

/-- Settles O4: a step is a row or a beat (`step_leavesForm`), and every row keeps the canonical form
(`exec_leavesForm`). -/
theorem everyStepKeepsMemoryCanonical : Obligations.EveryStepKeepsMemoryCanonical := by
  unfold Obligations.EveryStepKeepsMemoryCanonical CaptureCanonical
  intro s t hwf hstep
  obtain ⟨u, hnext, _, hform⟩ := step_leavesForm s
  obtain rfl : u = t := by simpa [hstep] using hnext.symm
  exact hform hwf

/-- Settles O6: every row has a next state (`exec_leavesForm`), and none writes the queue. -/
theorem stepNeverStops : Obligations.StepNeverStops := by
  unfold Obligations.StepNeverStops GoesOn
  refine ⟨⟨fun s => ?_, fun i s => ?_⟩, fun s t hstep => ?_⟩
  · obtain ⟨t, hnext, _⟩ := step_leavesForm s
    exact ⟨t, hnext⟩
  · obtain ⟨t, hnext, _⟩ := exec_leavesForm i s
    exact ⟨t, hnext⟩
  · obtain ⟨u, hnext, hpending, _⟩ := step_leavesForm s
    obtain rfl : u = t := by simpa [hstep] using hnext.symm
    exact hpending
end Sys2Proof.Machine
end

section
/-! Answers: where the reply of a command stands, and the parts of the state that it may change. -/
namespace Sys2Proof.Machine
open Sys2Proof.Laws

/-- What follows the effect of a command changes nothing but the places where replies travel. -/
theorem settle_drainBad_conclude_sameButReplies (c : Cmd) (p : Packet) (s : State) (r : Rep) :
    SameButReplies s (settle (drainBad 16 (conclude c p (s, r)) p.fn.toNat)) :=
  sameButReplies_trans (conclude_sameButReplies c p (s, r))
    (sameButReplies_trans (drainBad_sameButReplies _ _ _) (settle_sameButReplies _))

/-- The reply to a mailbox command that has begun stands in the mailbox. -/
theorem replyTo_mbox_of_begun {p : Packet} {s : State} (hp : p.mbox = true) (hs : s.mbox.begun = true)
    (result : Nat) :
    (replyTo s false p 0 0 result []).mbox =
      { s.mbox with reply := replyEntry p.tag p.seq 0 0 result, done := true, busy := false, begun := false } := by
  simp [replyTo, hp, hs]

theorem dropSecond_of_mbox {c : Cmd} {p : Packet} (hp : p.mbox = true) (s : State) : dropSecond c p s = s := by
  simp [dropSecond, hp]

/-- An acceptance enters the list of accepted commands. -/
theorem conclude_accept_accepted (c : Cmd) (p : Packet) (s : State) (job : Job) (result : Nat) :
    (conclude c p (s, .accept job result)).hub.accepted =
      s.hub.accepted ++ [⟨originOf p, job, false, BitVec.ofNat 128 result⟩] := by
  simp only [conclude]
  split <;> simp

/-- Settles O8: an answer is a conclusion, a drain of failed packets and an evaluation of the interrupts, each of
which writes only where replies travel; the mailbox and the list of accepted commands are written by the
conclusion alone. -/
theorem anAnswerOnlyReplies : Obligations.AnAnswerOnlyReplies := by
  unfold Obligations.AnAnswerOnlyReplies
  refine ⟨fun c p s _ _ => settle_drainBad_conclude_sameButReplies c p s _,
    fun c p s _ _ => settle_drainBad_conclude_sameButReplies c p s _, ?_, ?_⟩
  · intro c p s result hmbox hbegun hbuffer
    have hreply : conclude c p (s, .done 0 0 result []) = replyTo s false p 0 0 result [] := by
      rw [conclude, hbuffer, dropSecond_of_mbox hmbox]
    simp [answered, hreply, replyTo_mbox_of_begun hmbox hbegun]
  · intro c p s job result
    simp [acceptedAs, conclude_accept_accepted]

end Sys2Proof.Machine
end

section
/-! The line code: payloads under word-wise XOR (R39, R40), and the scrambler (R36). -/
namespace Sys2Proof.Machine

theorem xorWords_comm (a b : List (BitVec 18)) : xorWords a b = xorWords b a :=
  List.zipWith_comm_of_comm BitVec.xor_comm

theorem xorWords_assoc (a b c : List (BitVec 18)) : xorWords (xorWords a b) c = xorWords a (xorWords b c) := by
  induction a generalizing b c with
  | nil => rfl
  | cons x a ih =>
    cases b with
    | nil => rfl
    | cons y b =>
      cases c with
      | nil => rfl
      | cons z c => exact congrArg₂ List.cons (BitVec.xor_assoc x y z) (ih b c)

@[simp] theorem length_xorWords (a b : List (BitVec 18)) : (xorWords a b).length = min a.length b.length := by
  simp [xorWords]

theorem xorWords_zeros {a : List (BitVec 18)} {n : Nat} (ha : a.length = n) : xorWords a (List.replicate n 0) = a := by
  subst ha
  induction a with
  | nil => rfl
  | cons x a ih => exact congrArg₂ List.cons (BitVec.xor_zero) ih

/-- A payload taken in twice cancels. -/
theorem xorWords_cancel {a b : List (BitVec 18)} (h : a.length = b.length) : xorWords a (xorWords b a) = b := by
  induction a generalizing b with
  | nil => rw [List.eq_nil_of_length_eq_zero h.symm]; rfl
  | cons x a ih =>
    cases b with
    | nil => cases h
    | cons y b =>
      refine congrArg₂ List.cons ?_ (ih (Nat.succ.inj h))
      change x ^^^ (y ^^^ x) = y
      rw [BitVec.xor_comm y, ← BitVec.xor_assoc, BitVec.xor_self, BitVec.zero_xor]

/-- A payload may be taken in before the others or after them. -/
theorem foldl_xorWords_xorWords (l : List (List (BitVec 18))) (a b : List (BitVec 18)) :
    l.foldl xorWords (xorWords a b) = xorWords a (l.foldl xorWords b) := by
  induction l generalizing b with
  | nil => rfl
  | cons x l ih => rw [List.foldl_cons, xorWords_assoc, ih, List.foldl_cons]

/-- Payloads taken in twice cancel. -/
theorem foldl_xorWords_twice {n : Nat} {l : List (List (BitVec 18))} (hl : ∀ w ∈ l, w.length = n)
    {a : List (BitVec 18)} (ha : a.length = n) : l.foldl xorWords (l.foldl xorWords a) = a := by
  induction l generalizing a with
  | nil => rfl
  | cons x l ih =>
    have hx : x.length = n := hl x (List.mem_cons_self ..)
    calc (x :: l).foldl xorWords ((x :: l).foldl xorWords a)
        = l.foldl xorWords (l.foldl xorWords (xorWords x (xorWords a x))) := by
          rw [List.foldl_cons, List.foldl_cons, xorWords_comm, ← foldl_xorWords_xorWords]
      _ = xorWords x (xorWords a x) := ih (fun w hw => hl w (List.mem_cons_of_mem _ hw)) (by simp [hx, ha])
      _ = a := xorWords_cancel (hx.trans ha.symm)

/-- Known payloads are all taken in. -/
theorem foldl_xorKnown_map_some (l : List (List (BitVec 18))) (acc : List (BitVec 18)) :
    (l.map some).foldl xorKnown acc = l.foldl xorWords acc := by
  rw [List.foldl_map]
  rfl

/-- Lanes with one lane unknown. -/
theorem mapIdx_none_at_length (pre post : List (List (BitVec 18))) (w : List (BitVec 18)) :
    ((pre ++ w :: post).mapIdx fun i w => if i = pre.length then none else some w) =
      pre.map some ++ none :: post.map some := by
  rw [List.mapIdx_append, List.mapIdx_cons]
  congr 1
  · refine List.ext_getElem (by simp) fun i hi _ => ?_
    have : i ≠ pre.length := by simp at hi; omega
    simp [this]
  · congr 1
    · simp
    · refine List.ext_getElem (by simp) fun i hi _ => ?_
      simp

/-- Settles O15: the lanes before and after the bad one cancel against their share of the sweep lane
(`foldl_xorWords_twice`), and the payload of the bad lane is left. -/
theorem sweepLaneRebuildsAnyLane : Obligations.SweepLaneRebuildsAnyLane := by
  unfold Obligations.SweepLaneRebuildsAnyLane
  intro sent n k hlen hk
  obtain ⟨pre, w, post, rfl, rfl⟩ : ∃ pre w post, sent = pre ++ w :: post ∧ k = pre.length :=
    ⟨sent.take k, sent[k], sent.drop (k + 1), by simp, by simp; omega⟩
  have hw : w.length = n := hlen w (by simp)
  have hothers : ∀ v ∈ pre ++ post, v.length = n := fun v hv => hlen v (by
    simp only [List.mem_append, List.mem_cons] at hv ⊢
    tauto)
  have hsweep : (pre ++ w :: post).foldl xorWords (List.replicate n 0) =
      xorWords w ((pre ++ post).foldl xorWords (List.replicate n 0)) := by
    rw [List.foldl_append, List.foldl_cons, xorWords_comm, foldl_xorWords_xorWords, List.foldl_append]
  have hfixed : (pre.map some ++ none :: post.map some).foldl xorKnown
      ((pre ++ w :: post).foldl xorWords (List.replicate n 0)) = w := by
    rw [List.foldl_append, List.foldl_cons, foldl_xorKnown_map_some, foldl_xorKnown_map_some]
    change post.foldl xorWords (pre.foldl xorWords _) = w
    rw [← List.foldl_append, hsweep, foldl_xorWords_xorWords, foldl_xorWords_twice hothers (List.length_replicate ..),
      xorWords_zeros hw]
  simp only [rebuildLanes, mapIdx_none_at_length, hfixed]
  simp

@[simp] theorem length_scramble (ws : List (BitVec 18)) (st : BitVec 31) : (scramble ws st).length = ws.length := by
  induction ws generalizing st with
  | nil => rfl
  | cons w ws ih => simp [scramble, ih]

/-- The scrambler's bits depend on its state alone, so that scrambling twice from one state is the identity. -/
theorem scramble_scramble (ws : List (BitVec 18)) (st : BitVec 31) : scramble (scramble ws st) st = ws := by
  induction ws generalizing st with
  | nil => rfl
  | cons w ws ih => simp [scramble, ih]

/-- Settles O16: scrambling is its own inverse (`scramble_scramble`) and keeps the number of words, which the fill of
a frame makes up to sixteen. -/
theorem lineCodeTurnsBack : Obligations.LineCodeTurnsBack := by
  unfold Obligations.LineCodeTurnsBack
  refine ⟨scramble_scramble, fun rseq ty seq body hbody => ?_⟩
  simp only [returnFrame, List.length_append, length_scramble, List.length_cons, List.length_nil,
    List.length_replicate]
  omega

end Sys2Proof.Machine
end

section
/-! Slots and bundles of the measurement engines (R211): their fields, and the rows that issue them. -/
namespace Sys2Proof.Machine

/-- A field of a packed block is the packed value it was given, where it lies within the block. -/
theorem fld_pack {n i w v lo : Nat} {fs : List (Nat × Nat)} (hi : fs[i]? = some (w, v))
    (hlo : lo = ((fs.take i).map Prod.fst).sum) (hfit : lo + w ≤ n) :
    fld (BitVec.ofNat n (pack fs)) lo w = v % 2 ^ w := by
  have hmod : pack fs % 2 ^ n / 2 ^ lo % 2 ^ w = pack fs / 2 ^ lo % 2 ^ w := by
    obtain ⟨k, rfl⟩ := Nat.exists_eq_add_of_le hfit
    rw [Nat.add_assoc, pow_add, Nat.mod_mul_right_div_self, pow_add,
      Nat.mod_mod_of_dvd _ (Dvd.intro _ rfl)]
  rw [fld, BitVec.toNat_ofNat, Nat.shiftRight_eq_div_pow, hmod, hlo, pack_field hi]

theorem toNat_fbv {n : Nat} (x : BitVec n) (lo len : Nat) : (fbv x lo len).toNat = fld x lo len := by
  rw [fbv, fld, BitVec.extractLsb'_toNat]

theorem bit_eq_fld {n : Nat} (x : BitVec n) (i : Nat) : bit x i = (fld x i 1 == 1) := by
  rw [bit, fld, BitVec.getLsbD, Nat.testBit_eq_decide_div_mod_eq, Nat.shiftRight_eq_div_pow]
  simp [beq_eq_decide]

theorem b2n_lt (b : Bool) : b2n b < 2 := by
  cases b <;> decide

section
variable (x : XOps) {op : Nat}

theorem opOf_xWord (hop : op < 64) : opOf (xWord op x) = op :=
  (fld_pack (i := 4) rfl rfl (by simp)).trans (Nat.mod_eq_of_lt hop)
theorem xd_xWord : xd (xWord op x) = x.d.toNat :=
  (fld_pack (i := 3) rfl rfl (by simp)).trans (Nat.mod_eq_of_lt x.d.isLt)
theorem xa_xWord : xa (xWord op x) = x.a.toNat :=
  (fld_pack (i := 2) rfl rfl (by simp)).trans (Nat.mod_eq_of_lt x.a.isLt)
theorem xb_xWord : xb (xWord op x) = x.b.toNat :=
  (fld_pack (i := 1) rfl rfl (by simp)).trans (Nat.mod_eq_of_lt x.b.isLt)
theorem ximm_xWord : ximm (xWord op x) = x.imm.toNat :=
  (fld_pack (i := 0) rfl rfl (by simp)).trans (Nat.mod_eq_of_lt x.imm.isLt)

end

section
variable (y : YOps) {op : Nat}

theorem opOf_yWord (hop : op < 64) : opOf (yWord op y) = op :=
  (fld_pack (i := 5) rfl rfl (by simp)).trans (Nat.mod_eq_of_lt hop)
theorem yr_yWord : yr (yWord op y) = y.r.toNat :=
  (fld_pack (i := 4) rfl rfl (by simp)).trans (Nat.mod_eq_of_lt y.r.isLt)
theorem yp_yWord : yp (yWord op y) = y.p.toNat :=
  (fld_pack (i := 3) rfl rfl (by simp)).trans (Nat.mod_eq_of_lt y.p.isLt)
theorem ypm_yWord : ypm (yWord op y) = y.pm := by
  have hfield : fld (yWord op y) 22 1 = b2n y.pm :=
    (fld_pack (i := 2) rfl rfl (by simp)).trans (Nat.mod_eq_of_lt (b2n_lt y.pm))
  rw [ypm, bit_eq_fld, hfield]
  cases y.pm <;> rfl
theorem ys_yWord : ys (yWord op y) = y.s.toNat :=
  (fld_pack (i := 1) rfl rfl (by simp)).trans (Nat.mod_eq_of_lt y.s.isLt)
theorem yimm_yWord : yimm (yWord op y) = y.imm.toNat :=
  (fld_pack (i := 0) rfl rfl (by simp)).trans (Nat.mod_eq_of_lt y.imm.isLt)

end

@[simp] theorem xSlot_bundleOf (x y : BitVec 36) : xSlot (bundleOf x y) = x :=
  BitVec.eq_of_toNat_eq ((toNat_fbv ..).trans
    ((fld_pack (i := 0) rfl rfl (by simp)).trans (Nat.mod_eq_of_lt x.isLt)))

@[simp] theorem ySlot_bundleOf (x y : BitVec 36) : ySlot (bundleOf x y) = y :=
  BitVec.eq_of_toNat_eq ((toNat_fbv ..).trans
    ((fld_pack (i := 1) rfl rfl (by simp)).trans (Nat.mod_eq_of_lt y.isLt)))

/-- Settles O38: each field is one of the packed values (`fld_pack`), and fits its width. -/
theorem slotFieldsReadBack : Obligations.SlotFieldsReadBack := by
  unfold Obligations.SlotFieldsReadBack
  refine ⟨fun op x hop => ?_, fun op y hop => ?_, fun x y => ⟨xSlot_bundleOf x y, ySlot_bundleOf x y⟩⟩
  · exact ⟨opOf_xWord x hop, xd_xWord x, xa_xWord x, xb_xWord x, ximm_xWord x⟩
  · exact ⟨opOf_yWord y hop, yr_yWord y, yp_yWord y, ypm_yWord y, ys_yWord y, yimm_yWord y⟩

/-- A bundle that may issue completes (R205, R214, R225). -/
theorem issue_of_mayIssue {s : State} {e : Nat} {x y : BitVec 36} (h : MayIssue s e x y) :
    issue e (bundleOf x y) s = ok (completeBundle (endStall s e) e x y) := by
  obtain ⟨hruns, hprogram, hcauses, hwaits⟩ := h
  obtain ⟨hfree, hready⟩ := Bool.or_eq_false_iff.mp hwaits
  have hguard : ((s.eng e).runs && Tab.get 0 (s.eng e).imem (s.eng e).pc.toNat == bundleOf x y) = true := by
    rw [hruns, hprogram, beq_self_eq_true]
    rfl
  rw [issue, if_pos hguard]
  simp [issueBundle, hcauses, hfree, hready, lowest]

/-- The row of an X instruction issues the bundle that holds it. -/
theorem exec_of_xInstr {op : Nat} {i : BitVec 9 → XOps → BitVec 36 → Instr} (h : XInstr op i) (e : BitVec 9)
    (x : XOps) (o : BitVec 36) (s : State) :
    exec (i e x o) s = issue e.toNat (bundleOf (xWord op x) o) s := by
  simp only [XInstr, List.mem_cons, Prod.mk.injEq, List.not_mem_nil, or_false] at h
  casesm* _ ∨ _ <;> (obtain ⟨rfl, rfl⟩ := ‹_ ∧ _›; rfl)

theorem exec_of_yInstr {op : Nat} {i : BitVec 9 → YOps → BitVec 36 → Instr} (h : YInstr op i) (e : BitVec 9)
    (y : YOps) (o : BitVec 36) (s : State) :
    exec (i e y o) s = issue e.toNat (bundleOf o (yWord op y)) s := by
  simp only [YInstr, List.mem_cons, Prod.mk.injEq, List.not_mem_nil, or_false] at h
  casesm* _ ∨ _ <;> (obtain ⟨rfl, rfl⟩ := ‹_ ∧ _›; rfl)

/-- The NOP row issues a bundle with a NOP in one slot. -/
theorem exec_iNop {e : BitVec 9} {x y : BitVec 36} (h : x = 0 ∨ y = 0) (s : State) :
    exec (.iNop e (bundleOf x y)) s = issue e.toNat (bundleOf x y) s := by
  have hnop : opOf x = 0 ∨ opOf y = 0 := h.imp (fun h => by rw [h]; rfl) (fun h => by rw [h]; rfl)
  change execINop e (bundleOf x y) s = _
  rcases hnop with hnop | hnop <;> simp [execINop, hnop]

/-- Settles O31: an X row, and a NOP row, issues its bundle, which completes (`issue_of_mayIssue`). -/
theorem xSlotInstructionsComplete : Obligations.XSlotInstructionsComplete := by
  unfold Obligations.XSlotInstructionsComplete
  refine ⟨fun op i hi e x o s h => ?_, fun e o s h => ?_, fun e o s h => ?_⟩
  · exact (exec_of_xInstr hi e x o s).trans (issue_of_mayIssue h)
  · exact (exec_iNop (.inr rfl) s).trans (issue_of_mayIssue h)
  · exact (exec_iNop (.inl rfl) s).trans (issue_of_mayIssue h)

/-- Settles O32: a Y row issues its bundle, which completes (`issue_of_mayIssue`). -/
theorem ySlotInstructionsComplete : Obligations.YSlotInstructionsComplete := by
  unfold Obligations.YSlotInstructionsComplete
  intro op i hi e y o s h
  exact (exec_of_yInstr hi e y o s).trans (issue_of_mayIssue h)

/-- Settles O39: the inner loop's end is tested before the outer one's, and only its last pass reaches the outer
test. -/
theorem innerLoopFirst : Obligations.InnerLoopFirst := by
  unfold Obligations.InnerLoopFirst
  intro E b c0 c1 hmain hlc
  have hpos : ∀ {c : BitVec 18}, 1 < c.toNat → c ≠ 0#18 ∧ c - 1#18 ≠ 0#18 := fun h => by
    constructor <;> bv_omega
  simp only [List.getD_eq_getElem?_getD, BitVec.ofNat_eq_ofNat]
  refine ⟨fun hb hc => ?_, fun hb1 hb0 hc1 hc0 => ?_, fun hb hc1 hc0 => ?_, fun h0 h1 => ?_⟩
  · simp [loopTest, hmain, hlc, ← hb, hpos hc]
  · simp [loopTest, hmain, hlc, ← hb1, ← hb0, hc1, hpos hc0]
  · simp [loopTest, hmain, hlc, ← hb, hc1, hc0]
  · simp [loopTest, hmain, hlc, h0, h1]

end Sys2Proof.Machine
end

section
/-! What a bundle writes of its engine: exceptions (R225, R226), the X slot beside a NOP (R211), TRAP and RETE
(R227). -/
namespace Sys2Proof.Machine

/-- What the slots of a bundle write of an engine: its registers, flags and loop counters, its local memory and inputs,
and its ring and bundle counts. -/
def Engine.results (E : Engine) : List (BitVec 18) × List (BitVec 48) × List (BitVec 20) × BitVec 18 ×
    List (BitVec 18) × Tab (BitVec 18) × Tab Stream × BitVec 48 × BitVec 48 :=
  (E.g, E.a, E.p, E.flags, E.lc, E.dmem, E.streams, E.outWr, E.bundles)

/-- `t` holds what `s` holds of everything that the slots of a bundle of engine `e` can write. -/
structure SameResults (s t : State) (e : Nat) : Prop where
  eng : (t.eng e).results = (s.eng e).results
  others : ∀ f, f ≠ e → t.eng f = s.eng f
  clusters : t.clusters = s.clusters
  ports : t.ports = s.ports
  mem : t.mem = s.mem

theorem SameResults.refl (s : State) (e : Nat) : SameResults s s e := ⟨rfl, fun _ _ => rfl, rfl, rfl, rfl⟩

theorem SameResults.trans {s t u : State} {e : Nat} (h : SameResults s t e) (k : SameResults t u e) :
    SameResults s u e :=
  ⟨k.eng.trans h.eng, fun f hf => (k.others f hf).trans (h.others f hf), k.clusters.trans h.clusters,
    k.ports.trans h.ports, k.mem.trans h.mem⟩

theorem SameResults.setEng {s : State} {e : Nat} {E : Engine} (h : E.results = (s.eng e).results) :
    SameResults s (s.setEng e E) e :=
  ⟨by simp [h], fun f hf => by simp [hf], rfl, rfl, rfl⟩

theorem SameResults.modEng {s : State} {e : Nat} {f : Engine → Engine}
    (h : (f (s.eng e)).results = (s.eng e).results) : SameResults s (s.modEng e f) e :=
  SameResults.setEng h

theorem SameResults.evPart (s : State) (k code detail result e : Nat) :
    SameResults s (evPart s k code detail result) e :=
  ⟨by simp, by simp, by simp, by simp, by simp⟩

theorem SameResults.haltEng (s : State) (e ecause : Nat) : SameResults s (haltEng s e ecause) e := by
  have hhalt : SameResults s (s.modEng e fun E => { E with
      st := .halted, branch := none, stalls := E.stallsAt s.time.slotCount, stall := none }) e := .modEng rfl
  unfold Machine.haltEng
  dsimp only
  split
  · exact hhalt.trans (.evPart ..)
  · exact hhalt

theorem SameResults.takeExc (s : State) (e : Nat) (c : Cause) (epc : BitVec 13) :
    SameResults s (takeExc s e c epc) e := by
  have hfresh : SameResults s s.fresh.2 e := ⟨rfl, fun _ _ => rfl, rfl, rfl, rfl⟩
  unfold Machine.takeExc
  dsimp only
  split
  · exact .trans (t := s.setEng e { s.eng e with statCause := 0x1F }) (.setEng rfl) (.haltEng ..)
  · split
    · exact hfresh.trans (.setEng rfl)
    · refine .trans ?_ (.haltEng ..)
      exact hfresh.trans (.setEng rfl)

/-- A bundle that raises a cause other than TRAP waits, or enters its exception. -/
theorem issueBundle_of_cause {s : State} {e : Nat} {x y : BitVec 36} {c : Cause}
    (hc : lowest (bundleCauses (s.eng e) e x y) = some c) (htrap : c.code ≠ 8) :
    SameResults s (issueBundle s e (bundleOf x y)) e := by
  unfold issueBundle
  dsimp only
  rw [xSlot_bundleOf, ySlot_bundleOf, hc]
  split
  · split
    · exact .refl s e
    · exact .modEng rfl
  · simp only [if_neg htrap]
    exact (SameResults.modEng rfl).trans (.takeExc ..)

/-- Settles O35: such a bundle waits or enters its exception (`issueBundle_of_cause`), and neither writes a result. -/
theorem exceptionLeavesNoEffect : Obligations.ExceptionLeavesNoEffect := by
  unfold Obligations.ExceptionLeavesNoEffect
  intro s e x y c hc htrap
  obtain ⟨heng, hothers, hclusters, hports, hmem⟩ := issueBundle_of_cause hc htrap
  simp only [Engine.results, Prod.mk.injEq] at heng
  obtain ⟨hg, ha, hp, hflags, hlc, hdmem, hstreams, houtWr, hbundles⟩ := heng
  exact ⟨hg, ha, hp, hflags, hlc, hdmem, hstreams, houtWr, hbundles, hclusters, hports, hmem, hothers⟩

theorem shadowStep_eq (E : Engine) (fresh : Bool) :
    ∃ m pend n, shadowStep E fresh = { E with mode := m, modePend := pend, shadow := n } := by
  unfold shadowStep
  split
  · exact ⟨_, _, _, rfl⟩
  · split
    · exact ⟨_, _, _, rfl⟩
    · split <;> exact ⟨_, _, _, rfl⟩

theorem loopTest_eq (E : Engine) (b : BitVec 13) : ∃ pc lc, loopTest E b = { E with pc := pc, lc := lc } := by
  unfold loopTest
  dsimp only
  repeat' split
  all_goals exact ⟨_, _, rfl⟩

/-- Beside a Y slot that does not return, a bundle moves on by its branch, its loops or one bundle. -/
theorem nextPc_eq (E E0 : Engine) {w : BitVec 36} (hreturn : opOf w ≠ 0x1C) :
    ∃ br pc lc, nextPc E E0 w = { E with branch := br, pc := pc, lc := lc } := by
  unfold nextPc
  simp only [if_neg hreturn]
  split
  · exact ⟨_, _, _, rfl⟩
  · split
    · exact ⟨_, _, _, rfl⟩
    · split
      · exact ⟨_, _, _, rfl⟩
      · obtain ⟨pc, lc, hloop⟩ := loopTest_eq { E with branch := newBranch E0 w } E0.pc
        exact ⟨_, pc, lc, hloop⟩

/-- An X slot writes no other general register and no other accumulator than its destination. -/
theorem xEval_dest (E : Engine) (m : BitVec 18) (w : BitVec 36) :
    (∀ r, (xEval E m w).g = some r → r.1 = xd w) ∧ (∀ r, (xEval E m w).acc = some r → r.1 = xd w) := by
  unfold xEval
  dsimp only
  split <;> simp [fitG, bitG, countG, fitA, shiftG, compareX, divX, remX]
  · split <;> simp
  · split <;> simp

theorem XOut.write_gr (x : XOut) (E : Engine) {k d : Nat} (hdest : ∀ r, x.g = some r → r.1 = d) (hk : k ≠ d) :
    (x.write E).gr k = E.gr k := by
  unfold XOut.write Engine.gr
  cases hg : x.g with
  | none => cases x.acc <;> rfl
  | some r =>
    have : r.1 ≠ k := fun h => hk (h ▸ hdest r hg)
    cases x.acc <;> simp [Engine.setG, this]

theorem XOut.write_ac (x : XOut) (E : Engine) {k d : Nat} (hdest : ∀ r, x.acc = some r → r.1 = d) (hk : k ≠ d) :
    (x.write E).ac k = E.ac k := by
  unfold XOut.write Engine.ac
  cases ha : x.acc with
  | none => cases x.g <;> rfl
  | some r =>
    have : r.1 ≠ k := fun h => hk (h ▸ hdest r ha)
    cases x.g <;> simp [Engine.setG, this]

/-- Apart from general registers, accumulators and flags an X slot writes nothing. -/
theorem XOut.write_eq (x : XOut) (E : Engine) :
    x.write E = { E with g := (x.write E).g, a := (x.write E).a, flags := (x.write E).flags } := by
  unfold XOut.write
  cases x.g <;> cases x.acc <;> rfl

/-- A Y slot whose effect lies in the completion alone: NOP, B, JR, FENCE, TRAP, RETE, HALT. -/
theorem yEffect_of_none {s : State} {e : Nat} {E0 : Engine} {w : BitVec 36}
    (h : opOf w = 0 ∨ opOf w = 0x1B ∨ opOf w = 0x1C) : yEffect s e E0 w = s := by
  unfold yEffect
  rcases h with h | h | h <;> simp [h]

/-- The engine after a bundle whose Y slot has its effect in the completion alone. -/
theorem completeBundle_eng {s : State} {e : Nat} {x y : BitVec 36}
    (h : opOf y = 0 ∨ opOf y = 0x1B ∨ opOf y = 0x1C) :
    completeBundle s e x y = (s.setEng e ((xEval (s.eng e) (s.eng e).mode x).write (s.eng e))).modEng e fun E =>
      let E2 := shadowStep E false
      setInterlocks (s.eng e) e s.time.slotCount x y
        (nextPc { E2 with bundles := satInc E2.bundles, stall := none } (s.eng e) y) := by
  have hmtc : (opOf y == 0x19) = false := by rcases h with h | h | h <;> simp [h]
  have hhalt : opOf y ≠ 0x1D := by rcases h with h | h | h <;> simp [h]
  unfold completeBundle
  dsimp only
  rw [yEffect_of_none h, if_neg hhalt, hmtc]
  rfl

/-- Beside a NOP an X slot's results stay, and the completion writes the place of execution, the loop counters, the
mode and the interlocks of its engine alone. -/
theorem completeBundle_nop_eng (s : State) (e : Nat) (x : BitVec 36) :
    ∃ m pend n lc br pc bundles last ready busy, (completeBundle s e x 0).eng e =
      { (xEval (s.eng e) (s.eng e).mode x).write (s.eng e) with
        mode := m, modePend := pend, shadow := n, lc := lc, branch := br, pc := pc, bundles := bundles, stall := none
        lastIssue := last, ready := ready, busyTo := busy } := by
  rw [completeBundle_eng (.inl rfl)]
  simp only [State.eng_modEng, State.eng_setEng, if_true]
  generalize (xEval (s.eng e) (s.eng e).mode x).write (s.eng e) = E
  obtain ⟨m, pend, n, hshadow⟩ := shadowStep_eq E false
  rw [hshadow]
  generalize satInc _ = bundles
  obtain ⟨br, pc, lc, hnext⟩ := nextPc_eq { E with
    mode := m, modePend := pend, shadow := n, bundles := bundles, stall := none } (s.eng e) (w := 0) (by decide)
  rw [hnext]
  exact ⟨m, pend, n, lc, br, pc, bundles, _, _, _, rfl⟩

theorem completeBundle_nop_rest (s : State) (e : Nat) (x : BitVec 36) :
    (completeBundle s e x 0).clusters = s.clusters ∧ (completeBundle s e x 0).ports = s.ports ∧
    (completeBundle s e x 0).mem = s.mem ∧ ∀ f, f ≠ e → (completeBundle s e x 0).eng f = s.eng f := by
  rw [completeBundle_eng (.inl rfl)]
  exact ⟨rfl, rfl, rfl, fun f hf => by simp [hf]⟩

/-- Settles O36: the X slot writes its destination and the flags (`xEval_dest`), and the completion nothing else that
the statement names (`completeBundle_nop_eng`). -/
theorem xSlotFrame : Obligations.XSlotFrame := by
  unfold Obligations.XSlotFrame
  intro op i hi e x s t hissue hexec
  rw [exec_of_xInstr hi, issue_of_mayIssue hissue] at hexec
  obtain rfl := Host.Outcome.next.inj hexec
  have hsettled : ∀ (u : State) f, (settle u).eng f = u.eng f := fun u f => State.eng_congr (by simp) f
  simp only [hsettled, settle_rest]
  obtain ⟨hclusters, hports, hmem, hothers⟩ := completeBundle_nop_rest (endStall s e.toNat) e.toNat (xWord op x)
  obtain ⟨m, pend, n, lc, br, pc, bundles, last, ready, busy, heng⟩ :=
    completeBundle_nop_eng (endStall s e.toNat) e.toNat (xWord op x)
  have hstall : (endStall s e.toNat).eng e.toNat = { s.eng e.toNat with
      stall := none, stalls := (s.eng e.toNat).stallsAt s.time.slotCount } := by simp [endStall]
  rw [heng, hstall]
  generalize hE0 : ({ s.eng e.toNat with stall := none, stalls := _ } : Engine) = E0
  obtain ⟨hg, ha⟩ := xEval_dest E0 E0.mode (xWord op x)
  rw [xd_xWord] at hg ha
  refine ⟨fun k _ hk => (XOut.write_gr _ E0 hg hk).trans (by rw [← hE0]; rfl),
    fun k _ hk => (XOut.write_ac _ E0 ha hk).trans (by rw [← hE0]; rfl), ?_⟩
  rw [XOut.write_eq, ← hE0]
  refine ⟨rfl, rfl, rfl, rfl, rfl, rfl, rfl, rfl, rfl, fun f hf => ?_, hclusters, hports, hmem⟩
  exact (hothers f hf).trans (by simp [endStall, hf])

theorem xEval_zero (E : Engine) (m : BitVec 18) : xEval E m 0 = {} := rfl

theorem write_xEval_zero (E : Engine) (m : BitVec 18) : (xEval E m 0).write E = E := rfl

theorem slotsConflict_zero {w : BitVec 36} : slotsConflict 0 w = false := by
  have hdest : xDest 0 = [] := by decide
  have hflags : xFlags 0 = false := by decide
  rw [slotsConflict, hdest, hflags]
  rfl

theorem shadowStep_of_none {E : Engine} {fresh : Bool} (h : E.modePend = none) : shadowStep E fresh = E := by
  rw [shadowStep, h]

/-- TRAP beside a NOP, away from a delay bundle and from a loop's end, raises its own cause alone. -/
theorem bundleCauses_trap {E : Engine} {e : Nat} {w : BitVec 36} (hop : opOf w = 0x1B) (hok : yOk w = true)
    (hbranch : E.branch = none) (htail : loopTail E E.pc.toNat = false) :
    bundleCauses E e 0 w = [⟨8, true, 0⟩] := by
  have hx : xOk 0 = true := by decide
  rw [bundleCauses, hx, hok, slotsConflict_zero, xEval_zero]
  simp [XOut.cause, yCauses, hop, hbranch, htail]

theorem issueBundle_trap {s : State} {e : Nat} {w : BitVec 36} (hop : opOf w = 0x1B) (hok : yOk w = true)
    (hbranch : (s.eng e).branch = none) (htail : loopTail (s.eng e) (s.eng e).pc.toNat = false)
    (hfree : interlocked (s.eng e) s.time.slotCount 0 w = false) :
    issueBundle s e (bundleOf 0 w) = takeExc ((completeBundle (endStall s e) e 0 w).modEng e fun T =>
      { T with pc := (s.eng e).pc }) e ⟨8, true, 0⟩ ((s.eng e).pc + 1) := by
  rw [issueBundle, xSlot_bundleOf, ySlot_bundleOf, bundleCauses_trap hop hok hbranch htail, hfree]
  rfl

/-- The engine after entry to an exception from which execution continues at tvec (R226). -/
theorem takeExc_eng {s : State} {e : Nat} {c : Cause} {epc : BitVec 13} (hin : (s.eng e).inHandler = false)
    (ht : (s.eng e).tvecEn = true) :
    (takeExc s e c epc).eng e = { saveExc (s.eng e) c epc s.fresh.1 with
      inHandler := true, mode := 0, modePend := none, shadow := 0, branch := none, stall := none
      lastIssue := some s.time.slotCount, busyTo := dclks s.time.slotCount 3
      st := .handler, pc := BitVec.ofNat 13 (s.eng e).tvec } := by
  simp [takeExc, hin, ht]

/-- Outside a mode shadow, TRAP beside a NOP moves an engine's loop counters, its interlocks and its place of
execution alone. -/
theorem completeBundle_trap_eng {s : State} {e : Nat} {w : BitVec 36} (hop : opOf w = 0x1B)
    (hpend : (s.eng e).modePend = none) :
    ∃ br lc pc bundles last ready busy, (completeBundle s e 0 w).eng e = { s.eng e with
      branch := br, lc := lc, pc := pc, bundles := bundles, stall := none
      lastIssue := last, ready := ready, busyTo := busy } := by
  rw [completeBundle_eng (.inr (.inl hop))]
  simp only [State.eng_modEng, State.eng_setEng, if_true, write_xEval_zero]
  rw [shadowStep_of_none hpend]
  generalize satInc _ = bundles
  obtain ⟨br, pc, lc, hnext⟩ := nextPc_eq { s.eng e with bundles := bundles, stall := none } (s.eng e) (w := w)
    (by rw [hop]; decide)
  rw [hnext]
  exact ⟨br, lc, pc, bundles, _, _, _, rfl⟩

theorem endStall_eng (s : State) (e : Nat) : (endStall s e).eng e = { s.eng e with
    stall := none, stalls := (s.eng e).stallsAt s.time.slotCount } := by simp [endStall]

theorem issue_of_program {s : State} {e : Nat} {bundle : BitVec 72} (hruns : (s.eng e).runs = true)
    (hprogram : Tab.get 0 (s.eng e).imem (s.eng e).pc.toNat = bundle) :
    issue e bundle s = ok (issueBundle s e bundle) :=
  if_pos (by rw [hruns, hprogram, beq_self_eq_true]; rfl)

theorem exec_iTrap (e : BitVec 9) (y : YOps) (o : BitVec 36) (s : State) :
    exec (.iTrap e y o) s = issue e.toNat (bundleOf o (yWord 0x1B y)) s := rfl

theorem exec_iRete (e : BitVec 9) (y : YOps) (o : BitVec 36) (s : State) :
    exec (.iRete e y o) s = issue e.toNat (bundleOf o (yWord 0x1C y)) s := rfl

theorem nextPc_rete {E E0 : Engine} {w : BitVec 36} (hop : opOf w = 0x1C) (hbranch : E0.branch = none) :
    nextPc E E0 w = returnExc { E with branch := newBranch E0 w } := by
  simp [nextPc, hop, hbranch]

/-- The engine after RETE beside a NOP, outside a delay bundle (R227). -/
theorem completeBundle_rete_eng {s : State} {e : Nat} {w : BitVec 36} (hop : opOf w = 0x1C)
    (hbranch : (s.eng e).branch = none) : ∃ E : Engine, E.epc = (s.eng e).epc ∧ E.emode = (s.eng e).emode ∧
      E.estat = (s.eng e).estat ∧ E.epend = (s.eng e).epend ∧ E.etgt = (s.eng e).etgt ∧
      (completeBundle s e 0 w).eng e = setInterlocks (s.eng e) e s.time.slotCount 0 w (returnExc E) := by
  rw [completeBundle_eng (.inr (.inr hop))]
  simp only [State.eng_modEng, State.eng_setEng, if_true, write_xEval_zero]
  obtain ⟨m, pend, n, hshadow⟩ := shadowStep_eq (s.eng e) false
  rw [hshadow, nextPc_rete hop hbranch]
  refine ⟨_, ?_, ?_, ?_, ?_, ?_, rfl⟩ <;> rfl

/-- Settles O34: TRAP raises its own cause (`issueBundle_trap`) and enters the handler (`takeExc_eng`); RETE completes
(`issue_of_mayIssue`) by `returnExc`. -/
theorem trapAndReturn : Obligations.TrapAndReturn := by
  unfold Obligations.TrapAndReturn
  have hsettled : ∀ (u : State) f, (settle u).eng f = u.eng f := fun u f => State.eng_congr (by simp) f
  constructor
  · intro e y s n w hruns hprogram hok hbranch htail hin ht hpend hfree
    have hop : opOf w = 0x1B := opOf_yWord y (by decide)
    obtain ⟨br, lc, pc, bundles, last, ready, busy, heng⟩ :=
      completeBundle_trap_eng (s := endStall s n) (e := n) hop (by simpa [endStall] using hpend)
    refine ⟨_, (exec_iTrap ..).trans (issue_of_program hruns hprogram), ?_⟩
    rw [issueBundle_trap hop hok hbranch htail hfree]
    simp only [hsettled]
    generalize completeBundle (endStall s n) n 0 w = C at heng
    rw [endStall_eng] at heng
    rw [takeExc_eng (by simp [heng, hin]) (by simpa [heng, Engine.tvecEn] using ht), State.eng_modEng, if_pos rfl, heng]
    exact ⟨rfl, rfl, rfl, rfl, rfl, rfl, rfl, rfl, rfl, rfl, rfl⟩
  · intro e y s n hissue hbranch
    have hop : opOf (yWord 0x1C y) = 0x1C := opOf_yWord y (by decide)
    refine ⟨_, (exec_iRete ..).trans (issue_of_mayIssue hissue), ?_⟩
    obtain ⟨E, hepc, hemode, hestat, hepend, hetgt, heng⟩ :=
      completeBundle_rete_eng (s := endStall s n) (e := n) hop (by rw [endStall_eng]; exact hbranch)
    simp only [hsettled]
    rw [endStall_eng] at hepc hemode hestat hepend hetgt
    rw [heng, ← hepc, ← hemode, ← hestat, ← hepend, ← hetgt]
    exact ⟨rfl, rfl, rfl, rfl, rfl, rfl, rfl⟩

end Sys2Proof.Machine
end

section
/-! Arithmetic of the X slot at its edges: `fit`, `scale` and the results of R213 (R212, R213). -/
namespace Sys2Proof.Machine

theorem two_pow_pred {n : Nat} (hn : 1 ≤ n) : (2 : Int) ^ n = 2 * 2 ^ (n - 1) := by
  obtain ⟨k, rfl⟩ := Nat.exists_eq_add_of_le' hn
  rw [Nat.add_sub_cancel, pow_succ, mul_comm]

theorem fit_in_range {m : BitVec 18} {n : Nat} {v : Int} (hn : 1 ≤ n) :
    -2 ^ (n - 1) ≤ (fit m n v).1 ∧ (fit m n v).1 ≤ 2 ^ (n - 1) - 1 := by
  have hpos : (0 : Int) < 2 ^ (n - 1) := by positivity
  unfold fit
  rw [two_pow_pred hn]
  generalize (2 : Int) ^ (n - 1) = h at *
  have hnonneg := Int.emod_nonneg (v - -h) (b := 2 * h) (by omega)
  have hlt := Int.emod_lt_of_pos (v - -h) (b := 2 * h) (by omega)
  dsimp only
  split
  · assumption
  · split
    · split <;> constructor <;> dsimp only <;> omega
    · constructor <;> dsimp only <;> omega

theorem fit_overflows_iff {m : BitVec 18} {n : Nat} {v : Int} :
    (fit m n v).2 = true ↔ v < -2 ^ (n - 1) ∨ 2 ^ (n - 1) - 1 < v := by
  unfold fit
  dsimp only
  split
  · simp only [Bool.false_eq_true, false_iff]
    omega
  · have hout : v < -2 ^ (n - 1) ∨ 2 ^ (n - 1) - 1 < v := by omega
    split <;> exact iff_of_true rfl hout

theorem fit_of_in_range {m : BitVec 18} {n : Nat} {v : Int} (hlo : -2 ^ (n - 1) ≤ v) (hhi : v ≤ 2 ^ (n - 1) - 1) :
    (fit m n v).1 = v := by
  simp only [fit, if_pos (And.intro hlo hhi)]

theorem fit_saturates_above {m : BitVec 18} {n : Nat} {v : Int} (hsat : modeSat m = true) (h : 2 ^ (n - 1) - 1 < v) :
    (fit m n v).1 = 2 ^ (n - 1) - 1 := by
  have hpos : (0 : Int) < 2 ^ (n - 1) := by positivity
  have hout : ¬ (-2 ^ (n - 1) ≤ v ∧ v ≤ 2 ^ (n - 1) - 1) := by omega
  simp only [fit, if_neg hout, hsat, if_true]
  exact if_pos (by omega)

theorem fit_saturates_below {m : BitVec 18} {n : Nat} {v : Int} (hsat : modeSat m = true) (h : v < -2 ^ (n - 1)) :
    (fit m n v).1 = -2 ^ (n - 1) := by
  have hpos : (0 : Int) < 2 ^ (n - 1) := by positivity
  have hout : ¬ (-2 ^ (n - 1) ≤ v ∧ v ≤ 2 ^ (n - 1) - 1) := by omega
  simp only [fit, if_neg hout, hsat, if_true]
  exact if_neg (by omega)

theorem fit_wraps {m : BitVec 18} {n : Nat} {v : Int} (hsat : modeSat m = false) :
    (2 : Int) ^ n ∣ (fit m n v).1 - v := by
  unfold fit
  dsimp only
  split
  · simp
  · rw [hsat, if_neg (by decide)]
    have hmod := Int.emod_add_mul_ediv (v - -2 ^ (n - 1)) (2 ^ n)
    exact ⟨-((v - -2 ^ (n - 1)) / 2 ^ n), by linear_combination hmod⟩

/-- A value is its quotient and remainder by a power of two. -/
theorem fdiv_fmod_two_pow (v : Int) (k : Nat) :
    v.fdiv (2 ^ k) * 2 ^ k + v.fmod (2 ^ k) = v ∧ 0 ≤ v.fmod (2 ^ k) ∧ v.fmod (2 ^ k) < 2 ^ k :=
  ⟨by rw [mul_comm]; exact Int.mul_fdiv_add_fmod v _, Int.fmod_nonneg_of_pos _ (by positivity),
    Int.fmod_lt_of_pos _ (by positivity)⟩

/-- `scale` gives the quotient, or one more where the rounding mode takes the remainder up. -/
theorem scale_cases (m : BitVec 18) (v : Int) (k : Nat) :
    (scale m v k = v.fdiv (2 ^ k) ∧
      (modeRnd m = 1 → 2 * v.fmod (2 ^ k) < 2 ^ k ∨ 2 * v.fmod (2 ^ k) = 2 ^ k ∧ v ≤ 0) ∧
      (modeRnd m = 2 → 2 * v.fmod (2 ^ k) < 2 ^ k ∨ 2 * v.fmod (2 ^ k) = 2 ^ k ∧ scale m v k % 2 = 0)) ∨
    (scale m v k = v.fdiv (2 ^ k) + 1 ∧ modeRnd m ≠ 0 ∧
      (modeRnd m = 1 → 2 ^ k < 2 * v.fmod (2 ^ k) ∨ 2 * v.fmod (2 ^ k) = 2 ^ k ∧ 0 < v) ∧
      (modeRnd m = 2 → 2 ^ k < 2 * v.fmod (2 ^ k) ∨ 2 * v.fmod (2 ^ k) = 2 ^ k ∧ scale m v k % 2 = 0)) := by
  unfold scale
  dsimp only
  split <;> rename_i hmode
  · rw [hmode]
    split
    · exact .inr ⟨rfl, by decide, by omega, by omega⟩
    · exact .inl ⟨rfl, by omega, by omega⟩
  · rw [hmode]
    split
    · exact .inr ⟨rfl, by decide, by omega, by omega⟩
    · exact .inl ⟨rfl, by omega, by omega⟩
  · exact .inl ⟨rfl, fun h => absurd h ‹_›, fun h => absurd h ‹_›⟩

theorem bit_setBit {f : BitVec 18} {i j : Nat} {b : Option Bool} (hj : j < 18) :
    bit (setBit f i b) j = if j = i then b.getD (bit f j) else bit f j := by
  cases b with
  | none => simp [setBit]
  | some b =>
    rw [setBit, bit_put]
    by_cases h : j = i
    · subst h
      cases b <;> simp [hj, b2n]
    · simp [h, hj]
      omega

/-- The flags after an X slot, bit by bit. -/
theorem FlagSet.bit_apply (x : FlagSet) (f : BitVec 18) :
    bit (x.apply f) 2 = x.c.getD (bit f 2) ∧ bit (x.apply f) 3 = x.v.getD (bit f 3) ∧
    bit (x.apply f) 4 = (x.v == some true || bit f 4) ∧ bit (x.apply f) 5 = (x.dz || bit f 5) ∧
    bit (x.apply f) 6 = (x.av || bit f 6) := by
  unfold FlagSet.apply
  dsimp only
  generalize hf1 : setBit (setBit (setBit (setBit f 0 x.z) 1 x.n) 2 x.c) 3 x.v = f1
  have hbits : bit f1 2 = x.c.getD (bit f 2) ∧ bit f1 3 = x.v.getD (bit f 3) ∧ bit f1 4 = bit f 4 ∧
      bit f1 5 = bit f 5 ∧ bit f1 6 = bit f 6 := by
    subst hf1
    simp [bit_setBit (j := 2), bit_setBit (j := 3), bit_setBit (j := 4), bit_setBit (j := 5),
      bit_setBit (j := 6)]
  obtain ⟨h2, h3, h4, h5, h6⟩ := hbits
  rw [← h2, ← h3, ← h4, ← h5, ← h6]
  cases x.v == some true <;> cases x.dz <;> cases x.av <;> simp [bit_put]

/-- 2^17 does not fit: the result is the greatest value, or wraps to the least, with V and SV. -/
theorem fitG_top (m : BitVec 18) (d : Nat) (f : BitVec 18) :
    (fitG m d 131072).g.map (·.2) = some (if modeSat m then (0o377777 : BitVec 18) else 0o400000) ∧
    bit ((fitG m d 131072).fs.apply f) 3 = true ∧ bit ((fitG m d 131072).fs.apply f) 4 = true := by
  have hfit : fit m 18 131072 = (if modeSat m then 131071 else -131072, true) := by
    cases h : modeSat m <;> simp [fit, h]
  obtain ⟨-, hv, hsv, -, -⟩ := FlagSet.bit_apply (fitG m d 131072).fs f
  have hover : (fitG m d 131072).fs.v = some true := by simp [fitG, hfit]
  refine ⟨?_, by rw [hv, hover]; rfl, by rw [hsv, hover]; rfl⟩
  simp only [fitG, hfit]
  cases modeSat m <;> rfl

theorem divX_zero (m : BitVec 18) (d : Nat) (a : Int) (f : BitVec 18) :
    (divX m d a (0 : BitVec 18).toInt).g.map (·.2) = some (if 0 ≤ a then 0o377777 else 0o400000) ∧
    bit ((divX m d a (0 : BitVec 18).toInt).fs.apply f) 5 = true := by
  have hzero : (0 : BitVec 18).toInt = 0 := by decide
  obtain ⟨-, -, -, hdz, -⟩ := FlagSet.bit_apply (divX m d a 0).fs f
  rw [hzero, hdz]
  unfold divX
  rw [if_pos rfl]
  refine ⟨?_, rfl⟩
  dsimp only
  split <;> rfl

theorem remX_zero (d : Nat) (a f : BitVec 18) :
    (remX d a.toInt (0 : BitVec 18).toInt).g.map (·.2) = some a ∧
    bit ((remX d a.toInt (0 : BitVec 18).toInt).fs.apply f) 5 = true := by
  have hzero : (0 : BitVec 18).toInt = 0 := by decide
  obtain ⟨-, -, -, hdz, -⟩ := FlagSet.bit_apply (remX d a.toInt 0).fs f
  rw [hzero, hdz]
  unfold remX
  rw [if_pos rfl]
  exact ⟨congrArg some (BitVec.ofInt_toInt ..), rfl⟩

/-- The remainder of the least value by -1 is 0, and only Z and N are written. -/
theorem remX_least (d : Nat) (f : BitVec 18) :
    (remX d (-131072) (-1)).g.map (·.2) = some 0 ∧
    (∀ i ∈ [2, 3, 4, 5, 6], bit ((remX d (-131072) (-1)).fs.apply f) i = bit f i) := by
  have hrem : remX d (-131072) (-1) = { g := some (d, 0), fs := znOf 0 } := rfl
  obtain ⟨hc, hv, hsv, hdz, hav⟩ := FlagSet.bit_apply (znOf 0) f
  rw [hrem]
  simp only [List.mem_cons, List.not_mem_nil, or_false, forall_eq_or_imp, forall_eq]
  exact ⟨rfl, hc, hv, hsv, hdz, hav⟩

/-- A product of least values is exact, whatever the rounding mode. -/
theorem scale_least_square (m : BitVec 18) : scale m (-131072 * -131072) 17 = 131072 := by
  unfold scale
  norm_num
  split <;> simp

theorem shiftG_flags {d k : Nat} {v f : BitVec 18} (hk : 18 ≤ k) : bit ((shiftG d k v).fs.apply f) 3 = false := by
  obtain ⟨-, hv, -⟩ := FlagSet.bit_apply (shiftG d k v).fs f
  rw [hv, shiftG, if_neg (by omega)]
  rfl

theorem shiftBy_left_wide {a : BitVec 18} {k : Nat} (hk : 18 ≤ k) : shiftBy 0 a k = 0 :=
  BitVec.shiftLeft_eq_zero hk

theorem shiftBy_right_wide {a : BitVec 18} {k : Nat} (hk : 18 ≤ k) : shiftBy 2 a k = 0 :=
  BitVec.ushiftRight_eq_zero hk

theorem shiftBy_arith_wide {a : BitVec 18} {k : Nat} (hk : 18 ≤ k) :
    shiftBy 1 a k = if 0 ≤ a.toInt then 0 else 0o777777 := by
  have hlo : -131072 ≤ a.toInt := by simpa using BitVec.le_toInt a
  have hhi : a.toInt < 131072 := by simpa using BitVec.toInt_lt (x := a)
  have hpow : (131072 : Int) < 2 ^ k := lt_of_lt_of_le (b := 2 ^ 18) (by norm_num)
    (pow_le_pow_right₀ (by norm_num) hk)
  rw [shiftBy]
  split
  · rw [Int.fdiv_eq_ediv_of_nonneg _ (by omega), Int.ediv_eq_zero_of_lt ‹_› (by omega)]
    rfl
  · have hfloor : a.toInt.fdiv (2 ^ k) = -1 := by
      rw [Int.fdiv_eq_ediv_of_nonneg _ (by omega)]
      exact Int.ediv_eq_neg_one_of_neg_of_le (by omega) (by omega)
    rw [hfloor]
    rfl

theorem toInt_least : (0o400000 : BitVec 18).toInt = -131072 := by decide

theorem toInt_minus_one : (0o777777 : BitVec 18).toInt = -1 := by decide

section
variable (E : Engine) (m : BitVec 18) (x : XOps)

theorem xEval_neg : xEval E m (xWord 0x04 x) = fitG m x.d.toNat (-(E.gr x.a.toNat).toInt) := by
  simp [xEval, opOf_xWord, xd_xWord, xa_xWord]
theorem xEval_abs : xEval E m (xWord 0x05 x) = fitG m x.d.toNat (E.gr x.a.toNat).toInt.natAbs := by
  simp [xEval, opOf_xWord, xd_xWord, xa_xWord]
theorem xEval_shl : xEval E m (xWord 0x0E x) = shiftG x.d.toNat (fld (E.gr x.b.toNat) 0 6)
    (shiftBy 0 (E.gr x.a.toNat) (fld (E.gr x.b.toNat) 0 6)) := by
  simp [xEval, opOf_xWord, xd_xWord, xa_xWord, xb_xWord]
theorem xEval_asr : xEval E m (xWord 0x0F x) = shiftG x.d.toNat (fld (E.gr x.b.toNat) 0 6)
    (shiftBy 1 (E.gr x.a.toNat) (fld (E.gr x.b.toNat) 0 6)) := by
  simp [xEval, opOf_xWord, xd_xWord, xa_xWord, xb_xWord]
theorem xEval_shr : xEval E m (xWord 0x10 x) = shiftG x.d.toNat (fld (E.gr x.b.toNat) 0 6)
    (shiftBy 2 (E.gr x.a.toNat) (fld (E.gr x.b.toNat) 0 6)) := by
  simp [xEval, opOf_xWord, xd_xWord, xa_xWord, xb_xWord]
theorem xEval_mul : xEval E m (xWord 0x14 x) =
    fitG m x.d.toNat (scale m ((E.gr x.a.toNat).toInt * (E.gr x.b.toNat).toInt) 17) := by
  simp [xEval, opOf_xWord, xd_xWord, xa_xWord, xb_xWord]
theorem xEval_div : xEval E m (xWord 0x15 x) =
    divX m x.d.toNat (E.gr x.a.toNat).toInt (E.gr x.b.toNat).toInt := by
  simp [xEval, opOf_xWord, xd_xWord, xa_xWord, xb_xWord]
theorem xEval_rem : xEval E m (xWord 0x16 x) =
    remX x.d.toNat (E.gr x.a.toNat).toInt (E.gr x.b.toNat).toInt := by
  simp [xEval, opOf_xWord, xd_xWord, xa_xWord, xb_xWord]

end

theorem scale_bounds (m : BitVec 18) (v : Int) (k : Nat) :
    (modeRnd m = 0 → scale m v k * 2 ^ k ≤ v ∧ v < (scale m v k + 1) * 2 ^ k) ∧
    ((modeRnd m = 1 ∨ modeRnd m = 2) → 2 * (scale m v k * 2 ^ k - v) ≤ 2 ^ k ∧
      2 * (v - scale m v k * 2 ^ k) ≤ 2 ^ k) := by
  obtain ⟨hdiv, hnonneg, hlt⟩ := fdiv_fmod_two_pow v k
  obtain ⟨hscale, h1, h2⟩ | ⟨hscale, h0, h1, h2⟩ := scale_cases m v k
  · rw [hscale, add_mul, one_mul]
    exact ⟨by omega, by omega⟩
  · rw [hscale, add_mul, one_mul]
    exact ⟨fun h => absurd h h0, by omega⟩

theorem scale_ties (m : BitVec 18) (v : Int) (k : Nat) :
    (modeRnd m = 1 → 2 * (v - scale m v k * 2 ^ k) = 2 ^ k → v < 0) ∧
    (modeRnd m = 1 → 2 * (scale m v k * 2 ^ k - v) = 2 ^ k → 0 < v) ∧
    (modeRnd m = 2 → (2 * (v - scale m v k * 2 ^ k) = 2 ^ k ∨ 2 * (scale m v k * 2 ^ k - v) = 2 ^ k) → k ≠ 0 →
      scale m v k % 2 = 0) := by
  obtain ⟨hdiv, hnonneg, hlt⟩ := fdiv_fmod_two_pow v k
  have hzero : v = 0 → v.fmod (2 ^ k) = 0 := fun hv => by rw [hv, Int.zero_fmod]
  obtain ⟨hscale, h1, h2⟩ | ⟨hscale, h0, h1, h2⟩ := scale_cases m v k
  · rw [hscale] at h2 ⊢
    exact ⟨by omega, by omega, by omega⟩
  · rw [hscale] at h2
    rw [hscale, add_mul, one_mul]
    exact ⟨by omega, by omega, by omega⟩

/-- Settles O37: `fit` and `scale` by their cases, the edges by the equations of `xEval` and `fitG_top`. -/
theorem arithmeticResults : Obligations.ArithmeticResults := by
  unfold Obligations.ArithmeticResults
  refine ⟨fun m n v hn => ?_, fun m v k => ?_, fun E m x f => ?_⟩
  · exact ⟨(fit_in_range hn).1, (fit_in_range hn).2, fit_overflows_iff, fit_of_in_range, fit_saturates_above,
      fit_saturates_below, fit_wraps⟩
  · obtain ⟨hfloor, hnearest⟩ := scale_bounds m v k
    exact ⟨hfloor, hnearest, scale_ties m v k⟩
  · intro a b r g F top
    have hneg : r 0x04 = fitG m x.d.toNat (-a.toInt) := xEval_neg ..
    have habs : r 0x05 = fitG m x.d.toNat a.toInt.natAbs := xEval_abs ..
    have hmul : r 0x14 = fitG m x.d.toNat (scale m (a.toInt * b.toInt) 17) := xEval_mul ..
    have hdiv : r 0x15 = divX m x.d.toNat a.toInt b.toInt := xEval_div ..
    have hrem : r 0x16 = remX x.d.toNat a.toInt b.toInt := xEval_rem ..
    have hshl : r 0x0E = shiftG x.d.toNat (fld b 0 6) (shiftBy 0 a (fld b 0 6)) := xEval_shl ..
    have hasr : r 0x0F = shiftG x.d.toNat (fld b 0 6) (shiftBy 1 a (fld b 0 6)) := xEval_asr ..
    have hshr : r 0x10 = shiftG x.d.toNat (fld b 0 6) (shiftBy 2 a (fld b 0 6)) := xEval_shr ..
    clear_value r a b
    dsimp only [g, F, top]
    rw [hneg, habs, hmul, hdiv, hrem, hshl, hasr, hshr]
    refine ⟨fun ha => ?_, fun ha => ?_, fun ha hb => ?_, fun ha hb => ?_, fun hb => ?_, fun hb => ?_,
      fun ha hb => ?_, fun hk => ?_, fun hk => ?_⟩
    · rw [ha, toInt_least]
      exact fitG_top ..
    · rw [ha, toInt_least]
      exact fitG_top ..
    · rw [ha, hb, toInt_least, toInt_minus_one]
      exact fitG_top ..
    · rw [ha, hb, toInt_least, scale_least_square]
      exact fitG_top ..
    · rw [hb]
      exact divX_zero ..
    · rw [hb]
      exact remX_zero ..
    · rw [ha, hb, toInt_least, toInt_minus_one]
      exact remX_least ..
    · rw [shiftBy_left_wide hk, shiftBy_right_wide hk]
      exact ⟨rfl, rfl, shiftG_flags hk, shiftG_flags hk⟩
    · rw [shiftBy_arith_wide hk]
      exact ⟨rfl, shiftG_flags hk⟩

end Sys2Proof.Machine
end

section
/-! Facts of pure definitions: bounds of a run (R135, R156), a chain's reset (R167, R172), settling and band power
(R173, R188), density counters (R196, R197), the address and bank maps (R250, R251). -/
namespace Sys2Proof.Machine

/-- In edge mode and out of it, the first beat lies at the beat of `t` at the latest. -/
theorem runFirst_le (P : Port) : (runFirst P).1 ≤ slotsTo P.trig.firstHunt P.trig.sl.trig := by
  unfold runFirst
  dsimp only
  generalize slotsTo P.trig.firstHunt P.trig.sl.trig = t
  refine (min_le_right _ _).trans ?_
  split
  · exact Nat.div_mul_le_self t 1024
  · exact Nat.div_mul_le_self t 64

theorem runFirst_of_kept {P : Port} (hsrc : RunCfg.src P.run.cfg ≠ 2) (hover : P.run.overAt = none) :
    runFirst P = ((slotsTo P.trig.firstHunt P.trig.sl.trig - RunCfg.pre P.run.cfg) / 64 * 64,
      decide (slotsTo P.trig.firstHunt P.trig.sl.trig < RunCfg.pre P.run.cfg)) := by
  unfold runFirst
  simp only [if_neg hsrc, hover, Nat.max_zero]
  generalize slotsTo P.trig.firstHunt P.trig.sl.trig = t
  generalize RunCfg.pre P.run.cfg = pre
  have hmin : min ((t - pre) / 64 * 64) (t / 64 * 64) = (t - pre) / 64 * 64 :=
    min_eq_left (Nat.mul_le_mul_right _ (Nat.div_le_div_right (Nat.sub_le ..)))
  simp [hmin]

theorem maskTest_full_scale {e : BitVec 36} {w : BitVec 18} (hlo : fbv e 0 18 = 0o400000#18)
    (hhi : fbv e 18 18 = 0o377777#18) : maskTest false e w = none := by
  have hmin : (0o400000#18).toInt = -131072 := by decide
  have hmax : (0o377777#18).toInt = 131071 := by decide
  have hge : -131072 ≤ w.toInt := by simpa using BitVec.le_toInt w
  have hlt : w.toInt < 131072 := by simpa using BitVec.toInt_lt (x := w)
  simp only [maskTest, hlo, hhi, hmin, hmax, Bool.false_eq_true, if_false]
  rw [if_neg (by omega), if_neg (by omega)]

theorem maskTest_crossed {e : BitVec 36} {w : BitVec 18} (h : (fbv e 18 18).toInt < (fbv e 0 18).toInt) :
    (maskTest false e w).isSome = true := by
  simp only [maskTest, Bool.false_eq_true, if_false]
  split
  · rfl
  · rw [if_pos (by omega)]
    rfl

/-- Settles O25: `runFirst` outside edge mode (`runFirst_of_kept`), and `maskTest` at its extreme bounds. -/
theorem runBounds : Obligations.RunBounds := by
  unfold Obligations.RunBounds
  refine ⟨⟨runFirst_le, fun P hsrc hover => ?_⟩, fun _ _ => maskTest_full_scale, fun _ _ => maskTest_crossed⟩
  rw [runFirst_of_kept hsrc hover]
  generalize slotsTo P.trig.firstHunt P.trig.sl.trig = t
  generalize RunCfg.pre P.run.cfg = pre
  refine ⟨fun h => ⟨decide_eq_false (by omega), by omega, by omega, by omega⟩, fun h => ?_⟩
  simp [h, Nat.sub_eq_zero_of_le h.le]

theorem settlingRec_chain (s : State) (p : Nat) (slot : Slot) (nTag cause : Nat) :
    ((settlingRec s p slot nTag cause).port p).chain = (s.port p).chain := by
  rw [settlingRec, emitRec_port]

theorem dropSettling_chain (s : State) (p : Nat) (slot : Slot) :
    ((dropSettling s p slot).port p).chain = (s.port p).chain := by
  simp [dropSettling]

/-- A chain as a synchronising reset leaves it. -/
structure Chain.ResetAt (c : Chain) (cause : Nat) (slot : Slot) : Prop where
  phiSlot : c.phiSlot = slot
  phi : c.phi = fbv c.cfg 64 48
  resetSlot : c.resetSlot = slot
  lostAt : c.lostAt = none
  retuneSlot : c.retuneSlot = none
  dc : c.dc = DcState.reset
  pipes : c.pipes = []
  seqs : ∀ q < 2, (c.seqs.get SeqSt.reset q).nextIdx = 0
  lastCause : c.lastCause = BitVec.ofNat 4 cause

theorem slotsTo_self (a : Slot) : slotsTo a a = 0 := by simp [slotsTo]

/-- An event of a chain writes where the event stands, how long the chain settles, and its state. -/
theorem Chain.ResetAt.event {c : Chain} {cause : Nat} {slot : Slot} (h : c.ResetAt cause slot) (samp : Nat) :
    (c.event samp slot).1.ResetAt cause slot ∧ (c.event samp slot).1.evPos = 0 := by
  obtain ⟨hphiSlot, hphi, hresetSlot, hlost, hretune, hdc, hpipes, hseqs, hcause⟩ := h
  refine ⟨⟨hphiSlot, hphi, hresetSlot, hlost, hretune, hdc, hpipes, hseqs, hcause⟩, ?_⟩
  show slotsTo c.resetSlot slot / samp = 0
  rw [hresetSlot, slotsTo_self, Nat.zero_div]

theorem get_restarted (t : Tab SeqSt) (q : Nat) :
    (Tab.get SeqSt.reset (t.map fun x => (x.1, { x.2 with nextIdx := 0 })) q).nextIdx = 0 := by
  induction t with
  | nil => rfl
  | cons x t ih =>
    rw [List.map_cons, Tab.get]
    split
    · rfl
    · exact ih

theorem chainReset_chain (s : State) (p cause : Nat) (slot : Slot) :
    ((chainReset s p cause slot).port p).chain.ResetAt cause slot ∧
    ((chainReset s p cause slot).port p).chain.evPos = 0 := by
  unfold chainReset
  dsimp only
  rw [settlingRec_chain, dropSettling_chain, State.port_setPort, if_pos rfl]
  exact Chain.ResetAt.event ⟨rfl, rfl, rfl, rfl, rfl, rfl, rfl, fun q _ => get_restarted _ q, rfl⟩ _

theorem phiAt_samples (c : Chain) {samp k : Nat} (hsamp : 0 < samp) (hk : samp * k < 2 ^ 64) :
    c.phiAt samp (c.phiSlot + BitVec.ofNat 64 (samp * k)) = (c.phi.toNat + fld c.cfg 16 48 * k) % 2 ^ 48 := by
  have hslots : slotsTo c.phiSlot (c.phiSlot + BitVec.ofNat 64 (samp * k)) = samp * k := by
    rw [slotsTo, BitVec.add_comm, BitVec.add_sub_cancel, BitVec.toNat_ofNat, Nat.mod_eq_of_lt hk]
  rw [Chain.phiAt, hslots, Nat.mul_div_cancel_left _ hsamp]

/-- Settles O27: the chain after `chainReset` (`chainReset_chain`) and the phase from there (`phiAt_samples`). -/
theorem phaseAndFramesAfterReset : Obligations.PhaseAndFramesAfterReset := by
  unfold Obligations.PhaseAndFramesAfterReset
  refine ⟨⟨fun s n cause slot => ?_, fun c samp k => phiAt_samples c⟩, fun s n cause slot => ?_⟩
  · obtain ⟨h, -⟩ := chainReset_chain s n cause slot
    exact ⟨h.phiSlot, h.phi⟩
  · obtain ⟨h, hev⟩ := chainReset_chain s n cause slot
    exact ⟨h.resetSlot, hev, h.lostAt, h.retuneSlot, h.dc, h.pipes, h.seqs, h.lastCause⟩

/-- Whether a band-power unit stands above after a frame (R188). -/
def TrigUnit.aboveAfter (u : TrigUnit) (bp : Nat) : Bool :=
  match u.above with
  | none => decide (u.par 0 ≤ bp)
  | some a => if u.par 0 ≤ bp then true else if bp + u.par 1 < u.par 0 then false else a

theorem TrigUnit.aboveAfter_high {u : TrigUnit} {bp : Nat} (h : u.par 0 ≤ bp) : u.aboveAfter bp = true := by
  rw [aboveAfter]
  split
  · exact decide_eq_true h
  · exact if_pos h

theorem TrigUnit.aboveAfter_low {u : TrigUnit} {bp : Nat} (h : bp + u.par 1 < u.par 0) : u.aboveAfter bp = false := by
  rw [aboveAfter]
  split
  · exact decide_eq_false (by omega)
  · exact (if_neg (by omega)).trans (if_pos h)

theorem TrigUnit.aboveAfter_between {u : TrigUnit} {bp : Nat} {a : Bool} (h : bp < u.par 0)
    (hk : u.par 0 ≤ bp + u.par 1) (ha : u.above = some a) : u.aboveAfter bp = a := by
  rw [aboveAfter, ha]
  exact (if_neg (by omega)).trans (if_neg (by omega))

/-- The unit of R188 over one evaluated frame. -/
theorem unitFrame_bandPower (d : Dens) (mask : Tab (BitVec 36)) {u : TrigUnit} (fr : Frame) (bp : Nat)
    (htype : u.ttype = 2) (htune : u.tune = none) : unitFrame d mask u fr bp =
      ({ u with above := some (u.aboveAfter bp) }, (match u.mode with
      | 0 => u.aboveAfter bp
      | 1 => !u.aboveAfter bp
      | 2 => u.above == some false && u.aboveAfter bp
      | _ => u.above == some true && !u.aboveAfter bp), bp) := by
  obtain ⟨desc, qualRun, above, window, tune⟩ := u
  obtain rfl : tune = none := htune
  unfold unitFrame
  dsimp only
  rw [htype]
  rfl

/-- Settles O28: the table of R168 row by row, and `unitFrame_bandPower`. -/
theorem settlingAndBandPower : Obligations.SettlingAndBandPower := by
  unfold Obligations.SettlingAndBandPower
  constructor
  · refine ⟨by decide, by decide, by decide, by decide, fun k hlo hhi => ?_, fun k hlo hhi => ?_⟩
    · interval_cases k <;> decide
    · interval_cases k <;> decide
  · intro d mask u fr bp htype htune r
    have hr : r = _ := unitFrame_bandPower d mask fr bp htype htune
    rw [hr]
    exact ⟨fun h => congrArg some (TrigUnit.aboveAfter_high h), fun h => congrArg some (TrigUnit.aboveAfter_low h),
      fun h hk a ha => congrArg some (TrigUnit.aboveAfter_between h hk ha), fun hm => by simp [hm],
      fun hm => by simp [hm], fun hm => by simp [hm], fun hm => by simp [hm], rfl⟩

/-- A counter below its greatest value counts the hit, and nothing saturates. -/
theorem Dens.hit_of_room {d : Dens} {i : Nat} (hhold : d.hold = .none) (h : d.live.get 0 i + 1 < 2 ^ 24) :
    d.hit i = { d with live := d.live.set i (d.live.get 0 i + 1) } := by
  simp only [Dens.hit, hhold, beq_self_eq_true, if_true, if_pos h]

theorem Dens.hit_of_full {d : Dens} {i : Nat} (hhold : d.hold = .none) (h : ¬ d.live.get 0 i + 1 < 2 ^ 24) :
    d.hit i = { d with
      satMap := d.satMap.set (i / 256) true
      satCells := if d.satSet.get false i then d.satCells else d.satCells + 1
      satSet := d.satSet.set i true } := by
  simp only [Dens.hit, hhold, beq_self_eq_true, if_true, if_neg h]

/-- What a decay step takes from a counter is the quotient rounded up. -/
theorem decay_taken (sh c : Nat) : 2 ^ sh * (c - decay sh c) < c + 2 ^ sh ∧ c ≤ 2 ^ sh * (c - decay sh c) := by
  have hpos : 0 < 2 ^ sh := Nat.two_pow_pos sh
  have htaken : c - decay sh c = (c + 2 ^ sh - 1) / 2 ^ sh := by
    have hle : (c + 2 ^ sh - 1) / 2 ^ sh ≤ c := by
      have hmul := Nat.le_mul_of_pos_right c hpos
      rw [← Nat.lt_succ_iff, Nat.div_lt_iff_lt_mul hpos, Nat.succ_mul]
      generalize c * 2 ^ sh = m at *
      omega
    exact Nat.sub_sub_self hle
  rw [htaken]
  have hmod := Nat.div_add_mod (c + 2 ^ sh - 1) (2 ^ sh)
  have hlt := Nat.mod_lt (c + 2 ^ sh - 1) hpos
  generalize 2 ^ sh * ((c + 2 ^ sh - 1) / 2 ^ sh) = taken at *
  omega

theorem decay_le (sh c : Nat) : decay sh c ≤ c := Nat.sub_le ..

theorem decay_one (sh : Nat) : decay sh 1 = 0 := by
  rw [decay, Nat.add_sub_cancel_left, Nat.div_self (Nat.two_pow_pos sh)]

theorem decayN_le (sh k c : Nat) : decayN sh k c ≤ c := by
  induction k generalizing c with
  | zero => exact le_rfl
  | succ k ih => exact (ih (decay sh c)).trans (decay_le sh c)

/-- Settles O30: a hit by whether the counter stands at its greatest value, a decay step by its rounding up. -/
theorem densityCounters : Obligations.DensityCounters := by
  unfold Obligations.DensityCounters
  refine ⟨fun d i hhold hlt => ?_, decay_taken, decay_le, decay_one, decayN_le⟩
  by_cases h : d.live.get 0 i + 1 < 2 ^ 24
  · rw [Dens.hit_of_room hhold h]
    refine ⟨?_, fun j hj => ?_, by omega, fun _ => ⟨rfl, rfl⟩⟩
    · rw [Tab.get_set, if_pos rfl]
      omega
    · rw [Tab.get_set, if_neg hj]
  · rw [Dens.hit_of_full hhold h]
    refine ⟨by dsimp only; omega, fun _ _ => rfl, fun _ => ⟨by simp, ?_⟩, by omega⟩
    dsimp only
    split <;> rfl

/-- The backed part of a region is a whole number of rows for each of its channels, so a row of an offset, taken apart
into a channel's index and a row index, is put together again. -/
theorem row_turns_back (o n : Nat) :
    ((4608 * (o / 4608 / n) + o % 4608) / 4608 * n + o / 4608 % n) * 4608 + (4608 * (o / 4608 / n) + o % 4608) % 4608 =
      o := by
  have hlt : o % 4608 < 4608 := Nat.mod_lt _ (by decide)
  rw [Nat.mul_add_div (by decide), Nat.div_eq_of_lt hlt, Nat.mul_add_mod, Nat.mod_mod, Nat.add_zero,
    mul_comm (o / 4608 / n), Nat.div_add_mod, mul_comm, Nat.div_add_mod]

/-- The channels of a region: as many as the table holds, in order, without the lodge channels, each of its own
region. -/
theorem regionChans_facts : ∀ r < 16, 0 < (regionChans r).length ∧ ∀ i < (regionChans r).length,
    (regionChans r).getD i 0 < 128 ∧ isLodge ((regionChans r).getD i 0) = false ∧
    chanRegion ((regionChans r).getD i 0) = r ∧ (regionChans r).idxOf ((regionChans r).getD i 0) = i := by
  decide

theorem chanAddr_addrLocal {a : Nat} (h : backed a = true) : addrChan a < 128 ∧ isLodge (addrChan a) = false ∧
    chanAddr (addrChan a) (addrLocal a) = some a := by
  obtain ⟨hspace, hend⟩ : a < 2 ^ 39 ∧ addrOff a < regionEnd (addrRegion a) := by simpa [backed] using h
  have hregion : addrRegion a < 16 := Nat.mod_lt _ (by decide)
  obtain ⟨hpos, hall⟩ := regionChans_facts _ hregion
  obtain ⟨hlt, hlodge, hreg, hidx⟩ := hall _ (Nat.mod_lt (addrOff a / 4608) hpos)
  refine ⟨hlt, hlodge, ?_⟩
  have hwhole : addrRegion a * 2 ^ 35 + addrOff a = a := by
    unfold addrRegion addrOff
    omega
  have hback := row_turns_back (addrOff a) (regionChans (addrRegion a)).length
  unfold chanAddr addrLocal addrRowIndex addrChan
  dsimp only
  rw [hreg, hidx, hback, hlodge, hwhole]
  simp [hend]

theorem bankOf_bits (cfg : BitVec 256) (v : Nat) : bankOf cfg v = (v / 32,
    v.testBit 4 != parity15 (v / 32 &&& fld cfg 64 15),
    b2n (v.testBit 0 != parity15 (v / 32 &&& fld cfg 0 15)) +
    2 * b2n (v.testBit 1 != parity15 (v / 32 &&& fld cfg 16 15)) +
    4 * b2n (v.testBit 2 != parity15 (v / 32 &&& fld cfg 32 15)) +
    8 * b2n (v.testBit 3 != parity15 (v / 32 &&& fld cfg 48 15))) := rfl

/-- Five bits as one number are read back. -/
theorem five_bits_inj : ∀ a b c d e a' b' c' d' e' : Bool,
    16 * b2n e + (b2n a + 2 * b2n b + 4 * b2n c + 8 * b2n d) =
      16 * b2n e' + (b2n a' + 2 * b2n b' + 4 * b2n c' + 8 * b2n d') →
    a = a' ∧ b = b' ∧ c = c' ∧ d = d' ∧ e = e' := by decide

theorem eq_of_row_of_low_bits {v w : Nat} (hrow : v / 32 = w / 32) (hlow : ∀ i < 5, v.testBit i = w.testBit i) :
    v = w := by
  have hmod : v % 2 ^ 5 = w % 2 ^ 5 := by
    apply Nat.eq_of_testBit_eq
    intro i
    rw [Nat.testBit_mod_two_pow, Nat.testBit_mod_two_pow]
    by_cases hi : i < 5
    · simp [hi, hlow i hi]
    · simp [hi]
  omega

/-- Settles O45: an offset is rows of 4,608 bytes turned over the region's channels (`chanAddr_addrLocal`); each of the
five low bits of a row index is turned by a parity of the row alone. -/
theorem addressAndBankMaps : Obligations.AddressAndBankMaps := by
  unfold Obligations.AddressAndBankMaps
  refine ⟨fun a h => chanAddr_addrLocal h, fun cfg v w hrow hkey => eq_of_row_of_low_bits hrow ?_⟩
  unfold bankKey at hkey
  rw [bankOf_bits, bankOf_bits, hrow] at hkey
  obtain ⟨h0, h1, h2, h3, h4⟩ := five_bits_inj _ _ _ _ _ _ _ _ _ _ hkey
  intro i hi
  interval_cases i
  · simpa using h0
  · simpa using h1
  · simpa using h2
  · simpa using h3
  · simpa using h4

end Sys2Proof.Machine
end

section
/-! Zeroisation and the life-cycle fuses (R423, R428), carriage and messages (R373, R375), failed attempts of a DMA
channel (R343), the interrupt groups of a function (R315, R316). -/
namespace Sys2Proof.Machine

theorem testBit_fld {n : Nat} (x : BitVec n) (lo len i : Nat) :
    (fld x lo len).testBit i = (decide (i < len) && x.getLsbD (lo + i)) := by
  rw [fld, Nat.testBit_mod_two_pow, Nat.testBit_shiftRight, BitVec.getLsbD]

/-- A field reads as it was written. -/
theorem fld_put_same {n : Nat} (x : BitVec n) {lo len : Nat} (v : Nat) (h : lo + len ≤ n) :
    fld (put x lo len v) lo len = v % 2 ^ len := by
  apply Nat.eq_of_testBit_eq
  intro i
  rw [testBit_fld, put_getLsbD, Nat.testBit_mod_two_pow]
  by_cases hi : i < len
  · simp [hi, show lo + i < n by omega]
  · simp [hi]

/-- What zeroisation leaves of a state that `s` was: all but sessions, the audit ring and what its events reach. -/
structure KeptByZeroise (s t : State) : Prop where
  windows : t.hub.windows = s.hub.windows
  fuses : t.sec.fuses = s.sec.fuses
  ports : t.ports = s.ports

theorem KeptByZeroise.trans {s t u : State} (h : KeptByZeroise s t) (k : KeptByZeroise t u) : KeptByZeroise s u :=
  ⟨k.windows.trans h.windows, k.fuses.trans h.fuses, k.ports.trans h.ports⟩

theorem KeptByZeroise.noteUnsealed {s t : State} (h : KeptByZeroise s t) (k role cause : Nat) (x : Session) :
    KeptByZeroise s (noteUnsealed t k role cause x) :=
  h.trans ⟨by simp [Machine.noteUnsealed], by simp [Machine.noteUnsealed, audit, State.modSec],
    by simp [Machine.noteUnsealed]⟩

theorem noteUnsealed_part (s : State) (k role cause : Nat) (x : Session) (j : Nat) :
    (noteUnsealed s k role cause x).part j = s.part j := by
  simp [noteUnsealed]

theorem noteUnsealed_coSession (s : State) (k role cause : Nat) (x : Session) :
    (noteUnsealed s k role cause x).sec.coSession = s.sec.coSession := by
  simp [noteUnsealed, audit, State.modSec]

theorem endUserSession_kept (s : State) (k cause : Nat) : KeptByZeroise s (endUserSession s k cause) := by
  unfold endUserSession
  split
  · exact ⟨rfl, rfl, rfl⟩
  · refine KeptByZeroise.noteUnsealed ?_ ..
    exact ⟨rfl, rfl, rfl⟩

theorem endUserSession_session (s : State) (k cause j : Nat) :
    ((endUserSession s k cause).part j).session = if j = k then none else (s.part j).session := by
  unfold endUserSession
  split
  · next h =>
    split
    · next hjk => rw [hjk, h]
    · rfl
  · rw [noteUnsealed_part, State.part_modPart]
    split <;> rfl

theorem endUserSessions_kept (ks : List Nat) (s : State) (cause : Nat) :
    KeptByZeroise s (forEach ks (fun s k => endUserSession s k cause) s) := by
  induction ks generalizing s with
  | nil => exact ⟨rfl, rfl, rfl⟩
  | cons k ks ih => exact (endUserSession_kept s k cause).trans (ih _)

theorem endUserSessions_session (ks : List Nat) (s : State) (cause j : Nat) :
    ((forEach ks (fun s k => endUserSession s k cause) s).part j).session =
      if j ∈ ks then none else (s.part j).session := by
  induction ks generalizing s with
  | nil => simp [forEach]
  | cons k ks ih =>
    refine (ih _).trans ?_
    rw [endUserSession_session]
    by_cases hk : j = k
    · simp [hk]
    · simp [hk]

theorem endCoSession_kept (s : State) (cause : Nat) : KeptByZeroise s (endCoSession s cause) := by
  unfold endCoSession
  split
  · exact ⟨rfl, rfl, rfl⟩
  · refine KeptByZeroise.noteUnsealed ?_ ..
    exact ⟨rfl, rfl, rfl⟩

theorem endCoSession_part (s : State) (cause j : Nat) : (endCoSession s cause).part j = s.part j := by
  unfold endCoSession
  split
  · rfl
  · rw [noteUnsealed_part]
    rfl

theorem endCoSession_coSession (s : State) (cause : Nat) : (endCoSession s cause).sec.coSession = none := by
  unfold endCoSession
  split
  · assumption
  · rw [noteUnsealed_coSession]
    rfl

theorem toLifecycle_fuses (s : State) (code : Nat) : (toLifecycle s code).sec.fuses =
    put s.sec.fuses 0 4 (fld s.sec.fuses 0 4 ||| [0, 1, 3, 7, 15].getD code 15) := by
  simp [toLifecycle, audit, State.modSec]

/-- A life-cycle code on the fuses of the state before it, or the last code on any, gives its own code. -/
theorem lifecycle_or {code fuses : Nat} (hcode : code ≤ 4) (hlt : fuses < 2 ^ 4)
    (h : fuses = [0, 1, 3, 7, 15].getD (code - 1) 15 ∨ code = 4) :
    (fuses ||| [0, 1, 3, 7, 15].getD code 15) % 2 ^ 4 = [0, 1, 3, 7, 15].getD code 15 := by
  revert fuses
  interval_cases code <;> decide

/-- Settles O59: every session ends (`endUserSessions_session`, `endCoSession_coSession`), and a life-cycle code is
or-ed onto the fuses (`toLifecycle_fuses`). -/
theorem zeroisationAndFuses : Obligations.ZeroisationAndFuses := by
  unfold Obligations.ZeroisationAndFuses
  constructor
  · intro s
    have hkept : KeptByZeroise s (endSessions s 4) := by
      rw [endSessions]
      exact (endUserSessions_kept (List.range 16) s 4).trans (endCoSession_kept _ 4)
    have hco : (endSessions s 4).sec.coSession = none := by
      rw [endSessions, endCoSession_coSession]
    have husers : ∀ k < 16, ((endSessions s 4).part k).session = none := fun k hk => by
      rw [endSessions, endCoSession_part, endUserSessions_session, if_pos (List.mem_range.mpr hk)]
    have hmem : (zeroise s).mem = s.mem := by simp
    rw [hmem, zeroise]
    generalize endSessions s 4 = u at *
    exact ⟨husers, hco, rfl, rfl, rfl, hkept.windows, hkept.fuses, hkept.ports⟩
  · intro s code hcode
    rw [toLifecycle_fuses]
    refine ⟨fun i hi hset => ?_, fun i hi h4 => ?_, fun hbefore => ?_, by simp [toLifecycle]⟩
    · rw [put_getLsbD]
      by_cases h4 : i < 4
      · simp [hi, h4, testBit_fld, hset]
      · simp [hi, h4, hset]
    · rw [put_getLsbD, if_neg (by omega), if_neg (by omega), decide_eq_true hi, Bool.true_and]
    · rw [fld_put_same _ _ (by decide)]
      have hlt : fld s.sec.fuses 0 4 < 2 ^ 4 := fld_lt ..
      exact lifecycle_or hcode hlt hbefore

theorem clOf_bounds (d : Nat) : (4 * d + 250) * 9 ≤ 6400 * clOf d ∧ 6400 * clOf d < (4 * d + 250) * 9 + 6400 := by
  unfold clOf
  omega

/-- The number of a message for this device, past the last accepted one of its source (R375). -/
abbrev msgStep (s : State) (f : BitVec 192) : Nat :=
  (fbv f 32 16 - s.vach.rxSeq.get 0 (fld f 16 12)).toNat

theorem deliverMsg_refused {s : State} {f : BitVec 192} (h : msgStep s f = 0 ∨ 1024 < msgStep s f) :
    deliverMsg s f false = s := by
  rw [deliverMsg]
  exact if_pos (by simpa using h)

theorem deliverMsg_accepted {s : State} {f : BitVec 192} (h1 : 1 ≤ msgStep s f) (h2 : msgStep s f ≤ 1024) :
    (deliverMsg s f false).vach.rxSeq = s.vach.rxSeq.set (fld f 16 12) (fbv f 32 16) ∧
    (deliverMsg s f false).vach.rxBcast = s.vach.rxBcast ∧
    (msgStep s f = 1 → (deliverMsg s f false).vach.msgGap = s.vach.msgGap) := by
  have hguard : ¬ ((decide (msgStep s f = 0) || decide (1024 < msgStep s f)) = true) := by
    rw [Bool.or_eq_true, decide_eq_true_eq, decide_eq_true_eq]
    omega
  simp only [deliverMsg, Bool.false_eq_true, if_false]
  rw [if_neg hguard]
  by_cases hstep : msgStep s f = 1
  · rw [if_pos hstep]
    split
    · simp
    · simp
  · rw [if_neg hstep]
    refine ⟨?_, ?_, fun h => absurd h hstep⟩ <;> split <;> simp

/-- Settles O55: `clOf` is a quotient rounded up, and a message is refused or accepted by its step (`msgStep`). -/
theorem carriageAndMessages : Obligations.CarriageAndMessages := by
  unfold Obligations.CarriageAndMessages
  refine ⟨⟨by decide, by decide, clOf_bounds⟩, fun s f => ⟨deliverMsg_refused, fun h1 h2 => ?_⟩⟩
  obtain ⟨hseq, hbcast, hgap⟩ := deliverMsg_accepted (s := s) (f := f) h1 h2
  exact ⟨by rw [hseq, Tab.get_set_same], hbcast, hgap, by simp⟩

/-- A retry counts the attempt and keeps the place in the descriptor. -/
theorem dmaFail_of_tries_left {s : State} {n : Nat} {w : Bool} (hrun : (s.dmaCh n).st = .running)
    (hwait : (s.dmaCh n).recWait = none) (htries : (s.dmaCh n).tries < (s.dmaCh n).retry) :
    ∃ cur, (dmaFail s n w).dmaCh n = { s.dmaCh n with
      busErrors := satInc (s.dmaCh n).busErrors, tries := (s.dmaCh n).tries + 1, cur := cur } := by
  refine ⟨(s.dmaCh n).cur.map fun d => { d with retries := max d.retries ((s.dmaCh n).tries + 1) }, ?_⟩
  simp [dmaFail, hwait, hrun, htries]

/-- A write whose retries are spent halts the channel with reason 3. -/
theorem dmaFail_of_tries_spent {s : State} {n : Nat} (hrun : (s.dmaCh n).st = .running)
    (hwait : (s.dmaCh n).recWait = none) (htries : (s.dmaCh n).retry ≤ (s.dmaCh n).tries) :
    dmaFail s n true = dmaHalt (s.modDma n fun D => { D with busErrors := satInc D.busErrors }) n 3 := by
  simp [dmaFail, hwait, hrun, Nat.not_lt.mpr htries]

/-- A channel is HALTED for a reason, with no descriptor left. -/
structure Dma.HaltedFor (D : Dma) (reason : BitVec 8) : Prop where
  st : D.st = .halted
  haltReason : D.haltReason = reason
  cur : D.cur = none
  nextDesc : D.nextDesc = none

theorem dmaHalted_haltedFor {s : State} {n : Nat} (reason : BitVec 8) (hjob : (s.dmaCh n).job = none) :
    ((dmaHalted s n reason).dmaCh n).HaltedFor reason := by
  have hreplies (ps : List Packet) (t : State) :
      (ps.foldl (fun s p => replyTo s false p 0 0 0 []) t).dmaCh n = t.dmaCh n :=
    foldl_same (State.dmaCh · n) ps _ (by simp) t
  simp only [dmaHalted, hjob, hreplies, State.dmaCh_modDma, if_true]
  split <;> exact ⟨rfl, rfl, rfl, rfl⟩

/-- The halt record goes to the queue where there is one, and the channel keeps its halt. -/
theorem putRecord_dmaCh_of_room {s : State} {n : Nat} (r : BitVec 256) (hwait : (s.dmaCh n).recWait = none)
    (hroom : (s.dmaCh n).cqBase = 0 ∨ (s.dmaCh n).cqRoom = true) :
    ∃ count, (putRecord s n r).dmaCh n = { s.dmaCh n with recCount := count } := by
  by_cases hqueue : (s.dmaCh n).cqBase = 0
  · exact ⟨(s.dmaCh n).recCount, by rw [putRecord, if_pos hqueue]⟩
  · refine ⟨(s.dmaCh n).recCount + 1, ?_⟩
    rw [putRecord, if_neg hqueue, if_pos (hroom.resolve_left hqueue)]
    simp [writeRecord, ← hwait]

/-- A channel in HALTING whose descriptor, if any, is written is HALTED at once, a unit reset waiting for it or not. -/
theorem dmaSettleHalt_haltedFor {s : State} {n : Nat} {reason : BitVec 8} (hst : (s.dmaCh n).st = .halting)
    (hpend : (s.dmaCh n).haltPend = some reason) (hwritten : ∀ d, (s.dmaCh n).cur = some d → d.AllWritten)
    (hwait : (s.dmaCh n).recWait = none) (hroom : (s.dmaCh n).cqBase = 0 ∨ (s.dmaCh n).cqRoom = true)
    (hjob : (s.dmaCh n).job = none) : ((dmaSettleHalt s n).dmaCh n).HaltedFor reason := by
  cases hcur : (s.dmaCh n).cur with
  | none =>
    have hsettle : dmaSettleHalt s n = dmaHalted s n reason := by
      simp [dmaSettleHalt, hst, hpend, hcur, hwait]
    rw [hsettle]
    exact dmaHalted_haltedFor reason hjob
  | some d =>
    obtain ⟨hheld, hback, hsent⟩ := hwritten d hcur
    obtain ⟨count, hput⟩ := putRecord_dmaCh_of_room (recordBits (s.dmaCh n) n d reason.toNat) hwait hroom
    have hsettle : dmaSettleHalt s n =
        dmaHalted (putRecord s n (recordBits (s.dmaCh n) n d reason.toNat)) n reason := by
      simp [dmaSettleHalt, hst, hpend, hcur, hheld, hback, hsent, hwait, hput]
    rw [hsettle]
    exact dmaHalted_haltedFor reason (by rw [hput]; exact hjob)

/-- Reason 3 drops what the channel holds, so the channel is HALTED at once. -/
theorem dmaHalt_failed_write {s : State} {n : Nat} (hrun : (s.dmaCh n).st = .running)
    (hwait : (s.dmaCh n).recWait = none) (hroom : (s.dmaCh n).cqBase = 0 ∨ (s.dmaCh n).cqRoom = true)
    (hjob : (s.dmaCh n).job = none) : ((dmaHalt s n 3).dmaCh n).HaltedFor 3 := by
  rw [dmaHalt_of_running hrun (by decide) (by decide)]
  have hch : (s.modDma n (Dma.halting (BitVec.ofNat 8 3) (decide (3 = 3)))).dmaCh n = (s.dmaCh n).halting 3 true := by
    rw [State.dmaCh_modDma, if_pos rfl]
    rfl
  refine dmaSettleHalt_haltedFor (by rw [hch]; rfl) (by rw [hch]; rfl) (fun d hd => ?_) (by rw [hch]; exact hwait)
    (by rw [hch]; exact hroom) (by rw [hch]; exact hjob)
  rw [hch] at hd
  obtain ⟨d', -, rfl⟩ := Option.map_eq_some_iff.mp hd
  exact ⟨rfl, rfl, rfl⟩

/-- Settles O51: a failed attempt by whether tries are left (`dmaFail_of_tries_left`, `dmaFail_of_tries_spent`). -/
theorem busErrorsAreRetriedThenHalt : Obligations.BusErrorsAreRetriedThenHalt := by
  unfold Obligations.BusErrorsAreRetriedThenHalt
  intro s n w hrun hwait
  refine ⟨fun htries => ?_, fun htries _ hroom hjob => ⟨by simp, ?_⟩⟩
  · obtain ⟨cur, hfail⟩ := dmaFail_of_tries_left (w := w) hrun hwait htries
    rw [hfail]
    exact ⟨hrun, rfl, rfl, rfl, rfl, rfl⟩
  · rw [dmaFail_of_tries_spent hrun hwait htries]
    have hch : (s.modDma n fun D => { D with busErrors := satInc D.busErrors }).dmaCh n =
        { s.dmaCh n with busErrors := satInc (s.dmaCh n).busErrors } := by
      rw [State.dmaCh_modDma, if_pos rfl]
    obtain ⟨hst, hreason, hcur, hnext⟩ := dmaHalt_failed_write (by rw [hch]; exact hrun) (by rw [hch]; exact hwait)
      (by rw [hch]; exact hroom) (by rw [hch]; exact hjob)
    exact ⟨hst, hreason, hcur, hnext⟩

/-- A mask built of the numbers of a list that meet a condition. -/
theorem getLsbD_foldl_or (c : Nat → Bool) (gs : List Nat) (m : BitVec 64) (j : Nat) :
    (gs.foldl (fun (m : BitVec 64) g => if c g then m ||| (1#64 <<< g) else m) m).getLsbD j =
      (m.getLsbD j || (decide (j < 64) && (gs.contains j && c j))) := by
  induction gs generalizing m with
  | nil => simp
  | cons g gs ih =>
    rw [List.foldl_cons, ih, List.contains_cons]
    by_cases hj : j = g
    · subst hj
      cases c j <;> by_cases hlt : j < 64 <;> simp [hlt]
    · have hbit : (1#64 <<< g).getLsbD j = false := by
        rw [BitVec.getLsbD_shiftLeft]
        by_cases hlt : j < g
        · simp [hlt]
        · simp [show j - g ≠ 0 by omega]
      rw [beq_eq_false_iff_ne.mpr hj, Bool.false_or]
      cases c g <;> simp [hbit]

theorem pendingMask_getLsbD (s : State) {f g : Nat} (hg : g ∈ routed f) (hlt : g < 64) :
    (pendingMask s f).getLsbD g = groupPending s g := by
  rw [pendingMask, getLsbD_foldl_or, decide_eq_true hlt, List.contains_iff_mem.mpr hg]
  simp

theorem routed_lt {f g : Nat} (hg : g ∈ routed f) (hf : f < 16) : g < 64 := by
  unfold routed at hg
  simp only [List.mem_append, List.mem_cons, List.not_mem_nil, or_false] at hg
  split at hg
  · simp at hg
    omega
  · simp at hg
    omega

/-- The hold-off timers of a function after an evaluation: those that ran, and those of the groups that stopped being
pending, where the timer is not 0 (R316). -/
def timersAfter (s : State) (f : Nat) : BitVec 64 :=
  (s.fn f).holdRun ||| (routed f).foldl (fun (m : BitVec 64) g =>
    if ((s.fn f).wasPending &&& ~~~pendingMask s f).getLsbD g && (s.fn f).holdoff.get 0 g != 0
    then m ||| (1#64 <<< g) else m) 0

/-- The level of INTA after an evaluation (R315). -/
def intaAfter (s : State) (f : Nat) : Bool :=
  (s.fn f).pm == .d0 && !(s.fn f).intDisable && (routed f).any fun g =>
    (pendingMask s f).getLsbD g && (s.fn f).unmasked g && !(timersAfter s f).getLsbD g

theorem evalFn_fn_eq (s : State) (f j : Nat) : (evalFn s f).fn j = if j = f then { s.fn f with
    wasPending := pendingMask s f, holdRun := timersAfter s f, inta := intaAfter s f
    pmeSent := (s.fn f).pmeSent || ((s.fn f).pm == .d3hot && (s.fn f).pmeEn && !(s.fn f).pmeSent &&
      (routed f).any fun g => (pendingMask s f &&& ~~~(s.fn f).wasPending).getLsbD g && (s.fn f).unmasked g) }
    else s.fn j := by
  have hout : ∀ (t : State) o, (t.out o).fn j = t.fn j := fun _ _ => rfl
  unfold evalFn
  dsimp only
  rw [apply_ite (State.fn · j), hout, ite_self, apply_ite (State.fn · j), hout, ite_self, State.fn_setFn]
  rfl

/-- What an evaluation leaves of every function. -/
theorem evalFn_fn_frame (s : State) (f j : Nat) :
    ((evalFn s f).fn j).rqTail = (s.fn j).rqTail ∧ ((evalFn s f).fn j).rqHead = (s.fn j).rqHead ∧
    ((evalFn s f).fn j).qState = (s.fn j).qState ∧ ((evalFn s f).fn j).chuteStatus = (s.fn j).chuteStatus ∧
    ((evalFn s f).fn j).pm = (s.fn j).pm ∧ ((evalFn s f).fn j).intDisable = (s.fn j).intDisable ∧
    ((evalFn s f).fn j).intMask = (s.fn j).intMask := by
  rw [evalFn_fn_eq]
  split
  · next h => subst h; exact ⟨rfl, rfl, rfl, rfl, rfl, rfl, rfl⟩
  · exact ⟨rfl, rfl, rfl, rfl, rfl, rfl, rfl⟩

theorem groupPending_evalFn (s : State) (f g : Nat) : groupPending (evalFn s f) g = groupPending s g := by
  have hframe := evalFn_fn_frame s f
  simp only [groupPending, chainPending, powerAlarm, linkAlarm, tWarn, tCrit, evalFn_rest, hframe]

theorem timersAfter_getLsbD (s : State) {f g : Nat} (hg : g ∈ routed f) (hlt : g < 64) :
    (timersAfter s f).getLsbD g = ((s.fn f).holdRun.getLsbD g ||
      ((s.fn f).wasPending.getLsbD g && !groupPending s g && (s.fn f).holdoff.get 0 g != 0)) := by
  rw [timersAfter, BitVec.getLsbD_or, getLsbD_foldl_or, List.contains_iff_mem.mpr hg, BitVec.getLsbD_and,
    BitVec.getLsbD_not, pendingMask_getLsbD s hg hlt, decide_eq_true hlt]
  simp

/-- INTA of a function is asserted exactly while R315 has it so. -/
def IntaFollows (s : State) (f : Nat) : Prop :=
  (s.fn f).inta = ((s.fn f).pm == .d0 && !(s.fn f).intDisable && (routed f).any (effective s f))

theorem intaFollows_evalFn_same (s : State) (f : Nat) : IntaFollows (evalFn s f) f := by
  have hany : ((routed f).any fun g =>
      (pendingMask s f).getLsbD g && (s.fn f).unmasked g && !(timersAfter s f).getLsbD g) =
      (routed f).any (effective (evalFn s f) f) := by
    rw [Bool.eq_iff_iff, List.any_eq_true, List.any_eq_true]
    refine exists_congr fun g => and_congr_right fun hg => ?_
    rw [← Bool.eq_iff_iff, effective, groupPending_evalFn, evalFn_fn_eq, if_pos rfl]
    by_cases hlt : g < 64
    · rw [pendingMask_getLsbD s hg hlt]
      rfl
    · have hmasked : (s.fn f).intMask.getLsbD g = false := BitVec.getLsbD_of_ge _ _ (by omega)
      simp [Fn.unmasked, hmasked]
  unfold IntaFollows
  rw [← hany, evalFn_fn_eq, if_pos rfl]
  rfl

theorem intaFollows_evalFn_other {s : State} {f j : Nat} (hj : j ≠ f) (h : IntaFollows s j) :
    IntaFollows (evalFn s f) j := by
  have heff : effective (evalFn s f) j = effective s j := by
    funext g
    simp only [effective, groupPending_evalFn, evalFn_fn_eq, if_neg hj]
  unfold IntaFollows at *
  rw [heff, evalFn_fn_eq, if_neg hj, h]

theorem intaFollows_foldl {fs : List Nat} {s : State} {f : Nat} (h : f ∈ fs ∨ IntaFollows s f) :
    IntaFollows (fs.foldl evalFn s) f := by
  induction fs generalizing s with
  | nil => exact h.resolve_left (by simp)
  | cons j fs ih =>
    apply ih
    by_cases hj : f = j
    · exact .inr (hj ▸ intaFollows_evalFn_same s f)
    · obtain h | h := h
      · exact .inl ((List.mem_cons.mp h).resolve_left hj)
      · exact .inr (intaFollows_evalFn_other hj h)

/-- Settles O48: each evaluation sets the level of its function (`intaFollows_evalFn_same`) and keeps that of the
others; the timers are `timersAfter`. -/
theorem intaFollowsTheGroups : Obligations.IntaFollowsTheGroups := by
  unfold Obligations.IntaFollowsTheGroups
  refine ⟨fun s f hf => intaFollows_foldl (.inl hf), fun s f g hg hlt => ?_⟩
  rw [evalFn_fn_eq, if_pos rfl]
  exact timersAfter_getLsbD s hg (routed_lt hg hlt)

end Sys2Proof.Machine
end

section
/-! Steps, the state at reset, and the happenings of a port (R51, R52, R56, R58, R59, R391). -/
namespace Sys2Proof.Machine

/-- Settles O1, by the definition of `step`. -/
theorem stepRunsTheFrontCommand : Obligations.StepRunsTheFrontCommand := by
  unfold Obligations.StepRunsTheFrontCommand
  intro c cs s h
  rw [step, h]

theorem reset_port (p : Nat) : State.reset.port p = Port.reset := rfl

theorem reset_fn (f : Nat) : State.reset.fn f = Fn.reset := rfl

theorem reset_eng (e : Nat) : State.reset.eng e = Engine.reset := rfl

theorem reset_part (k : Nat) : State.reset.part k = Part.reset := rfl

/-- Settles O3: every table of the reset state is empty, so each unit reads as its own reset. -/
theorem resetState : Obligations.ResetState := by
  unfold Obligations.ResetState
  refine ⟨⟨rfl, rfl, rfl, rfl, fun p => ?_, fun f => ?_, fun e => ?_, fun k => ?_, rfl, rfl, rfl, rfl⟩, ?_⟩
  · rw [reset_port]
    exact ⟨rfl, rfl, rfl, rfl, rfl, rfl, rfl, fun q => rfl⟩
  · rw [reset_fn]
    exact ⟨rfl, rfl, rfl⟩
  · rw [reset_eng]
    rfl
  · rw [reset_part]
    rfl
  · rfl

theorem modPort_modPort (s : State) (p : Nat) (f g : Port → Port) :
    (s.modPort p f).modPort p g = s.modPort p fun P => g (f P) := by
  simp [State.modPort]

theorem happen_of_streams {s : State} {p : Nat} {h : Happening} (hs : (s.port p).streams = true) :
    happen s p h = s.modPort p fun P => { P with pending := P.pending ++ [h] } := if_pos hs

theorem answerHead_port (s : State) (p : Nat) (addr : BitVec 7) (joint ack : Bool) (more q : Nat) :
    (answerHead s p addr joint ack more).port q = s.port q := by
  unfold answerHead
  dsimp only
  split
  · exact foldl_same (State.port · q) _ (fun s x => s.out (.i3c p x)) (fun _ _ => rfl) _
  · rfl

theorem execLaneLost_of_usable {p : BitVec 7} {q : BitVec 4} {c : LossCause} {s : State}
    (hs : (s.port p.toNat).streams = true) (hq : q.toNat < 9) (hu : ((s.port p.toNat).lane q.toNat).usable = true) :
    execLaneLost p q c s = ok (happen s p.toNat (.laneLost q.toNat)) := by
  simp [execLaneLost, hs, hq, hu]

/-- The port while the level of PRSNT_N falls (R59, R63). -/
def Port.absent (P : Port) : Port :=
  { P with
    prsntLatch := false, prsnt := false, slotStatus := put (put P.slotStatus 0 1 0) 3 1 1
    slotCtrl := put P.slotCtrl 0 1 0, descRead := false, dynAddr := false, ledQuar := false }

theorem execPresenceReport_off {p : BitVec 7} {s : State} (hprsnt : (s.port p.toNat).prsnt = true) :
    execPresenceReport p false s = ok (happen (s.setPort p.toNat (s.port p.toNat).absent) p.toNat .presenceOff) := by
  simp [execPresenceReport, hprsnt, State.modPort, Port.absent, b2n]

/-- The port that has accepted an IBI (R58). -/
def Port.interrupted (P : Port) (mdb : BitVec 8) : Port :=
  { P with ibiCount := P.ibiCount + 1, lastMdb := mdb, slotStatus := put P.slotStatus 7 1 1 }

theorem execIbiReceive_headFault {p : BitVec 7} {more : List (BitVec 8)} {joint : Bool} {s : State}
    (hopen : sidebandOpen s p.toNat = true) : execIbiReceive p 2 more joint s =
      ok (happen (answerHead (s.modPort p.toNat (Port.interrupted · 2)) p.toNat headAddr joint true
        (min 8 more.length)) p.toNat .headFault) := by
  unfold Port.interrupted
  simp [execIbiReceive, hopen]

theorem execHotJoin_of_streams {p : BitVec 7} {joint : Bool} {s : State} (hopen : sidebandOpen s p.toNat = true)
    (hs : (s.port p.toNat).streams = true) :
    execHotJoin p joint s = ok (happen (answerHead s p.toNat hotJoinAddr joint true 0) p.toNat .hotJoin) := by
  simp [execHotJoin, hopen, hs]

/-- The port of a happening that waits, with its fields, after the interrupt controller has evaluated. -/
theorem settle_happen_port {s : State} {p : Nat} {h : Happening} {P : Port} (hport : s.port p = P)
    (hs : P.streams = true) : (settle (happen s p h)).port p = { P with pending := P.pending ++ [h] } := by
  rw [happen_of_streams (by rw [hport]; exact hs)]
  simp [hport]

/-- Settles O13: each happening of a port that streams waits for the end of its block period (`happen_of_streams`). -/
theorem portHappeningsAreKept : Obligations.PortHappeningsAreKept := by
  unfold Obligations.PortHappeningsAreKept
  refine ⟨fun p q c s hs hq hu => ?_, fun p s m ms hun hsends hs => ?_, fun p s m ms hun hsends => ?_,
    fun p s hst harm hcfg => ?_, fun p s => rfl, fun p s hprsnt hs => ?_, fun p more joint s hopen hs => ?_,
    fun p joint s hopen hs => ?_⟩
  · show execLaneLost p q c s = _
    rw [execLaneLost_of_usable hs hq hu, happen_of_streams hs]
    rfl
  · show execMessageFailure p s = _
    simp only [execMessageFailure, hun, if_pos hsends]
    rw [happen_of_streams (by rw [State.port_modPort, if_pos rfl]; exact hs), modPort_modPort]
    rfl
  · show execMessageResend p s = _
    simp only [execMessageResend, hun, if_pos hsends]
    rfl
  · show execAutoWarmHold p s = _
    simp [execAutoWarmHold, hst, harm, hcfg]
    rfl
  · refine ⟨_, execPresenceReport_off hprsnt, ?_⟩
    dsimp only
    rw [settle_happen_port (P := (s.port p.toNat).absent) (by rw [State.port_setPort, if_pos rfl]) hs]
    simp [Port.absent, bit_put]
  · refine ⟨_, execIbiReceive_headFault hopen, ?_⟩
    dsimp only
    rw [settle_happen_port (P := (s.port p.toNat).interrupted 2)
      (by rw [answerHead_port, State.port_modPort, if_pos rfl]) hs]
    simp [Port.interrupted, bit_put]
  · refine ⟨_, execHotJoin_of_streams hopen hs, ?_⟩
    dsimp only
    rw [settle_happen_port (answerHead_port ..) hs]

end Sys2Proof.Machine
end

section
/-! How a command's row completes: the checks that hold, and the effect over the state with the packet taken. -/
namespace Sys2Proof.Machine

/-- A ready command whose own checks hold concludes with its effect over the state with the packet taken. -/
theorem run_concludes {c : Cmd} {p : Packet} {s : State} (h : Ready c p s) {params state : List (Option Fail)}
    {eff : State → State × Rep} {x : State × Rep} (hp : Passes params) (hs : Passes state)
    (hx : eff (takePacket c p s) = x) :
    Cmd.run c p s params state eff = .next (settle (drainBad 16 (conclude c p x) p.fn.toNat)) := by
  rw [Cmd.run_ready h hp hs, hx]

theorem runPowered_concludes {c : Cmd} {p : Packet} {s : State} (h : Ready c p s) {hs : List Holder} {cap : Bool}
    {params state : List (Option Fail)} {eff : State → State × Rep} {x : State × Rep} (hp : Passes params)
    (hst : Passes state) (hd : ∀ d, Holder.die d ∈ hs → dieForbidden s d = false)
    (hx : eff (takePacket c p s) = x) :
    Cmd.runPowered c p s true hs cap params state eff =
      .next (settle (drainBad 16 (conclude c p x) p.fn.toNat)) := by
  rw [Cmd.runPowered_ready h hp hst hd, hx]

end Sys2Proof.Machine
end

section
/-! The density rows (R194, R197 to R199, R204). -/
namespace Sys2Proof.Machine

theorem offerImage_port (s : State) (p q : Nat) : (offerImage s p).port q = s.port q := by
  unfold offerImage forEach
  refine foldl_same (State.port · q) _ _ (fun s e => ?_) s
  extract_lets
  split
  · refine foldl_same (State.port · q) _ _ (fun s n => ?_) s
    extract_lets
    split <;> rfl
  · rfl

theorem Tab.get_of_absent {α : Type} {d : α} {t : Tab α} {k : Nat} (h : k ∉ t.map (·.1)) : t.get d k = d := by
  induction t with
  | nil => rfl
  | cons x t ih =>
    rw [List.map_cons, List.mem_cons, not_or] at h
    rw [Tab.get, if_neg (Ne.symm h.1), ih h.2]

/-- A cell of the merge of two banks before it saturates (R198). -/
def Dens.mergedCell (d : Dens) (i : Nat) : Nat :=
  decayN d.decayShift d.decayPending (d.frozen.get 0 i) + d.delta.get 0 i

/-- One cell of a merge writes that cell, and what saturation marks. -/
theorem mergeCell_eq (d : Dens) (i : Nat) : ∃ m c st, mergeCell d i = { d with
    live := d.live.set i (min (d.mergedCell i) (2 ^ 24 - 1)), satMap := m, satCells := c, satSet := st } := by
  unfold mergeCell Dens.mergedCell
  dsimp only
  split
  · rw [min_eq_left (by omega)]
    exact ⟨_, _, _, rfl⟩
  · rw [min_eq_right (by omega)]
    exact ⟨_, _, _, rfl⟩

theorem merge_live (cells : List Nat) (d : Dens) (i : Nat) : (cells.foldl mergeCell d).live.get 0 i =
    if i ∈ cells then min (d.mergedCell i) (2 ^ 24 - 1) else d.live.get 0 i := by
  induction cells generalizing d with
  | nil => simp
  | cons k cells ih =>
    obtain ⟨m, c, st, hmerge⟩ := mergeCell_eq d k
    rw [List.foldl_cons, ih, hmerge]
    have hsame : ∀ l m c st, ({ d with live := l, satMap := m, satCells := c, satSet := st } : Dens).mergedCell i =
        d.mergedCell i := fun _ _ _ _ => rfl
    rw [hsame, Tab.get_set]
    by_cases hk : i = k
    · simp [hk]
    · simp [hk]

theorem mergedCell_of_absent {d : Dens} {i : Nat} (h : i ∉ (d.frozen.map (·.1) ++ d.delta.map (·.1)).eraseDups) :
    d.mergedCell i = 0 := by
  rw [List.mem_eraseDups, List.mem_append, not_or] at h
  rw [Dens.mergedCell, Tab.get_of_absent h.1, Tab.get_of_absent h.2]
  exact Nat.le_zero.mp (decayN_le ..)

/-- Settles O29, row by row; the cells of a merge are `merge_live`. -/
theorem densityCompletes : Obligations.DensityCompletes := by
  unfold Obligations.DensityCompletes
  refine ⟨fun p s h hok hstop => ?_, fun p s h hsub => ?_, fun p s h hsub => ?_, fun p s h hhold hreq => ?_,
    fun p s h hclr hhold hrel himage => ?_, fun p s h hclr hhold hrel himage => ?_, fun p s h hhold => ?_,
    fun p s hdue hhold => ?_, fun p s q hreq hdue => ?_, fun p s hhold => ?_⟩
  · show execDensSet p s = _
    unfold execDensSet
    refine run_concludes h (by simp [hok]) (by simp [needStopped, hstop]) ?_
    rfl
  · show execDensGet p s = _
    unfold execDensGet
    refine run_concludes h (by simp [hsub]) (by simp) ?_
    simp [hsub, Rep.bytes]
  · show execDensGet p s = _
    unfold execDensGet
    refine run_concludes h (by simp [hsub]) (by simp) ?_
    simp [hsub, Rep.bytes]
  · show execDensSnap p s = _
    unfold execDensSnap
    refine run_concludes h (by simp) (by simp [hhold, hreq]) ?_
    rfl
  · show execDensReleaseClear p s = _
    unfold execDensReleaseClear
    rw [hclr, if_neg (by decide)]
    refine run_concludes h (by simp) (by simp [hhold, hrel, himage]) ?_
    simp [Dens.finishRelease, Rep.ok]
  · show execDensReleaseMerge p s = _
    unfold execDensReleaseMerge
    rw [hclr, if_neg (by decide)]
    refine run_concludes h (by simp) (by simp [hhold, hrel, himage]) ?_
    rfl
  · show execDensClear p s = _
    unfold execDensClear
    refine run_concludes h (by simp) (by simp [hhold]) ?_
    rfl
  · show execDensDecayStep p s = _
    have hnone : ((s.port p.toNat).dens.hold == .none) = true := by rw [hhold]; rfl
    simp only [execDensDecayStep, hdue, if_pos hnone]
    rfl
  · refine ⟨_, show execDensFreeze p s = _ by simp only [execDensFreeze, hreq, hdue]; rfl, ?_⟩
    simp [offerImage_port]
  · refine ⟨_, show execDensMergeDone p s = _ by simp only [execDensMergeDone, hhold]; rfl, ?_⟩
    simp only [settle_rest, State.port_modPort, if_true]
    refine ⟨trivial, trivial, trivial, trivial, fun i => ?_⟩
    rw [merge_live]
    split
    · rfl
    · next habsent =>
      have hzero := mergedCell_of_absent habsent
      unfold Dens.mergedCell at hzero
      rw [hzero]
      rfl

end Sys2Proof.Machine
end

section
/-! The rows and events of the engines (R218, R219, R221, R228 to R233). -/
namespace Sys2Proof.Machine

theorem notAfter_self (a : Slot) : notAfter a a = true := by
  rw [notAfter, slotsTo_self]
  rfl

theorem tmOf_congr {s t : State} (h : t.time = s.time) : t.tmOf = s.tmOf := by
  funext a
  simp [State.tmOf, h]

/-- The checks of a start at the next beat boundary hold whatever the data's beat is. -/
theorem engStart_immediate {p : Packet} {s : State} {resume : Bool} (h : Ready cmdEngStart p s)
    (hform : p.inb 4 1 = b2n resume) (himm : beatImm p 0 = true) (hbeat : beatFieldOk p 0 = true)
    (hstreams : streamsOk s p.idx = true)
    (hst : (if resume then (s.eng p.idx).st == .stopped && (s.eng p.idx).resumable
      else (s.eng p.idx).st == .stopped || (s.eng p.idx).st == .halted) = true)
    (hstart : (s.eng p.idx).startAt = none) (huse : clusterUsable s (engCluster p.idx) = true)
    (hdies : ∀ d, Holder.die d ∈ clusterHolders (engCluster p.idx) → dieForbidden s d = false) :
    engStart p s resume = .next (answered cmdEngStart p ((takePacket cmdEngStart p s).modEng p.idx fun E => { E with
      startAt := some (s.time.slotCount + 64), startResume := resume }) (s.tmOf (s.time.slotCount + 64)).toNat) := by
  have hat : engStartBeat p s = s.time.slotCount + 64 := if_pos himm
  have hform' : (p.inb 4 1 % 2 != b2n resume) = false := by
    rw [hform]
    cases resume <;> rfl
  unfold engStart
  rw [hat]
  dsimp only
  rw [hform', if_neg (by decide), huse]
  refine runPowered_concludes h ?_ ?_ hdies ?_
  · cases resume <;> simp [hform, hbeat, hstreams, b2n]
  · simp only [passes_cons, need_eq_none, hstart, hst, notAfter_self, passes_nil]
    simp
  · rw [tmOf_congr (takePacket_time ..)]
    rfl

/-- Settles O41, row by row; both starts are `engStart_immediate`. -/
theorem engineCommandsComplete : Obligations.EngineCommandsComplete := by
  unfold Obligations.EngineCommandsComplete
  refine ⟨fun p s h hsub hfirst hlen hbusy huse hdies => ?_, fun p s h hok hbusy => ?_, fun p s h hsub => ?_,
    fun p s h hsub => ?_, fun p s h hform himm hbeat hstreams hst hstart huse hdies => ?_,
    fun p s h hform himm hbeat hstreams hst hres hstart huse hdies => ?_, fun p s h hstart hst => ?_,
    fun p s h hack => ?_⟩
  · show execEngLoad p s = _
    unfold execEngLoad
    dsimp only
    rw [huse]
    refine runPowered_concludes h (by simp [hsub, hfirst, hlen]) (by simp [needEngIdle, hbusy]) hdies ?_
    simp [hsub, Rep.ok]
  · show execEngSet p s = _
    unfold execEngSet
    refine run_concludes h (by simp [hok]) (by simp [needEngIdle, hbusy]) ?_
    rfl
  · show execEngGet p s = _
    unfold execEngGet
    refine run_concludes h (by simp [hsub]) (by simp) ?_
    simp [hsub, Rep.bytes]
  · show execEngGet p s = _
    unfold execEngGet
    refine run_concludes h (by simp [hsub]) (by simp) ?_
    simp [hsub, Rep.bytes]
  · exact engStart_immediate h hform himm hbeat hstreams (by simpa using hst) hstart huse hdies
  · exact engStart_immediate h hform himm hbeat hstreams (by simp [hst, hres]) hstart huse hdies
  · show execEngStop p s = _
    unfold execEngStop
    refine run_concludes h (by simp) (by simp) ?_
    simp [State.modEng, hstart, hst, Rep.ok]
  · show execEngRingAck p s = _
    unfold execEngRingAck
    refine run_concludes h (by simpa using hack) (by simp) ?_
    rfl

theorem freshEngine_stream (E : Engine) (eff : Slot) (loss : Bool) {k : Nat} (hk : k < 4) :
    (freshEngine E eff loss).stream k = { Stream.reset with
      pendLoss := loss, gapped := (E.stream k).gapped
      due := (E.stream k).due.filter fun x => notAfter eff x.cursor } := by
  interval_cases k <;> rfl

theorem evFault_restarts (s : State) (owner : Option (BitVec 4)) (l kind : Nat) (inj : Bool) :
    (evFault s owner l kind inj).faults.restarts = s.faults.restarts := by
  unfold evFault
  cases owner <;> simp [logAt, State.modFaults]

/-- An element that the engine takes enters the FIFO whole, or is dropped and counted where it does not fit. -/
theorem elementArrive_of_runs {s : State} {e n : Nat} {el : Elem} {rest : List Elem}
    (hruns : (s.eng e).runs = true) (hstart : (s.eng e).startAt = none) (hdue : ((s.eng e).stream n).due = el :: rest)
    (hafter : notAfter (s.eng e).effSlot el.cursor = true) :
    elementArrive s e n = s.modEng e fun E => { E with
      streams := E.streams.mod Stream.reset n fun t =>
        if 4096 < t.words + el.words.length then { t with
          due := rest, lost := satInc t.lost el.words.length, pendLoss := true }
        else { t with
          due := rest, fifo := t.fifo ++ [{ el with loss := el.loss || t.pendLoss }], pendLoss := false } } := by
  have htakes : (s.eng e).takes = true := by simp [Engine.takes, hruns]
  have hrestart : ((s.eng e).st == .restarting) = false := by
    cases hst : (s.eng e).st <;> simp [Engine.runs, hst] at hruns ⊢
  unfold elementArrive
  dsimp only
  rw [hdue]
  dsimp only
  rw [hstart, hafter, hrestart, htakes]
  rw [if_neg (by decide), if_neg (by decide), Bool.false_or]
  by_cases hfull : 4096 < ((s.eng e).stream n).words + el.words.length
  · have hfull' : 4096 < (Tab.get Stream.reset (s.eng e).streams n).words + el.words.length := hfull
    rw [if_pos (decide_eq_true hfull)]
    simp only [State.modEng, Tab.mod, if_pos hfull']
    rfl
  · have hfull' : ¬ 4096 < (Tab.get Stream.reset (s.eng e).streams n).words + el.words.length := hfull
    rw [if_neg (by simpa using hfull), if_pos rfl]
    simp only [State.modEng, Tab.mod, if_neg hfull']
    rfl

/-- Settles O42, event by event. -/
theorem engineEventsComplete : Obligations.EngineEventsComplete := by
  unfold Obligations.EngineEventsComplete
  refine ⟨fun e s b hat hpast hfresh => ?_, fun e s b hstall hruns hready => ?_,
    fun e n el rest s hruns hstart hsrc himage hdue hafter => ?_, fun e s hruns => ?_, fun e s hst hphys => ?_,
    fun e s w hwarm hpast => ?_⟩
  · refine ⟨_, show execEngineStartBeat e s = _ by simp only [execEngineStartBeat, hat, hpast]; rfl, ?_⟩
    simp only [settle_rest, State.eng_modEng, if_true, hfresh]
    refine ⟨rfl, rfl, rfl, rfl, rfl, rfl, rfl, rfl, rfl, fun k hk => ?_, rfl, rfl, rfl, rfl⟩
    simp [freshEngine_stream, hk, Stream.reset]
  · show execEngStallEnd e s = _
    simp only [execEngStallEnd, hstall, hruns, hready]
    rfl
  · show execStreamElementArrive e n s = _
    rw [execStreamElementArrive, if_neg hsrc, if_neg himage, elementArrive_of_runs hruns hstart hdue hafter]
    rfl
  · exact if_pos hruns
  · refine ⟨_, show execEngineRestart e s = _ by
      rw [execEngineRestart, if_neg (by rw [hst]; decide), if_neg (by rw [hphys]; decide)]
      rfl, ?_⟩
    simp only [settle_rest, State.eng_modEng, if_true, evFault_rest, State.modFaults_eng_get, State.modEng_faults,
      evFault_restarts]
    refine ⟨rfl, rfl, rfl, rfl, rfl, trivial, trivial, fun n hn => ?_, rfl⟩
    have hstream := freshEngine_stream (s.eng e.toNat) s.time.slotCount true hn
    exact (congrArg Stream.pendLoss hstream).trans rfl
  · show execWarmSlotsEnd e s = _
    simp only [execWarmSlotsEnd, hwarm, hpast]
    rfl

end Sys2Proof.Machine
end

section
/-! The spectral rows and events (R164 to R166, R170 to R172, R176, R180 to R192, R195, R201). -/
namespace Sys2Proof.Machine

/-- SPEC_START on a chain that may start, with its containers usable. -/
theorem specStart_immediate {p : Packet} {s : State} (h : Ready cmdSpecStart p s) (himm : beatImm p 0 = true)
    (hbeat : beatFieldOk p 0 = true) (huse : clusterUsable s (portPair p.idx) = true)
    (hdies : ∀ d, Holder.die d ∈ clusterHolders (portPair p.idx) → dieForbidden s d = false)
    (hstop : (s.port p.idx).chain.active = false) (hfmt : fmtLogic (s.port p.idx).fmt.toNat = false)
    (hlive : (s.port p.idx).state = .live) (hhold : (s.port p.idx).dens.hold = .none)
    (hstart : startOk (s.port p.idx) = true) (hfits : densFits (s.port p.idx) = true) :
    Does (.specStart p) cmdSpecStart p s (fun a => a.fresh.2.modPort p.idx fun P =>
      startChain P (loadBeat s [p.idx])) (s.tmOf (loadBeat s [p.idx])).toNat := by
  show execSpecStart p s = _
  unfold execSpecStart
  dsimp only
  rw [huse, himm]
  refine runPowered_concludes h (by simp [hbeat]) ?_ hdies ?_
  · simp [needStopped, hstop, hfmt, hlive, hhold, hstart, hfits]
  · rw [tmOf_congr (takePacket_time ..)]
    rfl

theorem specSync_immediate {p : Packet} {s : State} (h : Ready cmdSpecSync p s) (himm : beatImm p 0 = true)
    (hbeat : beatFieldOk p 0 = true) (hactive : (s.port p.idx).chain.active = true) :
    Does (.specSync p) cmdSpecSync p s (fun a => a.modPort p.idx fun P => { P with
      chain := { P.chain with sched := P.chain.sched ++ [⟨nextBeatOf s p.idx, 2⟩] } })
      (s.tmOf (nextBeatOf s p.idx)).toNat := by
  show execSpecSync p s = _
  unfold execSpecSync
  dsimp only
  rw [himm]
  refine run_concludes h (by simp [hbeat]) (by simp) ?_
  rw [takePacket_port_get, if_pos hactive, tmOf_congr (takePacket_time ..)]
  rfl

theorem specTune_ftw {p : Packet} {s : State} (h : Ready cmdSpecTune p s) (hsel : p.dat 12 1 = 1)
    (hactive : (s.port p.idx).chain.active = true) :
    Does (.specTune p) cmdSpecTune p s
      (fun a => a.modPort p.idx fun P => { P with chain := { P.chain with
        tunes := P.chain.tunes ++ [⟨nextBeatOf s p.idx, some (BitVec.ofNat 48 (p.dat 0 6)), none⟩] } })
      (s.tmOf (nextBeatOf s p.idx)).toNat := by
  show execSpecTune p s = _
  unfold execSpecTune
  refine run_concludes h (by simp [hsel]) (by simp [hactive]) ?_
  dsimp only
  rw [hsel, tmOf_congr (takePacket_time ..)]
  rfl

theorem synchronisingResetBeat_single {p : BitVec 7} {s : State} {e : ChainEv}
    (hsched : (s.port p.toNat).chain.sched = [e]) (hdue : (s.port p.toNat).due e.beat = true)
    (hruns : (s.port p.toNat).chain.st ≠ .stopped ∨ e.cause = 1) (hcause : e.cause.toNat < 15)
    (hframes : ∀ q ∈ (s.port p.toNat).chain.seqList, (s.port p.toNat).readyFrame q = none) :
    Becomes (.synchronisingResetBeat p) s (chainReset (s.modPort p.toNat fun P => { P with
      chain := { P.chain with sched := [] } }) p.toNat e.cause.toNat e.beat) := by
  show execSynchronisingResetBeat p s = _
  have hnone : ((s.port p.toNat).chain.seqList.any fun q => ((s.port p.toNat).readyFrame q).isSome) = false := by
    rw [List.any_eq_false]
    intro q hq
    simp [hframes q hq]
  have hmin : min 15 e.cause.toNat = e.cause.toNat := min_eq_right hcause.le
  have hnow : ([e].filter fun x => x.beat == e.beat) = [e] := by simp
  have hlater : ([e].filter fun x => x.beat != e.beat) = [] := by simp
  unfold execSynchronisingResetBeat
  dsimp only
  rw [hsched]
  have hwaits : (!(s.port p.toNat).due e.beat ||
      (s.port p.toNat).chain.seqList.any fun q => ((s.port p.toNat).readyFrame q).isSome) = false := by
    rw [hnone, hdue]
    rfl
  have hgoes : ((s.port p.toNat).chain.st == .stopped && !(e.cause.toNat == 1)) = false := by
    obtain h | h := hruns
    · simp [h]
    · simp [h]
  simp only [List.foldl_nil, hwaits, hnow, hlater, List.map_singleton, List.foldl_cons, hmin, hgoes,
    Bool.false_eq_true, if_false]
  rfl

/-- Settles O26, row by row. -/
theorem spectralRowsComplete : Obligations.SpectralRowsComplete := by
  unfold Obligations.SpectralRowsComplete
  refine ⟨⟨fun p s h hok hstop => ?_, fun p s h hsub => ?_, fun p s h hsub => ?_,
    fun p s h => specStart_immediate h, fun p s h => ?_, fun p s h => specSync_immediate h, fun p s h => specTune_ftw h,
    fun p s h hsub hdflt hstop => ?_,
    fun p s h hsub hdflt hlen hstop => ?_, fun p s n h hsub hn hlen hstop => ?_, fun p s h hsub hok hstop => ?_,
    fun p s h hsub hok => ?_, fun p s h hrange hlen hactive => ?_⟩, fun p s e => synchronisingResetBeat_single,
    fun p q f s hready hruns hseq hdecay hsnap => ?_⟩
  · show execSpecSet p s = _
    unfold execSpecSet
    refine run_concludes h (by simp [hok]) (by simp [needStopped, hstop]) ?_
    rfl
  · show execSpecGet p s = _
    unfold execSpecGet
    refine run_concludes h (by simp [hsub]) (by simp) ?_
    simp [hsub, Rep.bytes]
  · show execSpecGet p s = _
    unfold execSpecGet
    refine run_concludes h (by simp [hsub]) (by simp) ?_
    simp [hsub, Rep.bytes]
  · show execSpecStop p s = _
    unfold execSpecStop
    refine run_concludes h (by simp) (by simp) ?_
    rfl
  · show execSpecCoefSet p s = _
    unfold execSpecCoefSet
    refine run_concludes h (by simp [hsub, hdflt]) (by simp [needStopped, hstop]) ?_
    simp [hdflt, Rep.ok]
  · show execSpecCoefSet p s = _
    unfold execSpecCoefSet
    refine run_concludes h (by simp [hsub, hdflt, hlen]) (by simp [needStopped, hstop]) ?_
    simp [hsub, hdflt, Rep.ok]
  · subst hn
    show execSpecWindowSet p s = _
    unfold execSpecWindowSet
    refine run_concludes h (by simp [hsub, hlen]) (by simp [needStopped, hstop]) ?_
    simp [hsub, Rep.ok]
  · show execSpecTrigSet p s = _
    unfold execSpecTrigSet
    refine run_concludes h (by simp [hsub, hok]) (by simp [needStopped, hstop]) ?_
    rfl
  · show execSpecTrigTune p s = _
    unfold execSpecTrigTune
    refine run_concludes h (by simp [hsub, hok]) (by simp) ?_
    rfl
  · show execSpecMaskSet p s = _
    unfold execSpecMaskSet
    refine run_concludes h (by simp [hrange, hlen]) (by simp) ?_
    simp [State.modPort, hactive, Rep.ok]
  · show execFrameComplete p q s = _
    simp [execFrameComplete, hready, hruns, hseq, hdecay, hsnap]
    rfl

end Sys2Proof.Machine
end

section
/-! Ends of accepted work leave the hub's other parts; the partition rows and the port rows (R51, R300, R429). -/
namespace Sys2Proof.Machine

/-- The end of accepted work takes it from the accepted commands, and leaves the rest of the hub. -/
theorem finish_hub (s : State) (o : Origin) (status detail extra : Nat) :
    (finish s o status detail extra).hub =
      { s.hub with accepted := (finish s o status detail extra).hub.accepted } := by
  have hput : ∀ t f e, (putEntry t f e).hub = t.hub := fun t f e => by simp
  unfold finish
  split
  · rfl
  · dsimp only
    split
    · rfl
    · split
      · rfl
      · split
        · rfl
        · split
          · rw [hput]
            rfl
          · rfl

theorem finishJob_hub (s : State) (j : Job) (status detail extra : Nat) :
    ∃ acc, (finishJob s j status detail extra).hub = { s.hub with accepted := acc } := by
  unfold finishJob
  generalize (s.hub.accepted.filter (·.job == j)).map (·.origin) = os
  induction os generalizing s with
  | nil => exact ⟨_, rfl⟩
  | cons o os ih =>
    obtain ⟨acc, hacc⟩ := ih (finish s o status detail extra)
    exact ⟨acc, by rw [List.foldl_cons, hacc, finish_hub]⟩

theorem conclude_wipes (c : Cmd) (p : Packet) (x : State × Rep) : (conclude c p x).hub.wipes = x.1.hub.wipes := by
  obtain ⟨s, r⟩ := x
  cases r with
  | done => simp [conclude]
  | accept =>
    simp only [conclude]
    split <;> simp
  | wait => rfl

theorem endUserSession_keeps (s : State) (k cause : Nat) :
    (endUserSession s k cause).hub = s.hub ∧ (∀ c, (endUserSession s k cause).chan c = s.chan c) := by
  unfold endUserSession
  split
  · exact ⟨rfl, fun _ => rfl⟩
  · exact ⟨by simp [noteUnsealed], by simp [noteUnsealed]⟩

theorem wipeJob_keeps (s : State) (m : Nat) : (wipeJob s m).hub.wipes = s.hub.wipes ∧
    ∀ k, (wipeJob s m).part k = s.part k := by
  unfold wipeJob
  dsimp only
  split
  · obtain ⟨acc, hacc⟩ := finishJob_hub ((s.modCmp m fun C => { C with
      st := 3, outcome := 7, input := [], output := [] }).modDma (s.cmpEng m).channel.toNat fun D => { D with
      st := .idle, cur := none, nextDesc := none, recWait := none, haltPend := none, job := none }) (.cmp m) 0x60 0 0
    exact ⟨by rw [hacc]; rfl, by simp⟩
  · exact ⟨rfl, fun _ => rfl⟩

theorem forEach_wipeJob_keeps (ms : List Nat) (s : State) : (forEach ms wipeJob s).hub.wipes = s.hub.wipes ∧
    ∀ k, (forEach ms wipeJob s).part k = s.part k :=
  ⟨foldl_same (·.hub.wipes) ms wipeJob (fun s m => (wipeJob_keeps s m).1) s,
    fun k => foldl_same (State.part · k) ms wipeJob (fun s m => (wipeJob_keeps s m).2 k) s⟩

/-- What starting the wipe of a partition does to the list of wipes and to the partition. -/
theorem startPartWipe_wipes (s : State) (k : Nat) :
    ((startPartWipe s k).part k).wiping = true ∧
    (startPartWipe s k).hub.wipes =
      if (partChans s k).isEmpty then s.hub.wipes else s.hub.wipes ++ [⟨.part k, partChans s k⟩] := by
  obtain ⟨hhub, hchan⟩ := endUserSession_keeps s k 2
  have hall : ((partChans s k).filter fun c => (s.chan c).st != .retired && (s.chan c).st != .fenced) =
      partChans s k := by
    rw [List.filter_eq_self]
    intro c hc
    have hmem := (List.mem_filter.mp hc).2
    rw [Bool.and_eq_true] at hmem
    exact hmem.1
  have hmods : ∀ (cs : List Nat) (f : Chan → Chan) (t : State),
      (forEach cs (fun s c => s.modChan c f) t).hub = t.hub ∧
      (forEach cs (fun s c => s.modChan c f) t).parts = t.parts := fun cs f t =>
    ⟨foldl_same (·.hub) cs (fun s c => s.modChan c f) (fun _ _ => rfl) t,
      foldl_same (·.parts) cs (fun s c => s.modChan c f) (fun _ _ => rfl) t⟩
  unfold startPartWipe
  extract_lets s1 s2
  obtain ⟨hwipes, hpart⟩ := forEach_wipeJob_keeps ((List.range 16).filter fun m => (s2.cmpEng m).part == k) s2
  have hkeep : ∀ c, (s1.modPart k fun P => { P with wiping := true }).chan c = s.chan c := fun c => hchan c
  rw [hwipes, hpart]
  unfold s2 startWipe
  simp only [hkeep, hall]
  constructor
  · simp [State.part, hmods, State.modPart]
  · simp only [State.modHub, (hmods _ _ _).1]
    rw [← hhub]
    rfl

theorem b2n_beq_one {n : Nat} (h : n < 2) : b2n (n == 1) = n := by
  interval_cases n <;> rfl

/-- Settles O12, row by row. -/
theorem portCommandsComplete : Obligations.PortCommandsComplete := by
  unfold Obligations.PortCommandsComplete
  refine ⟨fun p s h hst hdie hheld hboot => ?_, fun p s h harm => ?_, fun p s h hs hdie => ?_,
    fun p s h hfmt harm hs => ?_, fun p s h harm hst => ?_, fun p s h hlo hhi hlen hwords hs => ?_, fun p s h => ?_⟩
  · show execPortOpen p s = _
    unfold execPortOpen
    refine run_concludes h (by simp) (by simp [portServes, needPort, needDie, hst, hdie, hheld, hboot]) ?_
    rfl
  · show execPortClose p s = _
    unfold execPortClose
    refine run_concludes h (by simp) (by simp [needUnarmed, needPort, harm]) ?_
    simp [closePort, Rep.ok]
  · show execPortRetrain p s = _
    unfold execPortRetrain
    refine run_concludes h (by simp) (by simp [needPort, needDie, Port.retrainable, hs, hdie]) ?_
    rfl
  · show execPortFmt p s = _
    unfold execPortFmt
    refine run_concludes h (by simp [hfmt]) (by simp [needUnarmed, needPort, harm, hs]) ?_
    rw [b2n_beq_one (Nat.mod_lt _ (by decide))]
    rfl
  · show execPortHold p s = _
    unfold execPortHold
    refine run_concludes h (by simp) (by simp [needUnarmed, needPort, harm, hst]) ?_
    rfl
  · show execPortPass p s = _
    unfold execPortPass
    refine run_concludes h ?_ (by simp [needPort, hs]) ?_
    · simpa [hlo, hhi, hlen] using hwords
    · rfl
  · show execPortGet p s = _
    unfold execPortGet
    refine run_concludes h (by simp) (by simp) ?_
    simp [Rep.bytes]

theorem spanState_eq_none {p : Packet} {bad : Nat → Bool} (h : ∀ i ∈ spanOf p, bad i = false) :
    spanState p bad = none := by
  have hfind : (spanOf p).find? bad = none := List.find?_eq_none.mpr fun i hi => by simp [h i hi]
  rw [spanState, hfind]

/-- PART_WIPE is accepted, and the wipe of the partition ends in the same step exactly when no wipe of it is left. -/
theorem exec_partWipe {p : Packet} {s : State} (h : Ready cmdPartWipe p s) :
    exec (.partWipe p) s =
      if wipesLeft (startPartWipe (takePacket cmdPartWipe p s) p.partition.toNat) p.partition.toNat then
        .next (acceptedAs cmdPartWipe p (startPartWipe (takePacket cmdPartWipe p s) p.partition.toNat)
          (.partWipe p.partition.toNat))
      else ok (settlePartWipe (endPartWipe
        (acceptedAs cmdPartWipe p (startPartWipe (takePacket cmdPartWipe p s) p.partition.toNat)
          (.partWipe p.partition.toNat)) p.partition.toNat 1) p.partition.toNat) := by
  show execPartWipe p s = _
  have hrun := run_concludes h (params := []) (state := [])
    (eff := fun s => (startPartWipe s p.partition.toNat, .accept (.partWipe p.partition.toNat) 0))
    (by simp) (by simp) rfl
  unfold execPartWipe
  dsimp only
  rw [hrun]
  obtain ⟨hwiping, -⟩ := startPartWipe_wipes (takePacket cmdPartWipe p s) p.partition.toNat
  generalize startPartWipe (takePacket cmdPartWipe p s) p.partition.toNat = a at *
  have hleft : wipesLeft (acceptedAs cmdPartWipe p a (.partWipe p.partition.toNat)) p.partition.toNat =
      wipesLeft a p.partition.toNat := by
    simp [wipesLeft, acceptedAs, conclude_wipes]
  have hpart : ((acceptedAs cmdPartWipe p a (.partWipe p.partition.toNat)).part p.partition.toNat).wiping = true := by
    simp [acceptedAs, hwiping]
  unfold acceptedAs at hleft hpart ⊢
  dsimp only
  rw [hleft, hpart]
  cases wipesLeft a p.partition.toNat <;> rfl

theorem partChans_takePacket (c : Cmd) (p : Packet) (s : State) (k : Nat) :
    partChans (takePacket c p s) k = partChans s k := by
  simp [partChans]

/-- Settles O11, row by row; PART_WIPE is `exec_partWipe`. -/
theorem partitionCommandsComplete : Obligations.PartitionCommandsComplete := by
  unfold Obligations.PartitionCommandsComplete
  refine ⟨fun p s h hspan howners => ?_, fun p s h hspan howners => ?_, fun p s h hchans hleft => ?_,
    fun p s h hchans => ?_, fun p s h hone hrange hlen hentries hparts hdirty => ?_, fun p s h hrange => ?_,
    fun p s h => ?_, fun p s h hint => ?_, fun k s hint hafter hpast => ?_⟩
  · show execPartAssign p s = _
    unfold execPartAssign
    refine run_concludes h hspan ?_ ?_
    · rw [passes_cons, spanState_eq_none]
      · simp
      · intro i hi
        obtain ho | ho := howners i hi <;> simp [ho]
    · rfl
  · show execPartRelease p s = _
    unfold execPartRelease
    refine run_concludes h hspan ?_ ?_
    · rw [passes_cons, spanState_eq_none]
      · simp
      · intro i hi
        obtain ho | ⟨ho, hb⟩ := howners i hi
        · simp [ho]
        · simp [ho, hb]
    · rfl
  · rw [exec_partWipe h, if_neg]
    · rfl
    · obtain ⟨-, hwipes⟩ := startPartWipe_wipes (takePacket cmdPartWipe p s) p.partition.toNat
      rw [partChans_takePacket, hchans, List.isEmpty_nil, if_pos rfl, takePacket_hub] at hwipes
      rw [wipesLeft, hwipes]
      simpa [wipesLeft] using hleft
  · show exec (.partWipe p) s = _
    rw [exec_partWipe h, if_pos]
    obtain ⟨-, hwipes⟩ := startPartWipe_wipes (takePacket cmdPartWipe p s) p.partition.toNat
    rw [partChans_takePacket, if_neg (by simpa using hchans)] at hwipes
    rw [wipesLeft, hwipes]
    simp
  · show execPartWindowSet p s = _
    unfold execPartWindowSet
    have hzeros : ((newEntries p).all fun e => zeros e [(47, 17), (103, 25)]) = true :=
      List.all_eq_true.mpr fun e he => (hentries e he).1
    have hshape : ((newEntries p).all fun e => !winValid e || winShape e) = true :=
      List.all_eq_true.mpr fun e he => by
        have := (hentries e he).2.1
        cases hv : winValid e <;> simp_all
    have hover : (newEntries p).any (overlapsOther (newWindows p s)) = false :=
      List.any_eq_false.mpr fun e he => by simp [(hentries e he).2.2]
    have hsame : ((List.range (p.inb 8 4)).any fun i =>
        winValid ((newEntries p).getD i 0) && winValid (s.window (p.inb 4 4 + i)) &&
          winPart (s.window (p.inb 4 4 + i)) != winPart ((newEntries p).getD i 0)) = false :=
      List.any_eq_false.mpr fun i hi => by
        have := hparts i (List.mem_range.mp hi)
        cases hn : winValid ((newEntries p).getD i 0) <;> cases ho : winValid (s.window (p.inb 4 4 + i)) <;>
          simp_all
    refine run_concludes h ?_ ?_ ?_
    · simp only [passes_cons, need_eq_none, hzeros, hshape, hover, passes_nil]
      simp [hone, hrange, hlen]
      omega
    · simp only [passes_cons, need_eq_none, hsame, hdirty, passes_nil]
      simp
    · rfl
  · show execPartWindowInval p s = _
    unfold execPartWindowInval
    refine run_concludes h ?_ (by simp) ?_
    · simp [hrange]
      omega
    · rfl
  · show execPartGet p s = _
    unfold execPartGet
    refine run_concludes h (by simp) (by simp) ?_
    simp [Rep.bytes, State.pairOwner, State.dmaOwner, State.pcsOwner, State.lineOwner]
  · show execPartEvents p s = _
    unfold execPartEvents
    refine run_concludes h (by simp [hint]) (by simp) ?_
    rfl
  · have hguard : ((s.part k.toNat).evInterval = 0 || !notAfter (s.part k.toNat).evT0 s.time.slotCount ||
        slotsTo (s.part k.toNat).evT0 s.time.slotCount <
          ((s.part k.toNat).evIdx + 1) * trigInterval (s.part k.toNat).evInterval.toNat : Bool) = false := by
      simpa [hafter, hpast] using hint
    refine ⟨_, show execEvTrigInterval k s = _ by simp only [execEvTrigInterval, hguard]; rfl, ?_⟩
    split <;> simp

end Sys2Proof.Machine
end

section
/-! The device and log rows (R300, R301, R438, R439, R455 to R457) and the gate and slalom rows (R95, R106, R110,
R125, R126, R128 to R130). -/
namespace Sys2Proof.Machine

theorem deviceInfo_takePacket (c : Cmd) (p : Packet) (s : State) (k : Nat) :
    deviceInfo (takePacket c p s) k = deviceInfo s k := by
  simp [deviceInfo, runningFw, lifecycle]

theorem oldestLogged_takePacket (c : Cmd) (p : Packet) (s : State) :
    oldestLogged (takePacket c p s) = oldestLogged s := by
  simp [oldestLogged]

theorem ledgerView_takePacket (c : Cmd) (p : Packet) (s : State) : ledgerView (takePacket c p s) = ledgerView s := by
  simp [ledgerView, ledgerHead, stepRecords]

theorem slice_zero_of_le {bs : List Byte} {n : Nat} (h : n ≤ bs.length) : slice bs 0 n = bs.take n := by
  simp [slice, h]

/-- Settles O10, row by row. -/
theorem deviceAndLogCommandsComplete : Obligations.DeviceAndLogCommandsComplete := by
  unfold Obligations.DeviceAndLogCommandsComplete
  refine ⟨fun p s h => ?_, fun p s h hrec => ?_, fun p s h hrec => ?_, fun p s h => ?_, fun p s h hmax hlen => ?_,
    fun p s h hlo hhi => ?_, fun p s h => ?_, fun s hnew => if_neg hnew, fun p s h htarget hsub => ?_,
    fun p s h hloc hstack hsub => ?_, fun p s h htarget hsub hslot => ?_⟩
  · show execDevInfo p s = _
    unfold execDevInfo
    refine run_concludes h (by simp) (by simp) ?_
    rw [deviceInfo_takePacket]
    rfl
  · show execDevStatus p s = _
    unfold execDevStatus
    refine run_concludes h (by simp) (by simp) ?_
    simp [seenFaults, hrec, Rep.bytes]
  · show execDevStatus p s = _
    unfold execDevStatus
    refine run_concludes h (by simp) (by simp) ?_
    simp [seenFaults, hrec, Rep.bytes]
  · show execDevReset p s = _
    unfold execDevReset
    refine run_concludes h (by simp) (by simp) ?_
    rfl
  · show execDevEcho p s = _
    unfold execDevEcho
    refine run_concludes h (by simp [hmax, hlen]) (by simp) ?_
    rw [slice_zero_of_le hlen]
    rfl
  · show execLogRead p s = _
    unfold execLogRead
    refine run_concludes h (by simp [hlo, hhi]) (by simp) ?_
    rw [oldestLogged_takePacket, takePacket_faults]
    simp [markRead]
  · show execLogInfo p s = _
    unfold execLogInfo
    refine run_concludes h (by simp) (by simp) ?_
    rw [takePacket_faults]
    rfl
  · show execDiagLedgerRead p s = _
    unfold execDiagLedgerRead
    rw [hsub, if_neg (by decide)]
    refine run_concludes h (by simp [htarget]) (by simp) ?_
    rw [ledgerView_takePacket]
    rfl
  · show execDiagLedgerClearStrike p s = _
    unfold execDiagLedgerClearStrike
    rw [if_neg (by simp [hsub])]
    refine run_concludes h (by simp [hloc, hstack]) (by simp) ?_
    rfl
  · show execDiagLedgerClearSlot p s = _
    unfold execDiagLedgerClearSlot
    rw [if_neg (by simp [hsub])]
    refine run_concludes h (by simp [htarget, hslot]) (by simp) ?_
    rfl

theorem nextBeatOf_takePacket (c : Cmd) (p : Packet) (s : State) : nextBeatOf (takePacket c p s) = nextBeatOf s := by
  funext n
  simp [nextBeatOf]

theorem slalomBeatOf_takePacket (c : Cmd) (p : Packet) (s : State) (n : Nat) :
    slalomBeatOf (takePacket c p s) n = slalomBeatOf s n := by
  simp [slalomBeatOf]

/-- A tune joins the port's queue for slot 0 of the next beat, and its reply names the beat. -/
theorem queueTune_takePacket (c : Cmd) (p : Packet) (s : State) (n : Nat) (sel : Option Nat) (v : Nat) :
    queueTune (takePacket c p s) n sel v = ((takePacket c p s).modPort n fun P => { P with
      trig := { P.trig with tunes := P.trig.tunes ++ [⟨sel, v, nextBeatOf s n⟩] } }, nextBeatOf s n) := by
  rw [← nextBeatOf_takePacket c p s]
  rfl

/-- Settles O17, row by row. -/
theorem gateAndSlalomCommandsComplete : Obligations.GateAndSlalomCommandsComplete := by
  unfold Obligations.GateAndSlalomCommandsComplete
  refine ⟨fun p s h hsub hok hlinks howned harm => ?_, fun p s h hsub => ?_, fun p s h hsub hok harm => ?_,
    fun p s h hok harm => ?_, fun p s h hsub => ?_, fun p s h hsub => ?_, fun p s h harm => ?_,
    fun p s h hsub hok howner howned hen => ?_, fun p s h hsub howner => ?_⟩
  · show execGateSet p s = _
    unfold execGateSet
    refine run_concludes h (by simp [hsub, hok, hlinks]) (by simp [needIdle, howned, harm]) ?_
    rfl
  · show execGateGet p s = _
    unfold execGateGet
    refine run_concludes h (by simp [hsub]) (by simp) ?_
    simp [Rep.bytes]
  · show execGateTune p s = _
    unfold execGateTune
    refine run_concludes h (by simp [hsub, hok]) (by simp [needArmed, harm]) ?_
    rw [queueTune_takePacket]
    dsimp only
    rw [tmOf_congr (s := s) (by simp)]
    rfl
  · show execSlalomSet p s = _
    unfold execSlalomSet
    refine run_concludes h (by simp [hok]) (by simp [needIdle, harm]) ?_
    rfl
  · show execSlalomGet p s = _
    unfold execSlalomGet
    refine run_concludes h (by simp [hsub]) (by simp) ?_
    simp [hsub, Rep.bytes]
  · show execSlalomGet p s = _
    unfold execSlalomGet
    refine run_concludes h (by simp [hsub]) (by simp) ?_
    dsimp only
    rw [hsub, if_neg (by decide), tmOf_congr (takePacket_time ..), slalomBeatOf_takePacket, takePacket_port_get]
    rfl
  · show execSlalomTune p s = _
    unfold execSlalomTune
    refine run_concludes h (by simp) (by simp [needArmed, harm]) ?_
    rw [queueTune_takePacket]
    dsimp only
    rw [tmOf_congr (s := s) (by simp)]
    rfl
  · show execSlalomPcsSet p s = _
    unfold execSlalomPcsSet
    refine run_concludes h (by simp [hsub, hok]) ?_ ?_
    · obtain hen | hen := hen <;> simp [howner, howned, hen]
    · rfl
  · show execSlalomPcsGet p s = _
    unfold execSlalomPcsGet
    refine run_concludes h (by simp [hsub]) (by simp [howner]) ?_
    simp [Rep.bytes]

end Sys2Proof.Machine
end

section
/-! The run rows (R112, R113, R133, R145, R147, R156). -/
namespace Sys2Proof.Machine

/-- RUN_ARM of ports none of which is WARM needs no power. -/
theorem runArm_unpowered {p : Packet} {s : State} (h : Ready cmdRunArm p s) (hmask : maskPorts p ≠ [])
    (hbeat : beatFieldOk p 0 = true) (harm : Passes (armChecks p s (loadBeat s (maskPorts p))))
    (hwarm : ∀ q ∈ maskPorts p, (s.port q).state ≠ .warm) :
    let arm := if beatImm p 0 then loadBeat s (maskPorts p) else beatAt p 0
    Does (.runArm p) cmdRunArm p s (armPorts p arm) (s.tmOf arm).toNat := by
  intro arm
  have hnone : (maskPorts p).filter (fun q => (s.port q).state == .warm) = [] :=
    List.filter_eq_nil_iff.mpr fun q hq => by simp [hwarm q hq]
  show execRunArm p s = _
  unfold execRunArm
  dsimp only
  rw [hnone]
  refine runPowered_concludes h (by simp [hmask, hbeat]) harm (by simp) ?_
  rw [tmOf_congr (takePacket_time ..)]
  rfl

/-- Settles O23, row by row. -/
theorem runCommandsComplete : Obligations.RunCommandsComplete := by
  unfold Obligations.RunCommandsComplete
  refine ⟨fun p s h hok harm => ?_, fun p s h => ?_, fun p s => runArm_unpowered,
    fun p s h hmask hbeat howner hboot hdue => ?_, fun p s h hbits hrange => ?_, fun p s h => ?_,
    fun p s h hrange hlen harm => ?_⟩
  · show execRunSet p s = _
    unfold execRunSet
    refine run_concludes h (by simp [hok]) (by simp [needIdle, harm]) ?_
    rfl
  · show execRunGet p s = _
    unfold execRunGet
    refine run_concludes h (by simp) (by simp) ?_
    simp [Rep.bytes]
  · intro d
    show execRunDisarm p s = _
    unfold execRunDisarm
    have howners : ((maskPorts p).all fun q => s.portOwner q == some p.fn) = true :=
      List.all_eq_true.mpr fun q hq => by simp [howner q hq]
    refine run_concludes h (by simp [hmask, hbeat]) ?_ ?_
    · rw [passes_append, passes_append]
      refine ⟨⟨by simp [howners], fun f hf => ?_⟩, by simpa using hdue⟩
      obtain ⟨q, -, rfl⟩ := List.mem_map.mp hf
      simp [bootBusy, hboot]
    · dsimp only
      rw [tmOf_congr (takePacket_time ..)]
      rfl
  · show execRunRelease p s = _
    unfold execRunRelease
    refine run_concludes h ?_ (by simp) ?_
    · rw [passes_cons, need_eq_none, Bool.and_eq_true, decide_eq_true_eq, decide_eq_true_eq]
      exact ⟨⟨hbits, hrange⟩, passes_nil⟩
    · rfl
  · show execRunStatus p s = _
    unfold execRunStatus
    refine run_concludes h (by simp) (by simp) ?_
    simp [Rep.bytes]
  · show execRunMaskSet p s = _
    unfold execRunMaskSet
    refine run_concludes h (by simp [hrange, hlen]) (by simp [needIdle, harm]) ?_
    rfl

end Sys2Proof.Machine
end

section
/-! The memory rows (R251, R252, R258, R260, R262, R270, R271, R276, R300). -/
namespace Sys2Proof.Machine

theorem conclude_memCfg (c : Cmd) (p : Packet) (x : State × Rep) : (conclude c p x).hub.memCfg = x.1.hub.memCfg := by
  obtain ⟨s, r⟩ := x
  cases r with
  | done => simp [conclude]
  | accept =>
    simp only [conclude]
    split <;> simp
  | wait => rfl

/-- The channels that a change of a select field wipes enter their wipe (R252). -/
def wipeForCfg (a : State) (p : Packet) : State :=
  (forEach (wipeable a captureChans) (fun a k => a.modChan k fun C => { C with
      wiping := true, openRow := [], st := if C.st == .service then .inOrder else C.st }) a).modHub
    fun H => { H with memCfg := p.blk 256, cfgWipe := true
                      wipes := H.wipes ++ [⟨.memCfg, wipeable a captureChans⟩] }

/-- The effect of MEM_CFG_SET over the state with the packet taken, before a wipe of no channel ends. -/
def memCfgRow (p : Packet) (same : Bool) (a : State) : State × Rep :=
  if same then (a.modHub fun H => { H with memCfg := p.blk 256 }, .ok) else (wipeForCfg a p, .accept .memCfg 0)

/-- A wipe of no channel ends, and with it MEM_CFG_SET (R252). -/
def endCfgWipe (s : State) : State :=
  finishJob (s.modHub fun H => { H with
    cfgWipe := false, wipes := H.wipes.filter fun w => w.kind != .memCfg || !w.chans.isEmpty }) .memCfg 0 0 0

/-- The wipes hold one of MEM_CFG_SET that has no channel left. -/
abbrev cfgWipeEnded (ws : List Wipe) : Bool := ws.any fun w => w.kind == .memCfg && w.chans.isEmpty

theorem execMemCfgSet_eq {p : Packet} {s : State} (h : Ready cmdMemCfgSet p s) (hok : memCfgOk (p.blk 256) = true)
    (hboot : 11 ≤ s.boot.step) (harm : s.ports.any (fun x => x.2.trig.armed) = false) :
    let x := memCfgRow p (fbv (p.blk 256) 0 80 == fbv s.hub.memCfg 0 80) (takePacket cmdMemCfgSet p s)
    let t := settle (drainBad 16 (conclude cmdMemCfgSet p x) p.fn.toNat)
    execMemCfgSet p s = if cfgWipeEnded x.1.hub.wipes then ok (endCfgWipe t) else .next t := by
  intro x t
  have hrun := run_concludes h (x := x)
    (params := [need (memCfgOk (p.blk 256)) (badParam noLoc (p.dataOff false))])
    (state := [bootBusy s (loc 4 0), need (!s.ports.any fun x => x.2.trig.armed) (stState locPackage 0)])
    (eff := memCfgRow p (fbv (p.blk 256) 0 80 == fbv s.hub.memCfg 0 80)) (by simp [hok])
    (by simp only [passes_cons, need_eq_none, harm, bootBusy, hboot]; simp) rfl
  have hwipes : t.hub.wipes = x.1.hub.wipes := by simp [t, conclude_wipes]
  unfold execMemCfgSet
  dsimp only
  unfold memCfgRow wipeForCfg at hrun
  rw [hrun]
  dsimp only
  rw [← hwipes]
  rfl

theorem wipeable_takePacket (c : Cmd) (p : Packet) (s : State) (cs : List Nat) :
    wipeable (takePacket c p s) cs = wipeable s cs := by
  simp [wipeable]

theorem wipeForCfg_hub (a : State) (p : Packet) : (wipeForCfg a p).hub = { a.hub with
    memCfg := p.blk 256, cfgWipe := true, wipes := a.hub.wipes ++ [⟨.memCfg, wipeable a captureChans⟩] } := by
  have hchans : ∀ (cs : List Nat) (f : Chan → Chan), (forEach cs (fun s c => s.modChan c f) a).hub = a.hub :=
    fun cs f => foldl_same (·.hub) cs (fun s c => s.modChan c f) (fun _ _ => rfl) a
  simp only [wipeForCfg, State.modHub, hchans]

theorem wipeForCfg_mem (a : State) (p : Packet) : (wipeForCfg a p).mem = a.mem := by
  refine foldl_same (·.mem) _ _ (fun s c => ?_) a
  rfl

theorem endCfgWipe_hub (s : State) :
    (endCfgWipe s).hub.memCfg = s.hub.memCfg ∧ (endCfgWipe s).hub.cfgWipe = false := by
  obtain ⟨acc, hacc⟩ := finishJob_hub (s.modHub fun H => { H with
    cfgWipe := false, wipes := H.wipes.filter fun w => w.kind != .memCfg || !w.chans.isEmpty }) .memCfg 0 0 0
  unfold endCfgWipe
  rw [hacc]
  exact ⟨rfl, rfl⟩

/-- Settles O43, row by row; MEM_CFG_SET is `execMemCfgSet_eq`. -/
theorem memoryCommandsComplete : Obligations.MemoryCommandsComplete := by
  unfold Obligations.MemoryCommandsComplete
  refine ⟨fun p s h hok hboot harm hwipes hsame => ?_, fun p s h hok hboot harm hwipes hdiff hchans => ?_,
    fun p s h hok hboot harm hdiff hchans => ?_, fun p s h => ?_, fun p s h => ?_, fun p s h => ?_,
    fun p s h harm hst => ?_, fun p s h hlodge hserves => ?_⟩
  · show execMemCfgSet p s = _
    rw [execMemCfgSet_eq h hok hboot harm, hsame, beq_self_eq_true]
    exact if_neg (by simp [memCfgRow, cfgWipeEnded, hwipes])
  · show execMemCfgSet p s = _
    rw [execMemCfgSet_eq h hok hboot harm, beq_eq_false_iff_ne.mpr hdiff]
    refine if_neg ?_
    simp [memCfgRow, wipeForCfg_hub, wipeable_takePacket, cfgWipeEnded, hwipes, hchans]
  · have hended : cfgWipeEnded (wipeForCfg (takePacket cmdMemCfgSet p s) p).hub.wipes = true := by
      simp [wipeForCfg_hub, wipeable_takePacket, cfgWipeEnded, hchans]
    refine ⟨_, show execMemCfgSet p s = _ by
      rw [execMemCfgSet_eq h hok hboot harm, beq_eq_false_iff_ne.mpr hdiff]
      exact if_pos hended, ?_⟩
    simp only [settle_rest]
    obtain ⟨hcfg, hwipe⟩ := endCfgWipe_hub (settle (drainBad 16 (conclude cmdMemCfgSet p
      (memCfgRow p false (takePacket cmdMemCfgSet p s))) p.fn.toNat))
    refine ⟨?_, hwipe, ?_⟩
    · rw [hcfg]
      simp only [settle_rest, drainBad_rest, conclude_memCfg, memCfgRow, Bool.false_eq_true, if_false, wipeForCfg_hub]
    · simp [endCfgWipe, memCfgRow, wipeForCfg_mem]
  · show execMemCfgGet p s = _
    unfold execMemCfgGet
    refine run_concludes h (by simp) (by simp) ?_
    simp [Rep.bytes]
  · show execMemStatus p s = _
    unfold execMemStatus
    refine run_concludes h (by simp) (by simp) ?_
    simp [Rep.bytes]
  · show execMemDelayGet p s = _
    unfold execMemDelayGet
    refine run_concludes h (by simp) (by simp) ?_
    simp [Rep.bytes]
  · show execMemTest p s = _
    unfold execMemTest
    refine run_concludes h (by simp) ?_ ?_
    · simp only [passes_cons, need_eq_none, harm, hst]
      simp
    · rfl
  · show execMemRetire p s = _
    unfold execMemRetire
    refine run_concludes h (by simp [hlodge]) (by simp [hserves]) ?_
    rfl

end Sys2Proof.Machine
end

section
/-! The system rows (R73, R300, R369, R375, R383, R384). -/
namespace Sys2Proof.Machine

theorem tmStOf_congr {s t : State} (h : t.time = s.time) : t.tmStOf = s.tmStOf := by
  funext a
  simp [State.tmStOf, h]

/-- No package of the tree has an armed port, where this one is its master (R369). -/
theorem peersArmed_eq_false {s : State} (h : s.vach.role ≠ 3 ∨ ∀ v < 4, (s.vp v).peerArmed = false) :
    (s.vach.role == 3 && (List.range 4).any fun v => (s.vp v).peerArmed) = false := by
  obtain h | h := h
  · rw [beq_eq_false_iff_ne.mpr h, Bool.false_and]
  · have hany : ((List.range 4).any fun v => (s.vp v).peerArmed) = false :=
      List.any_eq_false.mpr fun v hv => by simp [h v (List.mem_range.mp hv)]
    rw [hany, Bool.and_false]

/-- Settles O53, row by row. -/
theorem systemCommandsComplete : Obligations.SystemCommandsComplete := by
  unfold Obligations.SystemCommandsComplete
  refine ⟨fun p s h hbeat _ hnow harm hfollows hpeers hwait => ?_,
    fun p s h hbeat _ happly harm hfollows hpeers hwait => ?_, fun p s h => ?_,
    fun p s h hsub hwidth hsel hzeros => ?_, fun p s h hsub => ?_, fun p s h hok hroutes harm hpeers => ?_,
    fun p s h hsub => ?_, fun p s h hsub => ?_, fun p s h hdst hpart hrole hself => ?_,
    fun p s h hfollows hpps horigin => ?_⟩
  · show execSysEpochSet p s = _
    unfold execSysEpochSet
    refine run_concludes h ?_ ?_ ?_
    · simp [hnow, hbeat]
    · simp only [passes_cons, need_eq_none, harm, hfollows, peersArmed_eq_false hpeers, hwait, Option.isNone_none,
        Bool.not_false, passes_nil, and_self]
    · simp [hnow, Rep.ok]
  · show execSysEpochSet p s = _
    unfold execSysEpochSet
    refine run_concludes h ?_ ?_ ?_
    · obtain ha | ha := happly <;> simp [ha, hbeat]
    · simp only [passes_cons, need_eq_none, harm, hfollows, peersArmed_eq_false hpeers, hwait, Option.isNone_none,
        Bool.not_false, passes_nil, and_self]
    · obtain ha | ha := happly <;> simp [ha]
  · show execSysTimeGet p s = _
    unfold execSysTimeGet
    refine run_concludes h (by simp) (by simp) ?_
    rw [State.nowTm, tmOf_congr (takePacket_time ..), tmStOf_congr (takePacket_time ..), takePacket_time]
    rfl
  · intro t
    show execSysTrigOutSet p s = _
    unfold execSysTrigOutSet
    refine run_concludes h (by simp [hsub, hwidth, hsel, hzeros]) (by simp) ?_
    simp [Rep.result, t]
  · show execSysTrigOutGet p s = _
    unfold execSysTrigOutGet
    refine run_concludes h (by simp [hsub]) (by simp) ?_
    simp [Rep.result]
  · show execSysLinkSet p s = _
    unfold execSysLinkSet
    have hall : ((List.range 12).all (routeOwned s (p.blk 512))) = true :=
      List.all_eq_true.mpr fun k hk => hroutes k (List.mem_range.mp hk)
    refine run_concludes h ?_ ?_ ?_
    · simp only [passes_cons, need_eq_none, hok, hall, passes_nil, and_self]
    · simp only [passes_cons, need_eq_none, harm, peersArmed_eq_false hpeers, Bool.not_false, Bool.or_true, passes_nil,
        and_self]
    · rfl
  · show execSysLinkStatus p s = _
    unfold execSysLinkStatus
    refine run_concludes h (by simp [hsub]) (by simp) ?_
    simp [hsub, Rep.bytes]
  · show execSysLinkStatus p s = _
    unfold execSysLinkStatus
    refine run_concludes h (by simp [hsub]) (by simp) ?_
    simp [hsub, Rep.bytes]
  · intro seq
    show execSysMsgSend p s = _
    unfold execSysMsgSend
    have hbit : (p.inb 4 2).testBit 15 = false := Nat.testBit_lt_two_pow (hdst.trans (by decide))
    refine run_concludes h ?_ (by simp [hrole]) ?_
    · simp [hpart, Nat.div_eq_of_lt hdst]
    · simp [hbit, Nat.mod_eq_of_lt hdst, hself, seq, Rep.result]
  · intro n hmax hne hfrac
    show execSysPhaseStep p s = _
    unfold execSysPhaseStep
    have hpps' : (s.vach.role == 3 && s.vach.ppsLock) = false := by
      obtain hp | hp := hpps
      · rw [beq_eq_false_iff_ne.mpr hp, Bool.false_and]
      · rw [hp, Bool.and_false]
    refine run_concludes h ?_ ?_ ?_
    · simp only [passes_cons, need_eq_none, passes_nil, and_true, decide_eq_true_eq, Bool.or_eq_true,
        Bool.not_eq_true', Bool.and_eq_true]
      exact ⟨hmax, hfrac⟩
    · simp only [passes_cons, need_eq_none, hfollows, hpps', horigin, Option.isNone_none, Bool.not_false,
        Bool.and_self, passes_nil, and_self]
    · exact if_neg hne

end Sys2Proof.Machine
end

section
/-! A run begins (R139, R146): what the port holds then, and the directory's writes (R146, R159). -/
namespace Sys2Proof.Machine

/-- The entry that the arm or re-arm writes: not valid, with a zero end cause, and otherwise free. -/
def blankEntry (s : State) : BitVec 216 := put (put (BitVec.ofNat 216 s.fresh.1) 180 1 0) 195 3 0

theorem blankEntry_invalid (s : State) : bit (blankEntry s) 180 = false := by
  simp [blankEntry, bit_put]

theorem blankEntry_cause (s : State) : fld (blankEntry s) 195 3 = 0 :=
  fld_put_same _ 0 (by decide)

theorem beginRun_trig (s : State) (p : Nat) (slot : Slot) :
    ((beginRun s p slot).port p).trig = { (s.port p).trig with firstHunt := slot, stopCause := none } := by
  simp [beginRun, pushStores]

theorem beginRun_counts (s : State) (p : Nat) (slot : Slot) :
    ((beginRun s p slot).port p).run.curSeq = (s.port p).run.openSeq ∧
    ((beginRun s p slot).port p).run.sWr = 0 ∧ ((beginRun s p slot).port p).run.rWr = 0 := by
  simp [beginRun, pushStores]

theorem beginRun_fifo (s : State) (p : Nat) (slot : Slot) :
    ((beginRun s p slot).port p).run.fifo = (s.port p).run.fifo ++
      [plainStore (RunCfg.entryAddr (s.port p).run.cfg (s.port p).run.openSeq.toNat) 1 (s.port p).run.openSeq
        slot (bytesOf 27 (blankEntry s).toNat)] := by
  simp [beginRun, pushStores, blankEntry]

/-- RE_ARM of a port whose lift ends. -/
theorem exec_reArm {p : BitVec 7} {s : State} (hlift : (s.port p.toNat).trig.sl.phase = .lift)
    (hdue : (s.port p.toNat).due (s.port p.toNat).trig.sl.liftEnd = true)
    (hfence : (s.port p.toNat).trig.fenced = none) :
    exec (.reArm p) s = ok (beginRun (s.setPort p.toNat { s.port p.toNat with
      trig := checkpoint { (s.port p.toNat).trig with
        sl := slalomRestart (s.port p.toNat).trig.table
          { (s.port p.toNat).trig.sl with phase := .hunt, gapSeen := false } }
        (s.port p.toNat).trig.sl.liftEnd }) p.toNat (s.port p.toNat).trig.sl.liftEnd) := by
  show execReArm p s = _
  unfold execReArm
  simp only [hlift, hdue, hfence]
  rfl

/-- Settles O24: the entry of a new run, of a closed run and of a poisoned one. -/
theorem runDirectoryComplete : Obligations.RunDirectoryComplete := by
  unfold Obligations.RunDirectoryComplete
  refine ⟨fun p s hlift hdue hfence => ⟨_, exec_reArm hlift hdue hfence, ?_⟩,
    fun p s c cs hclosing hwait => ?_, fun p n s x hmark => ?_⟩
  · simp only [settle_rest]
    refine ⟨?_, ?_, ?_, blankEntry s, blankEntry_invalid s, blankEntry_cause s, ?_⟩
    · rw [(beginRun_counts _ _ _).1, State.port_setPort, if_pos rfl]
    · exact (beginRun_counts _ _ _).2.1
    · exact (beginRun_counts _ _ _).2.2
    · rw [beginRun_fifo, State.port_setPort, if_pos rfl]
      rfl
  · show execDirectoryEntryWrite p s = _
    unfold execDirectoryEntryWrite
    simp only [hclosing, hwait]
    rfl
  · have hany : (s.hub.marks.any fun m => m.1 == p.toNat && m.2.1 == n) = true :=
      List.any_eq_true.mpr ⟨_, hmark, by simp⟩
    show execRunPoisonMark p n s = _
    unfold execRunPoisonMark
    dsimp only
    rw [if_pos hany]
    rfl

end Sys2Proof.Machine
end

section
/-! The trigger events: sequencers, edges, tunes, the slalom's entries and exits, decided beats. -/
namespace Sys2Proof.Machine

/-- The port after the arm has taken effect: only the package state and a waiting epoch load follow it. -/
theorem port_of_armed (s : State) (why p : Nat) : (settlePackage (abandonEpoch s why)).port p = s.port p := by
  simp only [settlePackage_rest, abandonEpoch_rest]

/-- Where restart() leaves the four counters (R114). -/
theorem slalomRestart_ctr (T : Slalom) (c : SlalomCore) (k : Nat) (hk : k < 4) :
    (slalomRestart T c).ctr.getD k 0 = if Slalom.ctrKeep T k then c.ctr.getD k 0 else 0 := by
  simp [slalomRestart, List.getD, hk]

/-- restart() with the counters of reset leaves them all zero. -/
theorem slalomRestart_ctr_zero (T : Slalom) (c : SlalomCore) (h : c.ctr = [0, 0, 0, 0]) :
    (slalomRestart T c).ctr = [0, 0, 0, 0] := by
  simp [slalomRestart, h, List.range, List.range.loop]

/-- Settles O22, event by event. -/
theorem triggerEventsComplete : Obligations.TriggerEventsComplete := by
  unfold Obligations.TriggerEventsComplete
  refine ⟨fun n b s hen hbeat hready hfire => ?_, fun n b s j hen hbeat hready hfire => ?_,
    fun i r tm s => ?_, fun p s t htunes hdue => ?_, fun p s a harm hdue hdis => ?_,
    fun p s hlift hdue hfence => ⟨_, exec_reArm hlift hdue hfence, ?_⟩,
    fun p s hended hfence hcause hfull => ?_, fun p s d hdis hdue hended hphase href => ?_,
    fun p s b bs hdeskew hblocked hidle harmed hlost hdrop => ?_,
    fun p s b bs hdeskew hblocked hidle harmed hlost => ?_,
    fun p s b bs hdeskew hblocked hheld hphase hlost => ?_,
    fun p s b bs hdeskew hblocked hheld hphase hlost hstore => ?_⟩
  · show execPcsStep n b s = _
    simp only [execPcsStep, hen, hbeat, hready, hfire, beq_self_eq_true, Bool.and_self, if_true]
    rfl
  · show execPcsStep n b s = _
    simp only [execPcsStep, hen, hbeat, hready, hfire, beq_self_eq_true, Bool.and_self, if_true]
    rfl
  · rfl
  · have hfilter : (s.port p.toNat).trig.tunes.filter (fun t => (s.port p.toNat).due t.effect) = [t] := by
      simp [htunes, hdue]
    have hrest : (s.port p.toNat).trig.tunes.filter (fun t => !(s.port p.toNat).due t.effect) = [] := by
      simp [htunes, hdue]
    show execTuneApply p s = _
    unfold execTuneApply
    simp only [hfilter, hrest]
    rfl
  · refine ⟨_, show execArmBeat p s = _ by simp only [execArmBeat, harm, hdue, hdis]; rfl, ?_⟩
    simp only [settle_rest, port_of_armed, beginRun_trig, State.port_setPort, if_true]
    exact ⟨rfl, rfl, rfl, slalomRestart_ctr_zero _ _ rfl, rfl, rfl, rfl, trivial, rfl⟩
  · simp only [settle_rest, beginRun_trig, State.port_setPort, if_true]
    exact ⟨rfl, rfl, rfl, rfl, rfl, rfl, fun k hk => slalomRestart_ctr _ _ k hk, trivial⟩
  · show execRunoutEnd p s = _
    simp only [execRunoutEnd, hended, hfence, hcause, hfull]
    rfl
  · have hrun : ((s.port p.toNat).trig.sl.phase == .runout) = false := beq_eq_false_iff_ne.mpr hphase
    show execDisarmEffect p s = _
    simp only [execDisarmEffect, hdis, hdue, hended, hrun, href]
    rfl
  all_goals
    show execBeatDecide p s = _
    unfold execBeatDecide
  · simp only [hdeskew, harmed, hblocked, hidle, hlost, Bool.and_false, Bool.false_eq_true, if_false, Bool.not_false,
      Bool.true_and, hdrop]
    rfl
  · simp only [hdeskew, harmed, hblocked, hidle, hlost, Bool.and_false,
      Bool.false_eq_true, if_false]
    rfl
  · have hidle : ((s.port p.toNat).trig.sl.phase == .idle) = false := beq_eq_false_iff_ne.mpr hphase
    simp only [hdeskew, hheld, hblocked, hidle, hlost, Bool.false_and, Bool.false_eq_true, if_false]
    rfl
  · have hidle : ((s.port p.toNat).trig.sl.phase == .idle) = false := beq_eq_false_iff_ne.mpr hphase
    simp only [hdeskew, hheld, hblocked, hidle, hlost, hstore, Bool.false_and, Bool.and_false,
      Bool.false_eq_true, if_false]
    rfl

end Sys2Proof.Machine
end

section
/-! The memory events: groomer, sweeps, retirement and wipes of a channel (R254, R260 to R271). -/
namespace Sys2Proof.Machine

/-- A channel that returns to SERVICE changes its state and nothing else. -/
theorem toService_keeps (s : State) (c : Nat) :
    (toService s c).hub = s.hub ∧ (toService s c).mem = s.mem ∧
    ((toService s c).chan c).wiping = (s.chan c).wiping ∧ ((toService s c).chan c).plist = (s.chan c).plist ∧
    ((toService s c).chan c).errs = (s.chan c).errs := by
  unfold toService
  dsimp only
  split
  · simp
  · exact ⟨rfl, rfl, rfl, rfl, rfl⟩

/-- WIPE_DONE of the only channel of a wipe of a whole unit. -/
theorem exec_wipeDone_last {c : BitVec 7} {l : Nat} {s : State} (hwiping : (s.chan c.toNat).wiping = true)
    (hwipes : s.hub.wipes = [⟨.scope l, [c.toNat]⟩]) :
    exec (.wipeDone c) s = ok (toService
      (((({ s with mem :=
            if isLodge c.toNat then s.mem else Memory.wipe s.mem fun a => addrChan a == c.toNat } : State).modChan
          c.toNat fun C => { C with plist := [], errs := [], priv := [], reserved := false }).modChan
        c.toNat fun C => { C with wiping := false }).modHub fun H => { H with wipes := [] }) c.toNat) := by
  show execWipeDone c s = _
  simp [execWipeDone, hwiping, hwipes, WipeKind.whole, endWipe]

/-- WIPE_DONE of a channel whose wipe goes on in others leaves the channel and the rest of the wipe. -/
theorem exec_wipeDone_more {c : BitVec 7} {w : Wipe} {s : State} (hwiping : (s.chan c.toNat).wiping = true)
    (hwipes : s.hub.wipes = [w]) (hmore : w.chans.filter (· != c.toNat) ≠ []) :
    ∃ s1 : State, exec (.wipeDone c) s = ok (toService
      ((s1.modChan c.toNat fun C => { C with wiping := false }).modHub fun H => { H with
        wipes := [{ w with chans := w.chans.filter (· != c.toNat) }] }) c.toNat) := by
  have hne : (w.chans.filter (· != c.toNat)).isEmpty = false := by
    simpa [List.isEmpty_eq_false_iff] using hmore
  refine ⟨_, show execWipeDone c s = _ by
    simp only [execWipeDone, hwiping, hwipes, List.map_cons, List.map_nil, List.filter_cons, hne]; rfl⟩

/-- Settles O44, event by event. -/
theorem memoryEventsComplete : Obligations.MemoryEventsComplete := by
  unfold Obligations.MemoryEventsComplete
  refine ⟨fun c age x y s s1 hserves hturn => ?_, fun c s hserves hnot hold => ?_,
    fun c l s hst hl hlodge hmany => ?_, fun c r s hlodge hst => ?_, fun c r s hlodge hst => ?_,
    fun c r s hlodge hst hre => ?_, fun c s hlodge hserves => ?_, fun c s hlodge hserves hen hmany => ?_,
    fun c s hst hmarks => ?_, fun r s hrec hold => ?_,
    fun c l s hwiping hwipes => ⟨_, exec_wipeDone_last hwiping hwipes, ?_⟩,
    fun c w s hwiping hwipes hmore => ?_⟩
  · show execGroomerRead c age x y s = _
    simp only [execGroomerRead, hserves, hturn]
    rfl
  · show execScrubOverdue c s = _
    simp only [execScrubOverdue, hserves, hnot, decide_eq_false (Nat.not_lt.mpr hold)]
    rfl
  · show execLaneResweep c l s = _
    unfold execLaneResweep
    dsimp only
    rw [if_pos (by simp [hst, hl, hlodge, hmany])]
    rfl
  · show execSweepDone c r s = _
    simp only [execSweepDone, hlodge, hst]
    rfl
  · show execSweepDone c r s = _
    simp only [execSweepDone, hlodge, hst]
    rfl
  · show execSweepDone c r s = _
    simp only [execSweepDone, hlodge, hst, hre]
    rfl
  · show execChannelRetire c .noResponse s = _
    simp only [execChannelRetire, hlodge, hserves]
    rfl
  · show execChannelRetire c .errors s = _
    simp only [execChannelRetire, hlodge, hserves, hen, decide_eq_true hmany]
    rfl
  · show execRetirementResume c s = _
    simp only [execRetirementResume, hst, hmarks]
    rfl
  · show execInOrderRecoveryEnd r s = _
    simp only [execInOrderRecoveryEnd, hrec, decide_eq_true hold]
    rfl
  · simp only [settle_rest]
    obtain ⟨hhub, hmem, hwip, hplist, herrs⟩ := toService_keeps _ c.toNat
    rw [hhub, hmem, hwip, hplist, herrs]
    simp
  · obtain ⟨s1, hexec⟩ := exec_wipeDone_more hwiping hwipes hmore
    refine ⟨_, hexec, ?_⟩
    simp only [settle_rest]
    obtain ⟨hhub, hmem, hwip, hplist, herrs⟩ := toService_keeps _ c.toNat
    rw [hhub, hwip]
    simp

end Sys2Proof.Machine
end

section
/-! The power events: grants, containers, park and wake, telemetry, the monitor (R386 to R406). -/
namespace Sys2Proof.Machine

/-! ### What a resume changes (R388) -/

theorem driveIdle_keeps (s : State) : (driveIdle s).time = s.time ∧ (driveIdle s).pwr = s.pwr := by
  unfold driveIdle forEach
  exact ⟨foldl_same (·.time) _ _ (fun s n => by simp) s, foldl_same (·.pwr) _ _ (fun s n => by simp) s⟩

theorem startVacheod_keeps (s : State) : (startVacheod s).time = s.time ∧ (startVacheod s).pwr = s.pwr := by
  unfold startVacheod forEach
  constructor
  · exact (foldl_same (·.time) _ _ (fun s v => by split <;> simp) _).trans (by simp)
  · exact (foldl_same (·.pwr) _ _ (fun s v => by split <;> simp) _).trans (by simp)

/-- The lodge channels start their check; time and power stay. -/
def lodgeWarm (s : State) (c : Nat) : State :=
  if (s.chan c).st == .selfRef then s.modChan c fun C => { C with st := .training } else s

theorem lodgeWarm_keeps (cs : List Nat) (s : State) :
    (forEach cs lodgeWarm s).time = s.time ∧ (forEach cs lodgeWarm s).pwr = s.pwr := by
  unfold forEach
  exact ⟨foldl_same (·.time) cs lodgeWarm (fun s c => by unfold lodgeWarm; split <;> simp) s,
    foldl_same (·.pwr) cs lodgeWarm (fun s c => by unfold lodgeWarm; split <;> simp) s⟩

/-- The requests for the dies that their policies hold powered. -/
def askPolicy (s : State) : State :=
  if grantCost s (policyGrant s) = 0 then s else requestTokens s (policyGrant s)

theorem askPolicy_keeps (s : State) :
    (askPolicy s).time = s.time ∧ ∃ q, (askPolicy s).pwr = { s.pwr with queue := q } := by
  unfold askPolicy
  split
  · exact ⟨rfl, _, rfl⟩
  · exact ⟨by simp, _, rfl⟩

/-- The hub and the clocks of a package that resumes at `slot`. -/
def rouse (s : State) (src : Nat) (parked : BitVec 64) (slot : Slot) : State :=
  { s with
    time := { s.time with
      counting := true
      coasted := true
      hist := []
      slotCount := slot }
    clk := { s.clk with dclkLock := true, refclkOk := true, hclkLock := true, monLock := true }
    pwr := { s.pwr with
      state := 2
      lastWake := BitVec.ofNat 3 src
      wakeTimer := none
      parked := s.pwr.parked + parked } }

theorem rouse_time (s : State) (src : Nat) (parked : BitVec 64) (slot : Slot) :
    (rouse s src parked slot).time.counting = true ∧ (rouse s src parked slot).time.coasted = true ∧
    (rouse s src parked slot).time.slotCount = slot ∧ (rouse s src parked slot).time.epochGen = s.time.epochGen :=
  ⟨rfl, rfl, rfl, rfl⟩

theorem rouse_pwr (s : State) (src : Nat) (parked : BitVec 64) (slot : Slot) :
    (rouse s src parked slot).pwr.state = 2 ∧ (rouse s src parked slot).pwr.lastWake = BitVec.ofNat 3 src :=
  ⟨rfl, rfl⟩

/-- slot_count after the park. -/
def resumeSlot (s : State) (parked : BitVec 64) : Slot :=
  s.pwr.parkSlot + BitVec.ofNat 64 (parkedSlots parked.toNat)

theorem dropWakes_keeps (s : State) : (dropWakes s).pwr.parkSlot = s.pwr.parkSlot ∧
    (dropWakes s).time = s.time ∧ (dropWakes s).mem = s.mem :=
  ⟨rfl, rfl, rfl⟩

theorem resume_eq (s : State) (src : Nat) (parked : BitVec 64) :
    resume s src parked = evPower (evPower (startVacheod (driveIdle (askPolicy
      (forEach [7, 15] lodgeWarm (rouse s src parked (resumeSlot s parked)))))) 1 0 2) 5 0 2 parked.toNat := rfl

theorem resume_keeps (s : State) (src : Nat) (parked : BitVec 64) :
    (resume s src parked).time = (rouse s src parked (resumeSlot s parked)).time ∧
    ∃ q, (resume s src parked).pwr = { (rouse s src parked (resumeSlot s parked)).pwr with queue := q } := by
  obtain ⟨htime, q, hpwr⟩ := askPolicy_keeps (forEach [7, 15] lodgeWarm (rouse s src parked (resumeSlot s parked)))
  obtain ⟨hltime, hlpwr⟩ := lodgeWarm_keeps [7, 15] (rouse s src parked (resumeSlot s parked))
  rw [resume_eq]
  simp only [evPower_rest, startVacheod_keeps, driveIdle_keeps]
  exact ⟨htime.trans hltime, q, by rw [hpwr, hlpwr]⟩

/-- A package that sleeps in Parked wakes by a resume; the lowest enabled latched source is its cause. -/
theorem wakeUp_of_parked {s : State} {src : Nat} (parked : BitVec 64) (b : BootIn) (hparked : s.pwr.state = 1)
    (hsrc : src < 5) (hlower : ∀ i < src, (wakeEnabled s i && wakeLatched s i) = false) :
    wakeUp s src parked b = resume (dropWakes s) src parked := by
  have hfind : (List.range 5).find? (fun i => i == src || (wakeEnabled s i && wakeLatched s i)) = some src := by
    refine List.find?_range_eq_some.mpr ⟨by simp, List.mem_range.mpr hsrc, fun j hj => ?_⟩
    rw [hlower j hj, Bool.or_false, Bool.not_eq_true', beq_eq_false_iff_ne]
    omega
  unfold wakeUp
  dsimp only
  rw [hfind, if_pos (show (dropWakes s).pwr.state = 1 from hparked)]
  rfl

/-! ### What sleep leaves (R387) -/

theorem forEach_eq_self {ks : List Nat} {f : State → Nat → State} {s : State} (h : ∀ k ∈ ks, f s k = s) :
    forEach ks f s = s := by
  unfold forEach
  induction ks with
  | nil => rfl
  | cons k ks ih => rw [List.foldl_cons, h k (by simp), ih fun j hj => h j (by simp [hj])]

theorem sleepStacks_mem (s : State) (off : Bool) : (sleepStacks s off).mem = if off then [] else s.mem := by
  cases off <;> rfl

/-! ### Alarms and temperatures (R400, R401) -/

theorem noteAlarms_keeps (old : List Bool) (s : State) : (noteAlarms old s).pwr = s.pwr ∧
    ∀ d, (noteAlarms old s).die d = s.die d := by
  unfold noteAlarms forEach
  exact ⟨foldl_same (·.pwr) _ _ (fun s i => by dsimp only; split <;> simp) s,
    fun d => foldl_same (State.die · d) _ _ (fun s i => by dsimp only; split <;> simp) s⟩

/-- A die below 95 °C leaves both alarms. -/
def Die.cooled (t : BitVec 16) (D : Die) : Die := { D with temp := t, hotCount := 0, tCrit := false, tWarn := false }

theorem dieTemp_of_cool {t : BitVec 16} (h : t.toInt < 1520) (s : State) (d : Nat) :
    dieTemp s d t = s.modDie d (Die.cooled t) := by
  have hhot : ¬ 1760 ≤ t.toInt := by omega
  have hwarm : ¬ 1600 ≤ t.toInt := by omega
  simp [dieTemp, h, hhot, hwarm]
  rfl

/-! ### Calibrated codes (R406) -/

theorem calibrated_lt (s : State) (input : Nat) {raw : Nat} (h : raw < 65536) :
    calibrated s input raw < 65536 := by
  unfold calibrated
  dsimp only
  split <;> omega

/-! ### The events -/

/-- A table whose entries are all mapped by a function that keeps the default. -/
theorem Tab.get_map {α : Type} {d : α} {f : α → α} (hf : f d = d) (t : Tab α) (k : Nat) :
    Tab.get d (t.map fun x => (x.1, f x.2)) k = f (t.get d k) := by
  induction t with
  | nil => exact hf.symm
  | cons x xs ih =>
    simp only [List.map_cons, Tab.get]
    split
    · rfl
    · exact ih

theorem settlePower_keeps (s : State) :
    (∀ d, (settlePower s).die d = s.die d) ∧ ∀ n, (settlePower s).dmaCh n = s.dmaCh n := by
  unfold settlePower
  split <;> simp

/-- The channel no longer waits for die `d`. -/
def Dma.dieReady (d : Nat) (D : Dma) : Dma := { D with dieWait := if D.dieWait == some d then none else D.dieWait }

theorem Dma.dieReady_wait (d : Nat) (D : Dma) : (D.dieReady d).dieWait ≠ some d := by
  unfold Dma.dieReady
  dsimp only
  split
  · simp
  · next h => simpa using h

theorem Dma.dieReady_reset (d : Nat) : Dma.dieReady d Dma.reset = Dma.reset := rfl

/-- The result register of an entry that has ended: its code, valid, and without the flag of two means. -/
theorem monResult_fields {c v1 v2 v3 : Nat} (hc : c < 65536) :
    fld (BitVec.ofNat 32 (pack [(16, c), (1, 1), (1, 0), (1, v1), (1, v2), (12, v3)])) 0 16 = c ∧
    bit (BitVec.ofNat 32 (pack [(16, c), (1, 1), (1, 0), (1, v1), (1, v2), (12, v3)])) 16 = true ∧
    bit (BitVec.ofNat 32 (pack [(16, c), (1, 1), (1, 0), (1, v1), (1, v2), (12, v3)])) 17 = false := by
  refine ⟨(fld_pack (i := 0) rfl rfl (by simp)).trans (Nat.mod_eq_of_lt hc), ?_, ?_⟩
  · exact (bit_eq_fld _ _).trans (beq_iff_eq.mpr (fld_pack (i := 1) (w := 1) (v := 1) rfl rfl (by simp)))
  · exact (bit_eq_fld _ _).trans
      (beq_eq_false_iff_ne.mpr ((fld_pack (i := 2) (w := 1) (v := 0) rfl rfl (by simp)).trans_ne (by decide)))

theorem exec_dieFabricReady {d : BitVec 2} {s : State} (h : (s.die d.toNat).powering = true) :
    exec (.dieFabricReady d) s = ok (settlePower
      { s.modDie d.toNat fun D => { D with pwr := 1, powering := false } with
        dma := s.dma.map fun x => (x.1, x.2.dieReady d.toNat) }) := by
  show execDieFabricReady d s = _
  unfold execDieFabricReady
  simp only [h]
  rfl

theorem exec_clusterUp {k : Nat} {s : State} (hk : k < 64) (h : (s.cluster k).powering = true)
    (husable : regionUsable s (k / 4) = true) :
    exec (.containerPowerUpDone (BitVec.ofNat 16 (0x7000 + k))) s =
      ok (s.modCluster k fun C => { Cluster.reset with powered := true, failed := C.failed }) := by
  have hl : (BitVec.ofNat 16 (0x7000 + k)).toNat = 0x7000 + k := Nat.mod_eq_of_lt (by omega)
  have hcls : (0x7000 + k) / 0x1000 = 7 := by omega
  have hidx : (0x7000 + k) % 512 = k := by omega
  have hok : locOk (0x7000 + k) = true := by
    simp only [locOk, hcls, hidx, clsRange, decide_eq_true hk, Bool.and_true, beq_iff_eq]
    omega
  show execContainerPowerUpDone _ s = _
  unfold execContainerPowerUpDone
  simp only [hl, hcls, hidx, hok, h, husable]
  rfl

theorem exec_regionUp {r : Nat} {s : State} (hr : r < 16) (h : (s.region r).powering = true)
    (hdie : (s.die (r / 4)).pwr ≠ 0) (hready : (s.die (r / 4)).powering = false) :
    exec (.containerPowerUpDone (BitVec.ofNat 16 (0x8000 + r))) s = ok (settlePower (startTrainings (settleDie
      (s.modRegion r fun R => { R with powered := true, powering := false }) (r / 4)) (regionPorts r))) := by
  have hl : (BitVec.ofNat 16 (0x8000 + r)).toNat = 0x8000 + r := Nat.mod_eq_of_lt (by omega)
  have hcls : (0x8000 + r) / 0x1000 = 8 := by omega
  have hidx : (0x8000 + r) % 512 = r := by omega
  have hok : locOk (0x8000 + r) = true := by
    simp only [locOk, hcls, hidx, clsRange, decide_eq_true hr, Bool.and_true, beq_iff_eq]
    omega
  show execContainerPowerUpDone _ s = _
  unfold execContainerPowerUpDone
  simp only [hl, hcls, hidx, hok, h, bne_iff_ne.mpr hdie, hready]
  rfl

/-- The package whose links are down goes to sleep. -/
def sleeping (s : State) (st : BitVec 2) (timer : BitVec 32) : State :=
  { s with
    time := { s.time with counting := false }
    clk := { s.clk with dclkLock := false, hclkLock := false, monLock := false }
    vach := { s.vach with
      ports := s.vach.ports.map fun x => (x.1, { Vp.reset with wake := x.2.wake })
      role := 0
      upstream := 0xF
      depth := 0
      reformFrom := none
      stepsDue := 0 }
    pwr := { s.pwr with
      state := st
      target := none
      queue := []
      granted := 0
      overdraw := 0
      parkSlot := s.time.slotCount
      wakeTimer := if timer = 0 then none else some timer } }

theorem sleeping_mem (s : State) (st : BitVec 2) (timer : BitVec 32) : (sleeping s st timer).mem = s.mem := rfl

theorem sleeping_off (s : State) (st : BitVec 2) (timer : BitVec 32) :
    (sleeping s st timer).pwr.state = st ∧ (sleeping s st timer).pwr.target = none ∧
    (sleeping s st timer).time.counting = false ∧ (sleeping s st timer).clk.dclkLock = false ∧
    (sleeping s st timer).clk.hclkLock = false ∧
    (sleeping s st timer).pwr.wakeTimer = (if timer = 0 then none else some timer) :=
  ⟨rfl, rfl, rfl, rfl, rfl, rfl⟩

/-- The dies are off and the stacks at rest, and both links are down. -/
def bedded (s : State) (st : BitVec 2) : State :=
  ((linkDown (linkDown (sleepStacks (forEach (List.range 4) dieOff (evPower s 1 0 st.toNat)) (st == 0)) false)
    true).out (.trigLevel 0 none)).out (.trigLevel 1 none)

theorem bedded_mem (s : State) (st : BitVec 2) : (bedded s st).mem = if st == 0 then [] else s.mem := by
  have hdies (t : State) : (forEach (List.range 4) dieOff t).mem = t.mem :=
    foldl_same (·.mem) _ dieOff (fun t d => (dieOff_frame t d).2) t
  have hout (t : State) (o : Out) : (t.out o).mem = t.mem := rfl
  have hpower : (evPower s 1 0 st.toNat).mem = s.mem := by simp
  rw [bedded, hout, hout, (linkDown_frame _ true).2, (linkDown_frame _ false).2, sleepStacks_mem, hdies, hpower]

theorem exec_parkTransition {s : State} {st : BitVec 2} {timer : BitVec 32} (htarget : s.pwr.target = some (st, timer))
    (hports : ∀ p < 128, (s.port p).state = .down ∨ (s.port p).state = .powered ∨ (s.port p).state = .quarantined)
    (hstores : stillStoring s = false) : exec .parkTransition s = ok (sleeping (bedded s st) st timer) := by
  have hclosed : forEach allPorts (fun s p =>
      let P := s.port p
      if P.state == .down || P.state == .powered || P.state == .quarantined then s else closePort s p) s = s := by
    refine forEach_eq_self fun p hp => ?_
    obtain h | h | h := hports p (List.mem_range.mp hp) <;> simp [h]
  show execParkTransition s = _
  unfold execParkTransition
  simp only [htarget, hclosed, hstores]
  rfl

theorem exec_telemetrySample (mv : BitVec 16) (ma : BitVec 32) (p10 : BitVec 16) {s : State}
    (hon : s.boot.lodgeOn = true) (hawake : 2 ≤ s.pwr.state.toNat) :
    exec (.telemetrySample mv ma p10) s = ok (noteAlarms (alarms s)
      ((noteInput s (decide (10800 ≤ mv.toNat) && decide (mv.toNat ≤ 13200))).modPwr fun P => { P with
        energy := P.energy + BitVec.ofNat 64 (mv.toNat * ma.toNat / 10000)
        vIn := mv
        pIn := p10
        pOver := decide (10 * fld P.cfg 80 11 < p10.toNat)
        vinWarn := decide (mv.toNat < 11000) || decide (13000 < mv.toNat)
        meterEst := P.meterEst || false })) := by
  show execTelemetrySample mv ma p10 s = _
  unfold execTelemetrySample
  simp only [hon, decide_eq_true hawake]
  rfl

theorem exec_temperatureRead_of_cool {t0 t1 t2 t3 : BitVec 16} (hub : BitVec 16) {s : State}
    (hawake : 2 ≤ s.pwr.state.toNat) (h0 : t0.toInt < 1520) (h1 : t1.toInt < 1520) (h2 : t2.toInt < 1520)
    (h3 : t3.toInt < 1520) :
    exec (.temperatureRead t0 t1 t2 t3 hub) s = ok (noteAlarms (alarms s)
      (((((s.modDie 0 (Die.cooled t0)).modDie 1 (Die.cooled t1)).modDie 2 (Die.cooled t2)).modDie 3
        (Die.cooled t3)).modPwr fun P => { P with
          hubTemp := hub
          hubWarn := if 1600 ≤ hub.toInt then true else if hub.toInt < 1520 then false else P.hubWarn })) := by
  show execTemperatureRead t0 t1 t2 t3 hub s = _
  unfold execTemperatureRead
  rw [if_neg (Nat.not_lt.mpr hawake), dieTemp_of_cool h0, dieTemp_of_cool h1, dieTemp_of_cool h2, dieTemp_of_cool h3]

theorem asleep_of_parked {s : State} (hon : s.boot.lodgeOn = true) (hstep : s.boot.step = 11)
    (hstate : s.pwr.state = 1) : asleep s = true := by
  simp [asleep, hon, hstep, hstate]

theorem exec_wakeEdge_host (v : BitVec 2) (parked : BitVec 64) (b : BootIn) {s : State}
    (hon : s.boot.lodgeOn = true) (hstep : s.boot.step = 11) (hstate : s.pwr.state = 1)
    (hen : bit s.pwr.cfg 67 = true) (hlower : ∀ i < 3, (wakeEnabled s i && wakeLatched s i) = false) :
    exec (.wakeEdge 3 v parked b) s =
      ok (resume (dropWakes (s.modPwr fun P => { P with hostWake := true })) 3 parked) := by
  have henabled : wakeEnabled s 3 = true := hen
  have hwake := wakeUp_of_parked (s := s.modPwr fun P => { P with hostWake := true }) (src := 3) parked b hstate
    (by decide) (fun i hi => by interval_cases i <;> exact hlower _ (by decide))
  show execWakeEdge 3 v parked b s = _
  rw [← hwake]
  unfold execWakeEdge
  have hsrc : (3 : BitVec 3).toNat = 3 := rfl
  have hlatched : wakeLatched (s.modPwr fun P => { P with hostWake := true }) 3 = true := rfl
  simp only [hsrc, hon, asleep_of_parked hon hstep hstate, hlatched, henabled]
  rfl

theorem exec_wakeTimer (parked : BitVec 64) (b : BootIn) {s : State} {n : BitVec 32} (hon : s.boot.lodgeOn = true)
    (hstep : s.boot.step = 11) (hstate : s.pwr.state = 1) (htimer : s.pwr.wakeTimer = some n)
    (hlower : ∀ i < 4, (wakeEnabled s i && wakeLatched s i) = false) :
    exec (.wakeTimer parked b) s = ok (resume (dropWakes s) 4 parked) := by
  show execWakeTimer parked b s = _
  rw [← wakeUp_of_parked parked b hstate (by decide) hlower]
  simp only [execWakeTimer, asleep_of_parked hon hstep hstate, htimer]
  rfl

/-- MON_ENTRY_DONE in a mode of one mean, with no sequence waiting: the result, and the next entry. -/
theorem exec_monEntryDone {mean : BitVec 16} {s : State} (hrun : s.mon.running = true) (hnext : s.mon.next = none)
    (hmode : fld (s.mon.entries.get 0 s.mon.cur) 5 2 = 0) :
    exec (.monEntryDone mean 0) s = ok { s with mon := { s.mon with
      results := s.mon.results.set s.mon.cur (BitVec.ofNat 32 (pack
        [(16, calibrated s (fld (s.mon.entries.get 0 s.mon.cur) 0 5) mean.toNat), (1, 1), (1, 0),
         (1, b2n (mean == 0xFFFF)), (1, b2n (mean == 0)), (12, s.mon.pass.toNat)]))
      cur := if decide (fld s.mon.header 0 6 ≤ s.mon.cur + 1) then 0 else s.mon.cur + 1
      pass := if decide (fld s.mon.header 0 6 ≤ s.mon.cur + 1) then s.mon.pass + 1 else s.mon.pass
      running := !decide (fld s.mon.header 0 6 ≤ s.mon.cur + 1) || bit s.mon.header 6 } } := by
  have htwo : (fld (s.mon.entries.get 0 s.mon.cur) 5 2 == 3) = false := by rw [hmode]; rfl
  show execMonEntryDone mean 0 s = _
  simp only [execMonEntryDone, hrun, hnext, htwo, Bool.false_and, Bool.or_false]
  rfl

theorem exec_monCal_zero (raw : BitVec 16) {s : State} {i : Nat} {target : BitVec 16} {o : Origin}
    (hbusy : s.mon.calBusy = some (i, false, target, o)) (hi : i < 16) :
    exec (.monCalMeasurementDone raw) s = ok (finishJob
      (modCal { s with mon := { s.mon with calBusy := none } } i fun c => { c with step0 := some raw })
      (.monCal i) 0 0 0) := by
  show execMonCalMeasurementDone raw s = _
  simp only [execMonCalMeasurementDone, hbusy, if_neg (Nat.not_le.mpr hi)]
  rfl

/-- Settles O57, event by event. -/
theorem powerEventsComplete : Obligations.PowerEventsComplete := by
  unfold Obligations.PowerEventsComplete
  refine ⟨⟨fun s hawake => ?_, fun i s g p hg hp hmbox => ?_, fun d s hpowering => ?_,
    fun k s hk hpowering husable => ?_, fun r s hr hpowering hdie hdie' => ?_,
    fun k s hidle husable huse hheld => ?_, fun d s => ?_, fun s st timer htarget hports hstores => ?_,
    fun v parked b s hon hstep hstate hen hlower => ?_, fun parked b s n hon hstep hstate htimer hlower => ?_,
    fun mv ma p10 s hon hawake => ?_, fun t0 t1 t2 t3 hub s hawake h0 h1 h2 h3 => ?_,
    fun mean s hrun hnext hmode => ?_, fun s => rfl, fun raw s i target o hbusy hi => ?_⟩,
    fun s hcap => ?_, fun s hcap => ?_, fun P hgrant => ⟨fun hst => ?_, fun hst => ?_, fun hst => ?_⟩⟩
  · show execTokenGrant false s = _
    unfold execTokenGrant
    rw [if_neg (Nat.not_lt.mpr hawake)]
    simp only [Bool.false_and, Bool.false_eq_true, if_false]
    rfl
  · show execTokenWaitTimeout i s = _
    simp only [execTokenWaitTimeout, hg, hp, hmbox]
    rfl
  · refine ⟨_, exec_dieFabricReady hpowering, ?_⟩
    simp only [settle_rest, settlePower_keeps]
    refine ⟨by simp [State.die, State.modDie], by simp [State.die, State.modDie], fun n => ?_⟩
    show (Tab.get Dma.reset (s.dma.map fun (x : Nat × Dma) => (x.1, x.2.dieReady d.toNat)) n).dieWait ≠ _
    rw [Tab.get_map (Dma.dieReady_reset d.toNat)]
    exact Dma.dieReady_wait d.toNat _
  · refine ⟨_, exec_clusterUp hk hpowering husable, ?_⟩
    simp only [settle_rest, State.cluster_modCluster, if_true]
  · exact exec_regionUp hr hpowering hdie hdie'
  · show execClusterIdleOff k s = _
    simp only [execClusterIdleOff, husable, huse, hheld, decide_eq_false hidle]
    rfl
  · intro a hidle hon hpow hpolicy hworks hwanted hregions
    have hany : (dieRegions d.toNat).any (fun r => regionOn ((patrolRegions s).region r)) = false :=
      List.any_eq_false.mpr fun r hr => by rw [hregions r hr]; exact Bool.false_ne_true
    show execDieIdleOff d s = _
    unfold execDieIdleOff
    dsimp only
    rw [decide_eq_false hidle, decide_eq_false hon, hpow, decide_eq_false (Nat.not_le.mpr hpolicy), hworks,
      hwanted, hany]
    rfl
  · refine ⟨_, exec_parkTransition htarget hports hstores, ?_⟩
    simp only [settle_rest, sleeping_off, sleeping_mem, bedded_mem, true_and]
    exact ⟨fun h => by rw [h]; rfl, fun h => by rw [h]; rfl⟩
  · obtain ⟨htime, q, hpwr⟩ := resume_keeps (dropWakes (s.modPwr fun P => { P with hostWake := true })) 3 parked
    refine ⟨_, exec_wakeEdge_host v parked b hon hstep hstate hen hlower, ?_⟩
    simp only [settle_rest, htime, hpwr, (resume_frame _ _ _).2, rouse_time, rouse_pwr, dropWakes_keeps, true_and]
    exact ⟨rfl, by rw [resumeSlot, (dropWakes_keeps _).1]; rfl, rfl, rfl⟩
  · obtain ⟨htime, q, hpwr⟩ := resume_keeps (dropWakes s) 4 parked
    refine ⟨_, exec_wakeTimer parked b hon hstep hstate htimer hlower, ?_⟩
    simp only [settle_rest, hpwr, (resume_frame _ _ _).2, rouse_pwr, dropWakes_keeps, true_and]
    exact ⟨rfl, trivial⟩
  · refine ⟨_, exec_telemetrySample mv ma p10 hon hawake, ?_⟩
    simp only [settle_rest, noteAlarms_keeps]
    exact ⟨rfl, rfl, rfl, rfl, rfl, Bool.or_false _⟩
  · refine ⟨_, exec_temperatureRead_of_cool hub hawake h0 h1 h2 h3, ?_⟩
    simp only [settle_rest, noteAlarms_keeps]
    refine ⟨?_, ?_, ?_, ?_, rfl, fun d hd => ?_⟩
    · simp [Die.cooled]
    · simp [Die.cooled]
    · simp [Die.cooled]
    · simp [Die.cooled]
    · interval_cases d <;> simp [Die.cooled]
  · obtain ⟨hcode, hvalid, hboth⟩ := monResult_fields
      (calibrated_lt s (fld (s.mon.entries.get 0 s.mon.cur) 0 5) (Nat.lt_of_lt_of_eq mean.isLt rfl))
    refine ⟨_, exec_monEntryDone hrun hnext hmode, ?_⟩
    simp only [settle_rest, Tab.get_set, if_true]
    exact ⟨hcode, hvalid, hboth, by simp⟩
  · refine ⟨_, exec_monCal_zero raw hbusy hi, ?_⟩
    simp only [settle_rest, finishJob_rest]
    exact ⟨rfl, by simp [modCal]⟩
  · unfold budget
    rw [hcap]
  · unfold budget
    omega
  · obtain hst | hst | hst := hst <;> simp [portTokens, portLive, hgrant, hst]
  · simp [portTokens, portLive, hgrant, hst]
  · obtain hst | hst | hst | hst := hst <;> simp [portTokens, portLive, hst]

end Sys2Proof.Machine
end

section
/-! Memory requests: on their way, served, refused by a retired channel; reads of a burst (R254 to R272). -/
namespace Sys2Proof.Machine

/-! ### Reads of a burst (R263 to R265, R268) -/

/-- The errors that a read of a burst meets. -/
def seenErrs (s : State) (c b : Nat) (x : BurstIn) : SymErrs :=
  xorSyms (xorSyms ((s.chan c).errs.get [] b) x.hard) x.soft

theorem readBurst_marked_of_listed (s : State) (c b : Nat) (x : BurstIn) (back : Bool)
    (h : (s.chan c).plist.contains b = true) : (readBurst s c b x back).2.2 = true := by
  unfold readBurst
  dsimp only
  split
  · exact h
  · rfl

/-- An uncorrectable burst is counted. -/
theorem foundBad_ue (s : State) (c b : Nat) : ((foundBad s c b).chan c).ue = satInc (s.chan c).ue := by
  unfold foundBad
  dsimp only
  split <;> simp

theorem readBurst_of_bad {s : State} {c b : Nat} {x : BurstIn} (back : Bool)
    (h : decodeSyms (seenErrs s c b x) = .bad) :
    (readBurst s c b x back).2.2 = true ∧ ((readBurst s c b x back).1.chan c).ue = satInc (s.chan c).ue := by
  unfold seenErrs at h
  simp only [readBurst, h, foundBad_ue, true_and]
  split
  · rfl
  · simp [Chan.setErrs]

theorem readBurst_of_clean {s : State} {c b : Nat} {x : BurstIn} (back : Bool) (h : seenErrs s c b x = [])
    (hx : x.hard = []) : (readBurst s c b x back).1 = s := by
  have hgood : decodeSyms (seenErrs s c b x) = .good [] none := by
    rw [h]
    rfl
  unfold seenErrs at hgood
  simp only [readBurst, hgood]
  rw [if_pos (by rw [hx]; rfl)]

/-! ### Requests to a retired channel (R272) -/

theorem acceptReq_of_retired {s : State} {q : MemReq} (hst : (s.chan q.chan).st = .retired) (hcls : q.cls = .dma)
    (hread : q.write = false) : acceptReq s q none =
      dmaReturn (s.modChan q.chan (countLate q)) q.who q.off (List.replicate q.len (0, true)) := by
  simp [acceptReq, noteWrite, reqRetired, hst, hcls, hread]

/-! ### Requests that neighbours of a row are refreshed for (R259) -/

theorem refreshRows_chan (k : Nat) (vs : List Nat) (s : State) (c : Nat) :
    (vs.foldl (fun s v => s.out (.refresh k (some v))) s).chan c = s.chan c :=
  foldl_same (State.chan · c) vs (fun s v => s.out (.refresh k (some v))) (fun _ _ => rfl) s

/-- Settles O46, event by event. -/
theorem retiredAndBadReads : Obligations.RetiredAndBadReads := by
  unfold Obligations.RetiredAndBadReads
  refine ⟨⟨fun p s x rest hfifo hheld hclear hfence => ?_, fun n w a len s off bs s1 hwants hgate => ?_,
    fun w hi a bs len s => ?_, fun c i xs s q hq hserve hread => ?_, fun c i xs s q hq hserve hwrite hcls => ?_,
    fun c w s hserves => ?_, fun c w s hserves hurgent hpost => ?_, fun c who row b s hdue hwho => ?_,
    fun c who x s hthr => ?_, fun c r s hserves hidle hup hqueue => ?_⟩,
    fun s q hst hcls => ⟨(acceptReq_frame s q none).2, acceptReq_of_retired hst hcls⟩,
    fun s c b x back => ⟨(readBurst_frame s c b x back).2, readBurst_marked_of_listed s c b x back,
      readBurst_of_bad back, readBurst_of_clean back⟩⟩
  · show execMemRequest (.store p) s = _
    simp only [execMemRequest, hfifo, hheld, hclear, hfence]
    rfl
  · show ok (dmaRequest s n.toNat w a len) = _
    simp only [dmaRequest, hwants, hgate]
    rfl
  · intro q hpos hres hgran
    show execMemRequest (.lodge w hi a bs len) s = _
    unfold execMemRequest
    dsimp only
    rw [if_pos]
    · rfl
    · simp only [Bool.and_eq_true, decide_eq_true_eq, beq_iff_eq]
      exact ⟨⟨hpos, hres⟩, hgran⟩
  · show execMemAccessComplete c i xs s = _
    simp only [execMemAccessComplete, serveReq, hq, hserve, hread]
    rfl
  · show execMemAccessComplete c i xs s = _
    simp only [execMemAccessComplete, serveReq, hq, hserve, hwrite, beq_eq_false_iff_ne.mpr hcls]
    rfl
  · refine ⟨_, show execRefresh c false w s = _ by simp only [execRefresh, hserves]; rfl, ?_⟩
    simp
  · show execRefresh c true w s = _
    simp only [execRefresh, hserves, hurgent, decide_eq_true hpost]
    rfl
  · have hfind : (s.chan c.toNat).hammerDue.find? (fun x => x.1 == who) = some (who, row, b) := by
      simp [hdue]
    refine ⟨_, show execHammerThreshold c who s = _ by
      simp only [execHammerThreshold, hfind, if_pos hwho]; rfl, ?_⟩
    simp only [settle_rest, State.chan_modChan, refreshRows_chan, if_true]
    exact ⟨by simp [hdue], trivial, trivial⟩
  · have hfind : (s.chan c.toNat).throttled.find? (fun x => x.1 == who) = some (who, x) := by
      simp [hthr]
    refine ⟨_, show execThrottleEnd c who s = _ by simp only [execThrottleEnd, hfind]; rfl, ?_⟩
    simp [hthr]
  · show execRankPowerDown c r s = _
    simp only [execRankPowerDown, hserves, beq_eq_false_iff_ne.mpr hidle, hup, hqueue]
    rfl

end Sys2Proof.Machine
end

section
/-! A Chute write reads and writes back the whole burst (R311): where the memory list names an address twice, the
second cell shows once the first is gone. -/
namespace Sys2Proof.Machine

/-- A package whose function 0 may write the first MiB, and whose memory list, not in canonical form, holds two cells
for address 1. -/
def doubledCell : State :=
  { State.reset with
    eps := [(0, { Endpoint.reset with up := true })]
    hub := { Hub.reset with windows := [(0, 2 ^ 44 + 2 ^ 45 + 2 ^ 84)] }
    chans := [(0, { Chan.reset with st := .service })]
    mem := [(1, 0), (1, 7)] }

theorem chuteWrite_doubledCell :
    (chuteWrite doubledCell 0 [5] false {}).map (·.mem) = some [(0, 5), (1, 7)] := by
  decide +kernel

theorem doubledCell_errs (c : Nat) : (doubledCell.chan c).errs = [] := by
  unfold State.chan doubledCell
  simp only [Tab.get]
  split <;> rfl

/-- Refutes O49: the statement speaks of every state, also of one whose memory list is not in canonical form (O4). In
`doubledCell` address 1 reads 0, from the first of its two cells; a Chute write of address 0, of the same burst, writes
that 0 back and thereby removes the cell, so that address 1, outside the bytes at the pointer, reads 7. -/
theorem not_chuteTransfers : ¬ Obligations.ChuteTransfers := by
  unfold Obligations.ChuteTransfers
  rintro ⟨-, hwrite⟩
  obtain ⟨x, hx, hmem⟩ := Option.map_eq_some_iff.mp chuteWrite_doubledCell
  have hreach : reach doubledCell 0 = true := by decide
  have hexec : exec (.chuteWrite 0 [some 5] false {}) doubledCell = .next (settle x) := by
    show execChuteWrite 0 [some 5] false {} doubledCell = _
    have hx' : chuteWrite doubledCell (0 : BitVec 4).toNat ([some 5].filterMap id) false {} = some x := hx
    unfold execChuteWrite
    rw [show reach doubledCell (0 : BitVec 4).toNat = true from hreach, hx']
    rfl
  have hread := (hwrite 0 [some 5] false {} doubledCell (settle x) hexec).2 rfl
    (fun i _ => by rw [doubledCell_errs]; rfl) 1 (by decide)
  simp only [settle_rest] at hread
  rw [hmem] at hread
  exact absurd hread (by decide)

end Sys2Proof.Machine
end

section
/-! The events of a port's line, its training and its sideband (R41 to R63). -/
namespace Sys2Proof.Machine

/-! ### A block period without a bad lane (R40, R41, R50) -/

/-- The port `Q` is `P` but for its lanes, and no lane has come into block lock. -/
def OnlyLanes (P Q : Port) : Prop :=
  (∃ ls, Q = { P with lanes := ls }) ∧ ∀ r, (Q.lane r).st = .block → (P.lane r).st = .block

theorem OnlyLanes.refl (P : Port) : OnlyLanes P P := ⟨⟨_, rfl⟩, fun _ h => h⟩

theorem OnlyLanes.modLane {P Q : Port} (h : OnlyLanes P Q) {q : Nat} {f : Lane → Lane}
    (hf : ∀ l, (f l).st = .block → l.st = .block) : OnlyLanes P (Q.modLane q f) := by
  obtain ⟨⟨ls, rfl⟩, hblock⟩ := h
  refine ⟨⟨_, rfl⟩, fun r hr => hblock r ?_⟩
  rw [lane_modLane] at hr
  split at hr
  · next e => rw [e]; exact hf _ hr
  · exact hr

theorem laneChecks_of_good {P : Port} {bs : List Block}
    (h : ∀ q < 9, (P.lane q).usable = true → (bs.getD q noBlock).good = true) :
    (laneChecks P bs).2 = [] ∧ OnlyLanes P (laneChecks P bs).1 := by
  unfold laneChecks
  refine List.foldlRecOn (motive := fun x : Port × List Happening => x.2 = [] ∧ OnlyLanes P x.1) positions _
    ⟨rfl, OnlyLanes.refl P⟩ fun x hx q hq => ?_
  dsimp only
  split
  · exact hx
  · next husable =>
    rw [if_pos (h q (List.mem_range.mp hq) (by simpa using husable))]
    refine ⟨hx.1, ?_⟩
    dsimp only
    refine hx.2.modLane fun l hl => ?_
    dsimp only at hl
    split at hl
    · split at hl <;> cases hl
    · exact hl

theorem lockedChecks_of_good {P : Port} {bs : List Block}
    (h : ∀ q < 9, (P.lane q).st = .block → (bs.getD q noBlock).good = true) :
    (lockedChecks P bs).2 = [] ∧ OnlyLanes P (lockedChecks P bs).1 := by
  unfold lockedChecks
  refine List.foldlRecOn (motive := fun x : Port × List Nat => x.2 = [] ∧ OnlyLanes P x.1) positions _
    ⟨rfl, OnlyLanes.refl P⟩ fun x hx q hq => ?_
  dsimp only
  split
  · exact hx
  · next hblock =>
    rw [if_pos (h q (List.mem_range.mp hq) (by simpa using hblock))]
    refine ⟨hx.1, ?_⟩
    dsimp only
    exact hx.2.modLane fun l hl => hl

theorem takeAck_port (s : State) (p : Nat) (ack : BitVec 8) : ∃ u t d,
    (takeAck s p ack).port p = { s.port p with unacked := u, txQueue := t, loopDelay := d } := by
  unfold takeAck
  dsimp only
  split
  · simp only [State.port_modPort, if_true, State.fresh_rest]
    exact ⟨_, _, _, rfl⟩
  · exact ⟨_, _, _, rfl⟩

/-- A record that is emitted, or is not, leaves the port but for its run. -/
theorem ite_emitRec_port (c : Prop) [Decidable c] (s : State) (p : Nat) (slot : Slot) (a b : Nat) :
    ∃ r, (if c then emitRec s p slot a b else s).port p = { s.port p with run := r } := by
  split
  · exact ⟨_, emitRec_port s p slot a b⟩
  · exact ⟨_, rfl⟩

theorem headRecords_port (s : State) (p : Nat) (slot : Slot) (seq : BitVec 18) (half : Bool)
    (flow : Option (BitVec 18 × BitVec 18)) : ∃ r c d,
    (headRecords s p slot seq half flow).port p = { s.port p with run := r, calBlocks := c, calSess := d } := by
  cases flow with
  | none => exact ⟨_, _, _, rfl⟩
  | some f =>
    obtain ⟨mk0, mk1⟩ := f
    unfold headRecords
    dsimp only
    obtain ⟨r, hr⟩ := ite_emitRec_port (bit mk0 7 = true) s p
      (slot + BitVec.ofNat 64 (fld mk1 0 10 * if half then 2 else 1)) 3 (pack [(8, fld mk1 10 8), (18, seq.toNat)])
    generalize (if bit mk0 7 = true then emitRec s p _ 3 _ else s) = s1 at hr ⊢
    obtain ⟨r', hr'⟩ := ite_emitRec_port ((bit mk0 6 || bit mk0 5) = true) s1 p slot 4
      (pack [(1, b2n (bit mk0 6)), (1, b2n (bit mk0 5)), (18, seq.toNat)])
    generalize (if (bit mk0 6 || bit mk0 5) = true then emitRec s1 p slot 4 _ else s1) = s2 at hr' ⊢
    split
    · rw [State.port_modPort, if_pos rfl, hr', hr]
      exact ⟨_, _, _, rfl⟩
    · rw [hr', hr]
      exact ⟨_, _, _, rfl⟩

/-- A port with nothing to happen at the end of its block period. -/
theorem applyHappenings_nil (s : State) (p : Nat) (seq : BitVec 18) :
    applyHappenings s p [] seq = s.modPort p fun P => { P with pending := [] } := by
  rfl

/-- What the decision of a block period needs of a port is the same. -/
def SameLine (P Q : Port) : Prop := Q.lanes = P.lanes ∧ Q.state = P.state ∧ Q.deskew = P.deskew

theorem headRecords_line {s : State} {p : Nat} {P : Port} (h : SameLine P (s.port p)) (slot : Slot) (seq : BitVec 18)
    (half : Bool) (flow : Option (BitVec 18 × BitVec 18)) :
    SameLine P ((headRecords s p slot seq half flow).port p) := by
  obtain ⟨r, c, d, hport⟩ := headRecords_port s p slot seq half flow
  rw [hport]
  exact h

theorem takeAck_line (s : State) (p : Nat) (ack : BitVec 8) : SameLine (s.port p) ((takeAck s p ack).port p) := by
  obtain ⟨u, t, d, hport⟩ := takeAck_port s p ack
  rw [hport]
  exact ⟨rfl, rfl, rfl⟩

/-- BLOCK_PERIOD of a streaming port with no bad lane and nothing pending. -/
theorem exec_blockPeriod_of_good {p : BitVec 7} {bs : List (List (BitVec 2))} {as : List (Nat × Int)} {s : State}
    (hs : (s.port p.toNat).streams = true) (hpend : (s.port p.toNat).pending = [])
    (hgood : ∀ q < 9, ((s.port p.toNat).lane q).usable = true ∨ ((s.port p.toNat).lane q).st = .block →
      ((readBlocks (s.port p.toNat) bs as).getD q noBlock).good = true) :
    ∃ t, exec (.blockPeriod p bs as) s = .next t ∧
      let P := s.port p.toNat
      let rd := readBlocks P bs as
      let d := if P.rxHalf then decidePeriod P rd P.named P.namedSweep else decidePeriod P rd (List.range 8) 8
      (t.port p.toNat).state = P.state ∧ (t.port p.toNat).seqExp = P.seqExp + 1 ∧
      (t.port p.toNat).nextBeat = P.nextBeat + 960 ∧
      (t.port p.toNat).deskew = P.deskew ++
        periodBeats P.nextBeat (d.words.getD []) (periodCause P d != 0) (periodCause P d) P.rxHalf := by
  refine ⟨_, show execBlockPeriod p bs as s = _ by unfold execBlockPeriod; simp only [hs, hpend, if_true]; rfl, ?_⟩
  have hline : SameLine (s.port p.toNat) ((match shownAck (s.port p.toNat) (readBlocks (s.port p.toNat) bs as) with
      | some a => takeAck s p.toNat a
      | none => s).port p.toNat) := by
    split
    · exact takeAck_line s p.toNat _
    · exact ⟨rfl, rfl, rfl⟩
  have hline1 := headRecords_line hline (s.port p.toNat).nextBeat (s.port p.toNat).seqExp (s.port p.toNat).rxHalf
    (if (s.port p.toNat).rxHalf then decidePeriod (s.port p.toNat) (readBlocks (s.port p.toNat) bs as)
      (s.port p.toNat).named (s.port p.toNat).namedSweep
    else decidePeriod (s.port p.toNat) (readBlocks (s.port p.toNat) bs as) (List.range 8) 8).flow
  generalize headRecords _ p.toNat (s.port p.toNat).nextBeat (s.port p.toNat).seqExp _ _ = s1 at hline1 ⊢
  have hlane (q : Nat) : (s1.port p.toNat).lane q = (s.port p.toNat).lane q := lane_congr hline1.1 q
  obtain ⟨hnone, ⟨ls, hls⟩, hblock⟩ := laneChecks_of_good (P := s1.port p.toNat)
    (bs := readBlocks (s.port p.toNat) bs as) fun q hq hu => hgood q hq (.inl (by rw [← hlane]; exact hu))
  obtain ⟨hnone', ⟨ls', hls'⟩, -⟩ := lockedChecks_of_good
    (P := (laneChecks (s1.port p.toNat) (readBlocks (s.port p.toNat) bs as)).1)
    (bs := readBlocks (s.port p.toNat) bs as)
    fun q hq hb => hgood q hq (.inr (by rw [← hlane]; exact hblock q hb))
  dsimp only
  simp only [hnone, hnone', hls', List.append_nil, List.foldl_nil, applyHappenings_nil, settle_rest,
    State.port_modPort, State.port_setPort, if_true]
  exact ⟨by rw [hls]; exact hline1.2.1, trivial, trivial, by rw [hls, ← hline1.2.2]⟩

/-! ### The return lane (R44 to R46) -/

/-- A port that is not being equalised. -/
theorem eqTick_of_idle {s : State} {p : Nat} (heq : (s.port p).equalising = []) : eqTick s p = s := by
  unfold eqTick
  rw [if_pos (by rw [heq]; rfl)]

theorem exec_returnFrame_idle {p : BitVec 7} {s : State} (htx : (s.port p.toNat).transmits = true)
    (heq : (s.port p.toNat).equalising = []) (hframes : (s.port p.toNat).frames < 1023)
    (hqueue : (s.port p.toNat).txQueue = []) :
    exec (.returnFrame p) s = ok ((s.modPort p.toNat fun P => { P with
      frames := P.frames + 1, rseq := P.rseq + 1 }).out
        (.frame p.toNat (returnFrame (s.port p.toNat).rseq 0 0 []))) := by
  show execReturnFrame p s = _
  unfold execReturnFrame
  simp only [htx, eqTick_of_idle heq, Nat.not_le.mpr hframes, hqueue, if_false, State.modPort,
    State.port_setPort, if_true, State.setPort_setPort]
  rfl

theorem exec_returnFrame_message {p : BitVec 7} {s : State} {m : Msg} {ms : List Msg}
    (htx : (s.port p.toNat).transmits = true) (heq : (s.port p.toNat).equalising = [])
    (hframes : (s.port p.toNat).frames < 1023) (hqueue : (s.port p.toNat).txQueue = m :: ms)
    (hroom : (s.port p.toNat).unacked.length < 8) (heff : m.eff = none) (hty : m.mtype ≠ 1) :
    exec (.returnFrame p) s = ok ((s.modPort p.toNat fun P => { P with
      frames := P.frames + 1
      rseq := P.rseq + 1
      txQueue := ms
      unacked := P.unacked ++ [{ m with effAt := none, sends := m.sends + 1 }]
      effects := P.effects ++ [] }).out
        (.frame p.toNat (returnFrame (s.port p.toNat).rseq m.mtype m.seq (m.body ++ [])))) := by
  have hchoose (t : State) : chooseEff t p.toNat m = (none, t) := by
    simp only [chooseEff, heff]
  show execReturnFrame p s = _
  unfold execReturnFrame
  simp only [htx, eqTick_of_idle heq, Nat.not_le.mpr hframes, hqueue, hroom, hchoose, heff,
    beq_eq_false_iff_ne.mpr hty, if_false, State.modPort, State.port_setPort, if_true, State.setPort_setPort]
  rfl

/-! ### Effects at their block (R46, R51) -/

theorem exec_effectSeqReached {p : BitVec 7} {s : State} {k : EffectKind}
    (h : (s.port p.toNat).effects = [⟨(s.port p.toNat).seqExp, k⟩]) :
    exec (.effectSeqReached p) s =
      ok (applyEffect (s.modPort p.toNat fun P => { P with effects := [] }) p.toNat k) := by
  show execEffectSeqReached p s = _
  have hdue : (s.port p.toNat).effects.filter (fun e => e.atSeq == (s.port p.toNat).seqExp) =
      [⟨(s.port p.toNat).seqExp, k⟩] := by simp [h]
  have hrest : (s.port p.toNat).effects.filter (fun e => e.atSeq != (s.port p.toNat).seqExp) = [] := by simp [h]
  unfold execEffectSeqReached
  simp only [hdue, State.modPort, hrest]
  rfl

/-- A live lane is held. -/
def Lane.held (l : Lane) : Lane := if l.st == .live then { l with st := .hold } else l

/-- The lanes of a port, each changed by one function; the other fields stay. -/
theorem modPort_setLanes_port (s : State) (p : Nat) (f : Lane → Lane) : ∃ ls,
    (s.modPort p fun P => P.setLanes positions f).port p = { s.port p with lanes := ls } ∧
    ∀ q < 9, ((s.modPort p fun P => P.setLanes positions f).port p).lane q = f ((s.port p).lane q) := by
  rw [State.port_modPort, if_pos rfl]
  exact ⟨_, setLanes_eq positions f (s.port p), fun q hq => lane_setLanes_positions f (s.port p) q hq⟩

theorem applyEffect_warmHold_eq {s : State} {p : Nat} (h : (s.port p).state = .live) :
    applyEffect s p .warmHold = setPortState (s.modPort p fun P => P.setLanes positions Lane.held) p .warm :=
  if_pos (by rw [h]; rfl)

/-- A LIVE port goes into the warm hold, its live lanes held. -/
theorem applyEffect_warmHold {s : State} {p : Nat} (h : (s.port p).state = .live) :
    ((applyEffect s p .warmHold).port p).state = .warm ∧
    bit ((applyEffect s p .warmHold).port p).slotStatus 6 = true ∧
    ((applyEffect s p .warmHold).port p).effects = (s.port p).effects ∧
    ∀ q < 9, ((s.port p).lane q).st = .live → (((applyEffect s p .warmHold).port p).lane q).st = .hold := by
  obtain ⟨ls, hport, hlane⟩ := modPort_setLanes_port s p Lane.held
  rw [applyEffect_warmHold_eq h]
  generalize s.modPort p (fun P => P.setLanes positions Lane.held) = s1 at hport hlane ⊢
  have hstate : (s1.port p).state = .live := by rw [hport]; exact h
  rw [setPortState_port s1 p .warm (by rw [hstate]; decide)]
  refine ⟨rfl, by simp [bit_put], by rw [hport], fun q hq hlive => ?_⟩
  show ((s1.port p).lane q).st = .hold
  rw [hlane q hq, Lane.held, hlive]
  rfl

/-- A held lane delivers again. -/
def Lane.resumed (l : Lane) : Lane := if l.st == .hold then { l with st := .live } else l

/-- The state that a port takes when it leaves the warm hold. -/
def Port.wakes (P : Port) : PortSt :=
  if P.halfRate then .degraded else if P.outOfUse.isEmpty then .live else .rebuild

theorem Port.wakes_ne_warm (P : Port) : P.wakes ≠ .warm := by
  unfold Port.wakes
  split
  · decide
  · split <;> decide

theorem Port.wakes_of_all_usable {P : Port} (hhalf : P.halfRate = false) (h : ∀ q < 9, (P.lane q).usable = true) :
    P.wakes = .live := by
  have hout : P.outOfUse = [] := List.filter_eq_nil_iff.mpr fun q hq => by simp [h q (List.mem_range.mp hq)]
  simp [Port.wakes, hhalf, hout]

/-- The end of the warm hold, in the format that the port has. -/
theorem applyEffect_streamCtrl {s : State} {p : Nat} (h : (s.port p).state = .warm) :
    ((applyEffect s p (.streamCtrl true (s.port p).fmt)).port p).validEn = true ∧
    ((applyEffect s p (.streamCtrl true (s.port p).fmt)).port p).halfRate = (s.port p).halfRate ∧
    ((applyEffect s p (.streamCtrl true (s.port p).fmt)).port p).state = (s.port p).wakes := by
  have hstreams : (s.port p).streams = true := by simp [Port.streams, h]
  have heq : applyEffect s p (.streamCtrl true (s.port p).fmt) = setPortState (s.modPort p fun P =>
      { P.setLanes positions Lane.resumed with
        fmt := (s.port p).fmt, validEn := true, liveGrant := false }) p (s.port p).wakes := by
    simp only [applyEffect, hstreams, h, bne_self_eq_false]
    rfl
  have hport : (s.modPort p fun P => { P.setLanes positions Lane.resumed with
      fmt := (s.port p).fmt, validEn := true, liveGrant := false }).port p =
      { (s.port p).setLanes positions Lane.resumed with
        fmt := (s.port p).fmt, validEn := true, liveGrant := false } := by
    rw [State.port_modPort, if_pos rfl]
  rw [setLanes_eq] at hport
  rw [heq]
  generalize s.modPort p (fun P => { P.setLanes positions Lane.resumed with
    fmt := (s.port p).fmt, validEn := true, liveGrant := false }) = s1 at hport ⊢
  have hstate : (s1.port p).state = .warm := by rw [hport]; exact h
  rw [setPortState_port s1 p _ (by rw [hstate]; exact (Port.wakes_ne_warm _).symm)]
  exact ⟨by rw [hport], by rw [hport], rfl⟩

/-! ### Training phases (R47) -/

theorem failLanes_nil (P : Port) : P.failLanes [] = P := by
  unfold Port.failLanes
  split
  · rfl
  · next t h =>
    show { P with training := some { t with failed := t.failed ++ [] } } = P
    rw [List.append_nil, ← h]

/-- A phase that ends with every lane of it good. -/
theorem nextPhase_port {s : State} {p : Nat} {m : TrainIn} {t : Training} (ht : (s.port p).training = some t)
    (hm : m.failed = []) (hfew : t.failed.length ≤ 2) (hlo : 1 ≤ t.phase) (hhi : t.phase ≤ 4)
    (hlock : t.phase = 3 → locksOf m (positions.filter fun q => !t.failed.contains q) ≠ none) :
    ((nextPhase s p m).port p).training = some { t with phase := t.phase + 1 } ∧
    (t.phase = 1 → ∀ q < 9, (((nextPhase s p m).port p).lane q).st = .acquire) ∧
    (t.phase = 2 → ∀ q < 9, q ∉ t.failed → (((nextPhase s p m).port p).lane q).st = .hunt) := by
  have hs0 : ((s.modPort p fun P => P.failLanes []).port p) = s.port p := by
    rw [State.port_modPort, if_pos rfl, failLanes_nil]
  have hfew' : ¬ t.failed.length ≥ 3 := by omega
  have hphase : t.phase = 1 ∨ t.phase = 2 ∨ t.phase = 3 ∨ t.phase = 4 := by omega
  unfold nextPhase
  rw [hm]
  simp only [hs0, ht, hfew', List.isEmpty_nil, Bool.not_true, Bool.and_false, Bool.false_and, Bool.false_eq_true,
    if_false]
  obtain h | h | h | h := hphase
  · have hlane (q : Nat) (hq : q < 9) :=
      lane_setLanes_positions (fun l => { l with st := .acquire }) (s.port p) q hq
    simp only [h, State.port_setPort, if_true]
    generalize (s.port p).setLanes positions _ = Q at hlane ⊢
    refine ⟨trivial, fun _ q hq => ?_, fun h => absurd h (by decide)⟩
    show (Q.lane q).st = _
    rw [hlane q hq]
  · have hlane (q : Nat) := lane_setLanes (positions.filter fun q => !t.failed.contains q)
      (List.nodup_range.filter _) (fun l => { l with st := .hunt }) (s.port p) q
    simp only [h, State.port_setPort, if_true]
    generalize (s.port p).setLanes (positions.filter _) _ = Q at hlane ⊢
    refine ⟨trivial, fun h => absurd h (by decide), fun _ q hq hgood => ?_⟩
    show (Q.lane q).st = _
    rw [hlane q, if_pos]
    simp [positions, hq, hgood]
  · obtain ⟨ls, hls⟩ := Option.ne_none_iff_exists'.mp (hlock h)
    simp only [h, hls, State.port_setPort, if_true]
    exact ⟨trivial, fun h => absurd h (by decide), fun h => absurd h (by decide)⟩
  · simp only [h, State.port_setPort, if_true]
    exact ⟨trivial, fun h => absurd h (by decide), fun h => absurd h (by decide)⟩

theorem loseLane_eq (P : Port) (q : Nat) : ∃ a b,
    P.loseLane q = { P.modLane q fun l => { l with st := .lost, badRun := 0 } with lostA := a, lostB := b } := by
  unfold Port.loseLane
  dsimp only
  split
  · exact ⟨_, _, rfl⟩
  · split <;> exact ⟨_, _, rfl⟩

/-- Lanes that are LOST: lane states, lost_a and lost_b, and nothing else. -/
theorem foldl_loseLane (qs : List Nat) (P : Port) :
    (∃ ls a b, qs.foldl Port.loseLane P = { P with lanes := ls, lostA := a, lostB := b }) ∧
    ∀ q, (q ∈ qs ∨ (P.lane q).st = .lost) → ((qs.foldl Port.loseLane P).lane q).st = .lost := by
  induction qs generalizing P with
  | nil => exact ⟨⟨_, _, _, rfl⟩, fun q h => h.resolve_left (by simp)⟩
  | cons r qs ih =>
    obtain ⟨a, b, hr⟩ := loseLane_eq P r
    obtain ⟨⟨ls, a', b', hall⟩, hlost⟩ := ih (P.loseLane r)
    refine ⟨⟨ls, a', b', ?_⟩, fun q h => hlost q ?_⟩
    · rw [List.foldl_cons, hall, hr]
      rfl
    · have hlane : (P.loseLane r).lane q = (P.modLane r fun l => { l with st := .lost, badRun := 0 }).lane q := by
        rw [hr]
        rfl
      rw [hlane, lane_modLane]
      split
      · exact .inr rfl
      · next hne =>
        obtain h | h := h
        · exact .inl ((List.mem_cons.mp h).resolve_left hne)
        · exact .inr h

/-- The lanes of `qs` that a training has not lost yet. -/
def newlyLost (t : Training) (qs : List Nat) : List Nat :=
  (qs.filter fun q => decide (q < 9) && !t.failed.contains q).eraseDups

theorem failLanes_port {P : Port} {t : Training} (ht : P.training = some t) (qs : List Nat) :
    (∃ ls a b, P.failLanes qs = { P with
      lanes := ls
      lostA := a
      lostB := b
      training := some { t with failed := t.failed ++ newlyLost t qs } }) ∧
    ∀ q ∈ newlyLost t qs, ((P.failLanes qs).lane q).st = .lost := by
  obtain ⟨⟨ls, a, b, hall⟩, hlost⟩ := foldl_loseLane (newlyLost t qs) P
  have heq : P.failLanes qs = { (newlyLost t qs).foldl Port.loseLane P with
      training := some { t with failed := t.failed ++ newlyLost t qs } } := by
    simp only [Port.failLanes, ht]
    rfl
  refine ⟨⟨ls, a, b, by rw [heq, hall]⟩, fun q hq => ?_⟩
  rw [heq]
  exact hlost q (.inl hq)

theorem quarantine_port (s : State) (p fail : Nat) :
    ((quarantine s p fail).port p).state = .quarantined ∧ ((quarantine s p fail).port p).training = none ∧
    ((quarantine s p fail).port p).failCode = BitVec.ofNat 4 fail ∧
    ((quarantine s p fail).port p).ledFails = satInc (s.port p).ledFails := by
  unfold quarantine
  dsimp only
  simp only [leaveTraining_rest]
  generalize hs1 : (s.modPort p fun P => { P.clearMsgs with
    failCode := BitVec.ofNat 4 fail
    training := none
    ledQuar := true
    ledFail := BitVec.ofNat 4 fail
    ledBoot := s.boot.count
    ledFails := satInc P.ledFails }) = s1
  have hport : (s1.port p).training = none ∧ (s1.port p).failCode = BitVec.ofNat 4 fail ∧
      (s1.port p).ledFails = satInc (s.port p).ledFails := by
    rw [← hs1, State.port_modPort, if_pos rfl]
    exact ⟨rfl, rfl, rfl⟩
  by_cases hst : (s1.port p).state = .quarantined
  · rw [← hst, setPortState_same]
    exact ⟨rfl, hport⟩
  · rw [setPortState_port _ _ _ hst]
    exact ⟨rfl, hport⟩

/-- TRAINING_PHASE_TIMEOUT of a training that fails by it: in phase 1, or with three lanes LOST. -/
theorem timeout_fails {p : BitVec 7} {ls : List (BitVec 4)} {s : State} {t : Training}
    (ht : (s.port p.toNat).training = some t)
    (hfail : 3 ≤ t.failed.length + (newlyLost t (ls.map (·.toNat))).length ∨ t.phase = 1) :
    exec (.trainingPhaseTimeout p ls) s =
      ok (quarantine (s.modPort p.toNat fun P => P.failLanes (ls.map (·.toNat))) p.toNat
        (phaseFail t.phase (decide (t.failed.length + (newlyLost t (ls.map (·.toNat))).length = 9)))) := by
  show execTrainingPhaseTimeout p ls s = _
  unfold execTrainingPhaseTimeout
  simp only [ht]
  by_cases hone : t.phase = 1
  · rw [if_pos hone, hone]
    rfl
  · obtain ⟨⟨lanes, a, b, hport⟩, -⟩ := failLanes_port ht (ls.map (·.toNat))
    have hlen : (t.failed ++ newlyLost t (ls.map (·.toNat))).length ≥ 3 := by
      rw [List.length_append]
      exact hfail.resolve_right hone
    rw [if_neg hone]
    unfold loseTraining
    simp only [State.port_modPort, if_true, hport]
    rw [if_pos hlen, List.length_append]

/-- TRAINING_PHASE_TIMEOUT of a training that goes on: the lanes that missed the limit are LOST. -/
theorem timeout_goesOn {p : BitVec 7} {ls : List (BitVec 4)} {s : State} {t : Training}
    (ht : (s.port p.toNat).training = some t) (hone : t.phase ≠ 1)
    (hfew : t.failed.length + (newlyLost t (ls.map (·.toNat))).length < 3) :
    exec (.trainingPhaseTimeout p ls) s =
      ok (s.modPort p.toNat fun P => P.failLanes (ls.map (·.toNat))) := by
  obtain ⟨⟨lanes, a, b, hport⟩, -⟩ := failLanes_port ht (ls.map (·.toNat))
  have hlen : ¬ (t.failed ++ newlyLost t (ls.map (·.toNat))).length ≥ 3 := by
    rw [List.length_append]
    omega
  show execTrainingPhaseTimeout p ls s = _
  unfold execTrainingPhaseTimeout
  simp only [ht]
  rw [if_neg hone]
  unfold loseTraining
  simp only [State.port_modPort, if_true, hport]
  rw [if_neg hlen]

/-! ### The sideband, presence and the port service chains (R51, R57 to R63) -/

theorem readHead_port (s : State) (p : Nat) (assigned : Bool) :
    (readHead s p assigned).port p = { s.port p with dynAddr := true, descRead := true } := by
  unfold readHead
  refine (foldl_same (State.port · p) _ (fun s x => s.out (.i3c p x)) (fun _ _ => rfl) _).trans ?_
  rw [State.port_modPort, if_pos rfl]

/-- A read of the head descriptor may start; the slot registers and the presence stay. -/
theorem startDescRead_port (s : State) (p : Nat) :
    ∃ a r, (startDescRead s p).port p = { s.port p with dynAddr := a, descRead := r } := by
  unfold startDescRead
  dsimp only
  split
  · exact ⟨_, _, readHead_port s p _⟩
  · exact ⟨_, _, rfl⟩

theorem exec_descriptorReadDone_good {p : BitVec 7} {d : BitVec 256} {s : State}
    (hread : (s.port p.toNat).descRead = true) (hst : (s.port p.toNat).state = .down)
    (hpow : (s.port p.toNat).powerOut = true) (hself : (s.port p.toNat).selfTrain = false) (hd : descGood d = true) :
    exec (.descriptorReadDone p (some d)) s = ok (setPortState (s.modPort p.toNat fun P => { P with
      descRead := false, desc := d }) p.toNat .powered) := by
  show execDescriptorReadDone p (some d) s = _
  simp only [execDescriptorReadDone, hread, hst, hpow, hself, hd]
  rfl

/-- The port while its presence input rises (R59, R63). -/
def Port.present (P : Port) : Port :=
  { P with
    prsntLatch := false
    prsnt := true
    slotStatus := put (put P.slotStatus 0 1 1) 3 1 1
    slotCtrl := if bit P.slotCtrl 1 then put P.slotCtrl 0 1 1 else P.slotCtrl }

theorem exec_presenceReport_on {p : BitVec 7} {s : State} (h : (s.port p.toNat).prsnt = false) :
    exec (.presenceReport p true) s = ok (startDescRead (s.setPort p.toNat (s.port p.toNat).present) p.toNat) := by
  show execPresenceReport p true s = _
  simp [execPresenceReport, h, State.modPort, Port.present, b2n]

/-- What one scan of a port service chain leaves in the port. -/
def Scanned (P Q : Port) (fault : Bool) : Prop :=
  Q.pfaultPrev = fault ∧ bit Q.slotStatus 2 = fault ∧ (fault = true → bit Q.slotCtrl 0 = false) ∧
  (fault = true → P.pfaultPrev = false → bit Q.slotStatus 5 = true)

/-- The inputs and outputs of a scan, taken into the port (R60 to R63). -/
def Port.scan (P : Port) (fault out sleeps : Bool) (count : Nat) : Port :=
  let pressed := count == 2 || P.attnLatch
  let st0 := put (put P.slotStatus 1 1 (b2n out)) 2 1 (b2n fault)
  let st1 := if fault && !P.pfaultPrev then put st0 5 1 1 else st0
  { P with
    slotStatus := if pressed && !sleeps then put st1 4 1 1 else st1
    slotCtrl := if fault then put P.slotCtrl 0 1 0 else P.slotCtrl
    pfaultPrev := fault
    attnCount := count
    attnLatch := pressed && sleeps
    descRead := P.descRead && out
    dynAddr := P.dynAddr && out }

theorem Port.scan_scanned (P : Port) (fault out sleeps : Bool) (count : Nat) :
    Scanned P (P.scan fault out sleeps count) fault := by
  unfold Scanned Port.scan
  dsimp only
  refine ⟨rfl, ?_, fun h => ?_, fun h hprev => ?_⟩
  · cases fault <;> split <;> split <;> simp [bit_put, b2n]
  · rw [if_pos h]
    simp [bit_put]
  · rw [h, hprev]
    split <;> simp [bit_put]

/-- In `t` port `p` is `X` but for what is pending, and every other port is as in `s`. -/
def AtPort (s : State) (p : Nat) (X : Port) (t : State) : Prop :=
  (∃ l, t.port p = { X with pending := l }) ∧ ∀ q, q ≠ p → t.port q = s.port q

theorem AtPort.happen {s t : State} {p : Nat} {X : Port} (h : AtPort s p X t) (hX : X.streams = true)
    (e : Happening) : AtPort s p X (happen t p e) := by
  obtain ⟨⟨l, hl⟩, hother⟩ := h
  rw [happen_of_streams (by rw [hl]; exact hX)]
  refine ⟨⟨l ++ [e], by rw [State.port_modPort, if_pos rfl, hl]⟩, fun q hq => ?_⟩
  rw [State.port_modPort, if_neg hq, hother q hq]

theorem state_ne_down_of_streams {P : Port} (h : P.streams = true) : P.state ≠ .down := by
  intro hdown
  simp [Port.streams, hdown] at h

theorem AtPort.startDescRead {s t : State} {p : Nat} {X : Port} (h : AtPort s p X t) (hX : X.streams = true) :
    AtPort s p X (startDescRead t p) := by
  obtain ⟨l, hl⟩ := h.1
  have hst : ((t.port p).state == .down) = false := by
    rw [hl]
    exact beq_eq_false_iff_ne.mpr (state_ne_down_of_streams hX)
  unfold Machine.startDescRead
  simp only [hst, Bool.and_false, Bool.false_eq_true, if_false]
  exact h

/-- One step of `AtPort` that is taken or not. -/
theorem AtPort.ite {s t u : State} {p : Nat} {X : Port} (c : Prop) [Decidable c] (ht : AtPort s p X t)
    (hu : AtPort s p X u) : AtPort s p X (if c then t else u) := by
  split
  · exact ht
  · exact hu

theorem scanPort_atPort {s : State} {p : Nat} (hs : (s.port p).streams = true) (fault button : Bool) :
    ∃ X, Scanned (s.port p) X fault ∧ X.streams = true ∧ AtPort s p X (scanPort s p fault button) := by
  let out := s.hub.pscOut.get false (3 * p)
  let sleeps := decide (s.pwr.state.toNat < 2)
  let count := if button then min 3 ((s.port p).attnCount + 1) else 0
  have hX : ((s.port p).scan fault out sleeps count).streams = true := hs
  refine ⟨(s.port p).scan fault out sleeps count, Port.scan_scanned .., hX, ?_⟩
  have hset (H : Hub → Hub) : AtPort s p ((s.port p).scan fault out sleeps count)
      ((s.setPort p ((s.port p).scan fault out sleeps count)).modHub H) :=
    ⟨⟨_, (State.port_setPort ..).trans (if_pos rfl)⟩, fun q hq => (State.port_setPort ..).trans (if_neg hq)⟩
  have hwake {t : State} (h : AtPort s p ((s.port p).scan fault out sleeps count) t) :
      AtPort s p ((s.port p).scan fault out sleeps count) (driveWake t) := by
    unfold AtPort
    simp only [driveWake_rest]
    exact h
  show AtPort s p ((s.port p).scan fault out sleeps count) (scanPort s p fault button)
  unfold scanPort
  refine AtPort.ite _ (AtPort.startDescRead ?h4 hX) ?h4
  refine AtPort.ite _ (AtPort.happen ?h3 hX _) ?h3
  refine AtPort.ite _ (AtPort.happen ?h2 hX _) ?h2
  exact AtPort.ite _ (hwake (hset _)) (hset _)

/-- A scan of `n` streaming ports: each is scanned once, and no other port changes. -/
theorem forEach_scanPort (base : Nat) (fault button : Nat → Bool) (s : State) (n : Nat)
    (hs : ∀ j < n, (s.port (base + j)).streams = true) :
    (∀ j < n, Scanned (s.port (base + j))
      ((forEach (List.range n) (fun s j => scanPort s (base + j) (fault j) (button j)) s).port (base + j))
      (fault j)) ∧
    ∀ q, (∀ j < n, q ≠ base + j) →
      (forEach (List.range n) (fun s j => scanPort s (base + j) (fault j) (button j)) s).port q = s.port q := by
  induction n with
  | zero => exact ⟨fun j hj => absurd hj (Nat.not_lt_zero j), fun q _ => rfl⟩
  | succ n ih =>
    obtain ⟨hscanned, hsame⟩ := ih fun j hj => hs j (by omega)
    have hstep : forEach (List.range (n + 1)) (fun s j => scanPort s (base + j) (fault j) (button j)) s =
        scanPort (forEach (List.range n) (fun s j => scanPort s (base + j) (fault j) (button j)) s)
          (base + n) (fault n) (button n) := by
      unfold forEach
      rw [List.range_succ, List.foldl_append]
      rfl
    rw [hstep]
    generalize forEach (List.range n) (fun s j => scanPort s (base + j) (fault j) (button j)) s = t
      at hscanned hsame ⊢
    have hport : t.port (base + n) = s.port (base + n) := hsame _ fun j hj => by omega
    obtain ⟨X, hX, -, ⟨l, hl⟩, hother⟩ := scanPort_atPort (s := t) (p := base + n)
      (by rw [hport]; exact hs n (by omega)) (fault n) (button n)
    refine ⟨fun j hj => ?_, fun q hq => ?_⟩
    · by_cases hlast : j = n
      · rw [hlast, hl, ← hport]
        exact hX
      · rw [hother _ (by omega)]
        exact hscanned j (by omega)
    · rw [hother q (hq n (by omega)), hsame q fun j hj => hq j (by omega)]

/-- Settles O14, event by event. -/
theorem portEventsComplete : Obligations.PortEventsComplete := by
  unfold Obligations.PortEventsComplete
  refine ⟨⟨fun p bs as s hs hpend hgood => exec_blockPeriod_of_good hs hpend hgood,
    fun p s htx heq hframes hqueue => exec_returnFrame_idle htx heq hframes hqueue,
    fun p s m ms htx heq hframes hqueue hroom heff hty hs =>
      ⟨_, exec_returnFrame_message htx heq hframes hqueue hroom heff hty, ?_⟩,
    fun p s heffects hst => ⟨_, exec_effectSeqReached heffects, ?_⟩,
    fun p s f heffects hst hfmt => ⟨_, exec_effectSeqReached heffects, ?_⟩⟩,
    ⟨fun p m s t ht hm hfew hlo hhi hlock => ?_, fun p ls s t ht => ?_⟩,
    fun p d s hread hst hpow hself hd => ⟨_, exec_descriptorReadDone_good hread hst hpow hself hd, ?_⟩,
    fun p s hread hst => ?_, fun p s hprsnt => ⟨_, exec_presenceReport_on hprsnt, ?_⟩,
    fun n inputs s hs => ⟨_, rfl, ?_⟩, fun s => rfl⟩
  · simp only [settle_rest, State.out_port_get, State.port_modPort, if_true]
    exact ⟨trivial, trivial, trivial⟩
  · have hport : (s.modPort p.toNat fun P => { P with effects := [] }).port p.toNat =
        { s.port p.toNat with effects := [] } := by rw [State.port_modPort, if_pos rfl]
    generalize (s.modPort p.toNat fun P => { P with effects := [] }) = s1 at hport ⊢
    obtain ⟨hstate, hbit, heff, hlane⟩ := applyEffect_warmHold (s := s1) (p := p.toNat) (by rw [hport]; exact hst)
    simp only [settle_rest]
    refine ⟨hstate, hbit, by rw [heff, hport], fun q hq hlive => hlane q hq ?_⟩
    rw [hport]
    exact hlive
  · have hport : (s.modPort p.toNat fun P => { P with effects := [] }).port p.toNat =
        { s.port p.toNat with effects := [] } := by rw [State.port_modPort, if_pos rfl]
    generalize (s.modPort p.toNat fun P => { P with effects := [] }) = s1 at hport ⊢
    have hfmt1 : (s1.port p.toNat).fmt = f := by rw [hport]; exact hfmt
    obtain ⟨hvalid, hhalf, hstate⟩ := applyEffect_streamCtrl (s := s1) (p := p.toNat) (by rw [hport]; exact hst)
    rw [hfmt1] at hvalid hhalf hstate
    have hhalf1 : (s1.port p.toNat).halfRate = (s.port p.toNat).halfRate := by rw [hport]
    simp only [settle_rest]
    refine ⟨hvalid, hhalf.trans hhalf1, fun h => ?_, fun h => ?_⟩
    · rw [hstate, Port.wakes, hhalf1, if_pos h]
    · rw [hstate]
      refine Port.wakes_of_all_usable (hhalf1.trans h.1) fun q hq => ?_
      rw [hport]
      exact h.2 q hq
  · have hnext : exec (.trainingPhaseExit p m) s = ok (nextPhase s p.toNat m) := by
      show execTrainingPhaseExit p m s = _
      simp only [execTrainingPhaseExit, ht]
    refine ⟨_, hnext, ?_⟩
    simp only [settle_rest]
    exact nextPhase_port ht hm hfew hlo hhi hlock
  · obtain ⟨⟨lanes, a, b, hport⟩, hlost⟩ := failLanes_port ht (ls.map (·.toNat))
    by_cases hfail : 3 ≤ t.failed.length + (newlyLost t (ls.map (·.toNat))).length ∨ t.phase = 1
    · refine ⟨_, timeout_fails ht hfail, ?_⟩
      obtain ⟨hstate, htrain, hcode, hled⟩ := quarantine_port
        (s.modPort p.toNat fun P => P.failLanes (ls.map (·.toNat))) p.toNat
        (phaseFail t.phase (decide (t.failed.length + (newlyLost t (ls.map (·.toNat))).length = 9)))
      simp only [settle_rest]
      refine (if_pos hfail).mpr ⟨hstate, htrain, hcode, hled.trans ?_⟩
      rw [State.port_modPort, if_pos rfl, hport]
    · refine ⟨_, timeout_goesOn ht (by omega) (by omega), ?_⟩
      simp only [settle_rest, State.port_modPort, if_true]
      exact (if_neg hfail).mpr ⟨by rw [hport], by rw [hport]; rfl, hlost⟩
  · have hport : (s.modPort p.toNat fun P => { P with descRead := false, desc := d }).port p.toNat =
        { s.port p.toNat with descRead := false, desc := d } := by rw [State.port_modPort, if_pos rfl]
    generalize (s.modPort p.toNat fun P => { P with descRead := false, desc := d }) = s1 at hport ⊢
    have hdown : (s1.port p.toNat).state = .down := by rw [hport]; exact hst
    simp only [settle_rest]
    rw [setPortState_port _ _ _ (by rw [hdown]; decide), hdown]
    exact ⟨rfl, by rw [hport], by rw [hport], rfl, rfl, by simp [bit_put]⟩
  · show execDescriptorReadDone p none s = _
    simp only [execDescriptorReadDone, hread, hst, modPort_modPort]
    rfl
  · obtain ⟨a, r, hport⟩ := startDescRead_port (s.setPort p.toNat (s.port p.toNat).present) p.toNat
    rw [State.port_setPort, if_pos rfl] at hport
    simp only [settle_rest]
    rw [hport]
    refine ⟨rfl, by simp [Port.present, bit_put], by simp [Port.present, bit_put], fun h => ?_⟩
    simp [Port.present, h, bit_put]
  · dsimp only
    simp only [settle_rest]
    exact (forEach_scanPort (32 * n.toNat) (fun j => inputs.getLsbD (2 * j)) (fun j => inputs.getLsbD (2 * j + 1))
      s 32 hs).1

end Sys2Proof.Machine
end

section
/-! The security rows (R409 to R435). -/
namespace Sys2Proof.Machine

/-! ### Reads that do not depend on the packet's own queue -/

theorem runningFw_takePacket (c : Cmd) (p : Packet) (s : State) : runningFw (takePacket c p s) = runningFw s := by
  rw [runningFw, takePacket_sec, runningFw]

theorem lifecycle_takePacket (c : Cmd) (p : Packet) (s : State) : lifecycle (takePacket c p s) = lifecycle s := by
  rw [lifecycle, takePacket_sec, lifecycle]

theorem calRecord_takePacket (c : Cmd) (p : Packet) (s : State) (k : Nat) (b : Bool) :
    calRecord (takePacket c p s) k b = calRecord s k b := by
  have hport (q : Nat) : (takePacket c p s).port q = s.port q := by simp
  have hports : (takePacket c p s).partPorts k = s.partPorts k := by
    simp only [State.partPorts, State.portOwner, State.pairOwner, takePacket_hub]
  simp only [calRecord, hport, hports, takePacket_mon]

theorem sealBytes_takePacket (c : Cmd) (p : Packet) (s : State) (k sid tr op otm ctm : Nat) (report : Bool)
    (x : Option Session) (cal : List Byte) :
    sealBytes (takePacket c p s) k report sid tr op otm ctm x cal = sealBytes s k report sid tr op otm ctm x cal := by
  simp only [sealBytes, runningFw_takePacket, lifecycle_takePacket, takePacket_sec, takePacket_vach, takePacket_time,
    tmStOf_congr (takePacket_time ..)]

theorem nowTm_takePacket (c : Cmd) (p : Packet) (s : State) : (takePacket c p s).nowTm = s.nowTm := by
  rw [State.nowTm, tmOf_congr (takePacket_time ..), takePacket_time]
  rfl

/-! ### A refused session request -/

/-- A refused command may enter the audit ring, and otherwise leaves the island's state. -/
theorem noteFail_sec (p : Packet) (f : Fail) (s : State) :
    (noteFail p f s).sec.islandJob = s.sec.islandJob ∧ (noteFail p f s).sec.coSession = s.sec.coSession := by
  unfold noteFail
  split <;> simp [audit, State.modSec]

/-- A command that begins and does not pass all its checks leaves the island, the partitions and the ports. -/
theorem run_refused {c : Cmd} {p : Packet} {s : State} (h : Ready c p s) {params state : List (Option Fail)}
    (hfail : ¬ (Passes params ∧ Passes state)) (eff : State → State × Rep) :
    ∃ t, Cmd.run c p s params state eff = .next t ∧ t.sec.islandJob = s.sec.islandJob ∧
      t.sec.coSession = s.sec.coSession ∧ t.parts = s.parts ∧ t.ports = s.ports := by
  obtain ⟨f, hf⟩ := Option.ne_none_iff_exists'.mp fun hnone =>
    hfail ((allChecks_none_iff c p s params state).mp hnone).2
  refine ⟨_, Cmd.run_failed h.1 hf eff, ?_⟩
  simp [noteFail_sec]

/-! ### The error state (R427) -/

theorem silenceDma_keeps (s : State) (n : Nat) : (silenceDma s n).sec = s.sec ∧ (silenceDma s n).parts = s.parts := by
  have hreplies (t : State) (ps : List Packet) :
      (ps.foldl (fun s p => replyTo s false p 0 0 0 []) t).sec = t.sec ∧
      (ps.foldl (fun s p => replyTo s false p 0 0 0 []) t).parts = t.parts :=
    ⟨foldl_same (·.sec) ps (fun s p => replyTo s false p 0 0 0 []) (fun s p => by simp) t,
      foldl_same (·.parts) ps (fun s p => replyTo s false p 0 0 0 []) (fun s p => by simp) t⟩
  unfold silenceDma
  dsimp only
  split
  · exact ⟨rfl, rfl⟩
  · rw [(hreplies _ _).1, (hreplies _ _).2]
    split <;> simp

theorem silenceAll_keeps (ns : List Nat) (s : State) :
    (forEach ns silenceDma s).sec = s.sec ∧ (forEach ns silenceDma s).parts = s.parts :=
  ⟨foldl_same (·.sec) ns silenceDma (fun s n => (silenceDma_keeps s n).1) s,
    foldl_same (·.parts) ns silenceDma (fun s n => (silenceDma_keeps s n).2) s⟩

theorem noteUnsealed_islandJob (s : State) (k role cause : Nat) (x : Session) :
    (noteUnsealed s k role cause x).sec.islandJob = s.sec.islandJob := by
  simp [noteUnsealed, audit, State.modSec]

theorem endUserSession_islandJob (s : State) (k cause : Nat) :
    (endUserSession s k cause).sec.islandJob = s.sec.islandJob := by
  unfold endUserSession
  split
  · rfl
  · rw [noteUnsealed_islandJob]
    rfl

theorem endUserSessions_islandJob (ks : List Nat) (s : State) (cause : Nat) :
    (forEach ks (fun s k => endUserSession s k cause) s).sec.islandJob = s.sec.islandJob := by
  induction ks generalizing s with
  | nil => rfl
  | cons k ks ih => exact (ih _).trans (endUserSession_islandJob s k cause)

/-- Every session has ended; the island's queue stays. -/
theorem endSessions_state (s : State) (cause : Nat) :
    (endSessions s cause).sec.coSession = none ∧ (∀ k < 16, ((endSessions s cause).part k).session = none) ∧
    (endSessions s cause).sec.islandJob = s.sec.islandJob := by
  have huser := endUserSessions_islandJob (List.range 16) s cause
  have hsession (k : Nat) (hk : k < 16) :
      ((forEach (List.range 16) (fun s k => endUserSession s k cause) s).part k).session = none := by
    rw [endUserSessions_session, if_pos (List.mem_range.mpr hk)]
  unfold endSessions
  generalize forEach (List.range 16) (fun s k => endUserSession s k cause) s = t at huser hsession ⊢
  refine ⟨endCoSession_coSession t cause, fun k hk => ?_, ?_⟩
  · rw [endCoSession_part, hsession k hk]
  · rw [← huser]
    unfold endCoSession
    split
    · rfl
    · rw [noteUnsealed_islandJob]
      rfl

theorem enterError_state (s : State) (test : BitVec 32) (entropy : Bool) :
    (enterError s test entropy).sec.error = true ∧ (enterError s test entropy).sec.errTest = test ∧
    (enterError s test entropy).sec.errEntropy = entropy ∧ (enterError s test entropy).sec.coSession = none ∧
    (∀ k < 16, ((enterError s test entropy).part k).session = none) ∧
    (enterError s test entropy).sec.islandJob = s.sec.islandJob := by
  obtain ⟨hco, hsession, hjob⟩ := endSessions_state s 3
  obtain ⟨hsec, hparts⟩ := silenceAll_keeps (List.range 32) (endSessions s 3)
  unfold enterError
  dsimp only
  generalize forEach (List.range 32) silenceDma (endSessions s 3) = s2 at hsec hparts ⊢
  simp only [State.part] at hsession ⊢
  simp only [State.modSec, audit, evSec_rest, hsec, hparts]
  exact ⟨trivial, trivial, trivial, hco, hsession, hjob⟩

/-- Settles O58, row by row. -/
theorem securityRowsComplete : Obligations.SecurityRowsComplete := by
  unfold Obligations.SecurityRowsComplete
  refine ⟨⟨fun p s h hsub hsign => ?_, fun p s h hsub => ?_, fun p s h hsub => ?_, fun p s => ?_,
    fun p s h hopen hports hdma hcmp => ?_, fun p s h hopt hlc hother => ?_,
    fun p s h hopt hlc hfips hother => ?_, fun p s h hop hlc => ?_, fun p s h hop hlc href => ?_,
    fun p s h hop hlc href hlen hcerts => ?_, fun p s h hop hlc => ?_, fun p s h hop hlc => ?_,
    fun p s h hop hsense hlc => ?_, fun p s h hop hmbox href => ?_,
    fun p s h hop hmbox hlen hlast hoff => ?_, fun p s h hop hboot => ?_, fun p s h hsub => ?_,
    fun p s h hsub => ?_, fun p s h hbit => ?_, fun p s h hbit => ?_, fun p s e es h haudit => ?_⟩,
    fun r s op p js hjob hfail herr hseed => ?_, fun r s op p js n hjob hfail => ?_, fun s hdue => ?_,
    fun s hdue => ?_⟩
  · show execSecAttestReport p s = _
    unfold execSecAttestReport
    rw [if_neg (by rw [hsub]; decide)]
    refine run_concludes h (by simp [hsub]) (by simp [hsign]) ?_
    dsimp only
    rw [calRecord_takePacket, sealBytes_takePacket, nowTm_takePacket]
    rfl
  · show execSecAttestCerts p s = _
    unfold execSecAttestCerts
    rw [if_neg (by rw [hsub]; decide)]
    refine run_concludes h (by simp) (by simp) ?_
    simp [Rep.bytes]
  · show execSecAttestCal p s = _
    unfold execSecAttestCal
    rw [if_neg (by rw [hsub]; decide)]
    refine run_concludes h (by simp) (by simp) ?_
    rw [calRecord_takePacket]
    rfl
  · intro r cl h href hlen hres hcl hrole
    by_cases hall : credentialOk s p.part r = true ∧ Config.keyValid (slice r 64 97) = true ∧
        Config.keyValid (slice r 192 2592) = true ∧ Config.keyValid (slice r 2784 97) = true ∧
        Config.keyValid (slice r 2912 1568) = true
    · rw [if_pos hall]
      obtain ⟨hcred, hk1, hk2, hk3, hk4⟩ := hall
      show execSecSessionOpen p s = _
      unfold execSecSessionOpen
      refine run_concludes h ?_ ?_ rfl
      · simp only [passes_cons, need_eq_none, passes_nil, and_true, hcred, hk1, hk2, hk3, hk4, href, hres, hlen,
          Bool.true_or, Bool.and_self, decide_true, true_and, r, cl]
        have hcl' : (decide (cl = 0) || decide (cl = 7504)) = true := by simpa using hcl
        obtain ⟨hzero, hlc, -⟩ | ⟨hone, hfn, -⟩ := hrole
        · have hzero' : le (slice p.refData 0 1) = 0 := hzero
          refine ⟨?_, ?_, ?_, hcl'⟩ <;> simp [hzero', hlc]
        · have hone' : le (slice p.refData 0 1) = 1 := hone
          refine ⟨?_, ?_, ?_, hcl'⟩ <;> simp [hone', hfn]
      · obtain ⟨hzero, -, hnone⟩ | ⟨hone, -, hnone⟩ := hrole
        · rw [if_neg (by rw [hzero]; decide), hnone]
          simp
        · rw [if_pos hone, hnone]
          simp
    · rw [if_neg hall]
      show ∃ t, execSecSessionOpen p s = .next t ∧ _
      unfold execSecSessionOpen
      refine run_refused h (fun hpass => hall ?_) _
      obtain ⟨hparams, -⟩ := hpass
      simp only [passes_cons, need_eq_none, Bool.and_eq_true] at hparams
      obtain ⟨-, -, hcred, -, -, hrange, -, -, ⟨⟨⟨hk1, hk2⟩, hk3⟩, hk4⟩, -⟩ := hparams
      have hrole' : decide (le (slice p.refData 0 1) > 1) = false :=
        decide_eq_false (Nat.not_lt.mpr (of_decide_eq_true hrange))
      rw [hrole', Bool.or_false] at hcred
      exact ⟨hcred, hk1, hk2, hk3, hk4⟩
  · have harmed : ((s.partPorts p.part).any fun n => (s.port n).trig.armed) = false :=
      List.any_eq_false.mpr fun n hn => by rw [hports n hn]; exact Bool.false_ne_true
    have hbusy : ((s.partDma p.part).any fun n => (s.dmaCh n).st == .running || (s.dmaCh n).st == .halting ||
        (s.dmaCh n).st == .job) = false :=
      List.any_eq_false.mpr fun n hn => by simp [hdma n hn]
    show execSecSessionClose p s = _
    unfold execSecSessionClose
    refine run_concludes h ?_ ?_ rfl
    · obtain ⟨hrole, -⟩ | ⟨hrole, -⟩ := hopen <;> simp [hrole]
    · obtain ⟨hrole, hsome⟩ | ⟨hrole, hsome⟩ := hopen <;> simp [hrole, hsome, harmed, hbusy, hcmp]
  · show execSecApprovedEnter p s = _
    unfold execSecApprovedEnter setApproved
    rw [if_neg (by rw [hopt]; decide)]
    refine run_concludes h (by simp [hlc, hopt, b2n]) (by simp [hother]) ?_
    rfl
  · show execSecApprovedLeave p s = _
    unfold execSecApprovedLeave setApproved
    rw [if_neg (by rw [hopt]; decide)]
    refine run_concludes h (by simp [hlc, hopt, hfips, b2n]) (by simp [hother]) ?_
    rfl
  · show execSecLifecycleFactory p s = _
    unfold execSecLifecycleFactory
    rw [if_neg (by rw [hop]; decide)]
    refine run_concludes h (by simp [hlc, hop]) (by simp) ?_
    rfl
  · show execSecLifecycleCerts p s = _
    unfold execSecLifecycleCerts
    rw [if_neg (by rw [hop]; decide)]
    refine run_concludes h (by simp [hlc, href]) (by simp) ?_
    rfl
  · show execSecLifecycleField p s = _
    unfold execSecLifecycleField
    rw [if_neg (by rw [hop]; decide)]
    refine run_concludes h (by simp [hlc, href, hlen]) (by simp [hcerts]) ?_
    rfl
  · show execSecLifecycleReturn p s = _
    unfold execSecLifecycleReturn
    rw [if_neg (by rw [hop]; decide)]
    refine run_concludes h (by simp [hlc]) (by simp) ?_
    rfl
  · show execSecLifecycleVoid p s = _
    unfold execSecLifecycleVoid
    rw [if_neg (by rw [hop]; decide)]
    refine run_concludes h (by simp [hlc]) (by simp) ?_
    rfl
  · show execSecLifecycleDebugUnlock p s = _
    unfold execSecLifecycleDebugUnlock
    rw [if_neg (by rw [hop]; decide)]
    refine run_concludes h (by simp [hlc, hsense]) (by simp) ?_
    rfl
  · show execSecFwUpdateWrite p s = _
    unfold execSecFwUpdateWrite
    rw [if_neg (by rw [hop]; decide)]
    refine run_concludes h (by simp [hop, hmbox, href]) (by simp) ?_
    simp [hmbox]
  · show execSecFwUpdateWrite p s = _
    unfold execSecFwUpdateWrite
    rw [if_neg (by rw [hop]; decide)]
    refine run_concludes h (by simp [hop, hmbox, hlen]) (by simp) ?_
    have horder : (p.inb 8 4 == 0 || p.inb 8 4 == s.sec.chunks.length) = true := by
      simpa using hoff
    simp [hmbox, hlast, horder, Rep.ok]
  · show execSecFwUpdateCommit p s = _
    unfold execSecFwUpdateCommit
    rw [if_neg (by rw [hop]; decide)]
    refine run_concludes h (by simp) (by simp [hboot]) ?_
    dsimp only
    rw [runningFw_takePacket]
    rfl
  · show execSecZeroise p s = _
    unfold execSecZeroise
    rw [if_neg (by rw [hsub]; decide)]
    refine run_concludes h (by simp [hsub]) (by simp) ?_
    rfl
  · show execSecZeroiseVoid p s = _
    unfold execSecZeroiseVoid
    rw [if_neg (by rw [hsub]; decide)]
    refine run_concludes h (by simp) (by simp) ?_
    rfl
  · show execSecSelftest p s = _
    unfold execSecSelftest
    rw [if_neg (by rw [hbit]; decide)]
    refine run_concludes h (by simp) (by simp) ?_
    rfl
  · show execSecSelftestFaultInsert p s = _
    unfold execSecSelftestFaultInsert
    rw [if_neg (by rw [hbit]; decide)]
    refine run_concludes h (by simp) (by simp) ?_
    rfl
  · show execSecAuditRead p s = _
    unfold execSecAuditRead
    refine run_concludes h (by simp) (by simp) ?_
    dsimp only
    rw [takePacket_sec, haudit]
    rfl
  · have hseed' : (op == .sessionOpen && reseedDue s) = false := by
      obtain hop | hdue := hseed
      · rw [beq_eq_false_iff_ne.mpr hop, Bool.false_and]
      · rw [hdue, Bool.and_false]
    show execIslandOperationDone r s = _
    simp only [execIslandOperationDone, hjob, hfail, hseed', herr]
    rfl
  · obtain ⟨herror, htest, hentropy, hco, hsession, hkept⟩ := enterError_state
      (s.modSec fun S => { S with islandJob := js }) n r.entropy
    refine ⟨_, show execIslandOperationDone r s = _ by simp only [execIslandOperationDone, hjob, hfail]; rfl, ?_⟩
    simp only [settle_rest, finish_rest]
    exact ⟨herror, htest, hentropy, hco, hsession, hkept⟩
  · show execDrbgReseed true s = _
    simp only [execDrbgReseed, hdue]
    rfl
  · refine ⟨_, show execDrbgReseed false s = _ by simp only [execDrbgReseed, hdue]; rfl, ?_⟩
    obtain ⟨herror, htest, hentropy, hco, hsession, -⟩ := enterError_state s 0 true
    simp only [settle_rest]
    exact ⟨herror, hentropy, hco, hsession⟩

end Sys2Proof.Machine
end

section
/-! The DMA and compression rows (R328 to R358). -/
namespace Sys2Proof.Machine

theorem freeCmp_takePacket (c : Cmd) (p : Packet) (s : State) : freeCmp (takePacket c p s) = freeCmp s := by
  simp [freeCmp]

/-- A job with its output on path 0 needs no grant of a path. -/
theorem checkPath_of_path_zero {s : State} {n m : Nat} (h : (s.cmpEng m).outPath = false) : checkPath s n m = s := by
  simp [checkPath, h]

/-- A job that ends: its engine is free, its channel takes a state, and memory stays. -/
theorem cmpEnd_state (s : State) (m outcome status detail : Nat) (st : DmaSt) :
    ((cmpEnd s m outcome status detail st).cmpEng m).st = 3 ∧
    ((cmpEnd s m outcome status detail st).cmpEng m).outcome = BitVec.ofNat 4 outcome ∧
    ((cmpEnd s m outcome status detail st).dmaCh (s.cmpEng m).channel.toNat).st = st ∧
    ((cmpEnd s m outcome status detail st).dmaCh (s.cmpEng m).channel.toNat).job = none := by
  simp [cmpEnd]

/-- CMP_JOB_END of a job whose input is no compressed stream, with no output left to write. -/
theorem exec_cmpJobEnd_invalid {m : BitVec 4} {r : CmpIn} {x : MemIn} {s : State} (hst : (s.cmpEng m.toNat).st = 1)
    (hjob : (s.dmaCh (s.cmpEng m.toNat).channel.toNat).st = .job) (hout : r.outcome = 4) (houtput : r.output = [])
    (hok : outcomeOk s m.toNat 4 [] = true) :
    ∃ f : Cmp → Cmp, (∀ C, (f C).channel = C.channel) ∧
      exec (.cmpJobEnd m r x) s = ok (cmpEnd (s.modCmp m.toNat f) m.toNat 4 0x21
        (loc 5 m.toNat + 2 ^ 16 * 0xFFFF) .idle) := by
  obtain ⟨o, bs⟩ := r
  subst hout houtput
  refine ⟨_, ?_, show execCmpJobEnd m ⟨4, []⟩ x s = _ by
    simp only [execCmpJobEnd, writeOutput, hst, hjob, show (4 : BitVec 4).toNat = 4 from rfl, hok]; rfl⟩
  exact fun C => rfl

/-- Settles O50, row by row. -/
theorem dmaRowsComplete : Obligations.DmaRowsComplete := by
  unfold Obligations.DmaRowsComplete
  refine ⟨⟨fun p s h htarget hcfg hstop => ?_, fun p s h htarget => ?_, fun p s h htarget => ?_,
    fun p s h htarget => ?_, fun p s h halign hstop => ?_, fun p s h hst => ?_, fun p s h => ?_,
    fun p s m h hjob henc hstop hfree hpath => ?_, fun p s h hlo hhi henc hst => ?_, fun p s h hst => ?_,
    fun p s h hst => ?_, fun p s h => ?_⟩,
    fun n bits m s a hst hnext hcur hrec hrecent hloop hbudget hok hmine hgather hspace => ?_,
    fun n bytes poison m s d hcur hrec hst hne hlen hsrc hroom => ?_,
    fun n w s d hcur hfollows hlo hhi => ?_,
    fun n len s d hcur hrec hjob hst hpos hdst hheld hclean htotal => ?_,
    fun n v s r hrec hfull => ?_, fun n v s r hrec hst hroom => ?_, fun n s hcan => ?_,
    fun n s d hcan hcur => ?_, fun n s hcan hdie => ?_, fun m r x s hst hjob hout houtput hok => ?_⟩
  · show execDmaSet p s = _
    unfold execDmaSet
    rw [if_neg (by simpa using htarget)]
    refine run_concludes h (by simp [hcfg]) (by simp [hstop]) rfl
  · show execDmaSetTwinMask p s = _
    unfold execDmaSetTwinMask
    rw [if_neg (by simpa using htarget)]
    refine run_concludes h (by simp) (by simp) rfl
  · show execDmaGet p s = _
    unfold execDmaGet
    rw [if_neg (by simpa using htarget)]
    refine run_concludes h (by simp) (by simp) ?_
    simp [Rep.bytes]
  · show execDmaGet p s = _
    unfold execDmaGet
    rw [if_pos (by simpa using htarget)]
    refine run_concludes h (by simp) (by simp) ?_
    simp
  · show execDmaStart p s = _
    unfold execDmaStart
    refine run_concludes h (by simp [halign]) (by simp [hstop]) rfl
  · show execDmaHalt p s = _
    unfold execDmaHalt
    refine run_concludes h (by simp) (by simp [hst]) rfl
  · show execDmaStatus p s = _
    unfold execDmaStatus
    refine run_concludes h (by simp) (by simp) ?_
    simp [Rep.bytes]
  · show execCmpJob p s = _
    unfold execCmpJob
    refine run_concludes h (by simp [hjob]) (by simp [henc, hstop, hfree]) ?_
    dsimp only
    rw [freeCmp_takePacket, hfree]
    refine Prod.ext (checkPath_of_path_zero ?_) rfl
    simp [Cmp.outPath, bit_eq_fld, hpath]
  · show execCmpResume p s = _
    unfold execCmpResume
    refine run_concludes h ?_ (by simp [henc, hst]) rfl
    simp only [passes_cons, need_eq_none, decide_eq_true hlo, decide_eq_true hhi, Bool.and_self, passes_nil, and_self]
  · show execCmpCancel p s = _
    unfold execCmpCancel
    refine run_concludes h (by simp) (by simp [hst]) ?_
    simp [hst, Rep.ok]
  · show execCmpCancel p s = _
    unfold execCmpCancel
    refine run_concludes h (by simp) (by simp [hst]) ?_
    simp [hst, Rep.ok]
  · show execCmpStatus p s = _
    unfold execCmpStatus
    refine run_concludes h (by simp) (by simp) ?_
    simp [Rep.bytes]
  · have hexec := execDescFetch_of_takes (m := m) (index := []) ⟨hnext, hcur, hrec, hst⟩
      (Dma.repeats_eq_false_iff.mpr ⟨hrecent, hloop⟩) hbudget rfl hok hmine hgather
      (descriptor_follows_of_space _ hspace)
    refine ⟨_, hexec, ?_⟩
    simp only [settle_rest, State.dmaCh_modDma, takeCtr_dmaCh, if_true]
    exact ⟨rfl, hst, rfl, rfl, rfl⟩
  · have hlen0 : bytes.length ≠ 0 := by simpa using hne
    show execDmaReadCompletion n bytes poison m s = _
    simp only [execDmaReadCompletion, hcur, hrec, hst, hsrc, hroom, if_neg hlen0, decide_eq_false (Nat.not_lt.mpr hlen)]
    rfl
  · show execFollowWriteCount n w s = _
    simp only [execFollowWriteCount, hcur, hfollows, decide_eq_true hlo, decide_eq_true hhi]
    rfl
  · have hmark : (d.held.take len).any (·.2) = false :=
      List.any_eq_false.mpr fun x hx => by rw [hclean x hx]; exact Bool.false_ne_true
    show execDmaWriteResponse n len s = _
    simp only [execDmaWriteResponse, hcur, hrec, hjob, hst, hdst, hmark, decide_eq_false (Nat.ne_of_gt hpos),
      decide_eq_false (Nat.not_lt.mpr hheld), decide_eq_false (Nat.not_lt.mpr htotal), Bool.false_and, Bool.and_false]
    rfl
  · have hroom : ((s.modDma n.toNat fun D => { D with consumed := v, tries := 0 }).dmaCh n.toNat).cqRoom = false := by
      rw [State.dmaCh_modDma, if_pos rfl]
      exact decide_eq_false (Nat.not_lt.mpr hfull)
    show execCqHeadPoll n v s = _
    simp only [execCqHeadPoll, hrec, hroom]
    rfl
  · have hroom' : ((s.modDma n.toNat fun D => { D with consumed := v, tries := 0 }).dmaCh n.toNat).cqRoom = true := by
      rw [State.dmaCh_modDma, if_pos rfl]
      exact decide_eq_true hroom
    show execCqHeadPoll n v s = _
    simp only [execCqHeadPoll, hrec, hroom', hst]
    rfl
  · show execDmaBusError n true s = _
    simp only [execDmaBusError, hcan]
    rfl
  · have hread : dmaReadFail s n.toNat = dmaFail s n.toNat false := by
      simp only [dmaReadFail, hcur]
    show execDmaBusError n false s = _
    simp only [execDmaBusError, hcan, hread]
    rfl
  · show execDmaCompletionTimeout n true s = _
    simp only [execDmaCompletionTimeout, hcan, hdie]
    rfl
  · obtain ⟨f, hf, hexec⟩ := exec_cmpJobEnd_invalid (x := x) hst hjob hout houtput hok
    obtain ⟨heng, houtcome, hch, hdone⟩ := cmpEnd_state (s.modCmp m.toNat f) m.toNat 4 0x21
      (loc 5 m.toNat + 2 ^ 16 * 0xFFFF) .idle
    rw [State.cmpEng_modCmp, if_pos rfl, hf] at hch hdone
    refine ⟨_, hexec, ?_⟩
    simp only [settle_rest]
    exact ⟨heng, houtcome, hch, hdone, (cmpEnd_frame ..).2⟩

end Sys2Proof.Machine
end

section
/-! The power, clock and monitor commands (R392 to R406). -/
namespace Sys2Proof.Machine

/-! ### What the spectral path of a port leaves of the dies -/

@[simp] theorem ringItem_dies (s : State) (p ring base size wr : Nat) (units : List (List Byte)) (slot : Slot) :
    (ringItem s p ring base size wr units slot).1.dies = s.dies := by
  unfold ringItem
  dsimp only
  split
  · rfl
  · split <;> simp

@[simp] theorem onInputs_dies (s : State) (p src : Nat) (f : Engine → Nat → Stream → Stream) :
    (onInputs s p src f).dies = s.dies := rfl

@[simp] theorem offer_dies (s : State) (p src : Nat) (words : List SWord) (cursor : Slot) :
    (offer s p src words cursor).dies = s.dies := rfl

@[simp] theorem offerGap_dies (s : State) (p src : Nat) : (offerGap s p src).dies = s.dies := rfl

@[simp] theorem statItem_dies (s : State) (p : Nat) (item : List (List Byte)) (slot : Slot) :
    (statItem s p item slot).dies = s.dies := by
  simp [statItem]

@[simp] theorem endInterval_dies (s : State) (p : Nat) (part : Bool) (next : Nat) :
    (endInterval s p part next).dies = s.dies := by
  unfold endInterval
  dsimp only
  split
  · rfl
  · rw [State.modPort_dies]
    split
    · simp
    · split <;> simp

@[simp] theorem skipFrames_dies (s : State) (p n : Nat) : (skipFrames s p n).dies = s.dies := rfl

@[simp] theorem passFrames_dies (s : State) (p first upTo : Nat) : (passFrames s p first upTo).dies = s.dies := by
  unfold passFrames
  dsimp only
  split
  · rfl
  · split <;> simp

@[simp] theorem settlingRec_dies (s : State) (p : Nat) (slot : Slot) (nTag cause : Nat) :
    (settlingRec s p slot nTag cause).dies = s.dies := by
  simp [settlingRec]

@[simp] theorem writeItem_dies (s : State) (p : Nat) (w : RingWait) : (writeItem s p w).dies = s.dies := by
  have hread : ∀ (qs : List Nat) (g : State → Nat → State), (∀ s q, (g s q).dies = s.dies) →
      (forEach qs g s).dies = s.dies := fun qs g h => foldl_same (·.dies) qs g h s
  unfold writeItem
  dsimp only
  split
  · exact hread _ _ fun s q => offer_dies ..
  · rw [State.modPort_dies, ringItem_dies]
    exact hread _ _ fun s q => offer_dies ..

@[simp] theorem flushRing_dies (s : State) (p : Nat) (all : Bool) : (flushRing s p all).dies = s.dies :=
  (foldl_same (·.dies) _ (fun s w => writeItem s p w) (fun s w => writeItem_dies s p w) _).trans
    (State.setPort_dies ..)

@[simp] theorem endFrames_dies (s : State) (p : Nat) : (endFrames s p).dies = s.dies := by
  unfold endFrames
  dsimp only
  rw [State.modPort_dies]
  split <;> simp

@[simp] theorem chainRetune_dies (s : State) (p : Nat) (t : ChainTune) : (chainRetune s p t).dies = s.dies := by
  unfold chainRetune
  dsimp only
  split <;> simp

@[simp] theorem applyTunes_dies (s : State) (p : Nat) (slot : Slot) : (applyTunes s p slot).dies = s.dies :=
  (foldl_same (·.dies) _ (fun s t => chainRetune s p t) (fun s t => chainRetune_dies s p t) _).trans
    (State.modPort_dies ..)

@[simp] theorem stopChain_dies (s : State) (p cause : Nat) (slot : Slot) :
    (stopChain s p cause slot).dies = s.dies := by
  unfold stopChain
  split
  · simp [dropSettling]
  · rfl

/-! ### What switching off leaves of the policies (R398) -/

@[simp] theorem portDown_dies (s : State) (p : Nat) : (portDown s p).dies = s.dies := by
  unfold portDown
  dsimp only
  split
  · rfl
  · simp

@[simp] theorem clusterOff_dies (s : State) (k : Nat) : (clusterOff s k).dies = s.dies := by
  unfold clusterOff forEach
  refine (foldl_same (·.dies) _ _ (fun s p => ?_) _).trans
    ((foldl_same (·.dies) _ engineReset (fun s e => rfl) _).trans rfl)
  rw [State.modPort_dies, stopChain_dies]

/-- A change of a die that keeps its policy keeps every policy. -/
theorem modDie_policy {f : Die → Die} (h : ∀ D, (f D).policy = D.policy) (s : State) (k d : Nat) :
    ((s.modDie k f).die d).policy = (s.die d).policy := by
  rw [State.die_modDie]
  split
  · next heq => rw [heq, h]
  · rfl

@[simp] theorem settleDie_policy (s : State) (k d : Nat) : ((settleDie s k).die d).policy = (s.die d).policy :=
  modDie_policy (fun D => by split <;> rfl) s k d

@[simp] theorem regionOff_policy (s : State) (r d : Nat) : ((regionOff s r).die d).policy = (s.die d).policy := by
  rw [regionOff, settleDie_policy]
  rfl

@[simp] theorem patrolRegions_policy (s : State) (d : Nat) :
    ((patrolRegions s).die d).policy = (s.die d).policy := by
  refine foldl_same (fun s => (s.die d).policy) _ _ (fun s r => ?_) s
  split
  · exact regionOff_policy s r d
  · rfl

@[simp] theorem selfRefresh_dies (s : State) (k : Nat) : (selfRefresh s k).dies = s.dies := by
  unfold selfRefresh forEach
  refine foldl_same (·.dies) (stackChans k) _ (fun s c => ?_) s
  split
  · rfl
  · rfl

theorem forEach_dies {ks : List Nat} {f : State → Nat → State} (h : ∀ s k, (f s k).dies = s.dies) (s : State) :
    (forEach ks f s).dies = s.dies :=
  foldl_same (·.dies) ks f h s

theorem forEach_modPort_dies (ks : List Nat) (f : Port → Port) (s : State) :
    (forEach ks (fun s p => s.modPort p f) s).dies = s.dies :=
  forEach_dies (f := fun s p => s.modPort p f) (fun _ _ => rfl) s

theorem forEach_policy {ks : List Nat} {f : State → Nat → State} {d : Nat}
    (h : ∀ s k, ((f s k).die d).policy = (s.die d).policy) (s : State) :
    ((forEach ks f s).die d).policy = (s.die d).policy :=
  foldl_same (fun s => (s.die d).policy) ks f h s

theorem die_of_dies {s t : State} (h : t.dies = s.dies) (d : Nat) : t.die d = s.die d := by
  rw [State.die, State.die, h]

@[simp] theorem dieOff_policy (s : State) (k d : Nat) : ((dieOff s k).die d).policy = (s.die d).policy := by
  have hregion : ∀ (s : State) (r : Nat), ((regionOff (forEach (regionClusters r) clusterOff s) r).die d).policy =
      (s.die d).policy := fun s r => by
    rw [regionOff_policy, die_of_dies (forEach_dies clusterOff_dies s)]
  unfold dieOff
  dsimp only
  rw [modDie_policy (f := fun D => { D with pwr := 0, powering := false }) (fun D => rfl), forEach_policy,
    die_of_dies (forEach_dies selfRefresh_dies s)]
  intro s r
  rw [die_of_dies (forEach_modPort_dies ..), hregion]

@[simp] theorem dieDown_policy (s : State) (k d : Nat) : ((dieDown s k).die d).policy = (s.die d).policy := by
  have hports : ∀ s : State, (forEach ((dieRegions k).flatMap regionPorts) (fun s p =>
      if portTokens (s.port p) != 0 then portDown s p else s) s).dies = s.dies := fun s =>
    forEach_dies (fun s p => by split <;> simp) s
  have hclusters : ∀ s : State, (forEach ((dieRegions k).flatMap regionClusters) (fun s j =>
      if clusterOn (s.cluster j) then clusterOff s j else s) s).dies = s.dies := fun s =>
    forEach_dies (fun s j => by split <;> simp) s
  unfold dieDown
  dsimp only
  split
  · rw [dieOff_policy, patrolRegions_policy, die_of_dies ((hclusters _).trans (hports s))]
  · rw [patrolRegions_policy, die_of_dies ((hclusters _).trans (hports s))]

/-- The four dies with their new policies. -/
def setPolicies (pol : Nat → Nat) (s : State) : State :=
  forEach (List.range 4) (fun s d => s.modDie d fun D => { D with policy := BitVec.ofNat 2 (pol d) }) s

theorem setPolicies_policy (pol : Nat → Nat) (s : State) {d : Nat} (hd : d < 4) :
    ((setPolicies pol s).die d).policy = BitVec.ofNat 2 (pol d) := by
  have hds : List.range 4 = [0, 1, 2, 3] := rfl
  simp only [setPolicies, forEach, hds, List.foldl_cons, List.foldl_nil, State.die_modDie]
  interval_cases d <;> rfl

/-- The effect of PWR_STATE_SET with state 2: policies, dies that go off, and the request for the others. -/
def readyEffect (p : Packet) (s : State) : State × Rep :=
  let s1 := forEach ((List.range 4).filter fun d => newPolicy p d == 1) dieDown (setPolicies (newPolicy p) s)
  if grantCost s1 (policyGrant s1) = 0 then (s1, .ok) else (requestTokens s1 (policyGrant s1), .accept .power 0)

theorem readyEffect_policy (p : Packet) (s : State) {d : Nat} (hd : d < 4) :
    ((readyEffect p s).1.die d).policy = BitVec.ofNat 2 (newPolicy p d) := by
  unfold readyEffect
  dsimp only
  generalize hs1 : forEach _ dieDown (setPolicies (newPolicy p) s) = s1
  have hpol : (s1.die d).policy = BitVec.ofNat 2 (newPolicy p d) := by
    rw [← hs1, forEach_policy fun s k => dieDown_policy s k d, setPolicies_policy _ _ hd]
  split
  · exact hpol
  · simpa using hpol

/-! ### The blocks that are answered, with the packet taken -/

theorem stackOn_takePacket (c : Cmd) (p : Packet) (s : State) (k : Nat) :
    stackOn (takePacket c p s) k = stackOn s k := by
  simp [stackOn]

theorem holderCost_takePacket (c : Cmd) (p : Packet) (s : State) (h : Holder) :
    holderCost (takePacket c p s) h = holderCost s h := by
  cases h <;> simp [holderCost, stackOn_takePacket]

theorem grantCost_takePacket (c : Cmd) (p : Packet) (s : State) : grantCost (takePacket c p s) = grantCost s := by
  funext g
  rw [grantCost, grantCost, funext (holderCost_takePacket c p s)]

theorem powerStatus_takePacket (c : Cmd) (p : Packet) (s : State) (mgmt : Bool) :
    powerStatus (takePacket c p s) mgmt = powerStatus s mgmt := by
  simp [powerStatus, alarms, tWarn, tCrit, budget, tokensHeld, grantCost_takePacket, stackOn_takePacket]

theorem clockStatus_takePacket (c : Cmd) (p : Packet) (s : State) :
    clockStatus (takePacket c p s) = clockStatus s := by
  simp [clockStatus]

/-- Settles O56: each row is its checks and its effect; of a die's policy nothing that switches off takes anything. -/
theorem powerCommandsComplete : Obligations.PowerCommandsComplete := by
  refine ⟨fun p s h hcfg hfit => ?_, fun p s h hsub hdie hpark => ?_, fun p s h hsub hdie hpark => ?_,
    fun p s h hsub hdie hfree => ?_, fun p s h => ?_, fun p s h => ?_, fun p s => ?_,
    fun p s => ?_, fun p s h => ?_, fun p s h hinput hstep hfree => ?_,
    fun p s h hinput hstep hfree => ?_⟩
  · show execPwrCapSet p s = _
    unfold execPwrCapSet
    refine run_concludes (x := (fitBudget ((takePacket cmdPwrCapSet p s).modPwr fun P => { P with cfg := p.blk 256 })
      (fld (p.blk 256) 0 11 * 2600 / 1550), .ok)) h (by simp [hcfg]) ?_ ?_
    · simp only [passes_cons, need_eq_none, decide_eq_true hfit, passes_nil, and_self]
    · rfl
  · show execPwrStateSetOff p s = _
    unfold execPwrStateSetOff
    rw [if_neg (by rw [hsub]; decide)]
    refine run_concludes h (by simp [hdie]) (by simp [hpark]) ?_
    rfl
  · show execPwrStateSetParked p s = _
    unfold execPwrStateSetParked
    rw [if_neg (by rw [hsub]; decide)]
    refine run_concludes h (by simp [hdie]) (by simp [hpark]) ?_
    rfl
  · have hstate : Passes ((List.range 4).map fun d =>
        need (newPolicy p d != 1 || !dieInUse s d) (stState (loc 9 d) 0)) := by
      intro f hf
      obtain ⟨d, hd, rfl⟩ := List.mem_map.mp hf
      rw [need_eq_none]
      by_cases hoff : newPolicy p d = 1
      · rw [hfree d (List.mem_range.mp hd) hoff, Bool.not_false, Bool.or_true]
      · rw [bne_iff_ne.mpr hoff, Bool.true_or]
    have hrun : exec (.pwrStateSetReady p) s =
        .next (settle (drainBad 16 (conclude cmdState p (readyEffect p (takePacket cmdState p s))) p.fn.toNat)) := by
      show execPwrStateSetReady p s = _
      unfold execPwrStateSetReady
      rw [if_neg (by rw [hsub]; decide)]
      refine run_concludes h (by simp [hdie, hsub]) hstate ?_
      rfl
    refine ⟨_, hrun, fun d hd => ?_⟩
    simp only [settle_rest, drainBad_rest, conclude_rest]
    exact readyEffect_policy p _ hd
  · show execPwrStatus p s = _
    exact run_concludes h (by simp) (by simp) (by rw [powerStatus_takePacket]; rfl)
  · show execClkStatus p s = _
    exact run_concludes h (by simp) (by simp) (by rw [clockStatus_takePacket]; rfl)
  · intro n es h hok hlen hrun
    show execMonSeqSet p s = _
    unfold execMonSeqSet
    refine run_concludes (x := (_, .ok)) h ?_ (by simp) ?_
    · simp only [passes_cons, need_eq_none, passes_nil, and_true]
      exact ⟨hok, decide_eq_true hlen⟩
    · dsimp only
      rw [if_neg (by rw [takePacket_mon, hrun]; decide)]
      rfl
  · intro n es h hok hlen hrun
    show execMonSeqSet p s = _
    unfold execMonSeqSet
    refine run_concludes (x := (_, .ok)) h ?_ (by simp) ?_
    · simp only [passes_cons, need_eq_none, passes_nil, and_true]
      exact ⟨hok, decide_eq_true hlen⟩
    · dsimp only
      rw [if_pos (by rw [takePacket_mon, hrun])]
  · show execMonRead p s = _
    exact run_concludes h (by simp) (by simp) (by rw [takePacket_mon]; rfl)
  · show execMonCalZero p s = _
    unfold execMonCalZero monCal
    rw [if_neg (by rw [hstep]; decide)]
    refine run_concludes h (by simp [hinput, hstep]) (by simp [hfree]) ?_
    rfl
  · show execMonCalFullScale p s = _
    unfold execMonCalFullScale monCal
    rw [if_neg (by rw [hstep]; decide)]
    refine run_concludes h (by simp [hinput, hstep]) (by simp [hfree]) ?_
    rfl

end Sys2Proof.Machine
end

section
/-! Queue, register and host link events (R287 to R327, R388). -/
namespace Sys2Proof.Machine

/-! ### The Chute pointer (R306, R310) -/

/-- Eight bytes that are all enabled replace the whole value. -/
theorem mergeBytes_full (old new : Nat) : mergeBytes 8 255 old new = new % 2 ^ 64 := by
  have hrange : List.range 8 = [0, 1, 2, 3, 4, 5, 6, 7] := rfl
  have hbits : ∀ i < 8, Nat.testBit 255 i = true := by decide
  simp only [mergeBytes, hrange, List.map_cons, List.map_nil, hbits, Nat.lt_add_one, if_true, le,
    BitVec.toNat_ofNat, Nat.shiftRight_eq_div_pow, Nat.reduceLT]
  omega

/-- The two halves of a value, written together, give the value. -/
theorem ofNat_halves (v : BitVec 64) :
    BitVec.ofNat 64 (((fbv v 0 32).toNat + 2 ^ 32 * (fbv v 32 32).toNat) % 2 ^ 64) = v := by
  apply BitVec.eq_of_toNat_eq
  have hv := v.isLt
  simp only [toNat_fbv, fld, BitVec.toNat_ofNat, Nat.shiftRight_eq_div_pow]
  omega

/-- One write of eight bytes at 0x300 is a write of CHUTE_PTR. -/
theorem bar0Write_chutePtr (s : State) (f : Nat) (v : BitVec 64) :
    bar0Write s f 0x300 [(fbv v 0 32, 0xF), (fbv v 32 32, 0xF)] =
      chutePtrWrite (s.modFn f fun F => { F with heldLow := F.heldLow.filter (·.1 != 0x300) }) f v := by
  have hmerge : BitVec.ofNat 64 (mergeBytes 8 255 (wideGet s f 0x300)
      ((fbv v 0 32).toNat + 2 ^ 32 * (fbv v 32 32).toNat)) = v := by
    rw [mergeBytes_full, ofNat_halves]
  show chutePtrWrite _ f (BitVec.ofNat 64 (mergeBytes 8 255 _ _)) = _
  rw [hmerge]

/-- The interrupt controller leaves the Chute pointer and the prefetched bytes. -/
theorem settle_chute (s : State) (j : Nat) :
    ((settle s).fn j).chutePtr = (s.fn j).chutePtr ∧ ((settle s).fn j).prefetch = (s.fn j).prefetch := by
  have heval : ∀ (s : State) f, ((evalFn s f).fn j).chutePtr = (s.fn j).chutePtr ∧
      ((evalFn s f).fn j).prefetch = (s.fn j).prefetch := fun s f => by
    rw [evalFn_fn_eq]
    split
    · next h => subst h; exact ⟨rfl, rfl⟩
    · exact ⟨rfl, rfl⟩
  exact ⟨foldl_same (fun s => (s.fn j).chutePtr) _ evalFn (fun s f => (heval s f).1) s,
    foldl_same (fun s => (s.fn j).prefetch) _ evalFn (fun s f => (heval s f).2) s⟩

theorem chutePtrWrite_fields (s : State) (f : Nat) (v : BitVec 64) :
    fld ((chutePtrWrite s f v).fn f).chutePtr 0 39 = fld v 0 39 ∧
    fld ((chutePtrWrite s f v).fn f).chutePtr 40 2 = fld v 40 2 ∧
    ((chutePtrWrite s f v).fn f).prefetch = none := by
  have hlow : fld v 0 39 < 2 ^ 39 := Nat.mod_lt _ (by decide)
  have hspace : fld v 40 2 < 4 := Nat.mod_lt _ (by decide)
  rw [chutePtrWrite, State.fn_modFn, if_pos rfl]
  refine ⟨?_, ?_, rfl⟩
  · generalize fld v 0 39 = a at *
    generalize fld v 40 2 = b at *
    simp only [fld, BitVec.toNat_ofNat, Nat.shiftRight_eq_div_pow]
    omega
  · generalize fld v 0 39 = a at *
    generalize fld v 40 2 = b at *
    simp only [fld, BitVec.toNat_ofNat, Nat.shiftRight_eq_div_pow]
    omega

/-! ### The mailbox (R298, R299) -/

/-- A packet with which the mailbox finds nothing wrong has a count of cells and the seq that is due. -/
theorem mboxFail_eq_none {s : State} {p : Packet} (h : mboxFail s p = none) :
    (p.cells != 0 && decide (p.cells.toNat ≤ 64) && p.seq == s.mbox.seq) = true := by
  unfold mboxFail at h
  dsimp only at h
  split at h
  · cases h
  · next hcells =>
    split at h
    · cases h
    · next hseq =>
      simp only [Bool.or_eq_true, decide_eq_true_eq, not_or, Nat.not_lt] at hcells
      simp_all

theorem mboxGo_of_ok {s : State} (hready : s.mbox.ready = true) (hbusy : s.mbox.busy = false)
    (hok : mboxFail s (mailboxPacket false (s.mbox.cmd.toList 0 4096)) = none) :
    mboxGo s = { s with mbox := { s.mbox with seq := s.mbox.seq + 1, busy := true, begun := false } } := by
  have hseq := mboxFail_eq_none hok
  unfold mboxGo
  generalize mailboxPacket false (s.mbox.cmd.toList 0 4096) = p at *
  simp only [hready, hbusy, hok, hseq]
  rfl

/-! ### The fetch of a packet (R287, R290) -/

theorem fetchPacket_of_ok {s : State} {f : Nat} {p : Packet} (hcells : 1 ≤ p.cells.toNat)
    (hmax : p.cells.toNat ≤ 64) (hseq : p.seq = (s.fn f).qSeq) :
    fetchPacket s f p = s.setFn f { s.fn f with
      sqHead := (s.fn f).sqHead + BitVec.ofNat 32 p.cells.toNat
      qSeq := (s.fn f).qSeq + 1
      fetched := (s.fn f).fetched ++ [⟨p.core, strangeOpcode s p, dmaMarks s f⟩] } := by
  have hfine : ¬(decide (p.cells = 0) || decide (64 < p.cells.toNat)) = true := by
    rw [Bool.or_eq_true, decide_eq_true_eq, decide_eq_true_eq, not_or]
    exact ⟨fun h => by simp [h] at hcells, by omega⟩
  unfold fetchPacket
  dsimp only
  rw [if_neg hfine, if_neg (by simp [hseq])]

/-! ### The rows -/

/-- What `reach` asks, for a register write: the row is its write. -/
theorem exec_of_reach {s t : State} {f : Nat} (h : reach s f = true) (other : Host.Outcome State Fault Refusal) :
    (if reach s f then ok t else other) = .next (settle t) := by
  rw [if_pos h]
  rfl

theorem sqTailWrite_of_active {s : State} {f : Nat} (h : (s.fn f).qState = .active) (v : BitVec 32) :
    sqTailWrite s f v = s.setFn f (if 2 ^ (s.fn f).sqLog2.toNat < (v - (s.fn f).sqHead).toNat
      then { s.fn f with sqTail := v, qState := .error, qErr := 1 } else { s.fn f with sqTail := v }) := by
  unfold sqTailWrite Fn.queueError
  simp only [h]
  rfl

theorem exec_packetFetch {p : Packet} {s : State} (hmbox : p.mbox = false) (hact : (s.fn p.fn.toNat).active = true)
    (hup : (s.ep (p.fn.toNat / 8)).up = true) (hroom : (s.fn p.fn.toNat).fetched.length < 16)
    (hcells : 1 ≤ p.cells.toNat) (hmax : p.cells.toNat ≤ 64)
    (htold : p.cells.toNat ≤ ((s.fn p.fn.toNat).sqTail - (s.fn p.fn.toNat).sqHead).toNat)
    (hseq : p.seq = (s.fn p.fn.toNat).qSeq) :
    exec (.packetFetch p false) s = ok (drainBad 16 (s.setFn p.fn.toNat { s.fn p.fn.toNat with
      sqHead := (s.fn p.fn.toNat).sqHead + BitVec.ofNat 32 p.cells.toNat
      qSeq := (s.fn p.fn.toNat).qSeq + 1
      fetched := (s.fn p.fn.toNat).fetched ++ [⟨p.core, strangeOpcode s p, dmaMarks s p.fn.toNat⟩] })
      p.fn.toNat) := by
  have hzero : decide (p.cells.toNat = 0) = false := decide_eq_false (by omega)
  show execPacketFetch p false s = _
  simp only [execPacketFetch, hmbox, hact, hup, hzero, decide_eq_false (Nat.not_le.mpr hroom),
    decide_eq_false (Nat.not_lt.mpr hmax), Bool.or_self, Bool.not_true, Bool.false_eq_true, if_false,
    decide_eq_true htold, fetchPacket_of_ok hcells hmax hseq]

theorem exec_packetFetch_busErr {p : Packet} {s : State} (hmbox : p.mbox = false)
    (hact : (s.fn p.fn.toNat).active = true) (hup : (s.ep (p.fn.toNat / 8)).up = true)
    (hroom : (s.fn p.fn.toNat).fetched.length < 16)
    (htold : 1 ≤ ((s.fn p.fn.toNat).sqTail - (s.fn p.fn.toNat).sqHead).toNat) :
    exec (.packetFetch p true) s = ok (s.setFn p.fn.toNat ((s.fn p.fn.toNat).queueError 4)) := by
  show execPacketFetch p true s = _
  simp only [execPacketFetch, hmbox, hact, hup, decide_eq_false (Nat.not_le.mpr hroom), Bool.true_or, if_true,
    decide_eq_true htold, Bool.not_true, Bool.or_self, Bool.false_eq_true, if_false]

/-! ### The rows of the links (R304, R313, R316, R322 to R327) -/

theorem exec_chuteRead {f : BitVec 4} {lanes : List Bool} {m : MemIn} {s : State} {x : State × List Byte × Bool}
    (hreach : reach s f.toNat = true) (hread : chuteRead s f.toNat (lanes.count true) m = some x)
    (hspace : chuteSpace s f.toNat = 0) (hn : 0 < lanes.count true) :
    exec (.chuteRead f lanes m) s =
      ok (chutePrefetch (x.1.out (.chute f.toNat (laneBytes lanes x.2.1) x.2.2)) f.toNat) := by
  show execChuteRead f lanes m s = _
  simp only [execChuteRead, hreach, hread, hspace, decide_eq_false (Nat.pos_iff_ne_zero.mp hn)]
  rfl

theorem exec_flrComplete {f : BitVec 4} {s : State} (hflr : (s.fn f.toNat).flr = true)
    (hwiped : (s.fn f.toNat).flrWiped = true) (hf : f ≠ 0) (hpm : (s.fn f.toNat).pm = .d0) :
    exec (.flrComplete f) s = ok (s.modFn f.toNat fun F => { F with flr := false, flrWiped := false }) := by
  have hkeep : (if (s.fn f.toNat).pm == .d3hot then PmSt.d0 else (s.fn f.toNat).pm) = (s.fn f.toNat).pm := by
    rw [hpm]
    rfl
  show execFlrComplete f s = _
  unfold execFlrComplete
  dsimp only
  rw [if_pos (by rw [hflr, hwiped]; rfl), if_neg hf, hkeep]
  rfl

theorem exec_perstAAssert {s : State} (hperst : (s.ep 0).perst = false) (hedge : edgeLatched s = false) :
    exec .perstAAssert s = ok ((s.modEp 0 fun E => { E with
      perst := true, up := false, pmeRec := (s.fn 0).pmeEn }).modHub fun H => { H with resetDue := some 2 }) := by
  show execPerstAAssert s = _
  unfold execPerstAAssert
  dsimp only
  rw [if_neg (by rw [hperst]; decide)]
  generalize hs1 : ((s.modEp 0 _).modHub fun H => { H with resetDue := some 2 }) = s1
  have hkeep : edgeLatched s1 = false := by rw [← hs1]; exact hedge
  rw [hkeep]
  rfl

/-- Settles O47: each register write is its function once `reach` holds; of CHUTE_PTR_WRITE the eight bytes are the
value itself (`bar0Write_chutePtr`). -/
theorem hostEventsComplete : Obligations.HostEventsComplete := by
  unfold Obligations.HostEventsComplete
  constructor
  · refine ⟨fun f v s hreach hact hfit => ?_, fun f v s hreach hact hover => ?_, fun p s => ?_, fun p s => ?_,
      fun f v s hreach hact hfit => ?_, fun f s => ?_, fun f s hreach hact => ?_, fun f s hdrain hbegun hwait => ?_,
      fun s => ?_, fun f v s hreach => ?_, fun p v be s hreach => ?_, fun f off dws s hreach => ?_⟩
    · refine (exec_of_reach hreach _).trans ?_
      rw [sqTailWrite_of_active hact, if_neg (Nat.not_lt.mpr hfit)]
      rfl
    · refine (exec_of_reach hreach _).trans ?_
      rw [sqTailWrite_of_active hact, if_pos hover]
      rfl
    · exact fun hmbox hact hup hroom hcells hmax htold hseq =>
        exec_packetFetch hmbox hact hup hroom hcells hmax htold hseq
    · exact fun hmbox hact hup hroom htold => exec_packetFetch_busErr hmbox hact hup hroom htold
    · refine (exec_of_reach hreach _).trans ?_
      have hidle : ¬((s.fn f.toNat).qState == .disabled) = true := by rw [hact]; decide
      unfold rqHeadWrite
      dsimp only
      rw [if_neg hidle, if_neg (Nat.not_lt.mpr hfit)]
      rfl
    · intro F hreach hdis hsq hrq
      refine (exec_of_reach hreach _).trans ?_
      unfold qCtrlWrite
      simp only [show (s.fn f.toNat).qState = .disabled from hdis,
        show ringOk (s.fn f.toNat).sqBase (s.fn f.toNat).sqLog2 = true from hsq,
        show ringOk (s.fn f.toNat).rqBase (s.fn f.toNat).rqLog2 = true from hrq]
      rfl
    · refine (exec_of_reach hreach _).trans ?_
      unfold qCtrlWrite
      simp only [hact]
      rfl
    · show execQueueDrained f s = _
      simp only [execQueueDrained, hdrain, hbegun, hwait]
      rfl
    · intro p hreach hready hbusy hok
      refine (exec_of_reach hreach _).trans ?_
      rw [mboxGo_of_ok hready hbusy hok]
    · refine ⟨_, exec_of_reach hreach _, ?_⟩
      dsimp only
      obtain ⟨hptr, hpre⟩ := settle_chute
        (bar0Write s f.toNat 0x300 [(fbv v 0 32, 0xF), (fbv v 32 32, 0xF)]) f.toNat
      rw [hptr, hpre, bar0Write_chutePtr]
      exact chutePtrWrite_fields ..
    · exact exec_of_reach hreach _
    · exact exec_of_reach hreach _
  · refine ⟨fun f lanes m s x hreach hread hspace hn => ?_, fun f bytes ep m s x hreach hwrite => ?_,
      fun f s hup hflr hpm => ?_, fun f s hflr hwiped hf hpm => ?_, fun f pme s hup hpm hflr => ?_,
      fun f s hup hpm hflr => ?_, fun g s hrun => ?_, fun s hperst hedge => ?_, fun s hperst => ?_,
      fun s hperst => ?_, fun ep s hup => ?_, fun ep s hup => ?_, fun ep s hup hperst hboot hasleep => ?_⟩
    · exact exec_chuteRead hreach hread hspace hn
    · show execChuteWrite f bytes ep m s = _
      simp only [execChuteWrite, hreach, hwrite]
      rfl
    · show execFlr f s = _
      simp only [execFlr, hup, hflr, bne_iff_ne.mpr hpm]
      rfl
    · exact exec_flrComplete hflr hwiped hf hpm
    · show execD3hotEntry f pme s = _
      unfold execD3hotEntry
      dsimp only
      rw [if_pos (by rw [hup, hpm, hflr]; rfl)]
      rfl
    · show execD0Return f s = _
      unfold execD0Return
      dsimp only
      rw [if_pos (by rw [hup, hpm, hflr]; rfl)]
      rfl
    · show execHoldoffExpire g s = _
      rw [execHoldoffExpire, if_pos hrun]
      rfl
    · exact exec_perstAAssert hperst hedge
    · show execPerstBAssert s = _
      rw [execPerstBAssert, if_neg (by rw [hperst]; decide)]
      rfl
    · show execPerstBDeassert s = _
      rw [execPerstBDeassert, if_pos hperst]
      rfl
    · show execHotReset ep s = _
      rw [execHotReset, if_pos hup]
      rfl
    · show execLinkDown ep s = _
      rw [execLinkDown, if_pos hup]
      rfl
    · show execEndpointLinkUp ep s = _
      simp only [execEndpointLinkUp, hup, hperst, decide_eq_true hboot, hasleep]
      rfl

end Sys2Proof.Machine
end

section
/-! Time and Vacheod events (R68 to R76, R361 to R385). -/
namespace Sys2Proof.Machine

/-! ### What reports and records leave -/

theorem evLink_keeps (s : State) (kind port dev extra : Nat) :
    (evLink s kind port dev extra).time = s.time ∧ (evLink s kind port dev extra).vach = s.vach ∧
    (evLink s kind port dev extra).ports = s.ports ∧ (evLink s kind port dev extra).pcs = s.pcs := by
  simp [evLink]

@[simp] theorem evLink_vach (s : State) (kind port dev extra : Nat) : (evLink s kind port dev extra).vach = s.vach :=
  (evLink_keeps s kind port dev extra).2.1

@[simp] theorem evLink_vp (s : State) (kind port dev extra v : Nat) :
    (evLink s kind port dev extra).vp v = s.vp v := by
  rw [State.vp, State.vp, evLink_vach]

theorem timebaseRec_keeps (s : State) (slot : Slot) (step : Bool) :
    (timebaseRec s slot step).time = s.time ∧ (timebaseRec s slot step).clk = s.clk ∧
    (timebaseRec s slot step).vach = s.vach := by
  unfold timebaseRec forEach
  exact ⟨foldl_same (·.time) _ _ (fun s p => by simp) s, foldl_same (·.clk) _ _ (fun s p => by simp) s,
    foldl_same (·.vach) _ _ (fun s p => by simp) s⟩

theorem evLink_ite_vach (c : Bool) (s : State) (kind port dev : Nat) :
    (if c = true then evLink s kind port dev else s).vach = s.vach := by
  split
  · exact evLink_vach ..
  · rfl

theorem reportTree_vach (s : State) (V : Vach) : (reportTree s V).vach = s.vach := by
  unfold reportTree
  extract_lets W s1 s2 s3 len d
  have hs3 : s3.vach = s.vach :=
    (evLink_ite_vach ..).trans ((evLink_ite_vach ..).trans (evLink_ite_vach ..))
  split
  · exact hs3
  · exact (foldl_same (·.vach) _ _ (fun s k => by simp) _).trans ((evLink_vach ..).trans hs3)

/-! ### The grid and its loads (R70 to R76) -/

theorem TimeSt.note_keeps (T : TimeSt) (slot : Slot) :
    (T.note slot).slotCount = T.slotCount ∧ (T.note slot).coast = T.coast ∧
    (T.note slot).epochGen = T.epochGen := by
  unfold TimeSt.note
  split <;> exact ⟨rfl, rfl, rfl⟩

/-- A load begins its beat now, with the loaded count and fraction; where the loop does not coast, coasted clears. -/
theorem loadEpoch_time (s : State) (load : Slot) (frac : BitVec 8) (hcoast : s.time.coast = false) :
    let t := loadEpoch s (s.time.slotCount + 64) load frac true
    t.time.slotCount = load ∧ t.time.fraction = frac ∧ t.time.src = true ∧ t.time.coasted = false ∧
    t.time.epochGen = s.time.epochGen + 1 := by
  have hlater : notAfter s.time.slotCount (s.time.slotCount + 64) = true := by
    simp [notAfter, slotsTo]
  intro t
  show t.time.slotCount = load ∧ _
  simp only [t, loadEpoch, hlater, if_true, Bool.not_true, Bool.false_and, Bool.false_eq_true, if_false, rebase,
    TimeSt.note_keeps, hcoast, and_self, and_true]
  exact add_sub_cancel _ _

/-! ### The ports (R361 to R366) -/

theorem setVp_st (s : State) (v : Nat) (st : VpSt) : ((setVp s v st).vp v).st = st := by
  unfold setVp
  dsimp only
  split
  · next h => exact eq_of_beq h
  · rw [evLink_vp, State.vp_modVp, if_pos rfl]

theorem loseVp_st (s : State) (v : Nat) (st : VpSt) : ((loseVp s v st).vp v).st = st := by
  rw [loseVp, State.vp_modVp, if_pos rfl]
  exact setVp_st ..

/-! ### The election (R365, R377) -/

/-- A package with no port that may join the tree and a priority of its own leads alone. -/
theorem bestLeader_nil {s : State} (h : s.vach.prio ≠ 0) : bestLeader s [] = some (s.vach.prio, s.vach.devId) := by
  simp [bestLeader, h]

theorem newRole_of_lead {V : Vach} (h2 : V.role ≠ 2) (h4 : V.role ≠ 4) (left : Bool) (leader : Nat × Nat) :
    newRole V true left leader = 3 := by
  unfold newRole
  dsimp only
  rw [if_neg (by rw [beq_iff_eq]; exact h2), if_neg (by rw [beq_iff_eq]; exact h4), if_pos rfl]

theorem exec_treeReform {s : State} (hjoin : s.vach.join = true) (hboot : s.boot.step = 11)
    (hports : ∀ v < 4, (s.vp v).trained = false) (hprio : s.vach.prio ≠ 0) (h2 : s.vach.role ≠ 2)
    (h4 : s.vach.role ≠ 4) :
    GivesNext .treeReform s fun t => t.vach.role = 3 ∧ t.vach.leaderId = BitVec.ofNat 12 s.vach.devId ∧
      t.vach.depth = 0 ∧ t.vach.upstream = 0xF := by
  have hable : (List.range 4).filter (mayTree s) = [] := by
    refine List.filter_eq_nil_iff.mpr fun v hv => ?_
    simp [mayTree, hports v (List.mem_range.mp hv)]
  show ∃ t, execTreeReform s = .next t ∧ _
  unfold execTreeReform
  simp only [hjoin, hboot, hable, List.filter_nil, forEach, List.foldl_nil, bestLeader_nil hprio, beq_self_eq_true,
    if_true, newRole_of_lead h2 h4]
  split
  · contradiction
  split
  · contradiction
  generalize hs1 : (s.fresh.2.modVach _) = s1
  obtain ⟨hrole, hleader, hdepth, hup⟩ : s1.vach.role = 3 ∧ s1.vach.leaderId = BitVec.ofNat 12 s.vach.devId ∧
      s1.vach.depth = 0 ∧ s1.vach.upstream = 0xF := by
    rw [← hs1]
    exact ⟨rfl, rfl, rfl, rfl⟩
  have hlead : follows (reportTree s1 s.vach) = false := by
    rw [follows, reportTree_vach, hrole]
    rfl
  rw [hlead, Bool.false_and, if_neg Bool.false_ne_true]
  refine ⟨_, rfl, ?_⟩
  simp only [settle_rest, reportTree_vach]
  exact ⟨hrole, hleader, hdepth, hup⟩

/-! ### Rows -/

theorem edgeLoad_of_no_wait {s : State} (h : s.time.wait = none) (onSync : Bool) (slot : Slot) :
    edgeLoad s onSync slot = s := by
  rw [edgeLoad, h]

theorem syncChains_vach (s : State) (slot : Slot) : (syncChains s slot).vach = s.vach := rfl

/-- An armed edge restarts the dividers while no port is beyond POWERED. -/
theorem syncDividers_of_armed {s : State} (slot : Slot) (harm : s.vach.divArm = true)
    (hports : ∀ x ∈ s.ports, x.2.state = .down ∨ x.2.state = .powered) :
    (syncDividers s slot).time = s.time ∧
    (syncDividers s slot).vach = { s.vach with divSet := some slot, cfg := put s.vach.cfg 24 1 0 } := by
  have hany : (s.ports.any fun x => !(x.2.state == .down || x.2.state == .powered)) = false := by
    refine List.any_eq_false.mpr fun x hx => ?_
    obtain h | h := hports x hx <;> rw [h] <;> decide
  rw [syncDividers, if_pos harm, if_neg (by rw [hany]; decide)]
  exact ⟨State.modVach_time .., rfl⟩

theorem exec_syncInEdge {slot : BitVec 64} {s : State} (hwait : s.time.wait = none) (harm : s.vach.divArm = true)
    (hports : ∀ x ∈ s.ports, x.2.state = .down ∨ x.2.state = .powered) :
    GivesNext (.syncInEdge slot) s fun t =>
      t.vach.divSet = some slot ∧ t.vach.divArm = false ∧ t.vach.syncPhaseErr = s.vach.syncPhaseErr := by
  obtain ⟨htime, hvach⟩ := syncDividers_of_armed slot harm hports
  have hcleared : bit (put s.vach.cfg 24 1 0) 24 = false := by
    rw [bit_eq_fld, fld_put_same _ _ (by decide)]
    rfl
  refine ⟨settle (syncChains (syncDividers s slot) slot), ?_, ?_⟩
  · show execSyncInEdge slot s = _
    rw [execSyncInEdge, edgeLoad_of_no_wait]
    · rfl
    · exact (congrArg (·.wait) htime).trans hwait
  · simp only [settle_rest, syncChains_vach, hvach, true_and, and_true]
    exact hcleared

theorem exec_refclkLossCoast (r : Bool) {s : State} (hcoast : s.time.coast = false) (hlock : s.clk.dclkLock = true) :
    GivesNext (.refclkLossCoast r) s fun t =>
      t.time.coast = true ∧ t.time.coasted = true ∧ t.clk.dclkLock = false ∧ t.clk.refclkOk = r ∧
      t.clk.coastCount = satInc s.clk.coastCount := by
  refine ⟨settle (timebaseRec { s with
      time := { s.time.note (s.time.slotCount + 64) with
        coast := true, coasted := true, coastFrom := s.time.slotCount + 64 }
      clk := { s.clk with dclkLock := false, refclkOk := r, coastCount := satInc s.clk.coastCount } }
    (s.time.slotCount + 64) false), ?_, ?_⟩
  · show execRefclkLossCoast r s = _
    simp only [execRefclkLossCoast, hcoast, hlock]
    rfl
  · simp only [settle_rest, timebaseRec_keeps, and_self]

theorem exec_pllLock (mv : BitVec 16) (s : State) :
    GivesNext (.pllLock mv) s fun t => t.clk.lkfMv = mv ∧
      (mv.toNat < 600 → t.clk.dclkLock = false) ∧
      (600 ≤ mv.toNat → mv.toNat < 800 → t.clk.dclkLock = s.clk.dclkLock ∧ t.time = s.time) ∧
      (800 ≤ mv.toNat → 6 ≤ s.boot.step → t.clk.dclkLock = true ∧ t.time.coast = false) := by
  show ∃ t, execPllLock mv s = .next t ∧ _
  unfold execPllLock
  dsimp only
  by_cases hlow : mv.toNat < 600
  · rw [if_pos hlow]
    refine ⟨_, rfl, ?_⟩
    simp only [settle_rest, true_and]
    exact ⟨fun _ => trivial, fun h => by omega, fun h => by omega⟩
  rw [if_neg hlow]
  split
  · next hhold =>
    refine ⟨_, rfl, ?_⟩
    rw [Bool.or_eq_true, decide_eq_true_eq, decide_eq_true_eq] at hhold
    simp only [settle_rest, true_and]
    exact ⟨fun h => absurd h hlow, fun _ _ => trivial, fun h hb => by omega⟩
  · next hgo =>
    rw [Bool.or_eq_true, decide_eq_true_eq, decide_eq_true_eq] at hgo
    split
    · refine ⟨_, rfl, ?_⟩
      simp only [settle_rest, timebaseRec_keeps, true_and]
      exact ⟨fun h => absurd h hlow, fun _ h => by omega, fun _ _ => trivial⟩
    · next hcoast =>
      refine ⟨_, rfl, ?_⟩
      simp only [settle_rest, true_and]
      exact ⟨fun h => absurd h hlow, fun _ h => by omega, fun _ _ => by simpa using hcoast⟩

theorem exec_followerEpochLoad {slot : BitVec 64} {frac : BitVec 8} {s : State} (hfollow : follows s = true)
    (hepoch : s.vach.epochOk = false) (harmed : anyArmed s = false) (hexch : s.vach.exchanges = 64)
    (hdue : s.vach.stepsDue = 0) (horigin : s.vach.stepOrigin = none) (hslot : slot.toNat % 64 = 0)
    (hfrac : frac.toNat ≤ 15) (hcoast : s.time.coast = false) :
    GivesNext (.followerEpochLoad slot frac) s fun t =>
      t.time.slotCount = slot ∧ t.time.fraction = frac ∧ t.time.src = true ∧ t.time.coasted = false ∧
      t.time.epochGen = s.time.epochGen + 1 ∧ t.vach.epochOk = true ∧ t.vach.sysEpoch = epochKnown s := by
  obtain ⟨hcount, hfraction, hsrc, hcoasted, hgen⟩ := loadEpoch_time s slot frac hcoast
  refine ⟨settle ((loadEpoch s (s.time.slotCount + 64) slot frac true).modVach fun V => { V with
    sysEpoch := epochKnown s, epochOk := true, gridOffset := frac.toNat }), ?_, ?_⟩
  · show execFollowerEpochLoad slot frac s = _
    simp only [execFollowerEpochLoad, hfollow, hepoch, harmed, hexch, hdue, horigin, hslot, decide_eq_true hfrac]
    rfl
  · simp only [settle_rest]
    exact ⟨hcount, hfraction, hsrc, hcoasted, hgen, rfl, rfl⟩

theorem State.vp_modVach_of_ports {f : Vach → Vach} (h : ∀ V, (f V).ports = V.ports) (s : State) (v : Nat) :
    (s.modVach f).vp v = s.vp v :=
  congrArg (Tab.get Vp.reset · v) (h s.vach)

theorem exec_linkControl {v : BitVec 2} {frame : BitVec 192} {s : State} (htrained : (s.vp v.toNat).trained = true)
    (hside : sideOk frame = true) (hkind : fld frame 0 4 = 4) :
    GivesNext (.linkControl v frame) s fun t =>
      let P := t.vp v.toNat
      P.peer = fbv frame 4 12 ∧ P.peerLeader = fbv frame 16 12 ∧ P.peerPrio = fbv frame 28 4 ∧
      P.peerDepth = fbv frame 32 4 ∧ P.peerArmed = bit frame 36 ∧ P.peerMode = fbv frame 37 2 ∧
      P.peerEpoch = fbv frame 40 16 := by
  show ∃ t, execLinkControl v frame s = .next t ∧ _
  simp only [execLinkControl, htrained, hside, hkind]
  split
  · contradiction
  refine ⟨_, rfl, ?_⟩
  simp only [settle_rest]
  split
  · rw [State.vp_modVach_of_ports, State.vp_modVp, if_pos rfl]
    · exact ⟨rfl, rfl, rfl, rfl, rfl, rfl, rfl⟩
    · exact fun V => rfl
  · rw [State.vp_modVp, if_pos rfl]
    exact ⟨rfl, rfl, rfl, rfl, rfl, rfl, rfl⟩

theorem exec_xtrigRecordEntry_late {v : BitVec 2} {r : XtRec} {rest : List XtRec} {s : State}
    (hel : (s.vp v.toNat).elastic = r :: rest) (hlate : r.late = true) :
    GivesNext (.xtrigRecordEntry v) s fun t =>
      (t.vp v.toNat).xtLate = satInc (s.vp v.toNat).xtLate ∧ (t.vp v.toNat).elastic = rest ∧
      t.vach.padAlarm = true ∧ t.ports = s.ports ∧ t.pcs = s.pcs := by
  refine ⟨settle (evLink (((s.modVp v.toNat fun P => { P with elastic := rest }).modVp v.toNat fun P =>
    { P with xtLate := satInc P.xtLate }).modVach fun V => { V with padAlarm := true }) 8 v.toNat
      (s.vp v.toNat).peer.toNat), ?_, ?_⟩
  · show execXtrigRecordEntry v s = _
    simp only [execXtrigRecordEntry, hel, hlate]
    rfl
  · simp only [settle_rest, evLink_keeps, evLink_vp]
    generalize hs1 : (s.modVp v.toNat fun P => { P with elastic := rest }) = s1
    have hvp : s1.vp v.toNat = { s.vp v.toNat with elastic := rest } := by
      rw [← hs1, State.vp_modVp, if_pos rfl]
    have hports : s1.ports = s.ports := by rw [← hs1, State.modVp_ports]
    have hpcs : s1.pcs = s.pcs := by rw [← hs1, State.modVp_pcs]
    rw [State.vp_modVach_of_ports, State.vp_modVp, if_pos rfl, hvp]
    · exact ⟨rfl, rfl, rfl, hports, hpcs⟩
    · exact fun V => rfl

/-- Settles O54: what is reported leaves the state that each row gives; a load puts the count at its value
(`loadEpoch_time`), and with no peer the election is won alone (`exec_treeReform`). -/
theorem timeAndVacheodEventsComplete : Obligations.TimeAndVacheodEventsComplete := by
  unfold Obligations.TimeAndVacheodEventsComplete
  constructor
  · refine ⟨fun slot s hwait harm hports => ?_, fun s w hwait => ?_, fun tm s hslot => ?_, fun s hok => ?_,
      fun r s hcoast hlock => ?_, fun mv s => ?_, fun s hdue hfree horigin => ?_,
      fun s hfollow htheta hdue horigin hepoch => ?_,
      fun slot frac s hfollow hepoch harmed hexch hdue horigin hslot hfrac hcoast => ?_⟩
    · exact exec_syncInEdge hwait harm hports
    · show execEpochLoadTimeout s = _
      simp only [execEpochLoadTimeout, hwait]
      rfl
    · show execPpsEdge tm s = _
      simp only [execPpsEdge, hslot]
      rfl
    · show execPpsMissing s = _
      rw [execPpsMissing, if_pos hok]
      rfl
    · exact exec_refclkLossCoast r hcoast hlock
    · exact exec_pllLock mv s
    · show execPhaseStep s = _
      have horigin' : (oneStep s (decide (0 < s.vach.stepsDue))).vach.stepOrigin = none := by
        rw [oneStep, (timebaseRec_keeps ..).2.2]
        exact horigin
      simp only [execPhaseStep, hfree, horigin', hdue]
      rfl
    · show execSteerUpdate s = _
      have hsome : (s.vp s.vach.upstream.toNat).theta.isEmpty = false := by simpa using htheta
      simp only [execSteerUpdate, hfollow, hdue, horigin, hepoch, hsome]
      rfl
    · exact exec_followerEpochLoad hfollow hepoch harmed hexch hdue horigin hslot hfrac hcoast
  · refine ⟨fun v flit s htrained hlane hpieces => ?_, fun v flit s htrained hstate => ?_,
      fun v frame tm s hst hside hkind hsent => ?_, fun v frame s hst hside hkind hdev => ?_,
      fun v frame s hst hside hkind hdev => ?_, fun v frame s hst hside hkind => ?_,
      fun v frame s htrained hside hkind => ?_, fun v r rest s hel hlate => ?_,
      fun v r rest s hel hlate hdue => ?_, fun v lane s htrained hlane => ?_,
      fun v lane s k htrained hlane hk => ?_, fun v s hst => ?_, fun v d s hst => ?_, fun v s hst => ?_,
      fun s hjoin hboot hports hprio h2 h4 => exec_treeReform hjoin hboot hports hprio h2 h4⟩
    · show execFlitReceive v flit false s = _
      simp only [execFlitReceive, htrained, hlane, hpieces]
      rfl
    · show execFlitReceive v flit true s = _
      simp only [execFlitReceive, htrained, takeReady, hstate, Bool.not_true, Bool.and_false]
      rfl
    · show execTimeTransfer v frame tm s = _
      have hlink : ((s.vp v.toNat).st == .tree || (s.vp v.toNat).st == .standby) = true := by
        obtain h | h := hst <;> rw [h] <;> rfl
      simp only [execTimeTransfer, hlink, hside, hkind, hsent]
      rfl
    · show execMessage v frame s = _
      simp only [execMessage, hst, hside, hkind, beq_eq_false_iff_ne.mpr hdev]
      rfl
    · show execMessage v frame s = _
      simp only [execMessage, hst, hside, hkind, beq_iff_eq.mpr hdev]
      rfl
    · show execMessageBroadcast v frame s = _
      simp only [execMessageBroadcast, hst, hside, hkind]
      rfl
    · exact exec_linkControl htrained hside hkind
    · exact exec_xtrigRecordEntry_late hel hlate
    · show execXtrigRecordEntry v s = _
      simp only [execXtrigRecordEntry, hel, hlate, hdue]
      rfl
    · show execVpLaneLost v lane s = _
      simp only [execVpLaneLost, htrained, hlane]
      rfl
    · have hother : ((some k : Option Nat) == some lane.toNat) = false := by simp [hk]
      refine ⟨settle (loseVp s v.toNat .down), ?_, ?_⟩
      · show execVpLaneLost v lane s = _
        simp only [execVpLaneLost, htrained, hlane, hother]
        rfl
      · simp only [settle_rest]
        exact loseVp_st ..
    · refine ⟨settle (setVp s v.toNat .down), ?_, ?_⟩
      · show execVpTrainTimeout v s = _
        simp only [execVpTrainTimeout, hst]
        rfl
      · simp only [settle_rest]
        exact setVp_st ..
    · refine ⟨settle ((setVp s v.toNat .notReady).modVp v.toNat fun P => { P with
        delay := d, cl := BitVec.ofNat 8 (min 255 (clOf d.toNat)), laneLost := none, sfail := 0
        pieces := [], sideIdx := 0 }), ?_, ?_⟩
      · show execVpTrainDone v d s = _
        simp only [execVpTrainDone, hst]
        rfl
      · simp only [settle_rest, State.vp_modVp, if_true]
        exact ⟨setVp_st .., trivial, trivial, trivial⟩
    · refine ⟨settle ((setVp s v.toNat .train).modVach fun V =>
        { V with cfg := put V.cfg (28 + v.toNat) 1 0 }), ?_, ?_⟩
      · show execVpDownRetrain v s = _
        simp only [execVpDownRetrain, hst]
        rfl
      · simp only [settle_rest]
        exact setVp_st ..

end Sys2Proof.Machine
end
